-- ==== Sys2Proof/Word.lean ====
section
/-! DEFINITION. Words and the plainest operations on them: bytes, 64-bit words, bit fields (R4, R5). -/

namespace Sys2Proof

/-- One byte of memory. -/
abbrev Byte := BitVec 8

/-- A 64-bit scalar value (R96). -/
abbrev Word := BitVec 64

/-- One 8,192-bit vector register (R2: VLEN = 8,192). -/
abbrev VReg8k := BitVec 8192

/-- One mask register of 2 VLEN bits (R37). -/
abbrev MaskReg := BitVec 16384

/-- Field [hi:lo] of a number (R4). -/
def fld (w hi lo : Nat) : Nat := w / 2 ^ lo % 2 ^ (hi + 1 - lo)

/-- 1 for true, 0 for false, as a field value. -/
def bitN (b : Bool) : Nat := if b then 1 else 0

end Sys2Proof
end

