-- ==== Sys2Proof/Config.lean ====
section
/-! DEFINITION. What the Vollanov fixes (R2, R14) and the free values the spec leaves open.
A free value is an opaque constant: nothing in Lean can evaluate it, so whatever is proved holds for every value of it. -/

namespace Sys2Proof.Config

/-- VLEN in bits (R2). -/
def vlen : Nat := 8192
/-- Bytes of HBM per stack (R20). -/
def stackBytes : Nat := 96 * 2 ^ 30
/-- Bytes of HBM in the module, 1,152 GiB (R20). -/
def hbmBytes : Nat := 12 * stackBytes
/-- Bytes of one core scratchpad (R14). -/
def spadBytes : Nat := 2 ^ 19
/-- Bytes of the memory of one cluster (R14). -/
def clusterBytes : Nat := 2 ^ 23
/-- Bytes of one die scratchpad (R14). -/
def dieBytes : Nat := 2 ^ 26
/-- Bytes of one plate (R17). -/
def plateBytes : Nat := 4096

/-- FREE VALUE: a number drawn for the n-th undefined choice of a run: the order in which the elements of a
VAMO .unord perform (R174), and the order and grouping of floating additions in VSCADD and SCADD (R176, R318). -/
opaque freeChoice : Nat → Nat

/-- FREE VALUE: cycles, beyond one, that the n-th step takes (R116: timing is not fixed). -/
opaque stepCycles : Nat → Nat

/-- FREE VALUE: how long after the module's reset a core leaves reset: counters of different cores are not synchronised (R116). -/
opaque coreStart : Nat → Nat

/-- FREE VALUE: the generator seed Hamada draws for the n-th context created with DRAW (R340). -/
opaque drawnSeed : Nat → BitVec 64

/-- FREE VALUE: the set of its slice that holds the line at a physical address (R352 gives no index rule). -/
opaque l2Set : Nat → BitVec 8

/-- FREE VALUE: K element k of column n of an operand slot whose kept blocks are longer than the 96 bytes of a column, for
the fill of that number (R192 and R197 say different things there; log 54). -/
opaque slotRest : Nat → Nat → Nat → BitVec 16

/-- FREE VALUE: where the Oasis kernel keeps the resident image of the object with a handle in HBM (R255 does not say). -/
opaque residentAt : Nat → Nat

/-- FREE VALUE: the XMSS^MT signature over a 32-byte hash with a leaf index (R382; the scheme is NIST SP 800-208). -/
opaque xmssSign : BitVec 64 → BitVec 64 → BitVec 256 → BitVec 79144

/-- FREE VALUE: the device XMSS^MT public key that DKSEED determines (R386). -/
opaque deviceKey : BitVec 64 → BitVec 512

/-- FREE VALUE: the SHAKE256 hash, 32-byte output, of Hamada's mask ROM (R378). -/
opaque romHash : BitVec 256

/-- FREE VALUE: the SHAKE256 hash of the fuse values that are not secret (R378; their order is not stated). -/
opaque fuseHash : BitVec 256

/-- FREE VALUE: the fuses of this module (R376): DEVID, SIGNER, MINSVN and the secret DKSEED. -/
opaque fuseDevid : BitVec 64
/-- FREE VALUE: SIGNER fuse (R376). -/
opaque fuseSigner : BitVec 256
/-- FREE VALUE: MINSVN fuse (R376), 0 to 255. -/
opaque fuseMinsvn : BitVec 8
/-- FREE VALUE: DKSEED fuse (R376, secret). -/
opaque fuseDkseed : BitVec 64

end Sys2Proof.Config
end

