-- ==== Sys2Proof/Syntax.lean ====
section
/-! DEFINITION. The syntax of the machine's steps: one constructor of Instr for each row of spec/opcode_table.json.
Rows with a word are instructions; rows without one are steps of engines, the Oasis kernel, Hamada, the host and the
links, and carry what the outside supplies for them. -/

namespace Sys2Proof

/-- Scalar register number s0 to s31 (R50). -/
abbrev SReg := Fin 32
/-- Vector register number v0 to v31. -/
abbrev VReg := Fin 32
/-- Mask register number m0 to m7. -/
abbrev MReg := Fin 8
/-- Scale register number q0 to q7. -/
abbrev QReg := Fin 8
/-- Tile handle t0 to t7. -/
abbrev TReg := Fin 8
/-- Operand slot o0 to o15; also an address-generator port p0 to p15 and a Barchan port. -/
abbrev OSlot := Fin 16
/-- Port p0 to p18 (R61). -/
abbrev Port := Fin 19

/-- Element width code (R62). -/
inductive EW where
  | e8 | e16 | e32 | e64 | e4 | e6
  deriving DecidableEq, Repr

/-- The code of R62 (or of the form's own field) for a EW. -/
def EW.code : EW → Nat
  | .e8 => 0
  | .e16 => 1
  | .e32 => 2
  | .e64 => 3
  | .e4 => 4
  | .e6 => 5

/-- The EW a code names; none for a code that names none. -/
def EW.ofCode? : Nat → Option EW
  | 0 => some .e8
  | 1 => some .e16
  | 2 => some .e32
  | 3 => some .e64
  | 4 => some .e4
  | 5 => some .e6
  | _ => none

/-- Integer width code (R62). -/
inductive IW where
  | w8 | w16 | w32 | w64
  deriving DecidableEq, Repr

/-- The code of R62 (or of the form's own field) for a IW. -/
def IW.code : IW → Nat
  | .w8 => 0
  | .w16 => 1
  | .w32 => 2
  | .w64 => 3

/-- The IW a code names. -/
def IW.ofCode : Nat → IW
  | 0 => .w8
  | 1 => .w16
  | 2 => .w32
  | _ => .w64

/-- Float code (R62). -/
inductive FF where
  | f32 | bf16 | f16
  deriving DecidableEq, Repr

/-- The code of R62 (or of the form's own field) for a FF. -/
def FF.code : FF → Nat
  | .f32 => 0
  | .bf16 => 1
  | .f16 => 2

/-- The FF a code names; none for a code that names none. -/
def FF.ofCode? : Nat → Option FF
  | 0 => some .f32
  | 1 => some .bf16
  | 2 => some .f16
  | _ => none

/-- Element code (R62). -/
inductive Elem where
  | f32 | bf16 | f16 | e5m2 | e4m3 | e3m2 | e2m3 | e2m1 | i8 | i16 | i32 | i64 | n8 | n16 | n32 | n64 | i4 | n4 | t2 | e8m0
  deriving DecidableEq, Repr

/-- The code of R62 (or of the form's own field) for a Elem. -/
def Elem.code : Elem → Nat
  | .f32 => 0
  | .bf16 => 1
  | .f16 => 2
  | .e5m2 => 3
  | .e4m3 => 4
  | .e3m2 => 5
  | .e2m3 => 6
  | .e2m1 => 7
  | .i8 => 8
  | .i16 => 9
  | .i32 => 10
  | .i64 => 11
  | .n8 => 12
  | .n16 => 13
  | .n32 => 14
  | .n64 => 15
  | .i4 => 16
  | .n4 => 17
  | .t2 => 18
  | .e8m0 => 19

/-- The Elem a code names; none for a code that names none. -/
def Elem.ofCode? : Nat → Option Elem
  | 0 => some .f32
  | 1 => some .bf16
  | 2 => some .f16
  | 3 => some .e5m2
  | 4 => some .e4m3
  | 5 => some .e3m2
  | 6 => some .e2m3
  | 7 => some .e2m1
  | 8 => some .i8
  | 9 => some .i16
  | 10 => some .i32
  | 11 => some .i64
  | 12 => some .n8
  | 13 => some .n16
  | 14 => some .n32
  | 15 => some .n64
  | 16 => some .i4
  | 17 => some .n4
  | 18 => some .t2
  | 19 => some .e8m0
  | _ => none

/-- Matrix mode (R62). -/
inductive MMode where
  | e4m3 | e5m2 | i8 | e3m2 | e2m3 | e2m1 | i4 | bf16 | f16 | t2
  deriving DecidableEq, Repr

/-- The code of R62 (or of the form's own field) for a MMode. -/
def MMode.code : MMode → Nat
  | .e4m3 => 0
  | .e5m2 => 1
  | .i8 => 2
  | .e3m2 => 3
  | .e2m3 => 4
  | .e2m1 => 5
  | .i4 => 6
  | .bf16 => 7
  | .f16 => 8
  | .t2 => 9

/-- The MMode a code names; none for a code that names none. -/
def MMode.ofCode? : Nat → Option MMode
  | 0 => some .e4m3
  | 1 => some .e5m2
  | 2 => some .i8
  | 3 => some .e3m2
  | 4 => some .e2m3
  | 5 => some .e2m1
  | 6 => some .i4
  | 7 => some .bf16
  | 8 => some .f16
  | 9 => some .t2
  | _ => none

/-- Row code (R62). -/
inductive RCode where
  | f32 | bf16 | f16 | e4m3 | e5m2 | i8 | i32
  deriving DecidableEq, Repr

/-- The code of R62 (or of the form's own field) for a RCode. -/
def RCode.code : RCode → Nat
  | .f32 => 0
  | .bf16 => 1
  | .f16 => 2
  | .e4m3 => 3
  | .e5m2 => 4
  | .i8 => 5
  | .i32 => 6

/-- The RCode a code names; none for a code that names none. -/
def RCode.ofCode? : Nat → Option RCode
  | 0 => some .f32
  | 1 => some .bf16
  | 2 => some .f16
  | 3 => some .e4m3
  | 4 => some .e5m2
  | 5 => some .i8
  | 6 => some .i32
  | _ => none

/-- Scalar FP type (R62). -/
inductive SFT where
  | f32 | bf16 | f16 | i32 | n32 | i64 | n64
  deriving DecidableEq, Repr

/-- The code of R62 (or of the form's own field) for a SFT. -/
def SFT.code : SFT → Nat
  | .f32 => 0
  | .bf16 => 1
  | .f16 => 2
  | .i32 => 3
  | .n32 => 4
  | .i64 => 5
  | .n64 => 6

/-- The SFT a code names; none for a code that names none. -/
def SFT.ofCode? : Nat → Option SFT
  | 0 => some .f32
  | 1 => some .bf16
  | 2 => some .f16
  | 3 => some .i32
  | 4 => some .n32
  | 5 => some .i64
  | 6 => some .n64
  | _ => none

/-- Memory ordering code (R62). -/
inductive Ordr where
  | rlx | acq | rel | acqrel
  deriving DecidableEq, Repr

/-- The code of R62 (or of the form's own field) for a Ordr. -/
def Ordr.code : Ordr → Nat
  | .rlx => 0
  | .acq => 1
  | .rel => 2
  | .acqrel => 3

/-- The Ordr a code names. -/
def Ordr.ofCode : Nat → Ordr
  | 0 => .rlx
  | 1 => .acq
  | 2 => .rel
  | _ => .acqrel

/-- Width of an atomic: .w or .d (R103, R173). -/
inductive MW where
  | w32 | d64
  deriving DecidableEq, Repr

/-- The code of R62 (or of the form's own field) for a MW. -/
def MW.code : MW → Nat
  | .w32 => 0
  | .d64 => 1

/-- The MW a code names. -/
def MW.ofCode : Nat → MW
  | 0 => .w32
  | _ => .d64

/-- Width of a scalar access: .b .h .w .d (R101). -/
inductive LW where
  | b8 | h16 | w32 | d64
  deriving DecidableEq, Repr

/-- The code of R62 (or of the form's own field) for a LW. -/
def LW.code : LW → Nat
  | .b8 => 0
  | .h16 => 1
  | .w32 => 2
  | .d64 => 3

/-- The LW a code names. -/
def LW.ofCode : Nat → LW
  | 0 => .b8
  | 1 => .h16
  | 2 => .w32
  | _ => .d64

/-- Accumulate mode of MROW and MTILE (R200). -/
inductive AccM where
  | acc | ovw | sub
  deriving DecidableEq, Repr

/-- The code of R62 (or of the form's own field) for a AccM. -/
def AccM.code : AccM → Nat
  | .acc => 0
  | .ovw => 1
  | .sub => 2

/-- The AccM a code names; none for a code that names none. -/
def AccM.ofCode? : Nat → Option AccM
  | 0 => some .acc
  | 1 => some .ovw
  | 2 => some .sub
  | _ => none

/-- Group multiplier (R122). -/
inductive Grp where
  | x1 | x2 | x4 | x8
  deriving DecidableEq, Repr

/-- The code of R62 (or of the form's own field) for a Grp. -/
def Grp.code : Grp → Nat
  | .x1 => 0
  | .x2 => 1
  | .x4 => 2
  | .x8 => 3

/-- The Grp a code names. -/
def Grp.ofCode : Nat → Grp
  | 0 => .x1
  | 1 => .x2
  | 2 => .x4
  | _ => .x8

/-- Fence scope (R119). -/
inductive Scope where
  | str | core | clu | die | dev | sys
  deriving DecidableEq, Repr

/-- The code of R62 (or of the form's own field) for a Scope. -/
def Scope.code : Scope → Nat
  | .str => 0
  | .core => 1
  | .clu => 2
  | .die => 3
  | .dev => 4
  | .sys => 5

/-- The Scope a code names; none for a code that names none. -/
def Scope.ofCode? : Nat → Option Scope
  | 0 => some .str
  | 1 => some .core
  | 2 => some .clu
  | 3 => some .die
  | 4 => some .dev
  | 5 => some .sys
  | _ => none

/-- Source of a vector load: memory or stream 0 to 2 (R160). -/
inductive Src where
  | mem | strm0 | strm1 | strm2
  deriving DecidableEq, Repr

/-- The code of R62 (or of the form's own field) for a Src. -/
def Src.code : Src → Nat
  | .mem => 0
  | .strm0 => 1
  | .strm1 => 2
  | .strm2 => 3

/-- The Src a code names. -/
def Src.ofCode : Nat → Src
  | 0 => .mem
  | 1 => .strm0
  | 2 => .strm1
  | _ => .strm2

/-- Condition of VWAIT (R175). -/
inductive VCond where
  | eq | ne | lt | ge | ltn | gen
  deriving DecidableEq, Repr

/-- The code of R62 (or of the form's own field) for a VCond. -/
def VCond.code : VCond → Nat
  | .eq => 0
  | .ne => 1
  | .lt => 2
  | .ge => 3
  | .ltn => 4
  | .gen => 5

/-- The VCond a code names; none for a code that names none. -/
def VCond.ofCode? : Nat → Option VCond
  | 0 => some .eq
  | 1 => some .ne
  | 2 => some .lt
  | 3 => some .ge
  | 4 => some .ltn
  | 5 => some .gen
  | _ => none

/-- Element type of VSCADD (R176). -/
inductive SctT where
  | i32 | i64 | f32 | bf16
  deriving DecidableEq, Repr

/-- The code of R62 (or of the form's own field) for a SctT. -/
def SctT.code : SctT → Nat
  | .i32 => 0
  | .i64 => 1
  | .f32 => 2
  | .bf16 => 3

/-- The SctT a code names. -/
def SctT.ofCode : Nat → SctT
  | 0 => .i32
  | 1 => .i64
  | 2 => .f32
  | _ => .bf16

/-- Kind of access PROBE tests (R121). -/
inductive PKind where
  | r | w | x
  deriving DecidableEq, Repr

/-- The code of R62 (or of the form's own field) for a PKind. -/
def PKind.code : PKind → Nat
  | .r => 0
  | .w => 1
  | .x => 2

/-- The PKind a code names; none for a code that names none. -/
def PKind.ofCode? : Nat → Option PKind
  | 0 => some .r
  | 1 => some .w
  | 2 => some .x
  | _ => none

/-- A control register (R114). -/
inductive Csr where
  | vl | vtype | vstart | al | alrow | alcol | vcp
  | shape (n : TReg)
  | xflags | xact | frm | fxrm | chkstall | lscale | accbase | acclim | widf | lanew | lanea | strmap | mtab | tvec | tpc | tcause | tval | tstat | tinst | tqa | tqb | tqc | tqd | cycle
  deriving DecidableEq, Repr

/-- The number of a control register (R114). -/
def Csr.code : Csr → Nat
  | .vl => 0
  | .vtype => 1
  | .vstart => 2
  | .al => 3
  | .alrow => 4
  | .alcol => 5
  | .vcp => 6
  | .shape n => 16 + n.val
  | .xflags => 32
  | .xact => 33
  | .frm => 34
  | .fxrm => 35
  | .chkstall => 36
  | .lscale => 48
  | .accbase => 49
  | .acclim => 50
  | .widf => 51
  | .lanew => 52
  | .lanea => 53
  | .strmap => 54
  | .mtab => 55
  | .tvec => 64
  | .tpc => 65
  | .tcause => 66
  | .tval => 67
  | .tstat => 68
  | .tinst => 69
  | .tqa => 70
  | .tqb => 71
  | .tqc => 72
  | .tqd => 73
  | .cycle => 192

/-- The control register a number names; none for an unassigned number (R114). -/
def Csr.ofCode? : Nat → Option Csr
  | 0 => some .vl
  | 1 => some .vtype
  | 2 => some .vstart
  | 3 => some .al
  | 4 => some .alrow
  | 5 => some .alcol
  | 6 => some .vcp
  | 16 => some (.shape 0)
  | 17 => some (.shape 1)
  | 18 => some (.shape 2)
  | 19 => some (.shape 3)
  | 20 => some (.shape 4)
  | 21 => some (.shape 5)
  | 22 => some (.shape 6)
  | 23 => some (.shape 7)
  | 32 => some .xflags
  | 33 => some .xact
  | 34 => some .frm
  | 35 => some .fxrm
  | 36 => some .chkstall
  | 48 => some .lscale
  | 49 => some .accbase
  | 50 => some .acclim
  | 51 => some .widf
  | 52 => some .lanew
  | 53 => some .lanea
  | 54 => some .strmap
  | 55 => some .mtab
  | 64 => some .tvec
  | 65 => some .tpc
  | 66 => some .tcause
  | 67 => some .tval
  | 68 => some .tstat
  | 69 => some .tinst
  | 70 => some .tqa
  | 71 => some .tqb
  | 72 => some .tqc
  | 73 => some .tqd
  | 192 => some .cycle
  | _ => none

/-- A 64-byte request record with the block a host address of it names (R357, R359).
args holds bytes [8, 64), byte 8 lowest; block is what the DMA reads return, none when it cannot be read. -/
structure Req where
  code : BitVec 16
  tag : BitVec 16
  ctx : BitVec 16
  zero : BitVec 16
  args : BitVec 448
  block : Option (List Byte)
  deriving DecidableEq, Repr

/-- A Barchan flit (R362): header fields and the 240-byte payload, byte 8 of the flit lowest. -/
structure Flit where
  seq : BitVec 16
  dst : BitVec 12
  src : BitVec 12
  type : Byte
  payload : BitVec 1920
  deriving DecidableEq, Repr

/-- An Oasis image as an NVMe port yields it (R377). -/
structure BootImage where
  magic : BitVec 32
  svn : BitVec 32
  pk : BitVec 512
  sig : BitVec 22560
  zerosOk : Bool
  body : List Byte
  deriving DecidableEq, Repr

/-- A unit that SCRUB clears and verifies (R349). -/
inductive ScrubUnit where
  | cluster (n : Fin 32) | l2 (die : Fin 4) | shadow (n : Fin 8)
  deriving DecidableEq, Repr

/-- The steps of the machine: one constructor for each row of spec/opcode_table.json, the
vector-stream forms (R27) first. -/
inductive Instr where
  /-- SETVLF (R127). -/
  | setvlf (d : MReg) (a : SReg) (b : SReg) (g : Grp) (w : EW)
  /-- SETSHAPE (R129). -/
  | setshape (d : TReg) (a : SReg) (b : SReg)
  /-- VADD (R132). -/
  | vadd (d : VReg) (a : VReg) (b : VReg) (m : MReg) (w : IW)
  /-- VSUB (R132). -/
  | vsub (d : VReg) (a : VReg) (b : VReg) (m : MReg) (w : IW)
  /-- VRSUB (R132). -/
  | vrsub (d : VReg) (a : VReg) (b : VReg) (m : MReg) (w : IW)
  /-- VMUL (R132). -/
  | vmul (d : VReg) (a : VReg) (b : VReg) (m : MReg) (w : IW)
  /-- VMULH (R132). -/
  | vmulh (d : VReg) (a : VReg) (b : VReg) (m : MReg) (w : IW)
  /-- VMACC (R132). -/
  | vmacc (d : VReg) (a : VReg) (b : VReg) (m : MReg) (x : MReg) (w : IW)
  /-- VWMACC (R132). -/
  | vwmacc (d : VReg) (a : VReg) (b : VReg) (m : MReg) (w : IW)
  /-- VMERGE (R132). -/
  | vmerge (d : VReg) (a : VReg) (b : VReg) (m : MReg) (w : IW)
  /-- VAND (R132). -/
  | vand (d : VReg) (a : VReg) (b : VReg) (m : MReg) (w : IW)
  /-- VOR (R132). -/
  | vor (d : VReg) (a : VReg) (b : VReg) (m : MReg) (w : IW)
  /-- VXOR (R132). -/
  | vxor (d : VReg) (a : VReg) (b : VReg) (m : MReg) (w : IW)
  /-- VSLL (R132). -/
  | vsll (d : VReg) (a : VReg) (b : VReg) (m : MReg) (w : IW)
  /-- VSRL (R132). -/
  | vsrl (d : VReg) (a : VReg) (b : VReg) (m : MReg) (w : IW)
  /-- VSRA (R132). -/
  | vsra (d : VReg) (a : VReg) (b : VReg) (m : MReg) (w : IW)
  /-- VNSRA (R132). -/
  | vnsra (d : VReg) (a : VReg) (b : VReg) (m : MReg) (x : MReg) (w : IW)
  /-- VMIN (R132). -/
  | vmin (d : VReg) (a : VReg) (b : VReg) (m : MReg) (w : IW)
  /-- VMAX (R132). -/
  | vmax (d : VReg) (a : VReg) (b : VReg) (m : MReg) (w : IW)
  /-- VMINN (R132). -/
  | vminn (d : VReg) (a : VReg) (b : VReg) (m : MReg) (w : IW)
  /-- VMAXN (R132). -/
  | vmaxn (d : VReg) (a : VReg) (b : VReg) (m : MReg) (w : IW)
  /-- VSADD (R132). -/
  | vsadd (d : VReg) (a : VReg) (b : VReg) (m : MReg) (x : MReg) (w : IW)
  /-- VSSUB (R132). -/
  | vssub (d : VReg) (a : VReg) (b : VReg) (m : MReg) (x : MReg) (w : IW)
  /-- VDIV (R132). -/
  | vdiv (d : VReg) (a : VReg) (b : VReg) (m : MReg) (x : MReg) (w : IW)
  /-- VREM (R132). -/
  | vrem (d : VReg) (a : VReg) (b : VReg) (m : MReg) (x : MReg) (w : IW)
  /-- VCMP_EQ (R132). -/
  | vcmpEq (d : MReg) (a : VReg) (b : VReg) (m : MReg) (w : IW)
  /-- VCMP_NE (R132). -/
  | vcmpNe (d : MReg) (a : VReg) (b : VReg) (m : MReg) (w : IW)
  /-- VCMP_LT (R132). -/
  | vcmpLt (d : MReg) (a : VReg) (b : VReg) (m : MReg) (w : IW)
  /-- VCMP_LE (R132). -/
  | vcmpLe (d : MReg) (a : VReg) (b : VReg) (m : MReg) (w : IW)
  /-- VCMP_LTN (R132). -/
  | vcmpLtn (d : MReg) (a : VReg) (b : VReg) (m : MReg) (w : IW)
  /-- VCMP_LEN (R132). -/
  | vcmpLen (d : MReg) (a : VReg) (b : VReg) (m : MReg) (w : IW)
  /-- VADD_VX (R132). -/
  | vaddVx (d : VReg) (a : VReg) (b : SReg) (m : MReg) (w : IW)
  /-- VSUB_VX (R132). -/
  | vsubVx (d : VReg) (a : VReg) (b : SReg) (m : MReg) (w : IW)
  /-- VRSUB_VX (R132). -/
  | vrsubVx (d : VReg) (a : VReg) (b : SReg) (m : MReg) (w : IW)
  /-- VMUL_VX (R132). -/
  | vmulVx (d : VReg) (a : VReg) (b : SReg) (m : MReg) (w : IW)
  /-- VMULH_VX (R132). -/
  | vmulhVx (d : VReg) (a : VReg) (b : SReg) (m : MReg) (w : IW)
  /-- VMACC_VX (R132). -/
  | vmaccVx (d : VReg) (a : VReg) (b : SReg) (m : MReg) (x : MReg) (w : IW)
  /-- VWMACC_VX (R132). -/
  | vwmaccVx (d : VReg) (a : VReg) (b : SReg) (m : MReg) (w : IW)
  /-- VMERGE_VX (R132). -/
  | vmergeVx (d : VReg) (a : VReg) (b : SReg) (m : MReg) (w : IW)
  /-- VAND_VX (R132). -/
  | vandVx (d : VReg) (a : VReg) (b : SReg) (m : MReg) (w : IW)
  /-- VOR_VX (R132). -/
  | vorVx (d : VReg) (a : VReg) (b : SReg) (m : MReg) (w : IW)
  /-- VXOR_VX (R132). -/
  | vxorVx (d : VReg) (a : VReg) (b : SReg) (m : MReg) (w : IW)
  /-- VSLL_VX (R132). -/
  | vsllVx (d : VReg) (a : VReg) (b : SReg) (m : MReg) (w : IW)
  /-- VSRL_VX (R132). -/
  | vsrlVx (d : VReg) (a : VReg) (b : SReg) (m : MReg) (w : IW)
  /-- VSRA_VX (R132). -/
  | vsraVx (d : VReg) (a : VReg) (b : SReg) (m : MReg) (w : IW)
  /-- VNSRA_VX (R132). -/
  | vnsraVx (d : VReg) (a : VReg) (b : SReg) (m : MReg) (x : MReg) (w : IW)
  /-- VMIN_VX (R132). -/
  | vminVx (d : VReg) (a : VReg) (b : SReg) (m : MReg) (w : IW)
  /-- VMAX_VX (R132). -/
  | vmaxVx (d : VReg) (a : VReg) (b : SReg) (m : MReg) (w : IW)
  /-- VMINN_VX (R132). -/
  | vminnVx (d : VReg) (a : VReg) (b : SReg) (m : MReg) (w : IW)
  /-- VMAXN_VX (R132). -/
  | vmaxnVx (d : VReg) (a : VReg) (b : SReg) (m : MReg) (w : IW)
  /-- VSADD_VX (R132). -/
  | vsaddVx (d : VReg) (a : VReg) (b : SReg) (m : MReg) (x : MReg) (w : IW)
  /-- VSSUB_VX (R132). -/
  | vssubVx (d : VReg) (a : VReg) (b : SReg) (m : MReg) (x : MReg) (w : IW)
  /-- VDIV_VX (R132). -/
  | vdivVx (d : VReg) (a : VReg) (b : SReg) (m : MReg) (x : MReg) (w : IW)
  /-- VREM_VX (R132). -/
  | vremVx (d : VReg) (a : VReg) (b : SReg) (m : MReg) (x : MReg) (w : IW)
  /-- VCMP_EQ_VX (R132). -/
  | vcmpEqVx (d : MReg) (a : VReg) (b : SReg) (m : MReg) (w : IW)
  /-- VCMP_NE_VX (R132). -/
  | vcmpNeVx (d : MReg) (a : VReg) (b : SReg) (m : MReg) (w : IW)
  /-- VCMP_LT_VX (R132). -/
  | vcmpLtVx (d : MReg) (a : VReg) (b : SReg) (m : MReg) (w : IW)
  /-- VCMP_LE_VX (R132). -/
  | vcmpLeVx (d : MReg) (a : VReg) (b : SReg) (m : MReg) (w : IW)
  /-- VCMP_LTN_VX (R132). -/
  | vcmpLtnVx (d : MReg) (a : VReg) (b : SReg) (m : MReg) (w : IW)
  /-- VCMP_LEN_VX (R132). -/
  | vcmpLenVx (d : MReg) (a : VReg) (b : SReg) (m : MReg) (w : IW)
  /-- VFADD (R133). -/
  | vfadd (d : VReg) (a : VReg) (b : VReg) (m : MReg) (x : MReg) (f : FF)
  /-- VFSUB (R133). -/
  | vfsub (d : VReg) (a : VReg) (b : VReg) (m : MReg) (x : MReg) (f : FF)
  /-- VFMUL (R133). -/
  | vfmul (d : VReg) (a : VReg) (b : VReg) (m : MReg) (x : MReg) (f : FF)
  /-- VFDIV (R133). -/
  | vfdiv (d : VReg) (a : VReg) (b : VReg) (m : MReg) (x : MReg) (f : FF)
  /-- VFMIN (R133). -/
  | vfmin (d : VReg) (a : VReg) (b : VReg) (m : MReg) (x : MReg) (f : FF)
  /-- VFMAX (R133). -/
  | vfmax (d : VReg) (a : VReg) (b : VReg) (m : MReg) (x : MReg) (f : FF)
  /-- VFSQRT (R133). -/
  | vfsqrt (d : VReg) (a : VReg) (m : MReg) (x : MReg) (f : FF)
  /-- VFCLASS (R133). -/
  | vfclass (d : VReg) (a : VReg) (m : MReg) (f : FF)
  /-- VFADD_VX (R133). -/
  | vfaddVx (d : VReg) (a : VReg) (b : SReg) (m : MReg) (x : MReg) (f : FF)
  /-- VFSUB_VX (R133). -/
  | vfsubVx (d : VReg) (a : VReg) (b : SReg) (m : MReg) (x : MReg) (f : FF)
  /-- VFMUL_VX (R133). -/
  | vfmulVx (d : VReg) (a : VReg) (b : SReg) (m : MReg) (x : MReg) (f : FF)
  /-- VFDIV_VX (R133). -/
  | vfdivVx (d : VReg) (a : VReg) (b : SReg) (m : MReg) (x : MReg) (f : FF)
  /-- VFMIN_VX (R133). -/
  | vfminVx (d : VReg) (a : VReg) (b : SReg) (m : MReg) (x : MReg) (f : FF)
  /-- VFMAX_VX (R133). -/
  | vfmaxVx (d : VReg) (a : VReg) (b : SReg) (m : MReg) (x : MReg) (f : FF)
  /-- VFMA (R133). -/
  | vfma (d : VReg) (a : VReg) (b : VReg) (m : MReg) (x : MReg) (f : FF)
  /-- VFNMA (R133). -/
  | vfnma (d : VReg) (a : VReg) (b : VReg) (m : MReg) (x : MReg) (f : FF)
  /-- VFMA_VX (R133). -/
  | vfmaVx (d : VReg) (a : VReg) (b : SReg) (m : MReg) (x : MReg) (f : FF)
  /-- VFNMA_VX (R133). -/
  | vfnmaVx (d : VReg) (a : VReg) (b : SReg) (m : MReg) (x : MReg) (f : FF)
  /-- VFCMP_EQ (R133). -/
  | vfcmpEq (d : MReg) (a : VReg) (b : VReg) (m : MReg) (x : MReg) (f : FF)
  /-- VFCMP_LT (R133). -/
  | vfcmpLt (d : MReg) (a : VReg) (b : VReg) (m : MReg) (x : MReg) (f : FF)
  /-- VFCMP_LE (R133). -/
  | vfcmpLe (d : MReg) (a : VReg) (b : VReg) (m : MReg) (x : MReg) (f : FF)
  /-- VFCMP_UN (R133). -/
  | vfcmpUn (d : MReg) (a : VReg) (b : VReg) (m : MReg) (x : MReg) (f : FF)
  /-- VFRECE (R134). -/
  | vfrece (d : VReg) (a : VReg) (m : MReg) (x : MReg) (f : FF)
  /-- VFRSQE (R134). -/
  | vfrsqe (d : VReg) (a : VReg) (m : MReg) (x : MReg) (f : FF)
  /-- VFEXP2 (R134). -/
  | vfexp2 (d : VReg) (a : VReg) (m : MReg) (x : MReg) (f : FF)
  /-- VFLOG2 (R134). -/
  | vflog2 (d : VReg) (a : VReg) (m : MReg) (x : MReg) (f : FF)
  /-- VFTANH (R134). -/
  | vftanh (d : VReg) (a : VReg) (m : MReg) (x : MReg) (f : FF)
  /-- VFSIGM (R134). -/
  | vfsigm (d : VReg) (a : VReg) (m : MReg) (x : MReg) (f : FF)
  /-- VCVT (R135). -/
  | vcvt (d : VReg) (a : VReg) (s : Elem) (m : MReg) (x : MReg) (t : Elem)
  /-- VBQ (R138). -/
  | vbq (d : VReg) (a : VReg) (t : Elem) (q : QReg) (x : MReg) (c : Bool)
  /-- VBDQ (R139). -/
  | vbdq (d : VReg) (a : VReg) (s : Elem) (q : QReg) (x : MReg)
  /-- VHAD (R140). -/
  | vhad (d : VReg) (a : VReg) (k : Fin 32) (y : Bool) (z : Bool) (h : Bool) (x : MReg) (f : FF)
  /-- VPACK (R136). -/
  | vpack (d : VReg) (a : VReg) (c : Elem) (m : MReg)
  /-- VUNPK (R136). -/
  | vunpk (d : VReg) (a : VReg) (c : Elem) (m : MReg)
  /-- VRNG (R141). -/
  | vrng (d : VReg) (t : Elem) (m : MReg)
  /-- VGATHER (R146). -/
  | vgather (d : VReg) (a : VReg) (b : VReg) (m : MReg)
  /-- VCOMPRESS (R147). -/
  | vcompress (d : VReg) (a : VReg) (m : MReg)
  /-- VEXPAND (R148). -/
  | vexpand (d : VReg) (a : VReg) (m : MReg)
  /-- VIOTA (R148). -/
  | viota (d : VReg) (a : MReg) (m : MReg)
  /-- VID (R148). -/
  | vid (d : VReg) (m : MReg)
  /-- VBCAST (R149). -/
  | vbcast (d : VReg) (a : SReg) (m : MReg)
  /-- VMVX (R149). -/
  | vmvx (d : VReg) (a : SReg)
  /-- VRDS (R150). -/
  | vrds (d : SReg) (a : VReg) (b : SReg)
  /-- VREDSUM (R154). -/
  | vredsum (d : VReg) (a : VReg) (w : IW) (m : MReg) (x : MReg) (g : Bool)
  /-- VREDMAX (R154). -/
  | vredmax (d : VReg) (a : VReg) (w : IW) (m : MReg) (g : Bool)
  /-- VREDMIN (R154). -/
  | vredmin (d : VReg) (a : VReg) (w : IW) (m : MReg) (g : Bool)
  /-- VSCAN (R156). -/
  | vscan (d : VReg) (a : VReg) (w : IW) (m : MReg) (x : MReg) (g : Bool)
  /-- VFREDSUM (R155). -/
  | vfredsum (d : VReg) (a : VReg) (w : FF) (m : MReg) (x : MReg) (g : Bool)
  /-- VFREDOSUM (R154). -/
  | vfredosum (d : VReg) (a : VReg) (w : FF) (m : MReg) (x : MReg) (g : Bool)
  /-- VFREDMAX (R155). -/
  | vfredmax (d : VReg) (a : VReg) (w : FF) (m : MReg) (x : MReg) (g : Bool)
  /-- VFSCAN (R156). -/
  | vfscan (d : VReg) (a : VReg) (w : FF) (m : MReg) (x : MReg) (g : Bool)
  /-- MAND (R158). -/
  | mand (d : MReg) (a : MReg) (b : MReg)
  /-- MOR (R158). -/
  | mor (d : MReg) (a : MReg) (b : MReg)
  /-- MXOR (R158). -/
  | mxor (d : MReg) (a : MReg) (b : MReg)
  /-- MNOT (R158). -/
  | mnot (d : MReg) (a : MReg)
  /-- MPOPC (R159). -/
  | mpopc (d : SReg) (a : MReg)
  /-- MFIRST (R159). -/
  | mfirst (d : SReg) (a : MReg)
  /-- VSLIDEUP (R151). -/
  | vslideup (d : VReg) (a : VReg) (b : SReg) (m : MReg) (c : SReg)
  /-- VSLIDEDN (R151). -/
  | vslidedn (d : VReg) (a : VReg) (b : SReg) (m : MReg) (c : SReg)
  /-- VLD (R165). -/
  | vld (d : VReg) (a : SReg) (m : MReg) (c : Bool) (w : EW) (s : Src)
  /-- VST (R165). -/
  | vst (d : VReg) (a : SReg) (m : MReg) (c : Bool) (w : EW)
  /-- VLDS (R165). -/
  | vlds (d : VReg) (a : SReg) (b : SReg) (m : MReg) (w : EW) (s : Src)
  /-- VSTS (R165). -/
  | vsts (d : VReg) (a : SReg) (b : SReg) (m : MReg) (w : EW)
  /-- VLDX (R165). -/
  | vldx (d : VReg) (a : SReg) (b : VReg) (m : MReg) (w : EW) (s : Src)
  /-- VSTX (R165). -/
  | vstx (d : VReg) (a : SReg) (b : VReg) (m : MReg) (w : EW)
  /-- VLDG (R165). -/
  | vldg (d : VReg) (a : SReg) (b : Fin 32) (m : MReg) (w : EW) (s : Src)
  /-- VSTG (R165). -/
  | vstg (d : VReg) (a : SReg) (b : Fin 32) (m : MReg) (w : EW)
  /-- VLDT (R170). -/
  | vldt (d : VReg) (a : TReg) (b : SReg) (m : MReg) (c : Bool) (w : EW)
  /-- VSTT (R170). -/
  | vstt (d : VReg) (a : TReg) (b : SReg) (m : MReg) (c : Bool) (w : EW)
  /-- VAMO_SWAP (R173). -/
  | vamoSwap (d : VReg) (a : SReg) (b : VReg) (m : MReg) (e : Bool) (r : Ordr) (w : MW)
  /-- VAMO_ADD (R173). -/
  | vamoAdd (d : VReg) (a : SReg) (b : VReg) (m : MReg) (e : Bool) (r : Ordr) (w : MW)
  /-- VAMO_AND (R173). -/
  | vamoAnd (d : VReg) (a : SReg) (b : VReg) (m : MReg) (e : Bool) (r : Ordr) (w : MW)
  /-- VAMO_OR (R173). -/
  | vamoOr (d : VReg) (a : SReg) (b : VReg) (m : MReg) (e : Bool) (r : Ordr) (w : MW)
  /-- VAMO_XOR (R173). -/
  | vamoXor (d : VReg) (a : SReg) (b : VReg) (m : MReg) (e : Bool) (r : Ordr) (w : MW)
  /-- VAMO_MIN (R173). -/
  | vamoMin (d : VReg) (a : SReg) (b : VReg) (m : MReg) (e : Bool) (r : Ordr) (w : MW)
  /-- VAMO_MAX (R173). -/
  | vamoMax (d : VReg) (a : SReg) (b : VReg) (m : MReg) (e : Bool) (r : Ordr) (w : MW)
  /-- VWAIT (R175). -/
  | vwait (d : VReg) (a : SReg) (b : VReg) (m : MReg) (c : VCond) (w : MW)
  /-- VSCADD (R176). -/
  | vscadd (d : VReg) (a : SReg) (b : VReg) (m : MReg) (t : SctT)
  /-- TDEF (R179). -/
  | tdef (d : TReg) (a : SReg) (b : SReg)
  /-- TTAG (R187). -/
  | ttag (d : TReg) (a : SReg)
  /-- TGTAG (R188). -/
  | tgtag (d : SReg) (a : TReg)
  /-- TSTAT (R188). -/
  | tstat (d : SReg) (a : TReg)
  /-- TWAIT (R189). -/
  | twait (d : TReg)
  /-- MCLAIM (R193). -/
  | mclaim (a : SReg)
  /-- MRELS (R193). -/
  | mrels (a : SReg)
  /-- MLDS (R195). -/
  | mlds (d : OSlot) (a : TReg) (c : Bool)
  /-- MROW (R200). -/
  | mrow (d : OSlot) (a : VReg) (b : SReg) (m : MMode) (k : Fin 16) (c : AccM)
  /-- MTILE (R201). -/
  | mtile (d : OSlot) (a : TReg) (b : SReg) (m : MMode) (o : Bool) (c : AccM)
  /-- MACR (R204). -/
  | macr (d : VReg) (a : SReg) (b : SReg) (r : RCode)
  /-- MACW (R205). -/
  | macw (a : VReg) (b : SReg) (r : RCode)
  /-- MACZ (R206). -/
  | macz (a : SReg) (b : SReg)
  /-- CPYV (R222). -/
  | cpyv (d : VReg) (a : SReg) (g : Fin 8) (r : Bool)
  /-- CPYX (R223). -/
  | cpyx (d : VReg) (a : SReg) (r : Bool)
  /-- CPYT (R224). -/
  | cpyt (d : TReg) (a : SReg) (r : Bool)
  /-- BARV (R295). -/
  | barv (d : SReg) (a : SReg)
  /-- SKINIT (R307). -/
  | skinit (d : SReg) (a : SReg) (b : SReg)
  /-- SKUPD (R308). -/
  | skupd (d : VReg) (a : SReg) (b : VReg) (m : MReg)
  /-- SKQRY (R309). -/
  | skqry (d : VReg) (a : SReg) (b : VReg) (m : MReg)
  /-- SKADD (R310). -/
  | skadd (d : SReg) (a : SReg)
  /-- SKSCL (R311). -/
  | skscl (d : SReg) (a : SReg)
  /-- SETLS (R314). -/
  | setls (a : SReg)
  /-- ADD (R97). -/
  | add (d : SReg) (a : SReg) (b : SReg)
  /-- SUB (R97). -/
  | sub (d : SReg) (a : SReg) (b : SReg)
  /-- AND (R97). -/
  | and (d : SReg) (a : SReg) (b : SReg)
  /-- OR (R97). -/
  | or (d : SReg) (a : SReg) (b : SReg)
  /-- XOR (R97). -/
  | xor (d : SReg) (a : SReg) (b : SReg)
  /-- SLL (R97). -/
  | sll (d : SReg) (a : SReg) (b : SReg)
  /-- SRL (R97). -/
  | srl (d : SReg) (a : SReg) (b : SReg)
  /-- SRA (R97). -/
  | sra (d : SReg) (a : SReg) (b : SReg)
  /-- SLT (R97). -/
  | slt (d : SReg) (a : SReg) (b : SReg)
  /-- SLTN (R97). -/
  | sltn (d : SReg) (a : SReg) (b : SReg)
  /-- MIN (R97). -/
  | min (d : SReg) (a : SReg) (b : SReg)
  /-- MAX (R97). -/
  | max (d : SReg) (a : SReg) (b : SReg)
  /-- MINN (R97). -/
  | minn (d : SReg) (a : SReg) (b : SReg)
  /-- MAXN (R97). -/
  | maxn (d : SReg) (a : SReg) (b : SReg)
  /-- CLZ (R97). -/
  | clz (d : SReg) (a : SReg)
  /-- CTZ (R97). -/
  | ctz (d : SReg) (a : SReg)
  /-- POPC (R97). -/
  | popc (d : SReg) (a : SReg)
  /-- MUL (R97). -/
  | mul (d : SReg) (a : SReg) (b : SReg)
  /-- MULH (R97). -/
  | mulh (d : SReg) (a : SReg) (b : SReg)
  /-- MULHN (R97). -/
  | mulhn (d : SReg) (a : SReg) (b : SReg)
  /-- DIV (R97). -/
  | div (d : SReg) (a : SReg) (b : SReg)
  /-- DIVN (R97). -/
  | divn (d : SReg) (a : SReg) (b : SReg)
  /-- REM (R97). -/
  | rem (d : SReg) (a : SReg) (b : SReg)
  /-- REMN (R97). -/
  | remn (d : SReg) (a : SReg) (b : SReg)
  /-- SEL (R98). -/
  | sel (d : SReg) (a : SReg) (b : SReg) (c : SReg)
  /-- ADD_IMM (R99). -/
  | addImm (d : SReg) (a : SReg) (i : BitVec 16)
  /-- AND_IMM (R99). -/
  | andImm (d : SReg) (a : SReg) (i : BitVec 13)
  /-- OR_IMM (R99). -/
  | orImm (d : SReg) (a : SReg) (i : BitVec 13)
  /-- XOR_IMM (R99). -/
  | xorImm (d : SReg) (a : SReg) (i : BitVec 13)
  /-- SLT_IMM (R99). -/
  | sltImm (d : SReg) (a : SReg) (i : BitVec 13)
  /-- SLTN_IMM (R99). -/
  | sltnImm (d : SReg) (a : SReg) (i : BitVec 13)
  /-- SLL_IMM (R99). -/
  | sllImm (d : SReg) (a : SReg) (i : BitVec 6)
  /-- SRL_IMM (R99). -/
  | srlImm (d : SReg) (a : SReg) (i : BitVec 6)
  /-- SRA_IMM (R99). -/
  | sraImm (d : SReg) (a : SReg) (i : BitVec 6)
  /-- MIN_IMM (R99). -/
  | minImm (d : SReg) (a : SReg) (i : BitVec 12)
  /-- MAX_IMM (R99). -/
  | maxImm (d : SReg) (a : SReg) (i : BitVec 12)
  /-- MINN_IMM (R99). -/
  | minnImm (d : SReg) (a : SReg) (i : BitVec 12)
  /-- MAXN_IMM (R99). -/
  | maxnImm (d : SReg) (a : SReg) (i : BitVec 12)
  /-- LIH (R100). -/
  | lih (d : SReg) (i : BitVec 17)
  /-- LD (R101). -/
  | ld (d : SReg) (a : SReg) (w : LW) (i : BitVec 14)
  /-- LDN (R101). -/
  | ldn (d : SReg) (a : SReg) (w : LW) (i : BitVec 14)
  /-- ST (R101). -/
  | st (d : SReg) (a : SReg) (w : LW) (i : BitVec 14)
  /-- AMO_SWAP (R103). -/
  | amoSwap (d : SReg) (a : SReg) (b : SReg) (r : Ordr) (w : MW)
  /-- AMO_ADD (R103). -/
  | amoAdd (d : SReg) (a : SReg) (b : SReg) (r : Ordr) (w : MW)
  /-- AMO_AND (R103). -/
  | amoAnd (d : SReg) (a : SReg) (b : SReg) (r : Ordr) (w : MW)
  /-- AMO_OR (R103). -/
  | amoOr (d : SReg) (a : SReg) (b : SReg) (r : Ordr) (w : MW)
  /-- AMO_XOR (R103). -/
  | amoXor (d : SReg) (a : SReg) (b : SReg) (r : Ordr) (w : MW)
  /-- AMO_MIN (R103). -/
  | amoMin (d : SReg) (a : SReg) (b : SReg) (r : Ordr) (w : MW)
  /-- AMO_MAX (R103). -/
  | amoMax (d : SReg) (a : SReg) (b : SReg) (r : Ordr) (w : MW)
  /-- CAS (R103). -/
  | cas (d : SReg) (a : SReg) (b : SReg) (r : Ordr) (w : MW)
  /-- BEQ (R105). -/
  | beq (d : SReg) (a : SReg) (i : BitVec 13)
  /-- BNE (R105). -/
  | bne (d : SReg) (a : SReg) (i : BitVec 13)
  /-- BLT (R105). -/
  | blt (d : SReg) (a : SReg) (i : BitVec 13)
  /-- BGE (R105). -/
  | bge (d : SReg) (a : SReg) (i : BitVec 13)
  /-- BLTN (R105). -/
  | bltn (d : SReg) (a : SReg) (i : BitVec 13)
  /-- BGEN (R105). -/
  | bgen (d : SReg) (a : SReg) (i : BitVec 13)
  /-- JAL (R105). -/
  | jal (d : SReg) (i : BitVec 17)
  /-- JALR (R106). -/
  | jalr (d : SReg) (a : SReg) (i : BitVec 16)
  /-- FADD (R108). -/
  | fadd (d : SReg) (a : SReg) (b : SReg)
  /-- FSUB (R108). -/
  | fsub (d : SReg) (a : SReg) (b : SReg)
  /-- FMUL (R108). -/
  | fmul (d : SReg) (a : SReg) (b : SReg)
  /-- FDIV (R108). -/
  | fdiv (d : SReg) (a : SReg) (b : SReg)
  /-- FSQRT (R108). -/
  | fsqrt (d : SReg) (a : SReg)
  /-- FMIN (R109). -/
  | fmin (d : SReg) (a : SReg) (b : SReg)
  /-- FMAX (R109). -/
  | fmax (d : SReg) (a : SReg) (b : SReg)
  /-- FCLASS (R109). -/
  | fclass (d : SReg) (a : SReg)
  /-- FCMP_EQ (R109). -/
  | fcmpEq (d : SReg) (a : SReg) (b : SReg)
  /-- FCMP_LT (R109). -/
  | fcmpLt (d : SReg) (a : SReg) (b : SReg)
  /-- FCMP_LE (R109). -/
  | fcmpLe (d : SReg) (a : SReg) (b : SReg)
  /-- FMA (R108). -/
  | fma (d : SReg) (a : SReg) (b : SReg) (c : SReg)
  /-- FCVT (R111). -/
  | fcvt (d : SReg) (a : SReg) (s : SFT) (t : SFT)
  /-- CSRR (R112). -/
  | csrr (d : SReg) (n : Csr)
  /-- CSRW (R112). -/
  | csrw (a : SReg) (n : Csr)
  /-- CSRS (R112). -/
  | csrs (a : SReg) (n : Csr)
  /-- CSRC (R112). -/
  | csrc (a : SReg) (n : Csr)
  /-- VSTART_WRITE (R39). -/
  | vstartWrite (a : SReg)
  /-- XFLAGS_WRITE (R31). -/
  | xflagsWrite (a : SReg)
  /-- WID (R115). -/
  | wid (d : SReg) (n : BitVec 3)
  /-- SYSC_CHIP_NUMBER (R361). -/
  | syscChipNumber (d : SReg)
  /-- SYSC_SEND (R361). -/
  | syscSend (d : SReg)
  /-- SYSC_MEMBERSHIP (R361). -/
  | syscMembership (d : SReg)
  /-- TRAP (R117). -/
  | trap (i : BitVec 17)
  /-- RETT (R44). -/
  | rett
  /-- YIELD (R117). -/
  | yield
  /-- EXIT (R118). -/
  | exit
  /-- FENCE (R119). -/
  | fence (s : Scope) (k : BitVec 8)
  /-- PROBE (R121). -/
  | probe (d : SReg) (a : SReg) (k : PKind)
  /-- VFENCE (R120). -/
  | vfence
  /-- SETVL (R124). -/
  | setvl (d : SReg) (a : SReg) (g : Grp) (w : EW)
  /-- PUSH (R210). -/
  | push (d : Port) (a : SReg) (n : Fin 8)
  /-- POP (R211). -/
  | pop (d : SReg) (a : Port)
  /-- STRCFG (R213). -/
  | strcfg (d : OSlot) (a : SReg)
  /-- STRBAR (R217). -/
  | strbar (i : BitVec 17)
  /-- QPUSH (R271). -/
  | qpush (d : SReg) (a : SReg) (b : SReg)
  /-- QPOP (R272). -/
  | qpop (d : SReg) (a : SReg) (b : SReg)
  /-- QPUSHB (R271). -/
  | qpushb (d : SReg) (a : SReg) (b : SReg)
  /-- QPOPB (R273). -/
  | qpopb (d : SReg) (a : SReg) (b : SReg)
  /-- QSTEAL (R273). -/
  | qsteal (d : SReg) (a : SReg) (b : SReg)
  /-- QLEN (R275). -/
  | qlen (d : SReg) (a : SReg)
  /-- DISPATCH (R277). -/
  | dispatch (d : SReg) (a : SReg) (b : SReg)
  /-- DRET (R280). -/
  | dret (d : SReg) (a : SReg) (b : SReg)
  /-- FORKL (R288). -/
  | forkl (d : SReg) (a : SReg) (b : SReg)
  /-- JOINL (R289). -/
  | joinl (d : SReg) (a : SReg)
  /-- GRPID (R290). -/
  | grpid (d : SReg)
  /-- BINIT (R294). -/
  | binit (a : SReg) (b : SReg)
  /-- BWAIT (R296). -/
  | bwait (a : SReg) (b : SReg)
  /-- BARW (R295). -/
  | barw (d : SReg) (a : SReg)
  /-- RNGCK (R316). -/
  | rngck (a : SReg)
  /-- RNGRS (R316). -/
  | rngrs (a : SReg)
  /-- CTXHALT (R348). -/
  | ctxhalt (d : SReg) (a : SReg)
  /-- SCRUB_CLUSTER (R349). -/
  | scrubCluster (d : SReg) (a : SReg) (b : SReg)
  /-- SCRUB_L2 (R349). -/
  | scrubL2 (d : SReg) (a : SReg) (b : SReg)
  /-- SCRUB_SHADOW_SLOT (R349). -/
  | scrubShadowSlot (d : SReg) (a : SReg) (b : SReg)
  /-- AUDIT_APPEND (R383). -/
  | auditAppend (d : SReg) (a : SReg) (b : SReg)
  /-- AUDIT_SEAL (R382). -/
  | auditSeal (d : SReg) (a : SReg) (b : SReg)
  /-- AUDIT_FREE (R383). -/
  | auditFree (d : SReg) (a : SReg) (b : SReg)
  /-- AUDIT_EXTEND (R383). -/
  | auditExtend (d : SReg) (a : SReg) (b : SReg)
  /-- WAYSET_SET (R353). -/
  | waysetSet (d : SReg) (a : SReg) (b : SReg)
  /-- WAYSET_READ (R353). -/
  | waysetRead (d : SReg) (a : SReg) (b : SReg)
  /-- SETROOT (R339). -/
  | setroot (d : SReg) (a : SReg) (b : SReg)
  /-- INVVA (R339). -/
  | invva (d : SReg) (a : SReg) (b : SReg)
  /-- INVCTX (R339). -/
  | invctx (d : SReg) (a : SReg) (b : SReg)
  /-- WALK (R339). -/
  | walk (d : SReg) (a : SReg) (b : SReg)
  /-- PFX (R66). -/
  | pfx (p : BitVec 26)
  /-- CLH (R68). -/
  | clh (c : BitVec 26)
  /-- RESERVED_ENCODING (R65). -/
  | reservedEncoding (w : BitVec 32)
  /-- LANE_GROUP_BIND (R287). -/
  | laneGroupBind (core : Nat)
  /-- L1I_LINE_FILL (R255). -/
  | l1iLineFill (core : Nat) (ctx : BitVec 16) (va : BitVec 56)
  /-- STREAM_FETCH (R215). -/
  | streamFetch (slot : Nat) (p : OSlot)
  /-- COPY_END (R221). -/
  | copyEnd (slot : Nat)
  /-- MONITOR_WAKE (R175). -/
  | monitorWake (slot : Nat)
  /-- DEPENDENCE_READY (R267). -/
  | dependenceReady (ctx : BitVec 16) (q : Word)
  /-- AXPY (R318). -/
  | axpy (slot : Nat)
  /-- FADE (R318). -/
  | fade (slot : Nat)
  /-- FILL (R318). -/
  | fill (slot : Nat)
  /-- COPY (R318). -/
  | copy (slot : Nat)
  /-- SCADD (R318). -/
  | scadd (slot : Nat)
  /-- ALLREDUCE (R368). -/
  | allreduce (slot : Nat)
  /-- REDUCE_SCATTER (R368). -/
  | reduceScatter (slot : Nat)
  /-- SKETCH_SUM (R369). -/
  | sketchSum (slot : Nat)
  /-- COLLECTIVE_COMPLETE (R370). -/
  | collectiveComplete (slot : Nat)
  /-- CONTRIB (R363). -/
  | contrib (p : OSlot) (f : Flit)
  /-- PSUM (R363). -/
  | psum (p : OSlot) (f : Flit)
  /-- RESULT (R363). -/
  | result (p : OSlot) (f : Flit)
  /-- ACK (R363). -/
  | ack (p : OSlot) (f : Flit)
  /-- NACK (R362). -/
  | nack (p : OSlot) (f : Flit)
  /-- LEAVE (R371). -/
  | leave (p : OSlot) (f : Flit)
  /-- ABORT (R394). -/
  | abort (p : OSlot) (f : Flit)
  /-- IDLE (R363). -/
  | idle (p : OSlot)
  /-- MALFORMED_FLIT (R363). -/
  | malformedFlit (p : OSlot) (f : Flit)
  /-- PORT_TRAINING_DONE (R364). -/
  | portTrainingDone (p : OSlot) (good : Nat)
  /-- LASTING_LINK_ERROR (R365). -/
  | lastingLinkError (p : OSlot)
  /-- TRANSIENT_MEMORY_ERROR (R324). -/
  | transientMemoryError (pa : Nat)
  /-- LASTING_MEMORY_ERROR (R324). -/
  | lastingMemoryError (pa : Nat)
  /-- OASIS_FAULT_SERVICE (R335). -/
  | oasisFaultService (slot : Nat)
  /-- PAGE_MIGRATION (R338). -/
  | pageMigration (ctx : BitVec 16) (va : BitVec 56)
  /-- PREEMPTION (R45). -/
  | preemption (slot : Nat)
  /-- GROUP_ADMISSION (R282). -/
  | groupAdmission (ctx : BitVec 16)
  /-- HOST_MEMORY_WRITE (R235). -/
  | hostMemoryWrite (ap : OSlot) (off : Nat) (data : List Byte)
  /-- HOST_MEMORY_READ (R356). -/
  | hostMemoryRead (ap : OSlot) (off : Nat) (n : Nat)
  /-- TASK_RECORD_APPEND (R268). -/
  | taskRecordAppend (off : Nat) (data : List Byte)
  /-- HOST_REGISTER_WRITE (R357). -/
  | hostRegisterWrite (off : Nat) (v : Word)
  /-- REPORT_RING_WRITE (R357). -/
  | reportRingWrite
  /-- CREATE_CONTEXT (R340). -/
  | createContext (q : Req)
  /-- RELEASE_CONTEXT (R350). -/
  | releaseContext (q : Req)
  /-- SWAP_OUT (R345). -/
  | swapOut (q : Req)
  /-- SAVE (R345). -/
  | save (q : Req)
  /-- BIND_APERTURE (R356). -/
  | bindAperture (q : Req)
  /-- RESUME (R344). -/
  | resume (q : Req)
  /-- MAP (R393). -/
  | map (q : Req)
  /-- UNMAP (R338). -/
  | unmap (q : Req)
  /-- DEMAND_FILLED_RANGE (R335). -/
  | demandFilledRange (q : Req)
  /-- CREATE_QUEUE (R263). -/
  | createQueue (q : Req)
  /-- SEAL_QUEUE (R264). -/
  | sealQueue (q : Req)
  /-- DESTROY_QUEUE (R264). -/
  | destroyQueue (q : Req)
  /-- LOAD (R247). -/
  | load (q : Req)
  /-- UNLOAD (R261). -/
  | unload (q : Req)
  /-- FORCE_UNLOAD (R261). -/
  | forceUnload (q : Req)
  /-- ATTACH (R395). -/
  | attach (q : Req)
  /-- LAUNCH (R257). -/
  | launch (q : Req)
  /-- DEFINE_COLLECTIVE_GROUP (R366). -/
  | defineCollectiveGroup (q : Req)
  /-- SET_CHIP_NUMBER (R359). -/
  | setChipNumber (q : Req)
  /-- ENABLE_PORT (R364). -/
  | enablePort (q : Req)
  /-- DISABLE_PORT (R364). -/
  | disablePort (q : Req)
  /-- RETRAIN_PORT (R364). -/
  | retrainPort (q : Req)
  /-- READ_PORT_COUNTERS (R359). -/
  | readPortCounters (q : Req)
  /-- SET_ROUTE (R363). -/
  | setRoute (q : Req)
  /-- UNASSIGNED_REQUEST (R357). -/
  | unassignedRequest (q : Req)
  /-- MODULE_RESET (R389). -/
  | moduleReset
  /-- MEASURED_BOOT (R378). -/
  | measuredBoot (img0 : Option BootImage) (img1 : Option BootImage)
  /-- BRING_UP (R389). -/
  | bringUp (badStacks : List (Fin 12)) (badUnits : List ScrubUnit)
  /-- POWER_CAP (R387). -/
  | powerCap (watts : BitVec 16)
  /-- POWER_CAP_END (R387). -/
  | powerCapEnd (watts : BitVec 16)
  /-- THERMAL_THROTTLE (R388). -/
  | thermalThrottle (tdie : Byte) (tstk : Byte)
  /-- THERMAL_SHUTDOWN (R388). -/
  | thermalShutdown (tdie : Byte) (tstk : Byte)
  /-- THERMAL_THROTTLE_END (R388). -/
  | thermalThrottleEnd (tdie : Byte) (tstk : Byte)
  /-- LOSS_OF_POWER (R382). -/
  | lossOfPower
  /-- FLIT_CRC_FAILURE (R362). -/
  | flitCrcFailure (p : OSlot) (seq : BitVec 16)
  /-- HOST_LINK_TRAINED (R390). -/
  | hostLinkTrained
  /-- UNOFFERED_SYSC_SERVICE (R117). -/
  | unofferedSyscService (d : SReg) (i : BitVec 17)
  deriving DecidableEq, Repr

end Sys2Proof
end

