-- ==== Sys2Proof/WellFormed.lean ====
section
/-! DEFINITION. Which terms of Instr the encoding admits: the rules of R61, R62, R63 and R65 that the fields' types do
not already impose. -/

namespace Sys2Proof

/-- FCVT: the types differ and one of them is floating (R111). -/
def fcvtTypesOk (s t : SFT) : Bool :=
  s != t && (s == .f32 || s == .bf16 || s == .f16 || t == .f32 || t == .bf16 || t == .f16)

/-- VCVT: neither code is t2 or e8m0, and they differ (R135). -/
def vcvtCodesOk (s t : Elem) : Bool :=
  s != t && s != .t2 && s != .e8m0 && t != .t2 && t != .e8m0

/-- The element codes of VBQ and VBDQ (R138). -/
def bqCode (t : Elem) : Bool :=
  t == .e4m3 || t == .e5m2 || t == .e3m2 || t == .e2m3 || t == .e2m1 || t == .i8 || t == .i4

/-- The packed element codes of VPACK and VUNPK (R136). -/
def packCode (t : Elem) : Bool :=
  t == .e3m2 || t == .e2m3 || t == .e2m1 || t == .i4 || t == .n4 || t == .t2

/-- Widths that .col takes: e8, e16, e32 (R161). -/
def colWidth (w : EW) : Bool := w == .e8 || w == .e16 || w == .e32

/-- Widths of whole bytes (R161). -/
def wholeByte (w : EW) : Bool := w != .e4 && w != .e6

/-- N positions, 1 to 7, counts above N zero, bits [25:24] zero (R68): the field is below 8 to the power N + 1. -/
def clauseOk (c : BitVec 26) : Bool :=
  let n := c.toNat % 8
  decide (1 <= n) && decide (c.toNat < 8 ^ (n + 1))

/-- Whether the encoding admits a term (R65). Steps without a word of their own have no encoding rule. -/
def Instr.wf : Instr → Bool
  | .ldn _ _ w _ => w != .d64  -- R63
  | .fcvt _ _ s t => fcvtTypesOk s t  -- R111
  | .csrw _ n => n != .vstart && n != .xflags  -- VSTART and XFLAGS have rows of their own (R39, R31)
  | .wid _ n => n.toNat <= 5  -- R115
  | .fence _ k => k != 0  -- R119
  | .setvlf d _ _ _ _ => d != 0  -- mask destination (R61)
  | .vwmacc _ _ _ _ w => w != .w64  -- R132
  | .vnsra _ _ _ _ _ w => w != .w64  -- R132
  | .vcmpEq d _ _ _ _ => d != 0  -- mask destination (R61)
  | .vcmpNe d _ _ _ _ => d != 0  -- mask destination (R61)
  | .vcmpLt d _ _ _ _ => d != 0  -- mask destination (R61)
  | .vcmpLe d _ _ _ _ => d != 0  -- mask destination (R61)
  | .vcmpLtn d _ _ _ _ => d != 0  -- mask destination (R61)
  | .vcmpLen d _ _ _ _ => d != 0  -- mask destination (R61)
  | .vwmaccVx _ _ _ _ w => w != .w64  -- R132
  | .vnsraVx _ _ _ _ _ w => w != .w64  -- R132
  | .vcmpEqVx d _ _ _ _ => d != 0  -- mask destination (R61)
  | .vcmpNeVx d _ _ _ _ => d != 0  -- mask destination (R61)
  | .vcmpLtVx d _ _ _ _ => d != 0  -- mask destination (R61)
  | .vcmpLeVx d _ _ _ _ => d != 0  -- mask destination (R61)
  | .vcmpLtnVx d _ _ _ _ => d != 0  -- mask destination (R61)
  | .vcmpLenVx d _ _ _ _ => d != 0  -- mask destination (R61)
  | .vfcmpEq d _ _ _ _ _ => d != 0  -- mask destination (R61)
  | .vfcmpLt d _ _ _ _ _ => d != 0  -- mask destination (R61)
  | .vfcmpLe d _ _ _ _ _ => d != 0  -- mask destination (R61)
  | .vfcmpUn d _ _ _ _ _ => d != 0  -- mask destination (R61)
  | .vcvt _ _ s _ _ t => vcvtCodesOk s t  -- R135
  | .vbq _ a t _ _ c => bqCode t && (!c || a == 0)  -- R138
  | .vbdq _ _ s _ _ => bqCode s  -- R139
  | .vhad d a k y z _ _ f => decide (k.val <= 15) && f != .f16 && (!y || a == 0) && (!z || d == 0)  -- R140
  | .vpack _ _ c _ => packCode c  -- R136
  | .vunpk _ _ c _ => packCode c  -- R136
  | .vrng _ t _ => (t == .f32 || t == .n32 || t == .n64)  -- R141
  | .mand d _ _ => d != 0  -- mask destination (R61)
  | .mor d _ _ => d != 0  -- mask destination (R61)
  | .mxor d _ _ => d != 0  -- mask destination (R61)
  | .mnot d _ => d != 0  -- mask destination (R61)
  | .vld _ _ _ c w _ => (!c || colWidth w)  -- R161
  | .vst _ _ _ c w => (!c || colWidth w)  -- R161
  | .vlds _ _ _ _ w _ => wholeByte w  -- R161
  | .vsts _ _ _ _ w => wholeByte w  -- R161
  | .vldx _ _ _ _ w _ => wholeByte w  -- R161
  | .vstx _ _ _ _ w => wholeByte w  -- R161
  | .vldg _ _ b _ w _ => wholeByte w && decide (1 <= b.val) && decide (b.val <= 7)  -- R160, R161
  | .vstg _ _ b _ w => wholeByte w && decide (1 <= b.val) && decide (b.val <= 7)  -- R160, R161
  | .vldt _ _ _ _ c w => (!c || colWidth w)  -- R161
  | .vstt _ _ _ _ c w => (!c || colWidth w)  -- R161
  | .mrow _ _ _ _ k _ => decide (k.val <= 9)  -- R200
  | .push _ a n => a.val + n.val <= 31  -- R63: n is words - 1
  | .clh c => clauseOk c  -- R68
  | .unofferedSyscService _ i => decide (3 <= i.toNat)  -- R117: services 0 to 2 have rows of their own
  | _ => true

end Sys2Proof
end

