-- ==== Sys2Proof/Decode.lean ====
section
/-! DEFINITION. The decoder and the encoder of instruction words (04 R60 to R68).
Instr has one constructor for each of the 361 rows of the table, and Lean's runtime represents no more than 244 of them
as objects; so the decoder is evaluated by the kernel (it is structural and plain) and marked noncomputable.
A word is a number below 2^32. Field [hi:lo] is w / 2^lo % 2^(hi - lo + 1). Words that more than one row of the table
shares (SCRUB, AUDIT, WAYSET, PTCTL) decode to the first of those rows; their meanings look at the operands. -/

namespace Sys2Proof

/-- Why a word or a byte list is no instruction. -/
inductive Reject where
  /-- Fewer than four bytes. -/
  | short
  /-- The major or function code assigns nothing, a field marked =0 is not 0, or a field names nothing (R61 to R63). -/
  | noForm
  /-- The fields name things that this form does not take together (R65). -/
  | illFormed
  deriving DecidableEq, Repr

/-- A 5-bit register field that stands at bit lo. -/
def r5 (w lo : Nat) : Fin 32 := ⟨w / lo % 32, Nat.mod_lt _ (by decide)⟩
/-- A 4-bit field. -/
def r4 (w lo : Nat) : Fin 16 := ⟨w / lo % 16, Nat.mod_lt _ (by decide)⟩
/-- A 3-bit register field. -/
def r3 (w lo : Nat) : Fin 8 := ⟨w / lo % 8, Nat.mod_lt _ (by decide)⟩
/-- A 5-bit field that names one of eight (R61). -/
def r3? (w lo : Nat) : Option (Fin 8) := if h : w / lo % 32 < 8 then some ⟨w / lo % 32, h⟩ else none
/-- A 5-bit field that names one of sixteen (R61). -/
def r4? (w lo : Nat) : Option (Fin 16) := if h : w / lo % 32 < 16 then some ⟨w / lo % 32, h⟩ else none
/-- A 5-bit field that names a port (R61). -/
def port? (w lo : Nat) : Option (Fin 19) := if h : w / lo % 32 < 19 then some ⟨w / lo % 32, h⟩ else none

/-- Words of major 0x01 (R63). -/
def decode01 (wd : Nat) : Option Instr :=
  if wd % 65536 = 14 then some (.clz (r5 wd 2097152) (r5 wd 65536))
  else if wd % 65536 = 15 then some (.ctz (r5 wd 2097152) (r5 wd 65536))
  else if wd % 65536 = 16 then some (.popc (r5 wd 2097152) (r5 wd 65536))
  else if wd % 2048 = 0 then some (.add (r5 wd 2097152) (r5 wd 65536) (r5 wd 2048))
  else if wd % 2048 = 1 then some (.sub (r5 wd 2097152) (r5 wd 65536) (r5 wd 2048))
  else if wd % 2048 = 2 then some (.and (r5 wd 2097152) (r5 wd 65536) (r5 wd 2048))
  else if wd % 2048 = 3 then some (.or (r5 wd 2097152) (r5 wd 65536) (r5 wd 2048))
  else if wd % 2048 = 4 then some (.xor (r5 wd 2097152) (r5 wd 65536) (r5 wd 2048))
  else if wd % 2048 = 5 then some (.sll (r5 wd 2097152) (r5 wd 65536) (r5 wd 2048))
  else if wd % 2048 = 6 then some (.srl (r5 wd 2097152) (r5 wd 65536) (r5 wd 2048))
  else if wd % 2048 = 7 then some (.sra (r5 wd 2097152) (r5 wd 65536) (r5 wd 2048))
  else if wd % 2048 = 8 then some (.slt (r5 wd 2097152) (r5 wd 65536) (r5 wd 2048))
  else if wd % 2048 = 9 then some (.sltn (r5 wd 2097152) (r5 wd 65536) (r5 wd 2048))
  else if wd % 2048 = 10 then some (.min (r5 wd 2097152) (r5 wd 65536) (r5 wd 2048))
  else if wd % 2048 = 11 then some (.max (r5 wd 2097152) (r5 wd 65536) (r5 wd 2048))
  else if wd % 2048 = 12 then some (.minn (r5 wd 2097152) (r5 wd 65536) (r5 wd 2048))
  else if wd % 2048 = 13 then some (.maxn (r5 wd 2097152) (r5 wd 65536) (r5 wd 2048))
  else none

/-- Words of major 0x02 (R63). -/
def decode02 (wd : Nat) : Option Instr :=
  if wd % 2048 = 0 then some (.mul (r5 wd 2097152) (r5 wd 65536) (r5 wd 2048))
  else if wd % 2048 = 1 then some (.mulh (r5 wd 2097152) (r5 wd 65536) (r5 wd 2048))
  else if wd % 2048 = 2 then some (.mulhn (r5 wd 2097152) (r5 wd 65536) (r5 wd 2048))
  else if wd % 2048 = 3 then some (.div (r5 wd 2097152) (r5 wd 65536) (r5 wd 2048))
  else if wd % 2048 = 4 then some (.divn (r5 wd 2097152) (r5 wd 65536) (r5 wd 2048))
  else if wd % 2048 = 5 then some (.rem (r5 wd 2097152) (r5 wd 65536) (r5 wd 2048))
  else if wd % 2048 = 6 then some (.remn (r5 wd 2097152) (r5 wd 65536) (r5 wd 2048))
  else none

/-- Words of major 0x03 (R63). -/
def decode03 (wd : Nat) : Option Instr :=
  if wd % 64 = 0 then some (.sel (r5 wd 2097152) (r5 wd 65536) (r5 wd 2048) (r5 wd 64))
  else none

/-- Words of major 0x04 (R63). -/
def decode04 (wd : Nat) : Option Instr :=
  some (.addImm (r5 wd 2097152) (r5 wd 65536) (BitVec.ofNat 16 (wd)))

/-- Words of major 0x05 (R63). -/
def decode05 (wd : Nat) : Option Instr :=
  if wd / 8192 % 8 = 0 then some (.andImm (r5 wd 2097152) (r5 wd 65536) (BitVec.ofNat 13 (wd)))
  else if wd / 8192 % 8 = 1 then some (.orImm (r5 wd 2097152) (r5 wd 65536) (BitVec.ofNat 13 (wd)))
  else if wd / 8192 % 8 = 2 then some (.xorImm (r5 wd 2097152) (r5 wd 65536) (BitVec.ofNat 13 (wd)))
  else if wd / 8192 % 8 = 3 then some (.sltImm (r5 wd 2097152) (r5 wd 65536) (BitVec.ofNat 13 (wd)))
  else if wd / 8192 % 8 = 4 then some (.sltnImm (r5 wd 2097152) (r5 wd 65536) (BitVec.ofNat 13 (wd)))
  else none

/-- Words of major 0x06 (R63). -/
def decode06 (wd : Nat) : Option Instr :=
  if wd / 64 % 1024 = 0 then some (.sllImm (r5 wd 2097152) (r5 wd 65536) (BitVec.ofNat 6 (wd)))
  else if wd / 64 % 1024 = 64 then some (.srlImm (r5 wd 2097152) (r5 wd 65536) (BitVec.ofNat 6 (wd)))
  else if wd / 64 % 1024 = 128 then some (.sraImm (r5 wd 2097152) (r5 wd 65536) (BitVec.ofNat 6 (wd)))
  else if wd / 4096 % 16 = 3 then some (.minImm (r5 wd 2097152) (r5 wd 65536) (BitVec.ofNat 12 (wd)))
  else if wd / 4096 % 16 = 4 then some (.maxImm (r5 wd 2097152) (r5 wd 65536) (BitVec.ofNat 12 (wd)))
  else if wd / 4096 % 16 = 5 then some (.minnImm (r5 wd 2097152) (r5 wd 65536) (BitVec.ofNat 12 (wd)))
  else if wd / 4096 % 16 = 6 then some (.maxnImm (r5 wd 2097152) (r5 wd 65536) (BitVec.ofNat 12 (wd)))
  else none

/-- Words of major 0x07 (R63). -/
def decode07 (wd : Nat) : Option Instr :=
  if wd / 131072 % 16 = 0 then some (.lih (r5 wd 2097152) (BitVec.ofNat 17 (wd)))
  else none

/-- Words of major 0x08 (R63). -/
def decode08 (wd : Nat) : Option Instr :=
  some (.ld (r5 wd 2097152) (r5 wd 65536) (LW.ofCode (wd / 16384 % 4)) (BitVec.ofNat 14 (wd)))

/-- Words of major 0x09 (R63). -/
def decode09 (wd : Nat) : Option Instr :=
  some (.ldn (r5 wd 2097152) (r5 wd 65536) (LW.ofCode (wd / 16384 % 4)) (BitVec.ofNat 14 (wd)))

/-- Words of major 0x0A (R63). -/
def decode0A (wd : Nat) : Option Instr :=
  some (.st (r5 wd 2097152) (r5 wd 65536) (LW.ofCode (wd / 16384 % 4)) (BitVec.ofNat 14 (wd)))

/-- Words of major 0x0B (R63). -/
def decode0B (wd : Nat) : Option Instr :=
  if wd % 16 = 0 ∧ wd / 32 % 2 = 1 ∧ wd / 256 % 8 = 0 then some (.amoSwap (r5 wd 2097152) (r5 wd 65536) (r5 wd 2048) (Ordr.ofCode (wd / 64 % 4)) (MW.ofCode (wd / 16 % 2)))
  else if wd % 16 = 1 ∧ wd / 32 % 2 = 1 ∧ wd / 256 % 8 = 0 then some (.amoAdd (r5 wd 2097152) (r5 wd 65536) (r5 wd 2048) (Ordr.ofCode (wd / 64 % 4)) (MW.ofCode (wd / 16 % 2)))
  else if wd % 16 = 2 ∧ wd / 32 % 2 = 1 ∧ wd / 256 % 8 = 0 then some (.amoAnd (r5 wd 2097152) (r5 wd 65536) (r5 wd 2048) (Ordr.ofCode (wd / 64 % 4)) (MW.ofCode (wd / 16 % 2)))
  else if wd % 16 = 3 ∧ wd / 32 % 2 = 1 ∧ wd / 256 % 8 = 0 then some (.amoOr (r5 wd 2097152) (r5 wd 65536) (r5 wd 2048) (Ordr.ofCode (wd / 64 % 4)) (MW.ofCode (wd / 16 % 2)))
  else if wd % 16 = 4 ∧ wd / 32 % 2 = 1 ∧ wd / 256 % 8 = 0 then some (.amoXor (r5 wd 2097152) (r5 wd 65536) (r5 wd 2048) (Ordr.ofCode (wd / 64 % 4)) (MW.ofCode (wd / 16 % 2)))
  else if wd % 16 = 5 ∧ wd / 32 % 2 = 1 ∧ wd / 256 % 8 = 0 then some (.amoMin (r5 wd 2097152) (r5 wd 65536) (r5 wd 2048) (Ordr.ofCode (wd / 64 % 4)) (MW.ofCode (wd / 16 % 2)))
  else if wd % 16 = 6 ∧ wd / 32 % 2 = 1 ∧ wd / 256 % 8 = 0 then some (.amoMax (r5 wd 2097152) (r5 wd 65536) (r5 wd 2048) (Ordr.ofCode (wd / 64 % 4)) (MW.ofCode (wd / 16 % 2)))
  else if wd % 16 = 7 ∧ wd / 32 % 2 = 1 ∧ wd / 256 % 8 = 0 then some (.cas (r5 wd 2097152) (r5 wd 65536) (r5 wd 2048) (Ordr.ofCode (wd / 64 % 4)) (MW.ofCode (wd / 16 % 2)))
  else none

/-- Words of major 0x0C (R63). -/
def decode0C (wd : Nat) : Option Instr :=
  if wd / 8192 % 8 = 0 then some (.beq (r5 wd 2097152) (r5 wd 65536) (BitVec.ofNat 13 (wd)))
  else if wd / 8192 % 8 = 1 then some (.bne (r5 wd 2097152) (r5 wd 65536) (BitVec.ofNat 13 (wd)))
  else if wd / 8192 % 8 = 2 then some (.blt (r5 wd 2097152) (r5 wd 65536) (BitVec.ofNat 13 (wd)))
  else if wd / 8192 % 8 = 3 then some (.bge (r5 wd 2097152) (r5 wd 65536) (BitVec.ofNat 13 (wd)))
  else if wd / 8192 % 8 = 4 then some (.bltn (r5 wd 2097152) (r5 wd 65536) (BitVec.ofNat 13 (wd)))
  else if wd / 8192 % 8 = 5 then some (.bgen (r5 wd 2097152) (r5 wd 65536) (BitVec.ofNat 13 (wd)))
  else none

/-- Words of major 0x0D (R63). -/
def decode0D (wd : Nat) : Option Instr :=
  if wd / 131072 % 16 = 0 then some (.jal (r5 wd 2097152) (BitVec.ofNat 17 (wd)))
  else none

/-- Words of major 0x0E (R63). -/
def decode0E (wd : Nat) : Option Instr :=
  some (.jalr (r5 wd 2097152) (r5 wd 65536) (BitVec.ofNat 16 (wd)))

/-- Words of major 0x10 (R63). -/
def decode10 (wd : Nat) : Option Instr :=
  if wd % 65536 = 4 then some (.fsqrt (r5 wd 2097152) (r5 wd 65536))
  else if wd % 65536 = 7 then some (.fclass (r5 wd 2097152) (r5 wd 65536))
  else if wd % 2048 = 0 then some (.fadd (r5 wd 2097152) (r5 wd 65536) (r5 wd 2048))
  else if wd % 2048 = 1 then some (.fsub (r5 wd 2097152) (r5 wd 65536) (r5 wd 2048))
  else if wd % 2048 = 2 then some (.fmul (r5 wd 2097152) (r5 wd 65536) (r5 wd 2048))
  else if wd % 2048 = 3 then some (.fdiv (r5 wd 2097152) (r5 wd 65536) (r5 wd 2048))
  else if wd % 2048 = 5 then some (.fmin (r5 wd 2097152) (r5 wd 65536) (r5 wd 2048))
  else if wd % 2048 = 6 then some (.fmax (r5 wd 2097152) (r5 wd 65536) (r5 wd 2048))
  else if wd % 2048 = 8 then some (.fcmpEq (r5 wd 2097152) (r5 wd 65536) (r5 wd 2048))
  else if wd % 2048 = 9 then some (.fcmpLt (r5 wd 2097152) (r5 wd 65536) (r5 wd 2048))
  else if wd % 2048 = 10 then some (.fcmpLe (r5 wd 2097152) (r5 wd 65536) (r5 wd 2048))
  else none

/-- Words of major 0x11 (R63). -/
def decode11 (wd : Nat) : Option Instr :=
  if wd % 64 = 0 then some (.fma (r5 wd 2097152) (r5 wd 65536) (r5 wd 2048) (r5 wd 64))
  else none

/-- Words of major 0x12 (R63). -/
def decode12 (wd : Nat) : Option Instr :=
  if wd / 64 % 1024 = 0 then (SFT.ofCode? (wd / 8 % 8)).bind fun s => (SFT.ofCode? (wd % 8)).bind fun t => some (.fcvt (r5 wd 2097152) (r5 wd 65536) s t)
  else none

/-- Words of major 0x13 (R63). -/
def decode13 (wd : Nat) : Option Instr :=
  if wd % 65536 = 4098 ∧ wd / 2097152 % 32 = 0 then some (.vstartWrite (r5 wd 65536))
  else if wd % 65536 = 4128 ∧ wd / 2097152 % 32 = 0 then some (.xflagsWrite (r5 wd 65536))
  else if wd / 4096 % 512 = 0 then (Csr.ofCode? (wd % 4096)).bind fun n => some (.csrr (r5 wd 2097152) n)
  else if wd / 4096 % 16 = 1 ∧ wd / 2097152 % 32 = 0 then (Csr.ofCode? (wd % 4096)).bind fun n => some (.csrw (r5 wd 65536) n)
  else if wd / 4096 % 16 = 2 ∧ wd / 2097152 % 32 = 0 then (Csr.ofCode? (wd % 4096)).bind fun n => some (.csrs (r5 wd 65536) n)
  else if wd / 4096 % 16 = 3 ∧ wd / 2097152 % 32 = 0 then (Csr.ofCode? (wd % 4096)).bind fun n => some (.csrc (r5 wd 65536) n)
  else none

/-- Words of major 0x14 (R63). -/
noncomputable def decode14 (wd : Nat) : Option Instr :=
  if wd % 67108864 = 393216 then some .rett
  else if wd % 67108864 = 524288 then some .yield
  else if wd % 67108864 = 655360 then some .exit
  else if wd % 2097152 = 131072 then some (.syscChipNumber (r5 wd 2097152))
  else if wd % 2097152 = 131073 then some (.syscSend (r5 wd 2097152))
  else if wd % 2097152 = 131074 then some (.syscMembership (r5 wd 2097152))
  else if wd / 8 % 262144 = 0 then some (.wid (r5 wd 2097152) (BitVec.ofNat 3 (wd)))
  else if wd / 131072 % 512 = 2 then some (.trap (BitVec.ofNat 17 (wd)))
  else if wd / 131072 % 16 = 1 then some (.unofferedSyscService (r5 wd 2097152) (BitVec.ofNat 17 wd))
  else none

/-- Words of major 0x15 (R63). -/
noncomputable def decode15 (wd : Nat) : Option Instr :=
  if wd % 67108864 = 8192 then some .vfence
  else if wd % 2 = 0 ∧ wd / 4096 % 16384 = 0 then (Scope.ofCode? (wd / 512 % 8)).bind fun s => some (.fence s (BitVec.ofNat 8 (wd / 2)))
  else if wd / 4 % 16384 = 1024 then (PKind.ofCode? (wd % 4)).bind fun k => some (.probe (r5 wd 2097152) (r5 wd 65536) k)
  else none

/-- Words of major 0x17 (R63). -/
noncomputable def decode17 (wd : Nat) : Option Instr :=
  if wd / 32 % 2048 = 0 then (EW.ofCode? (wd % 8)).bind fun w => some (.setvl (r5 wd 2097152) (r5 wd 65536) (Grp.ofCode (wd / 8 % 4)) w)
  else if wd % 2048 = 64 then (r3? wd 2097152).bind fun d => some (.setshape d (r5 wd 65536) (r5 wd 2048))
  else if wd / 32 % 64 = 1 then (r3? wd 2097152).bind fun d => (EW.ofCode? (wd % 8)).bind fun w => some (.setvlf d (r5 wd 65536) (r5 wd 2048) (Grp.ofCode (wd / 8 % 4)) w)
  else none

/-- Words of major 0x18 (R63). -/
def decode18 (wd : Nat) : Option Instr :=
  if wd / 4 % 64 = 0 then some (.vadd (r5 wd 2097152) (r5 wd 65536) (r5 wd 2048) (r3 wd 256) (IW.ofCode (wd % 4)))
  else if wd / 4 % 64 = 1 then some (.vsub (r5 wd 2097152) (r5 wd 65536) (r5 wd 2048) (r3 wd 256) (IW.ofCode (wd % 4)))
  else if wd / 4 % 64 = 2 then some (.vrsub (r5 wd 2097152) (r5 wd 65536) (r5 wd 2048) (r3 wd 256) (IW.ofCode (wd % 4)))
  else if wd / 4 % 64 = 3 then some (.vmul (r5 wd 2097152) (r5 wd 65536) (r5 wd 2048) (r3 wd 256) (IW.ofCode (wd % 4)))
  else if wd / 4 % 64 = 4 then some (.vmulh (r5 wd 2097152) (r5 wd 65536) (r5 wd 2048) (r3 wd 256) (IW.ofCode (wd % 4)))
  else if wd / 4 % 64 = 6 then some (.vwmacc (r5 wd 2097152) (r5 wd 65536) (r5 wd 2048) (r3 wd 256) (IW.ofCode (wd % 4)))
  else if wd / 4 % 64 = 7 then some (.vmerge (r5 wd 2097152) (r5 wd 65536) (r5 wd 2048) (r3 wd 256) (IW.ofCode (wd % 4)))
  else if wd / 4 % 8 = 5 then some (.vmacc (r5 wd 2097152) (r5 wd 65536) (r5 wd 2048) (r3 wd 256) (r3 wd 32) (IW.ofCode (wd % 4)))
  else none

/-- Words of major 0x19 (R63). -/
def decode19 (wd : Nat) : Option Instr :=
  if wd / 4 % 64 = 0 then some (.vand (r5 wd 2097152) (r5 wd 65536) (r5 wd 2048) (r3 wd 256) (IW.ofCode (wd % 4)))
  else if wd / 4 % 64 = 1 then some (.vor (r5 wd 2097152) (r5 wd 65536) (r5 wd 2048) (r3 wd 256) (IW.ofCode (wd % 4)))
  else if wd / 4 % 64 = 2 then some (.vxor (r5 wd 2097152) (r5 wd 65536) (r5 wd 2048) (r3 wd 256) (IW.ofCode (wd % 4)))
  else if wd / 4 % 64 = 3 then some (.vsll (r5 wd 2097152) (r5 wd 65536) (r5 wd 2048) (r3 wd 256) (IW.ofCode (wd % 4)))
  else if wd / 4 % 64 = 4 then some (.vsrl (r5 wd 2097152) (r5 wd 65536) (r5 wd 2048) (r3 wd 256) (IW.ofCode (wd % 4)))
  else if wd / 4 % 64 = 5 then some (.vsra (r5 wd 2097152) (r5 wd 65536) (r5 wd 2048) (r3 wd 256) (IW.ofCode (wd % 4)))
  else if wd / 4 % 8 = 6 then some (.vnsra (r5 wd 2097152) (r5 wd 65536) (r5 wd 2048) (r3 wd 256) (r3 wd 32) (IW.ofCode (wd % 4)))
  else none

/-- Words of major 0x1A (R63). -/
def decode1A (wd : Nat) : Option Instr :=
  if wd / 4 % 64 = 0 then some (.vmin (r5 wd 2097152) (r5 wd 65536) (r5 wd 2048) (r3 wd 256) (IW.ofCode (wd % 4)))
  else if wd / 4 % 64 = 1 then some (.vmax (r5 wd 2097152) (r5 wd 65536) (r5 wd 2048) (r3 wd 256) (IW.ofCode (wd % 4)))
  else if wd / 4 % 64 = 2 then some (.vminn (r5 wd 2097152) (r5 wd 65536) (r5 wd 2048) (r3 wd 256) (IW.ofCode (wd % 4)))
  else if wd / 4 % 64 = 3 then some (.vmaxn (r5 wd 2097152) (r5 wd 65536) (r5 wd 2048) (r3 wd 256) (IW.ofCode (wd % 4)))
  else if wd / 4 % 8 = 4 then some (.vsadd (r5 wd 2097152) (r5 wd 65536) (r5 wd 2048) (r3 wd 256) (r3 wd 32) (IW.ofCode (wd % 4)))
  else if wd / 4 % 8 = 5 then some (.vssub (r5 wd 2097152) (r5 wd 65536) (r5 wd 2048) (r3 wd 256) (r3 wd 32) (IW.ofCode (wd % 4)))
  else if wd / 4 % 8 = 6 then some (.vdiv (r5 wd 2097152) (r5 wd 65536) (r5 wd 2048) (r3 wd 256) (r3 wd 32) (IW.ofCode (wd % 4)))
  else if wd / 4 % 8 = 7 then some (.vrem (r5 wd 2097152) (r5 wd 65536) (r5 wd 2048) (r3 wd 256) (r3 wd 32) (IW.ofCode (wd % 4)))
  else none

/-- Words of major 0x1B (R63). -/
def decode1B (wd : Nat) : Option Instr :=
  if wd / 4 % 64 = 0 then (r3? wd 2097152).bind fun d => some (.vcmpEq d (r5 wd 65536) (r5 wd 2048) (r3 wd 256) (IW.ofCode (wd % 4)))
  else if wd / 4 % 64 = 1 then (r3? wd 2097152).bind fun d => some (.vcmpNe d (r5 wd 65536) (r5 wd 2048) (r3 wd 256) (IW.ofCode (wd % 4)))
  else if wd / 4 % 64 = 2 then (r3? wd 2097152).bind fun d => some (.vcmpLt d (r5 wd 65536) (r5 wd 2048) (r3 wd 256) (IW.ofCode (wd % 4)))
  else if wd / 4 % 64 = 3 then (r3? wd 2097152).bind fun d => some (.vcmpLe d (r5 wd 65536) (r5 wd 2048) (r3 wd 256) (IW.ofCode (wd % 4)))
  else if wd / 4 % 64 = 4 then (r3? wd 2097152).bind fun d => some (.vcmpLtn d (r5 wd 65536) (r5 wd 2048) (r3 wd 256) (IW.ofCode (wd % 4)))
  else if wd / 4 % 64 = 5 then (r3? wd 2097152).bind fun d => some (.vcmpLen d (r5 wd 65536) (r5 wd 2048) (r3 wd 256) (IW.ofCode (wd % 4)))
  else none

/-- Words of major 0x1C (R63). -/
def decode1C (wd : Nat) : Option Instr :=
  if wd / 4 % 64 = 0 then some (.vaddVx (r5 wd 2097152) (r5 wd 65536) (r5 wd 2048) (r3 wd 256) (IW.ofCode (wd % 4)))
  else if wd / 4 % 64 = 1 then some (.vsubVx (r5 wd 2097152) (r5 wd 65536) (r5 wd 2048) (r3 wd 256) (IW.ofCode (wd % 4)))
  else if wd / 4 % 64 = 2 then some (.vrsubVx (r5 wd 2097152) (r5 wd 65536) (r5 wd 2048) (r3 wd 256) (IW.ofCode (wd % 4)))
  else if wd / 4 % 64 = 3 then some (.vmulVx (r5 wd 2097152) (r5 wd 65536) (r5 wd 2048) (r3 wd 256) (IW.ofCode (wd % 4)))
  else if wd / 4 % 64 = 4 then some (.vmulhVx (r5 wd 2097152) (r5 wd 65536) (r5 wd 2048) (r3 wd 256) (IW.ofCode (wd % 4)))
  else if wd / 4 % 64 = 6 then some (.vwmaccVx (r5 wd 2097152) (r5 wd 65536) (r5 wd 2048) (r3 wd 256) (IW.ofCode (wd % 4)))
  else if wd / 4 % 64 = 7 then some (.vmergeVx (r5 wd 2097152) (r5 wd 65536) (r5 wd 2048) (r3 wd 256) (IW.ofCode (wd % 4)))
  else if wd / 4 % 8 = 5 then some (.vmaccVx (r5 wd 2097152) (r5 wd 65536) (r5 wd 2048) (r3 wd 256) (r3 wd 32) (IW.ofCode (wd % 4)))
  else none

/-- Words of major 0x1D (R63). -/
def decode1D (wd : Nat) : Option Instr :=
  if wd / 4 % 64 = 0 then some (.vandVx (r5 wd 2097152) (r5 wd 65536) (r5 wd 2048) (r3 wd 256) (IW.ofCode (wd % 4)))
  else if wd / 4 % 64 = 1 then some (.vorVx (r5 wd 2097152) (r5 wd 65536) (r5 wd 2048) (r3 wd 256) (IW.ofCode (wd % 4)))
  else if wd / 4 % 64 = 2 then some (.vxorVx (r5 wd 2097152) (r5 wd 65536) (r5 wd 2048) (r3 wd 256) (IW.ofCode (wd % 4)))
  else if wd / 4 % 64 = 3 then some (.vsllVx (r5 wd 2097152) (r5 wd 65536) (r5 wd 2048) (r3 wd 256) (IW.ofCode (wd % 4)))
  else if wd / 4 % 64 = 4 then some (.vsrlVx (r5 wd 2097152) (r5 wd 65536) (r5 wd 2048) (r3 wd 256) (IW.ofCode (wd % 4)))
  else if wd / 4 % 64 = 5 then some (.vsraVx (r5 wd 2097152) (r5 wd 65536) (r5 wd 2048) (r3 wd 256) (IW.ofCode (wd % 4)))
  else if wd / 4 % 8 = 6 then some (.vnsraVx (r5 wd 2097152) (r5 wd 65536) (r5 wd 2048) (r3 wd 256) (r3 wd 32) (IW.ofCode (wd % 4)))
  else none

/-- Words of major 0x1E (R63). -/
def decode1E (wd : Nat) : Option Instr :=
  if wd / 4 % 64 = 0 then some (.vminVx (r5 wd 2097152) (r5 wd 65536) (r5 wd 2048) (r3 wd 256) (IW.ofCode (wd % 4)))
  else if wd / 4 % 64 = 1 then some (.vmaxVx (r5 wd 2097152) (r5 wd 65536) (r5 wd 2048) (r3 wd 256) (IW.ofCode (wd % 4)))
  else if wd / 4 % 64 = 2 then some (.vminnVx (r5 wd 2097152) (r5 wd 65536) (r5 wd 2048) (r3 wd 256) (IW.ofCode (wd % 4)))
  else if wd / 4 % 64 = 3 then some (.vmaxnVx (r5 wd 2097152) (r5 wd 65536) (r5 wd 2048) (r3 wd 256) (IW.ofCode (wd % 4)))
  else if wd / 4 % 8 = 4 then some (.vsaddVx (r5 wd 2097152) (r5 wd 65536) (r5 wd 2048) (r3 wd 256) (r3 wd 32) (IW.ofCode (wd % 4)))
  else if wd / 4 % 8 = 5 then some (.vssubVx (r5 wd 2097152) (r5 wd 65536) (r5 wd 2048) (r3 wd 256) (r3 wd 32) (IW.ofCode (wd % 4)))
  else if wd / 4 % 8 = 6 then some (.vdivVx (r5 wd 2097152) (r5 wd 65536) (r5 wd 2048) (r3 wd 256) (r3 wd 32) (IW.ofCode (wd % 4)))
  else if wd / 4 % 8 = 7 then some (.vremVx (r5 wd 2097152) (r5 wd 65536) (r5 wd 2048) (r3 wd 256) (r3 wd 32) (IW.ofCode (wd % 4)))
  else none

/-- Words of major 0x1F (R63). -/
def decode1F (wd : Nat) : Option Instr :=
  if wd / 4 % 64 = 0 then (r3? wd 2097152).bind fun d => some (.vcmpEqVx d (r5 wd 65536) (r5 wd 2048) (r3 wd 256) (IW.ofCode (wd % 4)))
  else if wd / 4 % 64 = 1 then (r3? wd 2097152).bind fun d => some (.vcmpNeVx d (r5 wd 65536) (r5 wd 2048) (r3 wd 256) (IW.ofCode (wd % 4)))
  else if wd / 4 % 64 = 2 then (r3? wd 2097152).bind fun d => some (.vcmpLtVx d (r5 wd 65536) (r5 wd 2048) (r3 wd 256) (IW.ofCode (wd % 4)))
  else if wd / 4 % 64 = 3 then (r3? wd 2097152).bind fun d => some (.vcmpLeVx d (r5 wd 65536) (r5 wd 2048) (r3 wd 256) (IW.ofCode (wd % 4)))
  else if wd / 4 % 64 = 4 then (r3? wd 2097152).bind fun d => some (.vcmpLtnVx d (r5 wd 65536) (r5 wd 2048) (r3 wd 256) (IW.ofCode (wd % 4)))
  else if wd / 4 % 64 = 5 then (r3? wd 2097152).bind fun d => some (.vcmpLenVx d (r5 wd 65536) (r5 wd 2048) (r3 wd 256) (IW.ofCode (wd % 4)))
  else none

/-- Words of major 0x20 (R63). -/
def decode20 (wd : Nat) : Option Instr :=
  if wd / 4 % 64 = 7 ∧ wd / 2048 % 32 = 0 then (FF.ofCode? (wd % 4)).bind fun f => some (.vfclass (r5 wd 2097152) (r5 wd 65536) (r3 wd 256) f)
  else if wd / 4 % 8 = 6 ∧ wd / 2048 % 32 = 0 then (FF.ofCode? (wd % 4)).bind fun f => some (.vfsqrt (r5 wd 2097152) (r5 wd 65536) (r3 wd 256) (r3 wd 32) f)
  else if wd / 4 % 8 = 0 then (FF.ofCode? (wd % 4)).bind fun f => some (.vfadd (r5 wd 2097152) (r5 wd 65536) (r5 wd 2048) (r3 wd 256) (r3 wd 32) f)
  else if wd / 4 % 8 = 1 then (FF.ofCode? (wd % 4)).bind fun f => some (.vfsub (r5 wd 2097152) (r5 wd 65536) (r5 wd 2048) (r3 wd 256) (r3 wd 32) f)
  else if wd / 4 % 8 = 2 then (FF.ofCode? (wd % 4)).bind fun f => some (.vfmul (r5 wd 2097152) (r5 wd 65536) (r5 wd 2048) (r3 wd 256) (r3 wd 32) f)
  else if wd / 4 % 8 = 3 then (FF.ofCode? (wd % 4)).bind fun f => some (.vfdiv (r5 wd 2097152) (r5 wd 65536) (r5 wd 2048) (r3 wd 256) (r3 wd 32) f)
  else if wd / 4 % 8 = 4 then (FF.ofCode? (wd % 4)).bind fun f => some (.vfmin (r5 wd 2097152) (r5 wd 65536) (r5 wd 2048) (r3 wd 256) (r3 wd 32) f)
  else if wd / 4 % 8 = 5 then (FF.ofCode? (wd % 4)).bind fun f => some (.vfmax (r5 wd 2097152) (r5 wd 65536) (r5 wd 2048) (r3 wd 256) (r3 wd 32) f)
  else none

/-- Words of major 0x21 (R63). -/
def decode21 (wd : Nat) : Option Instr :=
  if wd / 4 % 8 = 0 then (FF.ofCode? (wd % 4)).bind fun f => some (.vfaddVx (r5 wd 2097152) (r5 wd 65536) (r5 wd 2048) (r3 wd 256) (r3 wd 32) f)
  else if wd / 4 % 8 = 1 then (FF.ofCode? (wd % 4)).bind fun f => some (.vfsubVx (r5 wd 2097152) (r5 wd 65536) (r5 wd 2048) (r3 wd 256) (r3 wd 32) f)
  else if wd / 4 % 8 = 2 then (FF.ofCode? (wd % 4)).bind fun f => some (.vfmulVx (r5 wd 2097152) (r5 wd 65536) (r5 wd 2048) (r3 wd 256) (r3 wd 32) f)
  else if wd / 4 % 8 = 3 then (FF.ofCode? (wd % 4)).bind fun f => some (.vfdivVx (r5 wd 2097152) (r5 wd 65536) (r5 wd 2048) (r3 wd 256) (r3 wd 32) f)
  else if wd / 4 % 8 = 4 then (FF.ofCode? (wd % 4)).bind fun f => some (.vfminVx (r5 wd 2097152) (r5 wd 65536) (r5 wd 2048) (r3 wd 256) (r3 wd 32) f)
  else if wd / 4 % 8 = 5 then (FF.ofCode? (wd % 4)).bind fun f => some (.vfmaxVx (r5 wd 2097152) (r5 wd 65536) (r5 wd 2048) (r3 wd 256) (r3 wd 32) f)
  else none

/-- Words of major 0x22 (R63). -/
def decode22 (wd : Nat) : Option Instr :=
  if wd / 4 % 8 = 0 then (FF.ofCode? (wd % 4)).bind fun f => some (.vfma (r5 wd 2097152) (r5 wd 65536) (r5 wd 2048) (r3 wd 256) (r3 wd 32) f)
  else if wd / 4 % 8 = 1 then (FF.ofCode? (wd % 4)).bind fun f => some (.vfnma (r5 wd 2097152) (r5 wd 65536) (r5 wd 2048) (r3 wd 256) (r3 wd 32) f)
  else if wd / 4 % 8 = 2 then (FF.ofCode? (wd % 4)).bind fun f => some (.vfmaVx (r5 wd 2097152) (r5 wd 65536) (r5 wd 2048) (r3 wd 256) (r3 wd 32) f)
  else if wd / 4 % 8 = 3 then (FF.ofCode? (wd % 4)).bind fun f => some (.vfnmaVx (r5 wd 2097152) (r5 wd 65536) (r5 wd 2048) (r3 wd 256) (r3 wd 32) f)
  else if wd / 4 % 8 = 4 then (r3? wd 2097152).bind fun d => (FF.ofCode? (wd % 4)).bind fun f => some (.vfcmpEq d (r5 wd 65536) (r5 wd 2048) (r3 wd 256) (r3 wd 32) f)
  else if wd / 4 % 8 = 5 then (r3? wd 2097152).bind fun d => (FF.ofCode? (wd % 4)).bind fun f => some (.vfcmpLt d (r5 wd 65536) (r5 wd 2048) (r3 wd 256) (r3 wd 32) f)
  else if wd / 4 % 8 = 6 then (r3? wd 2097152).bind fun d => (FF.ofCode? (wd % 4)).bind fun f => some (.vfcmpLe d (r5 wd 65536) (r5 wd 2048) (r3 wd 256) (r3 wd 32) f)
  else if wd / 4 % 8 = 7 then (r3? wd 2097152).bind fun d => (FF.ofCode? (wd % 4)).bind fun f => some (.vfcmpUn d (r5 wd 65536) (r5 wd 2048) (r3 wd 256) (r3 wd 32) f)
  else none

/-- Words of major 0x23 (R63). -/
def decode23 (wd : Nat) : Option Instr :=
  if wd / 4 % 8 = 0 ∧ wd / 2048 % 32 = 0 then (FF.ofCode? (wd % 4)).bind fun f => some (.vfrece (r5 wd 2097152) (r5 wd 65536) (r3 wd 256) (r3 wd 32) f)
  else if wd / 4 % 8 = 1 ∧ wd / 2048 % 32 = 0 then (FF.ofCode? (wd % 4)).bind fun f => some (.vfrsqe (r5 wd 2097152) (r5 wd 65536) (r3 wd 256) (r3 wd 32) f)
  else if wd / 4 % 8 = 2 ∧ wd / 2048 % 32 = 0 then (FF.ofCode? (wd % 4)).bind fun f => some (.vfexp2 (r5 wd 2097152) (r5 wd 65536) (r3 wd 256) (r3 wd 32) f)
  else if wd / 4 % 8 = 3 ∧ wd / 2048 % 32 = 0 then (FF.ofCode? (wd % 4)).bind fun f => some (.vflog2 (r5 wd 2097152) (r5 wd 65536) (r3 wd 256) (r3 wd 32) f)
  else if wd / 4 % 8 = 4 ∧ wd / 2048 % 32 = 0 then (FF.ofCode? (wd % 4)).bind fun f => some (.vftanh (r5 wd 2097152) (r5 wd 65536) (r3 wd 256) (r3 wd 32) f)
  else if wd / 4 % 8 = 5 ∧ wd / 2048 % 32 = 0 then (FF.ofCode? (wd % 4)).bind fun f => some (.vfsigm (r5 wd 2097152) (r5 wd 65536) (r3 wd 256) (r3 wd 32) f)
  else none

/-- Words of major 0x24 (R63). -/
def decode24 (wd : Nat) : Option Instr :=
  (Elem.ofCode? (wd / 2048 % 32)).bind fun s => (Elem.ofCode? (wd % 32)).bind fun t => some (.vcvt (r5 wd 2097152) (r5 wd 65536) s (r3 wd 256) (r3 wd 32) t)

/-- Words of major 0x25 (R63). -/
def decode25 (wd : Nat) : Option Instr :=
  if wd % 256 = 20 ∧ wd / 65536 % 32 = 0 then (Elem.ofCode? (wd / 2048 % 32)).bind fun t => some (.vrng (r5 wd 2097152) t (r3 wd 256))
  else if wd % 256 = 12 then (Elem.ofCode? (wd / 2048 % 32)).bind fun c => some (.vpack (r5 wd 2097152) (r5 wd 65536) c (r3 wd 256))
  else if wd % 256 = 16 then (Elem.ofCode? (wd / 2048 % 32)).bind fun c => some (.vunpk (r5 wd 2097152) (r5 wd 65536) c (r3 wd 256))
  else if wd % 32 = 4 then (Elem.ofCode? (wd / 2048 % 32)).bind fun s => some (.vbdq (r5 wd 2097152) (r5 wd 65536) s (r3 wd 256) (r3 wd 32))
  else if wd / 2 % 16 = 0 then (Elem.ofCode? (wd / 2048 % 32)).bind fun t => some (.vbq (r5 wd 2097152) (r5 wd 65536) t (r3 wd 256) (r3 wd 32) (wd % 2 == 1))
  else if wd / 4 % 8 = 2 then (FF.ofCode? (wd % 4)).bind fun f => some (.vhad (r5 wd 2097152) (r5 wd 65536) (r5 wd 2048) (wd / 1024 % 2 == 1) (wd / 512 % 2 == 1) (wd / 256 % 2 == 1) (r3 wd 32) f)
  else none

/-- Words of major 0x26 (R63). -/
def decode26 (wd : Nat) : Option Instr :=
  if wd % 256 = 4 ∧ wd / 2048 % 1024 = 0 then some (.vid (r5 wd 2097152) (r3 wd 256))
  else if wd % 65536 = 6 then some (.vmvx (r5 wd 2097152) (r5 wd 65536))
  else if wd % 256 = 1 ∧ wd / 2048 % 32 = 0 then some (.vcompress (r5 wd 2097152) (r5 wd 65536) (r3 wd 256))
  else if wd % 256 = 2 ∧ wd / 2048 % 32 = 0 then some (.vexpand (r5 wd 2097152) (r5 wd 65536) (r3 wd 256))
  else if wd % 256 = 3 ∧ wd / 2048 % 32 = 0 then (r3? wd 65536).bind fun a => some (.viota (r5 wd 2097152) a (r3 wd 256))
  else if wd % 256 = 5 ∧ wd / 2048 % 32 = 0 then some (.vbcast (r5 wd 2097152) (r5 wd 65536) (r3 wd 256))
  else if wd % 2048 = 7 then some (.vrds (r5 wd 2097152) (r5 wd 65536) (r5 wd 2048))
  else if wd % 256 = 0 then some (.vgather (r5 wd 2097152) (r5 wd 65536) (r5 wd 2048) (r3 wd 256))
  else none

/-- Words of major 0x27 (R63). -/
def decode27 (wd : Nat) : Option Instr :=
  if wd % 16 = 2 ∧ wd / 32 % 8 = 0 ∧ wd / 8192 % 8 = 0 then some (.vredmax (r5 wd 2097152) (r5 wd 65536) (IW.ofCode (wd / 2048 % 4)) (r3 wd 256) (wd / 16 % 2 == 1))
  else if wd % 16 = 4 ∧ wd / 32 % 8 = 0 ∧ wd / 8192 % 8 = 0 then some (.vredmin (r5 wd 2097152) (r5 wd 65536) (IW.ofCode (wd / 2048 % 4)) (r3 wd 256) (wd / 16 % 2 == 1))
  else if wd % 16 = 0 ∧ wd / 8192 % 8 = 0 then some (.vredsum (r5 wd 2097152) (r5 wd 65536) (IW.ofCode (wd / 2048 % 4)) (r3 wd 256) (r3 wd 32) (wd / 16 % 2 == 1))
  else if wd % 16 = 6 ∧ wd / 8192 % 8 = 0 then some (.vscan (r5 wd 2097152) (r5 wd 65536) (IW.ofCode (wd / 2048 % 4)) (r3 wd 256) (r3 wd 32) (wd / 16 % 2 == 1))
  else if wd % 16 = 8 ∧ wd / 8192 % 8 = 0 then (FF.ofCode? (wd / 2048 % 4)).bind fun w => some (.vfredsum (r5 wd 2097152) (r5 wd 65536) w (r3 wd 256) (r3 wd 32) (wd / 16 % 2 == 1))
  else if wd % 16 = 10 ∧ wd / 8192 % 8 = 0 then (FF.ofCode? (wd / 2048 % 4)).bind fun w => some (.vfredosum (r5 wd 2097152) (r5 wd 65536) w (r3 wd 256) (r3 wd 32) (wd / 16 % 2 == 1))
  else if wd % 16 = 12 ∧ wd / 8192 % 8 = 0 then (FF.ofCode? (wd / 2048 % 4)).bind fun w => some (.vfredmax (r5 wd 2097152) (r5 wd 65536) w (r3 wd 256) (r3 wd 32) (wd / 16 % 2 == 1))
  else if wd % 16 = 14 ∧ wd / 8192 % 8 = 0 then (FF.ofCode? (wd / 2048 % 4)).bind fun w => some (.vfscan (r5 wd 2097152) (r5 wd 65536) w (r3 wd 256) (r3 wd 32) (wd / 16 % 2 == 1))
  else none

/-- Words of major 0x28 (R63). -/
def decode28 (wd : Nat) : Option Instr :=
  if wd % 65536 = 3 then (r3? wd 2097152).bind fun d => (r3? wd 65536).bind fun a => some (.mnot d a)
  else if wd % 65536 = 4 then (r3? wd 65536).bind fun a => some (.mpopc (r5 wd 2097152) a)
  else if wd % 65536 = 5 then (r3? wd 65536).bind fun a => some (.mfirst (r5 wd 2097152) a)
  else if wd % 2048 = 0 then (r3? wd 2097152).bind fun d => (r3? wd 65536).bind fun a => (r3? wd 2048).bind fun b => some (.mand d a b)
  else if wd % 2048 = 1 then (r3? wd 2097152).bind fun d => (r3? wd 65536).bind fun a => (r3? wd 2048).bind fun b => some (.mor d a b)
  else if wd % 2048 = 2 then (r3? wd 2097152).bind fun d => (r3? wd 65536).bind fun a => (r3? wd 2048).bind fun b => some (.mxor d a b)
  else if wd % 8 = 6 then some (.vslideup (r5 wd 2097152) (r5 wd 65536) (r5 wd 2048) (r3 wd 256) (r5 wd 8))
  else if wd % 8 = 7 then some (.vslidedn (r5 wd 2097152) (r5 wd 65536) (r5 wd 2048) (r3 wd 256) (r5 wd 8))
  else none

/-- Words of major 0x29 (R63). -/
def decode29 (wd : Nat) : Option Instr :=
  if wd % 16 = 1 ∧ wd / 2048 % 32 = 0 then (EW.ofCode? (wd / 16 % 8)).bind fun w => some (.vst (r5 wd 2097152) (r5 wd 65536) (r3 wd 256) (wd / 128 % 2 == 1) w)
  else if wd % 4 = 0 ∧ wd / 2048 % 32 = 0 then (EW.ofCode? (wd / 16 % 8)).bind fun w => some (.vld (r5 wd 2097152) (r5 wd 65536) (r3 wd 256) (wd / 128 % 2 == 1) w (Src.ofCode (wd / 4 % 4)))
  else if wd % 16 = 3 ∧ wd / 128 % 2 = 0 then (EW.ofCode? (wd / 16 % 8)).bind fun w => some (.vsts (r5 wd 2097152) (r5 wd 65536) (r5 wd 2048) (r3 wd 256) w)
  else if wd % 4 = 2 ∧ wd / 128 % 2 = 0 then (EW.ofCode? (wd / 16 % 8)).bind fun w => some (.vlds (r5 wd 2097152) (r5 wd 65536) (r5 wd 2048) (r3 wd 256) w (Src.ofCode (wd / 4 % 4)))
  else none

/-- Words of major 0x2A (R63). -/
def decode2A (wd : Nat) : Option Instr :=
  if wd % 16 = 1 ∧ wd / 128 % 2 = 0 then (EW.ofCode? (wd / 16 % 8)).bind fun w => some (.vstx (r5 wd 2097152) (r5 wd 65536) (r5 wd 2048) (r3 wd 256) w)
  else if wd % 16 = 3 ∧ wd / 128 % 2 = 0 then (EW.ofCode? (wd / 16 % 8)).bind fun w => some (.vstg (r5 wd 2097152) (r5 wd 65536) (r5 wd 2048) (r3 wd 256) w)
  else if wd % 4 = 0 ∧ wd / 128 % 2 = 0 then (EW.ofCode? (wd / 16 % 8)).bind fun w => some (.vldx (r5 wd 2097152) (r5 wd 65536) (r5 wd 2048) (r3 wd 256) w (Src.ofCode (wd / 4 % 4)))
  else if wd % 4 = 2 ∧ wd / 128 % 2 = 0 then (EW.ofCode? (wd / 16 % 8)).bind fun w => some (.vldg (r5 wd 2097152) (r5 wd 65536) (r5 wd 2048) (r3 wd 256) w (Src.ofCode (wd / 4 % 4)))
  else none

/-- Words of major 0x2B (R63). -/
def decode2B (wd : Nat) : Option Instr :=
  if wd % 16 = 0 then (r3? wd 65536).bind fun a => (EW.ofCode? (wd / 16 % 8)).bind fun w => some (.vldt (r5 wd 2097152) a (r5 wd 2048) (r3 wd 256) (wd / 128 % 2 == 1) w)
  else if wd % 16 = 1 then (r3? wd 65536).bind fun a => (EW.ofCode? (wd / 16 % 8)).bind fun w => some (.vstt (r5 wd 2097152) a (r5 wd 2048) (r3 wd 256) (wd / 128 % 2 == 1) w)
  else none

/-- Words of major 0x2C (R63). -/
def decode2C (wd : Nat) : Option Instr :=
  if wd / 2 % 16 = 1 then some (.vamoSwap (r5 wd 2097152) (r5 wd 65536) (r5 wd 2048) (r3 wd 256) (wd / 128 % 2 == 1) (Ordr.ofCode (wd / 32 % 4)) (MW.ofCode (wd % 2)))
  else if wd / 2 % 16 = 3 then some (.vamoAdd (r5 wd 2097152) (r5 wd 65536) (r5 wd 2048) (r3 wd 256) (wd / 128 % 2 == 1) (Ordr.ofCode (wd / 32 % 4)) (MW.ofCode (wd % 2)))
  else if wd / 2 % 16 = 5 then some (.vamoAnd (r5 wd 2097152) (r5 wd 65536) (r5 wd 2048) (r3 wd 256) (wd / 128 % 2 == 1) (Ordr.ofCode (wd / 32 % 4)) (MW.ofCode (wd % 2)))
  else if wd / 2 % 16 = 7 then some (.vamoOr (r5 wd 2097152) (r5 wd 65536) (r5 wd 2048) (r3 wd 256) (wd / 128 % 2 == 1) (Ordr.ofCode (wd / 32 % 4)) (MW.ofCode (wd % 2)))
  else if wd / 2 % 16 = 9 then some (.vamoXor (r5 wd 2097152) (r5 wd 65536) (r5 wd 2048) (r3 wd 256) (wd / 128 % 2 == 1) (Ordr.ofCode (wd / 32 % 4)) (MW.ofCode (wd % 2)))
  else if wd / 2 % 16 = 11 then some (.vamoMin (r5 wd 2097152) (r5 wd 65536) (r5 wd 2048) (r3 wd 256) (wd / 128 % 2 == 1) (Ordr.ofCode (wd / 32 % 4)) (MW.ofCode (wd % 2)))
  else if wd / 2 % 16 = 13 then some (.vamoMax (r5 wd 2097152) (r5 wd 65536) (r5 wd 2048) (r3 wd 256) (wd / 128 % 2 == 1) (Ordr.ofCode (wd / 32 % 4)) (MW.ofCode (wd % 2)))
  else if wd / 2 % 16 = 15 then (VCond.ofCode? (wd / 32 % 8)).bind fun c => some (.vwait (r5 wd 2097152) (r5 wd 65536) (r5 wd 2048) (r3 wd 256) c (MW.ofCode (wd % 2)))
  else none

/-- Words of major 0x2D (R63). -/
def decode2D (wd : Nat) : Option Instr :=
  if wd / 4 % 64 = 0 then some (.vscadd (r5 wd 2097152) (r5 wd 65536) (r5 wd 2048) (r3 wd 256) (SctT.ofCode (wd % 4)))
  else none

/-- Words of major 0x2E (R63). -/
def decode2E (wd : Nat) : Option Instr :=
  if wd % 2097152 = 4 then (r3? wd 2097152).bind fun d => some (.twait d)
  else if wd % 65536 = 1 then (r3? wd 2097152).bind fun d => some (.ttag d (r5 wd 65536))
  else if wd % 65536 = 2 then (r3? wd 65536).bind fun a => some (.tgtag (r5 wd 2097152) a)
  else if wd % 65536 = 3 then (r3? wd 65536).bind fun a => some (.tstat (r5 wd 2097152) a)
  else if wd % 2048 = 0 then (r3? wd 2097152).bind fun d => some (.tdef d (r5 wd 65536) (r5 wd 2048))
  else none

/-- Words of major 0x2F (R63). -/
def decode2F (wd : Nat) : Option Instr :=
  if wd % 65536 = 0 ∧ wd / 2097152 % 32 = 0 then some (.mclaim (r5 wd 65536))
  else if wd % 65536 = 1 ∧ wd / 2097152 % 32 = 0 then some (.mrels (r5 wd 65536))
  else if wd % 128 = 2 ∧ wd / 256 % 256 = 0 then (r4? wd 2097152).bind fun d => (r3? wd 65536).bind fun a => some (.mlds d a (wd / 128 % 2 == 1))
  else none

/-- Words of major 0x30 (R63). -/
def decode30 (wd : Nat) : Option Instr :=
  if wd % 2 = 0 then (r4? wd 2097152).bind fun d => (MMode.ofCode? (wd / 128 % 16)).bind fun m => (AccM.ofCode? (wd / 2 % 4)).bind fun c => some (.mrow d (r5 wd 65536) (r5 wd 2048) m (r4 wd 8) c)
  else none

/-- Words of major 0x31 (R63). -/
def decode31 (wd : Nat) : Option Instr :=
  if wd % 2048 = 3 ∧ wd / 2097152 % 32 = 0 then some (.macz (r5 wd 65536) (r5 wd 2048))
  else if wd % 128 = 2 ∧ wd / 2097152 % 32 = 0 then (RCode.ofCode? (wd / 128 % 16)).bind fun r => some (.macw (r5 wd 65536) (r5 wd 2048) r)
  else if wd % 128 = 1 then (RCode.ofCode? (wd / 128 % 16)).bind fun r => some (.macr (r5 wd 2097152) (r5 wd 65536) (r5 wd 2048) r)
  else if wd % 4 = 0 ∧ wd / 16 % 4 = 0 then (r4? wd 2097152).bind fun d => (r3? wd 65536).bind fun a => (MMode.ofCode? (wd / 128 % 16)).bind fun m => (AccM.ofCode? (wd / 4 % 4)).bind fun c => some (.mtile d a (r5 wd 2048) m (wd / 64 % 2 == 1) c)
  else none

/-- Words of major 0x32 (R63). -/
noncomputable def decode32 (wd : Nat) : Option Instr :=
  if wd % 65536 = 16 then (port? wd 65536).bind fun a => some (.pop (r5 wd 2097152) a)
  else if wd % 65536 = 32 then (r4? wd 2097152).bind fun d => some (.strcfg d (r5 wd 65536))
  else if wd / 8 % 8192 = 0 then (port? wd 2097152).bind fun d => some (.push d (r5 wd 65536) (r3 wd 1))
  else none

/-- Words of major 0x33 (R63). -/
noncomputable def decode33 (wd : Nat) : Option Instr :=
  if wd / 131072 % 512 = 0 then some (.strbar (BitVec.ofNat 17 (wd)))
  else none

/-- Words of major 0x34 (R63). -/
noncomputable def decode34 (wd : Nat) : Option Instr :=
  if wd % 4 = 1 ∧ wd / 8 % 8192 = 0 then some (.cpyx (r5 wd 2097152) (r5 wd 65536) (wd / 4 % 2 == 1))
  else if wd % 4 = 2 ∧ wd / 8 % 8192 = 0 then (r3? wd 2097152).bind fun d => some (.cpyt d (r5 wd 65536) (wd / 4 % 2 == 1))
  else if wd % 4 = 0 ∧ wd / 64 % 1024 = 0 then some (.cpyv (r5 wd 2097152) (r5 wd 65536) (r3 wd 8) (wd / 4 % 2 == 1))
  else none

/-- Words of major 0x36 (R63). -/
noncomputable def decode36 (wd : Nat) : Option Instr :=
  if wd % 65536 = 5 then some (.qlen (r5 wd 2097152) (r5 wd 65536))
  else if wd % 2048 = 0 then some (.qpush (r5 wd 2097152) (r5 wd 65536) (r5 wd 2048))
  else if wd % 2048 = 1 then some (.qpop (r5 wd 2097152) (r5 wd 65536) (r5 wd 2048))
  else if wd % 2048 = 2 then some (.qpushb (r5 wd 2097152) (r5 wd 65536) (r5 wd 2048))
  else if wd % 2048 = 3 then some (.qpopb (r5 wd 2097152) (r5 wd 65536) (r5 wd 2048))
  else if wd % 2048 = 4 then some (.qsteal (r5 wd 2097152) (r5 wd 65536) (r5 wd 2048))
  else none

/-- Words of major 0x37 (R63). -/
noncomputable def decode37 (wd : Nat) : Option Instr :=
  if wd % 2048 = 0 then some (.dispatch (r5 wd 2097152) (r5 wd 65536) (r5 wd 2048))
  else if wd % 2048 = 1 then some (.dret (r5 wd 2097152) (r5 wd 65536) (r5 wd 2048))
  else none

/-- Words of major 0x38 (R63). -/
noncomputable def decode38 (wd : Nat) : Option Instr :=
  if wd % 2097152 = 2 then some (.grpid (r5 wd 2097152))
  else if wd % 65536 = 1 then some (.joinl (r5 wd 2097152) (r5 wd 65536))
  else if wd % 2048 = 3 ∧ wd / 2097152 % 32 = 0 then some (.binit (r5 wd 65536) (r5 wd 2048))
  else if wd % 65536 = 4 then some (.barv (r5 wd 2097152) (r5 wd 65536))
  else if wd % 2048 = 5 ∧ wd / 2097152 % 32 = 0 then some (.bwait (r5 wd 65536) (r5 wd 2048))
  else if wd % 65536 = 6 then some (.barw (r5 wd 2097152) (r5 wd 65536))
  else if wd % 2048 = 0 then some (.forkl (r5 wd 2097152) (r5 wd 65536) (r5 wd 2048))
  else none

/-- Words of major 0x39 (R63). -/
noncomputable def decode39 (wd : Nat) : Option Instr :=
  if wd % 65536 = 3 then some (.skadd (r5 wd 2097152) (r5 wd 65536))
  else if wd % 65536 = 4 then some (.skscl (r5 wd 2097152) (r5 wd 65536))
  else if wd % 2048 = 0 then some (.skinit (r5 wd 2097152) (r5 wd 65536) (r5 wd 2048))
  else if wd % 256 = 1 then some (.skupd (r5 wd 2097152) (r5 wd 65536) (r5 wd 2048) (r3 wd 256))
  else if wd % 256 = 2 then some (.skqry (r5 wd 2097152) (r5 wd 65536) (r5 wd 2048) (r3 wd 256))
  else none

/-- Words of major 0x3A (R63). -/
noncomputable def decode3A (wd : Nat) : Option Instr :=
  if wd % 65536 = 0 ∧ wd / 2097152 % 32 = 0 then some (.setls (r5 wd 65536))
  else if wd % 65536 = 1 ∧ wd / 2097152 % 32 = 0 then some (.rngck (r5 wd 65536))
  else if wd % 65536 = 2 ∧ wd / 2097152 % 32 = 0 then some (.rngrs (r5 wd 65536))
  else none

/-- Words of major 0x3B (R63). -/
noncomputable def decode3B (wd : Nat) : Option Instr :=
  if wd % 65536 = 0 then some (.ctxhalt (r5 wd 2097152) (r5 wd 65536))
  else if wd % 2048 = 1 then some (.scrubCluster (r5 wd 2097152) (r5 wd 65536) (r5 wd 2048))
  else if wd % 2048 = 2 then some (.auditAppend (r5 wd 2097152) (r5 wd 65536) (r5 wd 2048))
  else if wd % 2048 = 3 then some (.waysetSet (r5 wd 2097152) (r5 wd 65536) (r5 wd 2048))
  else if wd % 2048 = 4 then some (.setroot (r5 wd 2097152) (r5 wd 65536) (r5 wd 2048))
  else none

/-- Words of major 0x3E (R63). -/
noncomputable def decode3E (wd : Nat) : Option Instr :=
  some (.pfx (BitVec.ofNat 26 (wd)))

/-- Words of major 0x3F (R63). -/
noncomputable def decode3F (wd : Nat) : Option Instr :=
  some (.clh (BitVec.ofNat 26 (wd)))

/-- The form a word spells, before the rules of Instr.wf. -/
noncomputable def decodeForm (w : Nat) : Option Instr :=
  match w / 67108864 with
  | 1 => decode01 w
  | 2 => decode02 w
  | 3 => decode03 w
  | 4 => decode04 w
  | 5 => decode05 w
  | 6 => decode06 w
  | 7 => decode07 w
  | 8 => decode08 w
  | 9 => decode09 w
  | 10 => decode0A w
  | 11 => decode0B w
  | 12 => decode0C w
  | 13 => decode0D w
  | 14 => decode0E w
  | 16 => decode10 w
  | 17 => decode11 w
  | 18 => decode12 w
  | 19 => decode13 w
  | 20 => decode14 w
  | 21 => decode15 w
  | 23 => decode17 w
  | 24 => decode18 w
  | 25 => decode19 w
  | 26 => decode1A w
  | 27 => decode1B w
  | 28 => decode1C w
  | 29 => decode1D w
  | 30 => decode1E w
  | 31 => decode1F w
  | 32 => decode20 w
  | 33 => decode21 w
  | 34 => decode22 w
  | 35 => decode23 w
  | 36 => decode24 w
  | 37 => decode25 w
  | 38 => decode26 w
  | 39 => decode27 w
  | 40 => decode28 w
  | 41 => decode29 w
  | 42 => decode2A w
  | 43 => decode2B w
  | 44 => decode2C w
  | 45 => decode2D w
  | 46 => decode2E w
  | 47 => decode2F w
  | 48 => decode30 w
  | 49 => decode31 w
  | 50 => decode32 w
  | 51 => decode33 w
  | 52 => decode34 w
  | 54 => decode36 w
  | 55 => decode37 w
  | 56 => decode38 w
  | 57 => decode39 w
  | 58 => decode3A w
  | 59 => decode3B w
  | 62 => decode3E w
  | 63 => decode3F w
  | _ => none

/-- The instruction a 32-bit word stands for, or why it is a reserved encoding (R65). -/
noncomputable def decode (w : Nat) : Except Reject Instr :=
  match decodeForm w with
  | none => .error .noForm
  | some i => if i.wf then .ok i else .error .illFormed

/-- The word at the head of a byte list, least significant byte first (R4), and the rest. -/
def takeWord : List Byte → Option (Nat × List Byte)
  | b0 :: b1 :: b2 :: b3 :: rest =>
      some (b0.toNat + 256 * b1.toNat + 65536 * b2.toNat + 16777216 * b3.toNat, rest)
  | _ => none

/-- The four bytes of a word, least significant first. -/
def wordBytes (w : Nat) : List Byte :=
  [BitVec.ofNat 8 w, BitVec.ofNat 8 (w / 256), BitVec.ofNat 8 (w / 65536), BitVec.ofNat 8 (w / 16777216)]

/-- Decoding of bytes: the instruction at their head and the bytes after it. -/
noncomputable def decodeBytes (bs : List Byte) : Except Reject (Instr × List Byte) :=
  match takeWord bs with
  | none => .error .short
  | some (w, rest) =>
    match decode w with
    | .ok i => .ok (i, rest)
    | .error e => .error e

/-- The instruction the decoder reads from a word numbered as the opcode table numbers it: every instruction is one
32-bit word, stored least significant byte first. -/
noncomputable def decodeTableWord (nbits w : Nat) : Option Instr :=
  match decodeBytes (wordBytes (w % 2 ^ nbits)) with
  | .ok (i, _) => some i
  | .error _ => none

/-- The word of an instruction; none for a step that has no word (R60 to R63). -/
def encode : Instr → Option Nat
  | .add d a b => some (67108864 + d.val * 2097152 + a.val * 65536 + b.val * 2048)
  | .sub d a b => some (67108865 + d.val * 2097152 + a.val * 65536 + b.val * 2048)
  | .and d a b => some (67108866 + d.val * 2097152 + a.val * 65536 + b.val * 2048)
  | .or d a b => some (67108867 + d.val * 2097152 + a.val * 65536 + b.val * 2048)
  | .xor d a b => some (67108868 + d.val * 2097152 + a.val * 65536 + b.val * 2048)
  | .sll d a b => some (67108869 + d.val * 2097152 + a.val * 65536 + b.val * 2048)
  | .srl d a b => some (67108870 + d.val * 2097152 + a.val * 65536 + b.val * 2048)
  | .sra d a b => some (67108871 + d.val * 2097152 + a.val * 65536 + b.val * 2048)
  | .slt d a b => some (67108872 + d.val * 2097152 + a.val * 65536 + b.val * 2048)
  | .sltn d a b => some (67108873 + d.val * 2097152 + a.val * 65536 + b.val * 2048)
  | .min d a b => some (67108874 + d.val * 2097152 + a.val * 65536 + b.val * 2048)
  | .max d a b => some (67108875 + d.val * 2097152 + a.val * 65536 + b.val * 2048)
  | .minn d a b => some (67108876 + d.val * 2097152 + a.val * 65536 + b.val * 2048)
  | .maxn d a b => some (67108877 + d.val * 2097152 + a.val * 65536 + b.val * 2048)
  | .clz d a => some (67108878 + d.val * 2097152 + a.val * 65536)
  | .ctz d a => some (67108879 + d.val * 2097152 + a.val * 65536)
  | .popc d a => some (67108880 + d.val * 2097152 + a.val * 65536)
  | .mul d a b => some (134217728 + d.val * 2097152 + a.val * 65536 + b.val * 2048)
  | .mulh d a b => some (134217729 + d.val * 2097152 + a.val * 65536 + b.val * 2048)
  | .mulhn d a b => some (134217730 + d.val * 2097152 + a.val * 65536 + b.val * 2048)
  | .div d a b => some (134217731 + d.val * 2097152 + a.val * 65536 + b.val * 2048)
  | .divn d a b => some (134217732 + d.val * 2097152 + a.val * 65536 + b.val * 2048)
  | .rem d a b => some (134217733 + d.val * 2097152 + a.val * 65536 + b.val * 2048)
  | .remn d a b => some (134217734 + d.val * 2097152 + a.val * 65536 + b.val * 2048)
  | .sel d a b c => some (201326592 + d.val * 2097152 + a.val * 65536 + b.val * 2048 + c.val * 64)
  | .addImm d a i => some (268435456 + d.val * 2097152 + a.val * 65536 + i.toNat)
  | .andImm d a i => some (335544320 + d.val * 2097152 + a.val * 65536 + i.toNat)
  | .orImm d a i => some (335552512 + d.val * 2097152 + a.val * 65536 + i.toNat)
  | .xorImm d a i => some (335560704 + d.val * 2097152 + a.val * 65536 + i.toNat)
  | .sltImm d a i => some (335568896 + d.val * 2097152 + a.val * 65536 + i.toNat)
  | .sltnImm d a i => some (335577088 + d.val * 2097152 + a.val * 65536 + i.toNat)
  | .sllImm d a i => some (402653184 + d.val * 2097152 + a.val * 65536 + i.toNat)
  | .srlImm d a i => some (402657280 + d.val * 2097152 + a.val * 65536 + i.toNat)
  | .sraImm d a i => some (402661376 + d.val * 2097152 + a.val * 65536 + i.toNat)
  | .minImm d a i => some (402665472 + d.val * 2097152 + a.val * 65536 + i.toNat)
  | .maxImm d a i => some (402669568 + d.val * 2097152 + a.val * 65536 + i.toNat)
  | .minnImm d a i => some (402673664 + d.val * 2097152 + a.val * 65536 + i.toNat)
  | .maxnImm d a i => some (402677760 + d.val * 2097152 + a.val * 65536 + i.toNat)
  | .lih d i => some (469762048 + d.val * 2097152 + i.toNat)
  | .ld d a w i => some (536870912 + d.val * 2097152 + a.val * 65536 + w.code * 16384 + i.toNat)
  | .ldn d a w i => some (603979776 + d.val * 2097152 + a.val * 65536 + w.code * 16384 + i.toNat)
  | .st d a w i => some (671088640 + d.val * 2097152 + a.val * 65536 + w.code * 16384 + i.toNat)
  | .amoSwap d a b r w => some (738197536 + d.val * 2097152 + a.val * 65536 + b.val * 2048 + r.code * 64 + w.code * 16)
  | .amoAdd d a b r w => some (738197537 + d.val * 2097152 + a.val * 65536 + b.val * 2048 + r.code * 64 + w.code * 16)
  | .amoAnd d a b r w => some (738197538 + d.val * 2097152 + a.val * 65536 + b.val * 2048 + r.code * 64 + w.code * 16)
  | .amoOr d a b r w => some (738197539 + d.val * 2097152 + a.val * 65536 + b.val * 2048 + r.code * 64 + w.code * 16)
  | .amoXor d a b r w => some (738197540 + d.val * 2097152 + a.val * 65536 + b.val * 2048 + r.code * 64 + w.code * 16)
  | .amoMin d a b r w => some (738197541 + d.val * 2097152 + a.val * 65536 + b.val * 2048 + r.code * 64 + w.code * 16)
  | .amoMax d a b r w => some (738197542 + d.val * 2097152 + a.val * 65536 + b.val * 2048 + r.code * 64 + w.code * 16)
  | .cas d a b r w => some (738197543 + d.val * 2097152 + a.val * 65536 + b.val * 2048 + r.code * 64 + w.code * 16)
  | .beq d a i => some (805306368 + d.val * 2097152 + a.val * 65536 + i.toNat)
  | .bne d a i => some (805314560 + d.val * 2097152 + a.val * 65536 + i.toNat)
  | .blt d a i => some (805322752 + d.val * 2097152 + a.val * 65536 + i.toNat)
  | .bge d a i => some (805330944 + d.val * 2097152 + a.val * 65536 + i.toNat)
  | .bltn d a i => some (805339136 + d.val * 2097152 + a.val * 65536 + i.toNat)
  | .bgen d a i => some (805347328 + d.val * 2097152 + a.val * 65536 + i.toNat)
  | .jal d i => some (872415232 + d.val * 2097152 + i.toNat)
  | .jalr d a i => some (939524096 + d.val * 2097152 + a.val * 65536 + i.toNat)
  | .fadd d a b => some (1073741824 + d.val * 2097152 + a.val * 65536 + b.val * 2048)
  | .fsub d a b => some (1073741825 + d.val * 2097152 + a.val * 65536 + b.val * 2048)
  | .fmul d a b => some (1073741826 + d.val * 2097152 + a.val * 65536 + b.val * 2048)
  | .fdiv d a b => some (1073741827 + d.val * 2097152 + a.val * 65536 + b.val * 2048)
  | .fsqrt d a => some (1073741828 + d.val * 2097152 + a.val * 65536)
  | .fmin d a b => some (1073741829 + d.val * 2097152 + a.val * 65536 + b.val * 2048)
  | .fmax d a b => some (1073741830 + d.val * 2097152 + a.val * 65536 + b.val * 2048)
  | .fclass d a => some (1073741831 + d.val * 2097152 + a.val * 65536)
  | .fcmpEq d a b => some (1073741832 + d.val * 2097152 + a.val * 65536 + b.val * 2048)
  | .fcmpLt d a b => some (1073741833 + d.val * 2097152 + a.val * 65536 + b.val * 2048)
  | .fcmpLe d a b => some (1073741834 + d.val * 2097152 + a.val * 65536 + b.val * 2048)
  | .fma d a b c => some (1140850688 + d.val * 2097152 + a.val * 65536 + b.val * 2048 + c.val * 64)
  | .fcvt d a s t => some (1207959552 + d.val * 2097152 + a.val * 65536 + s.code * 8 + t.code)
  | .csrr d n => some (1275068416 + d.val * 2097152 + n.code)
  | .csrw a n => some (1275072512 + a.val * 65536 + n.code)
  | .csrs a n => some (1275076608 + a.val * 65536 + n.code)
  | .csrc a n => some (1275080704 + a.val * 65536 + n.code)
  | .vstartWrite a => some (1275072514 + a.val * 65536)
  | .xflagsWrite a => some (1275072544 + a.val * 65536)
  | .wid d n => some (1342177280 + d.val * 2097152 + n.toNat)
  | .syscChipNumber d => some (1342308352 + d.val * 2097152)
  | .syscSend d => some (1342308353 + d.val * 2097152)
  | .syscMembership d => some (1342308354 + d.val * 2097152)
  | .trap i => some (1342439424 + i.toNat)
  | .rett => some (1342570496)
  | .yield => some (1342701568)
  | .exit => some (1342832640)
  | .fence s k => some (1409286144 + s.code * 512 + k.toNat * 2)
  | .probe d a k => some (1409290240 + d.val * 2097152 + a.val * 65536 + k.code)
  | .vfence => some (1409294336)
  | .setvl d a g w => some (1543503872 + d.val * 2097152 + a.val * 65536 + g.code * 8 + w.code)
  | .setvlf d a b g w => some (1543503904 + d.val * 2097152 + a.val * 65536 + b.val * 2048 + g.code * 8 + w.code)
  | .setshape d a b => some (1543503936 + d.val * 2097152 + a.val * 65536 + b.val * 2048)
  | .vadd d a b m w => some (1610612736 + d.val * 2097152 + a.val * 65536 + b.val * 2048 + m.val * 256 + w.code)
  | .vsub d a b m w => some (1610612740 + d.val * 2097152 + a.val * 65536 + b.val * 2048 + m.val * 256 + w.code)
  | .vrsub d a b m w => some (1610612744 + d.val * 2097152 + a.val * 65536 + b.val * 2048 + m.val * 256 + w.code)
  | .vmul d a b m w => some (1610612748 + d.val * 2097152 + a.val * 65536 + b.val * 2048 + m.val * 256 + w.code)
  | .vmulh d a b m w => some (1610612752 + d.val * 2097152 + a.val * 65536 + b.val * 2048 + m.val * 256 + w.code)
  | .vmacc d a b m x w => some (1610612756 + d.val * 2097152 + a.val * 65536 + b.val * 2048 + m.val * 256 + x.val * 32 + w.code)
  | .vwmacc d a b m w => some (1610612760 + d.val * 2097152 + a.val * 65536 + b.val * 2048 + m.val * 256 + w.code)
  | .vmerge d a b m w => some (1610612764 + d.val * 2097152 + a.val * 65536 + b.val * 2048 + m.val * 256 + w.code)
  | .vand d a b m w => some (1677721600 + d.val * 2097152 + a.val * 65536 + b.val * 2048 + m.val * 256 + w.code)
  | .vor d a b m w => some (1677721604 + d.val * 2097152 + a.val * 65536 + b.val * 2048 + m.val * 256 + w.code)
  | .vxor d a b m w => some (1677721608 + d.val * 2097152 + a.val * 65536 + b.val * 2048 + m.val * 256 + w.code)
  | .vsll d a b m w => some (1677721612 + d.val * 2097152 + a.val * 65536 + b.val * 2048 + m.val * 256 + w.code)
  | .vsrl d a b m w => some (1677721616 + d.val * 2097152 + a.val * 65536 + b.val * 2048 + m.val * 256 + w.code)
  | .vsra d a b m w => some (1677721620 + d.val * 2097152 + a.val * 65536 + b.val * 2048 + m.val * 256 + w.code)
  | .vnsra d a b m x w => some (1677721624 + d.val * 2097152 + a.val * 65536 + b.val * 2048 + m.val * 256 + x.val * 32 + w.code)
  | .vmin d a b m w => some (1744830464 + d.val * 2097152 + a.val * 65536 + b.val * 2048 + m.val * 256 + w.code)
  | .vmax d a b m w => some (1744830468 + d.val * 2097152 + a.val * 65536 + b.val * 2048 + m.val * 256 + w.code)
  | .vminn d a b m w => some (1744830472 + d.val * 2097152 + a.val * 65536 + b.val * 2048 + m.val * 256 + w.code)
  | .vmaxn d a b m w => some (1744830476 + d.val * 2097152 + a.val * 65536 + b.val * 2048 + m.val * 256 + w.code)
  | .vsadd d a b m x w => some (1744830480 + d.val * 2097152 + a.val * 65536 + b.val * 2048 + m.val * 256 + x.val * 32 + w.code)
  | .vssub d a b m x w => some (1744830484 + d.val * 2097152 + a.val * 65536 + b.val * 2048 + m.val * 256 + x.val * 32 + w.code)
  | .vdiv d a b m x w => some (1744830488 + d.val * 2097152 + a.val * 65536 + b.val * 2048 + m.val * 256 + x.val * 32 + w.code)
  | .vrem d a b m x w => some (1744830492 + d.val * 2097152 + a.val * 65536 + b.val * 2048 + m.val * 256 + x.val * 32 + w.code)
  | .vcmpEq d a b m w => some (1811939328 + d.val * 2097152 + a.val * 65536 + b.val * 2048 + m.val * 256 + w.code)
  | .vcmpNe d a b m w => some (1811939332 + d.val * 2097152 + a.val * 65536 + b.val * 2048 + m.val * 256 + w.code)
  | .vcmpLt d a b m w => some (1811939336 + d.val * 2097152 + a.val * 65536 + b.val * 2048 + m.val * 256 + w.code)
  | .vcmpLe d a b m w => some (1811939340 + d.val * 2097152 + a.val * 65536 + b.val * 2048 + m.val * 256 + w.code)
  | .vcmpLtn d a b m w => some (1811939344 + d.val * 2097152 + a.val * 65536 + b.val * 2048 + m.val * 256 + w.code)
  | .vcmpLen d a b m w => some (1811939348 + d.val * 2097152 + a.val * 65536 + b.val * 2048 + m.val * 256 + w.code)
  | .vaddVx d a b m w => some (1879048192 + d.val * 2097152 + a.val * 65536 + b.val * 2048 + m.val * 256 + w.code)
  | .vsubVx d a b m w => some (1879048196 + d.val * 2097152 + a.val * 65536 + b.val * 2048 + m.val * 256 + w.code)
  | .vrsubVx d a b m w => some (1879048200 + d.val * 2097152 + a.val * 65536 + b.val * 2048 + m.val * 256 + w.code)
  | .vmulVx d a b m w => some (1879048204 + d.val * 2097152 + a.val * 65536 + b.val * 2048 + m.val * 256 + w.code)
  | .vmulhVx d a b m w => some (1879048208 + d.val * 2097152 + a.val * 65536 + b.val * 2048 + m.val * 256 + w.code)
  | .vmaccVx d a b m x w => some (1879048212 + d.val * 2097152 + a.val * 65536 + b.val * 2048 + m.val * 256 + x.val * 32 + w.code)
  | .vwmaccVx d a b m w => some (1879048216 + d.val * 2097152 + a.val * 65536 + b.val * 2048 + m.val * 256 + w.code)
  | .vmergeVx d a b m w => some (1879048220 + d.val * 2097152 + a.val * 65536 + b.val * 2048 + m.val * 256 + w.code)
  | .vandVx d a b m w => some (1946157056 + d.val * 2097152 + a.val * 65536 + b.val * 2048 + m.val * 256 + w.code)
  | .vorVx d a b m w => some (1946157060 + d.val * 2097152 + a.val * 65536 + b.val * 2048 + m.val * 256 + w.code)
  | .vxorVx d a b m w => some (1946157064 + d.val * 2097152 + a.val * 65536 + b.val * 2048 + m.val * 256 + w.code)
  | .vsllVx d a b m w => some (1946157068 + d.val * 2097152 + a.val * 65536 + b.val * 2048 + m.val * 256 + w.code)
  | .vsrlVx d a b m w => some (1946157072 + d.val * 2097152 + a.val * 65536 + b.val * 2048 + m.val * 256 + w.code)
  | .vsraVx d a b m w => some (1946157076 + d.val * 2097152 + a.val * 65536 + b.val * 2048 + m.val * 256 + w.code)
  | .vnsraVx d a b m x w => some (1946157080 + d.val * 2097152 + a.val * 65536 + b.val * 2048 + m.val * 256 + x.val * 32 + w.code)
  | .vminVx d a b m w => some (2013265920 + d.val * 2097152 + a.val * 65536 + b.val * 2048 + m.val * 256 + w.code)
  | .vmaxVx d a b m w => some (2013265924 + d.val * 2097152 + a.val * 65536 + b.val * 2048 + m.val * 256 + w.code)
  | .vminnVx d a b m w => some (2013265928 + d.val * 2097152 + a.val * 65536 + b.val * 2048 + m.val * 256 + w.code)
  | .vmaxnVx d a b m w => some (2013265932 + d.val * 2097152 + a.val * 65536 + b.val * 2048 + m.val * 256 + w.code)
  | .vsaddVx d a b m x w => some (2013265936 + d.val * 2097152 + a.val * 65536 + b.val * 2048 + m.val * 256 + x.val * 32 + w.code)
  | .vssubVx d a b m x w => some (2013265940 + d.val * 2097152 + a.val * 65536 + b.val * 2048 + m.val * 256 + x.val * 32 + w.code)
  | .vdivVx d a b m x w => some (2013265944 + d.val * 2097152 + a.val * 65536 + b.val * 2048 + m.val * 256 + x.val * 32 + w.code)
  | .vremVx d a b m x w => some (2013265948 + d.val * 2097152 + a.val * 65536 + b.val * 2048 + m.val * 256 + x.val * 32 + w.code)
  | .vcmpEqVx d a b m w => some (2080374784 + d.val * 2097152 + a.val * 65536 + b.val * 2048 + m.val * 256 + w.code)
  | .vcmpNeVx d a b m w => some (2080374788 + d.val * 2097152 + a.val * 65536 + b.val * 2048 + m.val * 256 + w.code)
  | .vcmpLtVx d a b m w => some (2080374792 + d.val * 2097152 + a.val * 65536 + b.val * 2048 + m.val * 256 + w.code)
  | .vcmpLeVx d a b m w => some (2080374796 + d.val * 2097152 + a.val * 65536 + b.val * 2048 + m.val * 256 + w.code)
  | .vcmpLtnVx d a b m w => some (2080374800 + d.val * 2097152 + a.val * 65536 + b.val * 2048 + m.val * 256 + w.code)
  | .vcmpLenVx d a b m w => some (2080374804 + d.val * 2097152 + a.val * 65536 + b.val * 2048 + m.val * 256 + w.code)
  | .vfadd d a b m x f => some (2147483648 + d.val * 2097152 + a.val * 65536 + b.val * 2048 + m.val * 256 + x.val * 32 + f.code)
  | .vfsub d a b m x f => some (2147483652 + d.val * 2097152 + a.val * 65536 + b.val * 2048 + m.val * 256 + x.val * 32 + f.code)
  | .vfmul d a b m x f => some (2147483656 + d.val * 2097152 + a.val * 65536 + b.val * 2048 + m.val * 256 + x.val * 32 + f.code)
  | .vfdiv d a b m x f => some (2147483660 + d.val * 2097152 + a.val * 65536 + b.val * 2048 + m.val * 256 + x.val * 32 + f.code)
  | .vfmin d a b m x f => some (2147483664 + d.val * 2097152 + a.val * 65536 + b.val * 2048 + m.val * 256 + x.val * 32 + f.code)
  | .vfmax d a b m x f => some (2147483668 + d.val * 2097152 + a.val * 65536 + b.val * 2048 + m.val * 256 + x.val * 32 + f.code)
  | .vfsqrt d a m x f => some (2147483672 + d.val * 2097152 + a.val * 65536 + m.val * 256 + x.val * 32 + f.code)
  | .vfclass d a m f => some (2147483676 + d.val * 2097152 + a.val * 65536 + m.val * 256 + f.code)
  | .vfaddVx d a b m x f => some (2214592512 + d.val * 2097152 + a.val * 65536 + b.val * 2048 + m.val * 256 + x.val * 32 + f.code)
  | .vfsubVx d a b m x f => some (2214592516 + d.val * 2097152 + a.val * 65536 + b.val * 2048 + m.val * 256 + x.val * 32 + f.code)
  | .vfmulVx d a b m x f => some (2214592520 + d.val * 2097152 + a.val * 65536 + b.val * 2048 + m.val * 256 + x.val * 32 + f.code)
  | .vfdivVx d a b m x f => some (2214592524 + d.val * 2097152 + a.val * 65536 + b.val * 2048 + m.val * 256 + x.val * 32 + f.code)
  | .vfminVx d a b m x f => some (2214592528 + d.val * 2097152 + a.val * 65536 + b.val * 2048 + m.val * 256 + x.val * 32 + f.code)
  | .vfmaxVx d a b m x f => some (2214592532 + d.val * 2097152 + a.val * 65536 + b.val * 2048 + m.val * 256 + x.val * 32 + f.code)
  | .vfma d a b m x f => some (2281701376 + d.val * 2097152 + a.val * 65536 + b.val * 2048 + m.val * 256 + x.val * 32 + f.code)
  | .vfnma d a b m x f => some (2281701380 + d.val * 2097152 + a.val * 65536 + b.val * 2048 + m.val * 256 + x.val * 32 + f.code)
  | .vfmaVx d a b m x f => some (2281701384 + d.val * 2097152 + a.val * 65536 + b.val * 2048 + m.val * 256 + x.val * 32 + f.code)
  | .vfnmaVx d a b m x f => some (2281701388 + d.val * 2097152 + a.val * 65536 + b.val * 2048 + m.val * 256 + x.val * 32 + f.code)
  | .vfcmpEq d a b m x f => some (2281701392 + d.val * 2097152 + a.val * 65536 + b.val * 2048 + m.val * 256 + x.val * 32 + f.code)
  | .vfcmpLt d a b m x f => some (2281701396 + d.val * 2097152 + a.val * 65536 + b.val * 2048 + m.val * 256 + x.val * 32 + f.code)
  | .vfcmpLe d a b m x f => some (2281701400 + d.val * 2097152 + a.val * 65536 + b.val * 2048 + m.val * 256 + x.val * 32 + f.code)
  | .vfcmpUn d a b m x f => some (2281701404 + d.val * 2097152 + a.val * 65536 + b.val * 2048 + m.val * 256 + x.val * 32 + f.code)
  | .vfrece d a m x f => some (2348810240 + d.val * 2097152 + a.val * 65536 + m.val * 256 + x.val * 32 + f.code)
  | .vfrsqe d a m x f => some (2348810244 + d.val * 2097152 + a.val * 65536 + m.val * 256 + x.val * 32 + f.code)
  | .vfexp2 d a m x f => some (2348810248 + d.val * 2097152 + a.val * 65536 + m.val * 256 + x.val * 32 + f.code)
  | .vflog2 d a m x f => some (2348810252 + d.val * 2097152 + a.val * 65536 + m.val * 256 + x.val * 32 + f.code)
  | .vftanh d a m x f => some (2348810256 + d.val * 2097152 + a.val * 65536 + m.val * 256 + x.val * 32 + f.code)
  | .vfsigm d a m x f => some (2348810260 + d.val * 2097152 + a.val * 65536 + m.val * 256 + x.val * 32 + f.code)
  | .vcvt d a s m x t => some (2415919104 + d.val * 2097152 + a.val * 65536 + s.code * 2048 + m.val * 256 + x.val * 32 + t.code)
  | .vbq d a t q x c => some (2483027968 + d.val * 2097152 + a.val * 65536 + t.code * 2048 + q.val * 256 + x.val * 32 + (bitN c))
  | .vbdq d a s q x => some (2483027972 + d.val * 2097152 + a.val * 65536 + s.code * 2048 + q.val * 256 + x.val * 32)
  | .vhad d a k y z h x f => some (2483027976 + d.val * 2097152 + a.val * 65536 + k.val * 2048 + (bitN y) * 1024 + (bitN z) * 512 + (bitN h) * 256 + x.val * 32 + f.code)
  | .vpack d a c m => some (2483027980 + d.val * 2097152 + a.val * 65536 + c.code * 2048 + m.val * 256)
  | .vunpk d a c m => some (2483027984 + d.val * 2097152 + a.val * 65536 + c.code * 2048 + m.val * 256)
  | .vrng d t m => some (2483027988 + d.val * 2097152 + t.code * 2048 + m.val * 256)
  | .vgather d a b m => some (2550136832 + d.val * 2097152 + a.val * 65536 + b.val * 2048 + m.val * 256)
  | .vcompress d a m => some (2550136833 + d.val * 2097152 + a.val * 65536 + m.val * 256)
  | .vexpand d a m => some (2550136834 + d.val * 2097152 + a.val * 65536 + m.val * 256)
  | .viota d a m => some (2550136835 + d.val * 2097152 + a.val * 65536 + m.val * 256)
  | .vid d m => some (2550136836 + d.val * 2097152 + m.val * 256)
  | .vbcast d a m => some (2550136837 + d.val * 2097152 + a.val * 65536 + m.val * 256)
  | .vmvx d a => some (2550136838 + d.val * 2097152 + a.val * 65536)
  | .vrds d a b => some (2550136839 + d.val * 2097152 + a.val * 65536 + b.val * 2048)
  | .vredsum d a w m x g => some (2617245696 + d.val * 2097152 + a.val * 65536 + w.code * 2048 + m.val * 256 + x.val * 32 + (bitN g) * 16)
  | .vredmax d a w m g => some (2617245698 + d.val * 2097152 + a.val * 65536 + w.code * 2048 + m.val * 256 + (bitN g) * 16)
  | .vredmin d a w m g => some (2617245700 + d.val * 2097152 + a.val * 65536 + w.code * 2048 + m.val * 256 + (bitN g) * 16)
  | .vscan d a w m x g => some (2617245702 + d.val * 2097152 + a.val * 65536 + w.code * 2048 + m.val * 256 + x.val * 32 + (bitN g) * 16)
  | .vfredsum d a w m x g => some (2617245704 + d.val * 2097152 + a.val * 65536 + w.code * 2048 + m.val * 256 + x.val * 32 + (bitN g) * 16)
  | .vfredosum d a w m x g => some (2617245706 + d.val * 2097152 + a.val * 65536 + w.code * 2048 + m.val * 256 + x.val * 32 + (bitN g) * 16)
  | .vfredmax d a w m x g => some (2617245708 + d.val * 2097152 + a.val * 65536 + w.code * 2048 + m.val * 256 + x.val * 32 + (bitN g) * 16)
  | .vfscan d a w m x g => some (2617245710 + d.val * 2097152 + a.val * 65536 + w.code * 2048 + m.val * 256 + x.val * 32 + (bitN g) * 16)
  | .mand d a b => some (2684354560 + d.val * 2097152 + a.val * 65536 + b.val * 2048)
  | .mor d a b => some (2684354561 + d.val * 2097152 + a.val * 65536 + b.val * 2048)
  | .mxor d a b => some (2684354562 + d.val * 2097152 + a.val * 65536 + b.val * 2048)
  | .mnot d a => some (2684354563 + d.val * 2097152 + a.val * 65536)
  | .mpopc d a => some (2684354564 + d.val * 2097152 + a.val * 65536)
  | .mfirst d a => some (2684354565 + d.val * 2097152 + a.val * 65536)
  | .vslideup d a b m c => some (2684354566 + d.val * 2097152 + a.val * 65536 + b.val * 2048 + m.val * 256 + c.val * 8)
  | .vslidedn d a b m c => some (2684354567 + d.val * 2097152 + a.val * 65536 + b.val * 2048 + m.val * 256 + c.val * 8)
  | .vld d a m c w s => some (2751463424 + d.val * 2097152 + a.val * 65536 + m.val * 256 + (bitN c) * 128 + w.code * 16 + s.code * 4)
  | .vst d a m c w => some (2751463425 + d.val * 2097152 + a.val * 65536 + m.val * 256 + (bitN c) * 128 + w.code * 16)
  | .vlds d a b m w s => some (2751463426 + d.val * 2097152 + a.val * 65536 + b.val * 2048 + m.val * 256 + w.code * 16 + s.code * 4)
  | .vsts d a b m w => some (2751463427 + d.val * 2097152 + a.val * 65536 + b.val * 2048 + m.val * 256 + w.code * 16)
  | .vldx d a b m w s => some (2818572288 + d.val * 2097152 + a.val * 65536 + b.val * 2048 + m.val * 256 + w.code * 16 + s.code * 4)
  | .vstx d a b m w => some (2818572289 + d.val * 2097152 + a.val * 65536 + b.val * 2048 + m.val * 256 + w.code * 16)
  | .vldg d a b m w s => some (2818572290 + d.val * 2097152 + a.val * 65536 + b.val * 2048 + m.val * 256 + w.code * 16 + s.code * 4)
  | .vstg d a b m w => some (2818572291 + d.val * 2097152 + a.val * 65536 + b.val * 2048 + m.val * 256 + w.code * 16)
  | .vldt d a b m c w => some (2885681152 + d.val * 2097152 + a.val * 65536 + b.val * 2048 + m.val * 256 + (bitN c) * 128 + w.code * 16)
  | .vstt d a b m c w => some (2885681153 + d.val * 2097152 + a.val * 65536 + b.val * 2048 + m.val * 256 + (bitN c) * 128 + w.code * 16)
  | .vamoSwap d a b m e r w => some (2952790018 + d.val * 2097152 + a.val * 65536 + b.val * 2048 + m.val * 256 + (bitN e) * 128 + r.code * 32 + w.code)
  | .vamoAdd d a b m e r w => some (2952790022 + d.val * 2097152 + a.val * 65536 + b.val * 2048 + m.val * 256 + (bitN e) * 128 + r.code * 32 + w.code)
  | .vamoAnd d a b m e r w => some (2952790026 + d.val * 2097152 + a.val * 65536 + b.val * 2048 + m.val * 256 + (bitN e) * 128 + r.code * 32 + w.code)
  | .vamoOr d a b m e r w => some (2952790030 + d.val * 2097152 + a.val * 65536 + b.val * 2048 + m.val * 256 + (bitN e) * 128 + r.code * 32 + w.code)
  | .vamoXor d a b m e r w => some (2952790034 + d.val * 2097152 + a.val * 65536 + b.val * 2048 + m.val * 256 + (bitN e) * 128 + r.code * 32 + w.code)
  | .vamoMin d a b m e r w => some (2952790038 + d.val * 2097152 + a.val * 65536 + b.val * 2048 + m.val * 256 + (bitN e) * 128 + r.code * 32 + w.code)
  | .vamoMax d a b m e r w => some (2952790042 + d.val * 2097152 + a.val * 65536 + b.val * 2048 + m.val * 256 + (bitN e) * 128 + r.code * 32 + w.code)
  | .vwait d a b m c w => some (2952790046 + d.val * 2097152 + a.val * 65536 + b.val * 2048 + m.val * 256 + c.code * 32 + w.code)
  | .vscadd d a b m t => some (3019898880 + d.val * 2097152 + a.val * 65536 + b.val * 2048 + m.val * 256 + t.code)
  | .tdef d a b => some (3087007744 + d.val * 2097152 + a.val * 65536 + b.val * 2048)
  | .ttag d a => some (3087007745 + d.val * 2097152 + a.val * 65536)
  | .tgtag d a => some (3087007746 + d.val * 2097152 + a.val * 65536)
  | .tstat d a => some (3087007747 + d.val * 2097152 + a.val * 65536)
  | .twait d => some (3087007748 + d.val * 2097152)
  | .mclaim a => some (3154116608 + a.val * 65536)
  | .mrels a => some (3154116609 + a.val * 65536)
  | .mlds d a c => some (3154116610 + d.val * 2097152 + a.val * 65536 + (bitN c) * 128)
  | .mrow d a b m k c => some (3221225472 + d.val * 2097152 + a.val * 65536 + b.val * 2048 + m.code * 128 + k.val * 8 + c.code * 2)
  | .mtile d a b m o c => some (3288334336 + d.val * 2097152 + a.val * 65536 + b.val * 2048 + m.code * 128 + (bitN o) * 64 + c.code * 4)
  | .macr d a b r => some (3288334337 + d.val * 2097152 + a.val * 65536 + b.val * 2048 + r.code * 128)
  | .macw a b r => some (3288334338 + a.val * 65536 + b.val * 2048 + r.code * 128)
  | .macz a b => some (3288334339 + a.val * 65536 + b.val * 2048)
  | .push d a n => some (3355443200 + d.val * 2097152 + a.val * 65536 + n.val)
  | .pop d a => some (3355443216 + d.val * 2097152 + a.val * 65536)
  | .strcfg d a => some (3355443232 + d.val * 2097152 + a.val * 65536)
  | .strbar i => some (3422552064 + i.toNat)
  | .cpyv d a g r => some (3489660928 + d.val * 2097152 + a.val * 65536 + g.val * 8 + (bitN r) * 4)
  | .cpyx d a r => some (3489660929 + d.val * 2097152 + a.val * 65536 + (bitN r) * 4)
  | .cpyt d a r => some (3489660930 + d.val * 2097152 + a.val * 65536 + (bitN r) * 4)
  | .qpush d a b => some (3623878656 + d.val * 2097152 + a.val * 65536 + b.val * 2048)
  | .qpop d a b => some (3623878657 + d.val * 2097152 + a.val * 65536 + b.val * 2048)
  | .qpushb d a b => some (3623878658 + d.val * 2097152 + a.val * 65536 + b.val * 2048)
  | .qpopb d a b => some (3623878659 + d.val * 2097152 + a.val * 65536 + b.val * 2048)
  | .qsteal d a b => some (3623878660 + d.val * 2097152 + a.val * 65536 + b.val * 2048)
  | .qlen d a => some (3623878661 + d.val * 2097152 + a.val * 65536)
  | .dispatch d a b => some (3690987520 + d.val * 2097152 + a.val * 65536 + b.val * 2048)
  | .dret d a b => some (3690987521 + d.val * 2097152 + a.val * 65536 + b.val * 2048)
  | .forkl d a b => some (3758096384 + d.val * 2097152 + a.val * 65536 + b.val * 2048)
  | .joinl d a => some (3758096385 + d.val * 2097152 + a.val * 65536)
  | .grpid d => some (3758096386 + d.val * 2097152)
  | .binit a b => some (3758096387 + a.val * 65536 + b.val * 2048)
  | .barv d a => some (3758096388 + d.val * 2097152 + a.val * 65536)
  | .bwait a b => some (3758096389 + a.val * 65536 + b.val * 2048)
  | .barw d a => some (3758096390 + d.val * 2097152 + a.val * 65536)
  | .skinit d a b => some (3825205248 + d.val * 2097152 + a.val * 65536 + b.val * 2048)
  | .skupd d a b m => some (3825205249 + d.val * 2097152 + a.val * 65536 + b.val * 2048 + m.val * 256)
  | .skqry d a b m => some (3825205250 + d.val * 2097152 + a.val * 65536 + b.val * 2048 + m.val * 256)
  | .skadd d a => some (3825205251 + d.val * 2097152 + a.val * 65536)
  | .skscl d a => some (3825205252 + d.val * 2097152 + a.val * 65536)
  | .setls a => some (3892314112 + a.val * 65536)
  | .rngck a => some (3892314113 + a.val * 65536)
  | .rngrs a => some (3892314114 + a.val * 65536)
  | .ctxhalt d a => some (3959422976 + d.val * 2097152 + a.val * 65536)
  | .scrubCluster d a b => some (3959422977 + d.val * 2097152 + a.val * 65536 + b.val * 2048)
  | .scrubL2 d a b => some (3959422977 + d.val * 2097152 + a.val * 65536 + b.val * 2048)
  | .scrubShadowSlot d a b => some (3959422977 + d.val * 2097152 + a.val * 65536 + b.val * 2048)
  | .auditAppend d a b => some (3959422978 + d.val * 2097152 + a.val * 65536 + b.val * 2048)
  | .auditSeal d a b => some (3959422978 + d.val * 2097152 + a.val * 65536 + b.val * 2048)
  | .auditFree d a b => some (3959422978 + d.val * 2097152 + a.val * 65536 + b.val * 2048)
  | .auditExtend d a b => some (3959422978 + d.val * 2097152 + a.val * 65536 + b.val * 2048)
  | .waysetSet d a b => some (3959422979 + d.val * 2097152 + a.val * 65536 + b.val * 2048)
  | .waysetRead d a b => some (3959422979 + d.val * 2097152 + a.val * 65536 + b.val * 2048)
  | .setroot d a b => some (3959422980 + d.val * 2097152 + a.val * 65536 + b.val * 2048)
  | .invva d a b => some (3959422980 + d.val * 2097152 + a.val * 65536 + b.val * 2048)
  | .invctx d a b => some (3959422980 + d.val * 2097152 + a.val * 65536 + b.val * 2048)
  | .walk d a b => some (3959422980 + d.val * 2097152 + a.val * 65536 + b.val * 2048)
  | .pfx p => some (4160749568 + p.toNat)
  | .clh c => some (4227858432 + c.toNat)
  | .unofferedSyscService d i => some (1342308352 + d.val * 2097152 + i.toNat)
  | _ => none

/-- Rows of the table whose words the decoder gives to another row: it names the first row of a shared word. -/
def Instr.sharesWord : Instr → Bool
  | .scrubL2 _ _ _ => true
  | .scrubShadowSlot _ _ _ => true
  | .auditSeal _ _ _ => true
  | .auditFree _ _ _ => true
  | .auditExtend _ _ _ => true
  | .waysetRead _ _ _ => true
  | .invva _ _ _ => true
  | .invctx _ _ _ => true
  | .walk _ _ _ => true
  | _ => false

/-- What payload a form takes from a governing word of major 0x3E (R63, R66). -/
inductive Pay where
  /-- Takes none (a dash in R63). -/
  | dash
  /-- High bits of the immediate. -/
  | imm
  /-- Scalar rounding; fr tells whether a non-zero FR is allowed. -/
  | scalar (fr : Bool)
  /-- The vector payload; which of FR, XR, STRM and OFF may be non-zero. -/
  | vec (fr xr strm off : Bool)
  deriving DecidableEq, Repr

/-- Whether an element code is a floating format. -/
def Elem.isFloat : Elem → Bool
  | .f32 | .bf16 | .f16 | .e5m2 | .e4m3 | .e3m2 | .e2m3 | .e2m1 => true
  | _ => false

/-- Whether a scalar FP type is a floating format. -/
def SFT.isFloat : SFT → Bool
  | .f32 | .bf16 | .f16 => true
  | _ => false

/-- The payload class of a form (R63), with the fields its family's chapter gives it (R109, R111, R130, R134, R135,
R138, R140, R157, R161, R200, R204). -/
def Instr.pay : Instr → Pay
  | .addImm _ _ _ => .imm
  | .andImm _ _ _ => .imm
  | .orImm _ _ _ => .imm
  | .xorImm _ _ _ => .imm
  | .sltImm _ _ _ => .imm
  | .sltnImm _ _ _ => .imm
  | .minImm _ _ _ => .imm
  | .maxImm _ _ _ => .imm
  | .minnImm _ _ _ => .imm
  | .maxnImm _ _ _ => .imm
  | .ld _ _ _ _ => .imm
  | .ldn _ _ _ _ => .imm
  | .st _ _ _ _ => .imm
  | .amoSwap _ _ _ _ _ => .imm
  | .amoAdd _ _ _ _ _ => .imm
  | .amoAnd _ _ _ _ _ => .imm
  | .amoOr _ _ _ _ _ => .imm
  | .amoXor _ _ _ _ _ => .imm
  | .amoMin _ _ _ _ _ => .imm
  | .amoMax _ _ _ _ _ => .imm
  | .cas _ _ _ _ _ => .imm
  | .beq _ _ _ => .imm
  | .bne _ _ _ => .imm
  | .blt _ _ _ => .imm
  | .bge _ _ _ => .imm
  | .bltn _ _ _ => .imm
  | .bgen _ _ _ => .imm
  | .jal _ _ => .imm
  | .jalr _ _ _ => .imm
  | .fadd _ _ _ => .scalar true
  | .fsub _ _ _ => .scalar true
  | .fmul _ _ _ => .scalar true
  | .fdiv _ _ _ => .scalar true
  | .fsqrt _ _ => .scalar true
  | .fmin _ _ _ => .scalar false
  | .fmax _ _ _ => .scalar false
  | .fclass _ _ => .scalar false
  | .fcmpEq _ _ _ => .scalar false
  | .fcmpLt _ _ _ => .scalar false
  | .fcmpLe _ _ _ => .scalar false
  | .fma _ _ _ _ => .scalar true
  | .fcvt _ _ _ t => .scalar t.isFloat
  | .vadd _ _ _ _ _ => .vec false false false false
  | .vsub _ _ _ _ _ => .vec false false false false
  | .vrsub _ _ _ _ _ => .vec false false false false
  | .vmul _ _ _ _ _ => .vec false false false false
  | .vmulh _ _ _ _ _ => .vec false false false false
  | .vmacc _ _ _ _ _ _ => .vec false false false false
  | .vwmacc _ _ _ _ _ => .vec false false false false
  | .vmerge _ _ _ _ _ => .vec false false false false
  | .vand _ _ _ _ _ => .vec false false false false
  | .vor _ _ _ _ _ => .vec false false false false
  | .vxor _ _ _ _ _ => .vec false false false false
  | .vsll _ _ _ _ _ => .vec false false false false
  | .vsrl _ _ _ _ _ => .vec false false false false
  | .vsra _ _ _ _ _ => .vec false false false false
  | .vnsra _ _ _ _ _ _ => .vec false true false false
  | .vmin _ _ _ _ _ => .vec false false false false
  | .vmax _ _ _ _ _ => .vec false false false false
  | .vminn _ _ _ _ _ => .vec false false false false
  | .vmaxn _ _ _ _ _ => .vec false false false false
  | .vsadd _ _ _ _ _ _ => .vec false false false false
  | .vssub _ _ _ _ _ _ => .vec false false false false
  | .vdiv _ _ _ _ _ _ => .vec false false false false
  | .vrem _ _ _ _ _ _ => .vec false false false false
  | .vcmpEq _ _ _ _ _ => .vec false false false false
  | .vcmpNe _ _ _ _ _ => .vec false false false false
  | .vcmpLt _ _ _ _ _ => .vec false false false false
  | .vcmpLe _ _ _ _ _ => .vec false false false false
  | .vcmpLtn _ _ _ _ _ => .vec false false false false
  | .vcmpLen _ _ _ _ _ => .vec false false false false
  | .vaddVx _ _ _ _ _ => .vec false false false false
  | .vsubVx _ _ _ _ _ => .vec false false false false
  | .vrsubVx _ _ _ _ _ => .vec false false false false
  | .vmulVx _ _ _ _ _ => .vec false false false false
  | .vmulhVx _ _ _ _ _ => .vec false false false false
  | .vmaccVx _ _ _ _ _ _ => .vec false false false false
  | .vwmaccVx _ _ _ _ _ => .vec false false false false
  | .vmergeVx _ _ _ _ _ => .vec false false false false
  | .vandVx _ _ _ _ _ => .vec false false false false
  | .vorVx _ _ _ _ _ => .vec false false false false
  | .vxorVx _ _ _ _ _ => .vec false false false false
  | .vsllVx _ _ _ _ _ => .vec false false false false
  | .vsrlVx _ _ _ _ _ => .vec false false false false
  | .vsraVx _ _ _ _ _ => .vec false false false false
  | .vnsraVx _ _ _ _ _ _ => .vec false true false false
  | .vminVx _ _ _ _ _ => .vec false false false false
  | .vmaxVx _ _ _ _ _ => .vec false false false false
  | .vminnVx _ _ _ _ _ => .vec false false false false
  | .vmaxnVx _ _ _ _ _ => .vec false false false false
  | .vsaddVx _ _ _ _ _ _ => .vec false false false false
  | .vssubVx _ _ _ _ _ _ => .vec false false false false
  | .vdivVx _ _ _ _ _ _ => .vec false false false false
  | .vremVx _ _ _ _ _ _ => .vec false false false false
  | .vcmpEqVx _ _ _ _ _ => .vec false false false false
  | .vcmpNeVx _ _ _ _ _ => .vec false false false false
  | .vcmpLtVx _ _ _ _ _ => .vec false false false false
  | .vcmpLeVx _ _ _ _ _ => .vec false false false false
  | .vcmpLtnVx _ _ _ _ _ => .vec false false false false
  | .vcmpLenVx _ _ _ _ _ => .vec false false false false
  | .vfadd _ _ _ _ _ _ => .vec true false false false
  | .vfsub _ _ _ _ _ _ => .vec true false false false
  | .vfmul _ _ _ _ _ _ => .vec true false false false
  | .vfdiv _ _ _ _ _ _ => .vec true false false false
  | .vfmin _ _ _ _ _ _ => .vec false false false false
  | .vfmax _ _ _ _ _ _ => .vec false false false false
  | .vfsqrt _ _ _ _ _ => .vec true false false false
  | .vfclass _ _ _ _ => .vec false false false false
  | .vfaddVx _ _ _ _ _ _ => .vec true false false false
  | .vfsubVx _ _ _ _ _ _ => .vec true false false false
  | .vfmulVx _ _ _ _ _ _ => .vec true false false false
  | .vfdivVx _ _ _ _ _ _ => .vec true false false false
  | .vfminVx _ _ _ _ _ _ => .vec false false false false
  | .vfmaxVx _ _ _ _ _ _ => .vec false false false false
  | .vfma _ _ _ _ _ _ => .vec true false false false
  | .vfnma _ _ _ _ _ _ => .vec true false false false
  | .vfmaVx _ _ _ _ _ _ => .vec true false false false
  | .vfnmaVx _ _ _ _ _ _ => .vec true false false false
  | .vfcmpEq _ _ _ _ _ _ => .vec false false false false
  | .vfcmpLt _ _ _ _ _ _ => .vec false false false false
  | .vfcmpLe _ _ _ _ _ _ => .vec false false false false
  | .vfcmpUn _ _ _ _ _ _ => .vec false false false false
  | .vfrece _ _ _ _ _ => .vec false false false false
  | .vfrsqe _ _ _ _ _ => .vec false false false false
  | .vfexp2 _ _ _ _ _ => .vec false false false false
  | .vflog2 _ _ _ _ _ => .vec false false false false
  | .vftanh _ _ _ _ _ => .vec false false false false
  | .vfsigm _ _ _ _ _ => .vec false false false false
  | .vcvt _ _ s _ _ t => .vec t.isFloat (s.isFloat && !t.isFloat) false false
  | .vbq _ _ _ _ _ _ => .vec true false false false
  | .vbdq _ _ _ _ _ => .vec true false false false
  | .vhad _ _ _ _ _ _ _ _ => .vec true false false false
  | .vpack _ _ _ _ => .vec false false false false
  | .vunpk _ _ _ _ => .vec false false false false
  | .vrng _ _ _ => .vec false false false false
  | .vredsum _ _ _ _ _ _ => .vec false false false false
  | .vredmax _ _ _ _ _ => .vec false false false false
  | .vredmin _ _ _ _ _ => .vec false false false false
  | .vscan _ _ _ _ _ _ => .vec false false false false
  | .vfredsum _ _ _ _ _ _ => .vec true false false false
  | .vfredosum _ _ _ _ _ _ => .vec true false false false
  | .vfredmax _ _ _ _ _ _ => .vec false false false false
  | .vfscan _ _ _ _ _ _ => .vec true false false false
  | .vld _ _ _ _ _ s => .vec false false (s == .mem) true
  | .vst _ _ _ _ _ => .vec false false false true
  | .vlds _ _ _ _ _ s => .vec false false (s == .mem) false
  | .vsts _ _ _ _ _ => .vec false false false false
  | .vldx _ _ _ _ _ s => .vec false false (s == .mem) false
  | .vstx _ _ _ _ _ => .vec false false false false
  | .vldg _ _ _ _ _ s => .vec false false (s == .mem) true
  | .vstg _ _ _ _ _ => .vec false false false true
  | .vldt _ _ _ _ _ _ => .vec false false false false
  | .vstt _ _ _ _ _ _ => .vec false false false false
  | .vamoSwap _ _ _ _ _ _ _ => .vec false false false false
  | .vamoAdd _ _ _ _ _ _ _ => .vec false false false false
  | .vamoAnd _ _ _ _ _ _ _ => .vec false false false false
  | .vamoOr _ _ _ _ _ _ _ => .vec false false false false
  | .vamoXor _ _ _ _ _ _ _ => .vec false false false false
  | .vamoMin _ _ _ _ _ _ _ => .vec false false false false
  | .vamoMax _ _ _ _ _ _ _ => .vec false false false false
  | .vwait _ _ _ _ _ _ => .vec false false false false
  | .vscadd _ _ _ _ _ => .vec false false false false
  | .mrow _ _ _ _ _ _ => .vec false false false false
  | .mtile _ _ _ _ _ _ => .vec false false false false
  | .macr _ _ _ r => .vec (r != .i8 && r != .i32) (r == .i8 || r == .i32) false false
  | .macw _ _ _ => .vec false false false false
  | .macz _ _ => .vec false false false false
  | _ => .dash

/-- Whether a payload obeys R66 on a form that takes this class. -/
def payOk (k : Pay) (p : Nat) : Bool :=
  match k with
  | .dash => false
  | .imm => true
  | .scalar fr => decide (p < 6) && (fr || p == 0)
  | .vec fr xr strm off =>
    decide (p % 8 < 6) && decide (p / 8 % 8 < 5) && decide (p / 64 % 32 < 17)
      && (fr || p % 8 == 0) && (xr || p / 8 % 8 == 0) && (strm || p / 64 % 32 == 0) && (off || p / 2048 == 0)

end Sys2Proof
end

