-- ==== Sys2Proof/Machine/State.lean ====
section
/-! DEFINITION. The state of the machine: everything the spec gives it, as plain data.
The strand that a step runs is held inline (slot, st); the other strands that exist stand in others, by module slot
number. Memories with an address are one list of cells, keyed by a location number (see Machine/Ops.lean). -/

namespace Sys2Proof.Machine

/-- A clause in progress (R68 to R72): position of the next instruction, N, the counts c1 to c7, and for each earlier
position its number, destination register, fixed latency and that register's value before the write. -/
structure Clause where
  pos : Nat
  len : Nat
  cnt : BitVec 21
  log : List (Nat × SReg × Nat × Word)
  deriving DecidableEq, Repr

/-- The scalar operands of a queue entry, d, a, b and c (R29). -/
structure Opds where
  d : Word
  a : Word
  b : Word
  c : Word
  deriving DecidableEq, Repr

/-- One entry of a vector instruction queue (R29). ord: PUSHes committed before it (R226). instr: what its word decodes
to. done: elements of a VAMO .unord already performed (R174), or of a VWAIT already satisfied (R175); bit 0
tells of a VGATHER that it has been stopped at a boundary (R144). -/
structure Entry where
  seq : BitVec 48
  ord : Nat
  instr : Instr
  word : BitVec 32
  pay : Option (BitVec 26)
  opd : Opds
  grant : Nat
  len : Nat
  vtype : BitVec 5
  frm : BitVec 3
  fxrm : BitVec 3
  xact : BitVec 12
  done : BitVec 2048
  deriving DecidableEq, Repr

/-- The current grant: its identity and length (R33, R122). -/
structure Grant where
  id : Nat
  len : Nat
  vtype : BitVec 5
  deriving DecidableEq, Repr

/-- What gives a waiting register its value: the entry with the read's number, a control register once every older entry
has completed (R31), or the oldest status of a port from 16 to 18 (R211). -/
inductive ReadSrc where
  | entry
  | csr (c : Csr)
  | port (p : Nat)
  deriving DecidableEq, Repr

/-- One place of the synchronising read queue (R31): the register that waits, the sequence number that must be reached and
the source. What the read stands behind is fixed by its place, so it keeps the grant that was current there and the
exception flags as they stand without younger scalar instructions (R31, R33, R110). -/
structure SyncRead where
  reg : SReg
  seq : BitVec 48
  src : ReadSrc
  grant : Grant
  flags : BitVec 6
  deriving DecidableEq, Repr

/-- Control registers that hold strand state (R32, R82, R70, R203, R212, R276, R286, R313). -/
structure Csrs where
  vstart : BitVec 20
  al : BitVec 32
  alrow : BitVec 9
  alcol : BitVec 16
  xflags : BitVec 6
  xact : BitVec 12
  frm : BitVec 3
  fxrm : BitVec 3
  chkstall : Bool
  lscale : BitVec 8
  accbase : BitVec 13
  acclim : BitVec 13
  widf : BitVec 45
  lanew : BitVec 4
  lanea : BitVec 4
  strmap : BitVec 10
  mtab : Word
  deriving DecidableEq, Repr

/-- The trap registers (R41, R72). -/
structure TrapRegs where
  tvec : BitVec 56
  tpc : BitVec 56
  code : Byte
  vec : Bool
  inh : Bool
  tval : Word
  tstat : BitVec 54
  tinst : BitVec 59
  tqa : Word
  tqb : Word
  tqc : Word
  tqd : Word
  deriving DecidableEq, Repr

/-- The vector register state of a strand (R10, R47). m0 is never read from here: it reads as all ones (R37). -/
structure VecFile where
  v : Vector VReg8k 32
  wext : Vector Nat 32
  vc : VReg8k
  vcDirty : Bool
  vcFmt : FF
  m : Vector MaskReg 8
  q : Vector (BitVec 512) 8
  deriving DecidableEq, Repr

/-- The four states of a tile (R181). -/
inductive TileSt where
  | empty | filling | ready | draining
  deriving DecidableEq, Repr

/-- Shape, region and tag of a tile: what a held-back change replaces (R183). -/
structure TileDef where
  base : Word
  rb : Nat
  rows : Nat
  len : Nat
  tag : BitVec 9
  bitmap : BitVec 16384
  deriving DecidableEq, Repr

/-- A tile table entry (R177). -/
structure Tile where
  cur : TileDef
  st : TileSt
  pending : Option TileDef
  deriving DecidableEq, Repr

/-- States of a stream (R214); unbound follows from STRMAP. -/
inductive StreamSt where
  | idle | running | stalled | ended
  deriving DecidableEq, Repr

/-- A stream at one port of a strand (R213 to R215). buf: elements fetched and not passed; fifo: words pushed and not
performed, each with the place of its PUSH in program order: the number of the first queue entry and of the first PUSH that
do not precede it (R210, R226); wfault: the address of a write fault not yet taken up. -/
structure Stream where
  st : StreamSt
  base : Word
  count : Nat
  stride : Word
  width : Nat
  write : Bool
  depth : Nat
  slen : Nat
  cur : Nat
  buf : List (Nat × Word)
  fifo : List (BitVec 48 × Nat × Word)
  wfault : Option Word
  deriving DecidableEq, Repr

/-- A copy that has issued (R219 to R224). seq: its entry's number; done: the elements transferred so far, which is the progress of
its record (R221); status: its status word once it has ended. -/
structure Copy where
  kind : Nat
  out : Bool
  desc : BitVec 1024
  reg : Nat
  regs : Nat
  tile : TileDef
  seq : BitVec 48
  done : Nat
  status : Option Word
  deriving DecidableEq, Repr

/-- A command pushed to p16 (R317). seq, ord: queue entries and PUSHes below them precede it (R210). -/
structure Cmd where
  w0 : Word
  w1 : Word
  w2 : Word
  w3 : Word
  seq : BitVec 48
  ord : Nat
  trans : Nat
  status : Option Word
  deriving DecidableEq, Repr

/-- A command pushed to p17 (R367). num: its index in the push order of its group; sent: its flits have been sent;
chunks: chunks written so far with their contributor bitmaps; satr: SATR of DST for OP 3. -/
structure Coll where
  w0 : Word
  w1 : Word
  w2 : Word
  w3 : Word
  seq : BitVec 48
  ord : Nat
  num : Nat
  sent : Bool
  chunks : List (Nat × BitVec 64)
  satr : BitVec 8
  xf : BitVec 6
  status : Option Word
  deriving DecidableEq, Repr

/-- An Oasis-routed fault that a strand waits on (R335). -/
structure OFault where
  cause : Nat
  va : Word
  vec : Bool
  deriving DecidableEq, Repr

/-- What a strand is doing. -/
inductive SStat where
  /-- No strand stands in the slot. -/
  | absent
  | running
  /-- Waits for the Oasis kernel (R335). -/
  | waiting (f : OFault)
  /-- Stopped in place by CTXHALT (R348). -/
  | halted
  deriving DecidableEq, Repr

/-- Where a strand is parked (R291). BWAIT and BARW keep the barrier and the phase they wait for in the saved state (R296). -/
inductive Park where
  | none | qpop | joinl | bwait (b : Nat) (phase : BitVec 32) | barw (b : Nat) (phase : BitVec 32) | vwait
  | mclaim
  deriving DecidableEq, Repr

/-- A join record (R289): the child's slot, and the value JOINL delivers once it has ended. -/
structure Join where
  slot : Nat
  done : Option Nat
  deriving DecidableEq, Repr

/-- Limits a strand takes from its kernel's descriptor (R178, R193, R288). -/
structure KLimits where
  tiles : Nat
  slots : Nat
  strands : Nat
  deriving DecidableEq, Repr

/-- The place of a FORKL in its parent's program: the parent's slot, and the numbers of the first queue entry and the first
PUSH after it (R288). -/
structure StartAfter where
  slot : Nat
  seq : BitVec 48
  ord : Nat
  deriving DecidableEq, Repr

/-- A strand (R10, R46). startAfter: a forked child starts once its parent's accesses before the FORKL have performed
(R288). allow0: the allowance it started with (R289). pushes: PUSHes committed. late: scalar stores that have been
accepted and not performed, oldest first: their locations and values (R230); lateOn: the environment lets stores wait so.
prog: elements of the head entry that are complete (R144); goal: the element it stops at in this step, 0 for its end. -/
structure Strand where
  stat : SStat
  ctx : BitVec 16
  gkey : Nat
  wid : Word
  lim : KLimits
  parent : Option Nat
  startAfter : Option StartAfter
  allow0 : BitVec 4
  joins : List Join
  park : Park
  pc : BitVec 56
  ir : BitVec 32
  pfx : Option (BitVec 26)
  pfxLive : Bool
  clause : Option Clause
  regs : Vector Word 32
  pend : BitVec 32
  sync : List SyncRead
  queue : List Entry
  nextSeq : BitVec 48
  grant : Grant
  nextGrant : Nat
  trims : List (Nat × Nat)
  csr : Csrs
  trap : TrapRegs
  vec : VecFile
  tiles : Vector Tile 8
  key : Word
  ctr : BitVec 128
  streams : Vector Stream 16
  copies : List Copy
  cmds : List Cmd
  colls : List Coll
  credit : Int
  runAhead : Bool
  pushes : Nat
  late : List (List Nat × Nat)
  lateOn : Bool
  prog : Nat
  goal : Nat
  deriving DecidableEq, Repr

/-- The entry of an operand slot (R192): 128 columns of 96 bytes, with the format, sparsity, selectors, scales and owner.
fill is the model's own: the two 32-element blocks that R197 keeps of a half or quarter bf16 or f16 column are 128 bytes, and
what of them is past the 96 bytes is the free value Config.slotRest of that number (log 54). -/
structure OpSlot where
  cols : Vector (BitVec 768) 128
  fill : Nat
  fmt : Nat
  sp : Nat
  sel : Vector (BitVec 24) 128
  scales : Vector (BitVec 48) 128
  owner : Option Nat
  deriving DecidableEq, Repr

/-- A barrier unit (R292); n = 0 while idle. -/
structure Barrier where
  n : Nat
  arr : Nat
  ph : BitVec 32
  deriving DecidableEq, Repr

/-- A group that has been admitted (R281). saved: its strands while it is pre-empted (R284). -/
structure Group where
  ctx : BitVec 16
  lid : Nat
  num : Nat
  cluster : Nat
  prio : Nat
  live : List Nat
  saved : List (Nat × Strand)
  bars : Vector Barrier 8
  deriving DecidableEq, Repr

/-- A launch (R257, R281): its header, the next group that has never been admitted, groups ended, and the first failure
(cause, slot, TVAL). -/
structure Launch where
  ctx : BitVec 16
  lid : Nat
  obj : Nat
  kix : Nat
  prio : Nat
  lane : Byte
  groups : Nat
  s : Vector Word 15
  next : Nat
  ended : Nat
  failed : Option (Nat × Nat × Word)
  deriving DecidableEq, Repr

/-- A kernel of a finalized object (R246), with resident addresses. pins: pinned line ranges. -/
structure Kernel where
  entry : Word
  tvec : Word
  widf : BitVec 45
  strands : Nat
  slots : Nat
  accrows : Nat
  tiles : Nat
  streams : Nat
  mtab : Word
  pins : List (Nat × Nat)
  deriving DecidableEq, Repr

/-- States of a code object that outlive a request (R248). -/
inductive ObjSt where
  | resident | retiring | unloaded
  deriving DecidableEq, Repr

/-- A code object (R248 to R256): its line address table, dictionaries and compressed text stand in memory of the Oasis
kernel, outside every address space (R255). atts: the contexts it is attached to, or was when it was unloaded (R248). -/
structure Obj where
  handle : Nat
  ctx : BitVec 16
  atts : List (BitVec 16)
  st : ObjSt
  cbase : Nat
  lines : Nat
  dbase : Nat
  datab : Nat
  mpages : Nat
  image : List Byte
  kernels : List Kernel
  latt : List Word
  dicts : List (List (BitVec 32))
  text : List Byte
  deriving DecidableEq, Repr

/-- A record in a queue (R265, R270). -/
structure QRec where
  seq : BitVec 48
  data : BitVec 512
  deriving DecidableEq, Repr

/-- A parked QPOP (R272): its slot, destination and record buffer, and where the buffer lies by the translation it made,
which holds until it completes (R269). -/
structure Parked where
  slot : Nat
  dst : SReg
  buf : Nat
  locs : List Nat
  deriving DecidableEq, Repr

/-- A queue that is not free (R262 to R264). levels: the records of each priority in list order; a deque uses level 0,
bottom first. parked: waiting QPOPs in arrival order (R272). -/
structure Queue where
  ctx : BitVec 16
  va : Nat
  deque : Bool
  capl : Nat
  depb : Nat
  depn : Nat
  cvb : Nat
  cvn : Nat
  cvnext : Nat
  isSealed : Bool
  levels : Vector (List QRec) 8
  parked : List Parked
  drop : Nat
  owner : Option Nat
  nextSeq : BitVec 48
  window : Nat
  deriving DecidableEq, Repr

/-- States of a context that is not free (R342). -/
inductive CtxSt where
  | creating | loading | running | swapped | saved | releasing | released
  deriving DecidableEq, Repr

/-- A demand-filled range (R335). -/
structure DRange where
  va : Nat
  len : Nat
  perm : Nat
  size : Nat
  deriving DecidableEq, Repr

/-- A context (R340). halted: CTXHALT has stopped its strands, and nothing has resumed it (R348). grants: for each die the
first plate and the number of plates of its die scratchpad. -/
structure Context where
  st : CtxSt
  halted : Bool
  root : Option Nat
  clu : BitVec 32
  pcg : BitVec 288
  excl : Bool
  strict : Bool
  grants : Vector (Nat × Nat) 4
  ways : BitVec 16
  gseed : Word
  demand : List DRange
  nextLid : Nat
  cgroups : List (Nat × List Nat)
  collNum : List (Nat × Nat)
  deriving DecidableEq, Repr

/-- The image of one cluster of a context (R345). mark, ctx, cluster, lengths, seq and hash stand in its header: the section
lengths, Hamada's sequence number and the SHAKE256 of the rest. gseed: G of the context, part of every image (R341). bars: the
barrier units of the cluster's groups, by group (R292). cells: the cluster's scratchpads and cluster memory. -/
structure Image where
  mark : BitVec 32
  ctx : BitVec 16
  cluster : Nat
  lengths : List Nat
  seq : Nat
  hash : BitVec 256
  gseed : Word
  strands : List (Nat × Strand)
  slots : List (Nat × OpSlot)
  acc : List (Nat × BitVec 4096)
  bars : List (Nat × Vector Barrier 8)
  cells : List Host.Cell
  deriving DecidableEq, Repr

/-- A cached leaf translation (R331): cache 0 to 255 of a core, 256 + n of base die n. -/
structure Tlb where
  cache : Nat
  ctx : BitVec 16
  va : Nat
  size : Nat
  leaf : Word
  deriving DecidableEq, Repr

/-- An expanded line in the L1 instruction cache of a core (R254, R256). -/
structure ILine where
  core : Nat
  ctx : BitVec 16
  line : Nat
  words : Vector (BitVec 32) 16
  pin : Bool
  deriving DecidableEq, Repr

/-- A line in an L2 slice (R352): slice 128 * die + home; most recently used lines stand first in the list. -/
structure L2Line where
  slice : Nat
  set : BitVec 8
  way : Nat
  ctx : BitVec 16
  line : Nat
  deriving DecidableEq, Repr

/-- A line in the scalar L1 data cache of a core (R14, R22): its core and physical line. Being written through, its bytes
are those in memory; the duplicate tags at its home slice hold the same pairs. -/
structure DLine where
  core : Nat
  line : Nat
  deriving DecidableEq, Repr

/-- Caches: none of them changes a result (R22, R331, R352, R256). wayMask: masks of (slice, context) that WAYSET
has set away from the context's initial mask. -/
structure Caches where
  tlb : List Tlb
  l1i : List ILine
  l1d : List DLine
  l2 : List L2Line
  wayMask : List (Nat × BitVec 16 × BitVec 16)
  deriving DecidableEq, Repr

/-- A report of the Oasis kernel waiting for the ring, least significant byte first (R357). -/
abbrev Report := BitVec 512

/-- The host link as the module holds it (R356, R357, R390). based: the host has written BASE; sent: records written to host
memory with their host addresses; msi: interrupts raised; hostRead: data of the last completed host read;
consumed: records the host has passed with HEAD. -/
structure HostLink where
  trained : Bool
  based : Bool
  base : Word
  sizel : BitVec 32
  head : BitVec 32
  tail : BitVec 32
  msix : Bool
  msi : Nat
  waiting : List Report
  sent : List (Word × Report)
  hostRead : List Byte
  consumed : Nat
  apertures : Vector (Option (BitVec 16 × Nat)) 16
  deriving DecidableEq, Repr

/-- States of a Barchan port (R364), in the order of the reports. -/
inductive PortSt where
  | down | training | up | degraded | quarantined
  deriving DecidableEq, Repr

/-- A Barchan port (R362 to R364). tx: flits to send; turn: the context whose flit went last (R364); unacked: flits sent and
not acknowledged; replies: the acknowledgements this port has sent, newest first; retry: sequence numbers whose second
attempt is awaited; held: flits received ahead of a missing one; peer: the chip at the other end, once an acknowledgement
has named it. -/
structure BPort where
  st : PortSt
  lanes : Nat
  trans : Nat
  sent : Nat
  recv : Nat
  malformed : Nat
  txSeq : BitVec 16
  rxSeq : BitVec 16
  tx : List Flit
  turn : Nat
  replies : List Flit
  unacked : List Flit
  retry : List (BitVec 16)
  held : List Flit
  peer : Option (BitVec 12)
  deriving DecidableEq, Repr

/-- The Barchan side (R362 to R371). rx: collective flits delivered to this chip and not yet consumed. -/
structure Link where
  chip : BitVec 12
  ports : Vector BPort 16
  routes : List (Nat × Nat)
  rx : List Flit
  deriving DecidableEq, Repr

/-- One segment buffer of the audit log (R382). trailer: the bytes that follow the entries once it is sealed. -/
structure Segment where
  first : Nat
  entries : List (BitVec 1024)
  isSealed : Bool
  trailer : List Byte
  deriving DecidableEq, Repr

/-- Hamada (R376 to R386). seqf, idx and head are the anti-rollback storage; waiting: hardware entries that have found
no place yet (R384): TYPE, CTX and BODY. -/
structure Hamada where
  m : Vector (BitVec 256) 8
  idx : Word
  seqf : Nat
  head : BitVec 256
  nextSeq : Nat
  chain : BitVec 256
  segs : Vector Segment 2
  active : Nat
  sealedUpTo : Nat
  waiting : List (Nat × BitVec 16 × BitVec 512)
  draws : Nat
  deriving DecidableEq, Repr

/-- Housekeeping registers and the package (R387 to R392). powered: the supply is good; readied: STATE has been 4 since
reset. oasis: the body of the accepted image in Oasis memory (R378); nvme: sealed segments that the Oasis kernel has written
to its NVMe namespace (R382, R391); badUnits: units out of service; failing: units that will fail their next check
(R351). -/
structure Package where
  powered : Bool
  state : Nat
  readied : Bool
  bootport : Nat
  thr : Bool
  badstk : Nat
  svn : BitVec 32
  early : Nat
  watts : BitVec 16
  capped : Bool
  tdie : Byte
  tstk : Byte
  trans : Vector Nat 12
  retd : Vector Nat 12
  dpk : BitVec 512
  badStacks : List Nat
  badUnits : List ScrubUnit
  failing : List ScrubUnit
  oasis : List Byte
  nvme : List Segment
  deriving DecidableEq, Repr

/-- A range of 64 KiB HBM frames and the context that holds it (R393). -/
structure Hold where
  frame : Nat
  n : Nat
  ctx : BitVec 16
  deriving DecidableEq, Repr

/-- What the environment does next: a row of the table without a word of its own, or one of the choices that the order of
R226 and R230, the boundaries of R45 and the world outside leave open. -/
inductive Input where
  | row (i : Instr)
  /-- The strand of a slot is the one that moves. -/
  | strand (slot : Nat)
  /-- From now on the vector side of a slot's strand moves at LANE_GROUP_BIND alone (behind), and its scalar stores may wait
  after they have been accepted (late). -/
  | pace (slot : Nat) (behind late : Bool)
  /-- A store that the strand of a slot has accepted performs. -/
  | perform (slot n : Nat)
  /-- The head entry of a slot goes on to the boundary of element group n. -/
  | part (slot n : Nat)
  /-- Copy number n of those of the strand of a slot goes on until m of its elements are transferred (R221). -/
  | transfer (slot n m : Nat)
  /-- The Oasis kernel starts a strand of the system context in a slot, at code that it has placed at an address (R340). -/
  | service (slot : Nat) (entry : BitVec 56) (text : List Byte)
  /-- Hamada starts (R389). -/
  | hamadaStart
  /-- The Oasis kernel writes a sealed audit segment to NVMe (R391). -/
  | nvmeWrite (n : Fin 2)
  /-- The strand of a slot is the one that moves, and a queue form of it passed its checks before the queue it names was
  destroyed (R264). -/
  | passed (slot : Nat)
  /-- The 256 bytes of a flit arrive at a port (R362), byte 0 least significant. -/
  | wire (port : Fin 16) (image : BitVec 2048)
  /-- A unit will not pass its next zero-check (R351). -/
  | unitFails (u : ScrubUnit)
  /-- The host reads a module register at an offset of BAR0 (R357, R392). -/
  | hostRead (off : Nat)
  /-- What is stored of the image of a cluster of a context is no longer what was written (R345). -/
  | imageDamaged (ctx : BitVec 16) (cluster : Fin 32)
  deriving DecidableEq, Repr

/-- A step of the Oasis kernel that waits: for a place in the audit log (R384), or for a translation to be let go (R269). -/
inductive Held where
  /-- A row that has still to act. -/
  | row (i : Instr)
  /-- Once the audit log has taken its entries, a context enters a state and the report goes out. -/
  | enter (ctx : BitVec 16) (st : CtxSt) (r : Report)
  /-- Once the audit log has taken its entries, the report goes out. obj: the object that the request names, 0 for none (R250). -/
  | tell (r : Report) (obj : Nat)
  deriving DecidableEq, Repr

/-- The machine. -/
structure State where
  /-- The module slot number of the strand that moves (R9). -/
  slot : Nat
  /-- That strand. -/
  st : Strand
  /-- The other strands, by slot number, rising. -/
  others : List (Nat × Strand)
  /-- Strands that have ended with copies or port commands still to finish (R118, R285). -/
  ending : List (Nat × Strand)
  /-- All addressed memory in canonical form: HBM by physical address, then the core scratchpads, the cluster memories
  and the die scratchpads (R14, R20). -/
  mem : List Host.Cell
  /-- Accumulator rows that are not zero, by 4,096 * core + row (R14). -/
  acc : List (Nat × BitVec 4096)
  /-- Operand slots that are not as a scrub leaves them, by 16 * core + slot (R192). -/
  oslots : List (Nat × OpSlot)
  /-- Module slots whose MCLAIM waits, oldest first (R194). -/
  claims : List Nat
  groups : List (Nat × Group)
  nextGroup : Nat
  launches : List Launch
  objs : List Obj
  nextHandle : Nat
  queues : List Queue
  /-- What an operation finds that passed its checks before a destruction and comes after it: the queues that have been
  destroyed, sealed and empty (R264); passed: the strand that moves has such an operation in hand. -/
  graves : List Queue
  passed : Bool
  ctxs : List (Nat × Context)
  /-- Clusters on which a strand of the system context has stood since they were last scrubbed (R350). -/
  soiled : List Nat
  holds : List Hold
  /-- Page tables and kernel memory are taken from the top of HBM: the lowest address taken. -/
  ktop : Nat
  retired : List Nat
  shadow : Vector (Option Image) 8
  spill : List Image
  spillGrants : List (Nat × Nat × List Byte)
  caches : Caches
  host : HostLink
  link : Link
  hamada : Hamada
  pkg : Package
  /-- Kernels in the order of their first admission to a core: core, context, handle and kernel number (R256). -/
  admitted : List (Nat × BitVec 16 × Nat × Nat)
  /-- Steps of the Oasis kernel that wait, oldest first. -/
  held : List Held
  /-- What the environment does next, in order. -/
  inputs : List Input
  /-- Cycles elapsed since the cores left reset, and steps taken (R116). -/
  elapsed : Nat
  ticks : Nat
  /-- The model's own counter of free choices (see Config.freeChoice). -/
  freeCtr : Nat
  deriving DecidableEq, Repr

/-- Why the machine stops. -/
inductive Fault where
  /-- Raised by TRANSIENT_MEMORY_ERROR and LASTING_MEMORY_ERROR when the environment names a physical address at which
  the spec puts no memory (R20: addresses from 1,152 GiB upward name none). Safe: no such event exists. -/
  | noSuchPhysicalAddress
  deriving DecidableEq, Repr

/-- Why an instruction has no meaning here. -/
inductive Refusal where
  /-- Raised by the dispatcher for an instruction the model does not give a meaning yet. Safe. -/
  | notModelled (mnemonic : String)
  deriving DecidableEq, Repr

/-- Control registers at strand start (R32, R82, R114). -/
def Csrs.reset : Csrs :=
  { vstart := 0, al := 0, alrow := 0, alcol := 0, xflags := 0, xact := 0, frm := 0, fxrm := 0, chkstall := false,
    lscale := 0, accbase := 0, acclim := 0, widf := 0, lanew := 0, lanea := 0, strmap := 0, mtab := 0 }

/-- Trap registers at strand start (R41, R72). -/
def TrapRegs.reset : TrapRegs :=
  { tvec := 0, tpc := 0, code := 0, vec := false, inh := false, tval := 0, tstat := 0, tinst := 0, tqa := 0, tqb := 0,
    tqc := 0, tqd := 0 }

/-- Vector state at strand start: zero (R283). vc is taken to hold f32 values until a VHAD writes it (DESIGN CHOICE,
log 81). -/
def VecFile.reset : VecFile :=
  { v := Vector.replicate 32 0, wext := Vector.replicate 32 0, vc := 0, vcDirty := false, vcFmt := .f32,
    m := Vector.replicate 8 0, q := Vector.replicate 8 0 }

/-- An empty tile definition (R181). -/
def TileDef.empty : TileDef := { base := 0, rb := 0, rows := 0, len := 0, tag := 0, bitmap := 0 }

/-- An empty tile table entry (R181). -/
def Tile.empty : Tile := { cur := .empty, st := .empty, pending := none }

/-- An idle stream (R214). -/
def Stream.idle : Stream :=
  { st := .idle, base := 0, count := 0, stride := 0, width := 0, write := false, depth := 0, slen := 0, cur := 0,
    buf := [], fifo := [], wfault := none }

/-- A slot that holds no strand; every register reads zero (R283, R350). -/
def Strand.empty : Strand :=
  { stat := .absent, ctx := 0, gkey := 0, wid := 0, lim := { tiles := 0, slots := 0, strands := 0 }, parent := none,
    startAfter := none, allow0 := 0, joins := [], park := .none, pc := 0, ir := 0, pfx := none, pfxLive := false, clause := none,
    regs := Vector.replicate 32 0, pend := 0, sync := [], queue := [], nextSeq := 0,
    grant := { id := 0, len := 0, vtype := 0 }, nextGrant := 1, trims := [], csr := .reset, trap := .reset,
    vec := .reset, tiles := Vector.replicate 8 .empty, key := 0, ctr := 0, streams := Vector.replicate 16 .idle,
    copies := [], cmds := [], colls := [], credit := 0, runAhead := false, pushes := 0, late := [], lateOn := false,
    prog := 0, goal := 0 }

/-- An operand slot as a scrub leaves it (R192). -/
def OpSlot.empty : OpSlot :=
  { cols := Vector.replicate 128 0, fill := 0, fmt := 0, sp := 0, sel := Vector.replicate 128 0,
    scales := Vector.replicate 128 0, owner := none }

/-- A barrier unit at admission: idle (R292). -/
def Barrier.idle : Barrier := { n := 0, arr := 0, ph := 0 }

/-- A Barchan port after reset: down (R364). -/
def BPort.reset : BPort :=
  { st := .down, lanes := 0, trans := 0, sent := 0, recv := 0, malformed := 0, txSeq := 0, rxSeq := 0, tx := [],
    turn := 0, replies := [], unacked := [], retry := [], held := [], peer := none }

/-- A free segment buffer (R382). -/
def Segment.free : Segment := { first := 0, entries := [], isSealed := false, trailer := [] }

/-- Hamada after reset, before boot (R378, R379); its anti-rollback storage holds what a new module holds. -/
def Hamada.reset : Hamada :=
  { m := Vector.replicate 8 0, idx := 0, seqf := 0, head := 0, nextSeq := 0, chain := 0,
    segs := Vector.replicate 2 .free, active := 0, sealedUpTo := 0, waiting := [], draws := 0 }

/-- The package after reset: STATE 0, BOOTPORT 0xF (R389, R392). -/
def Package.reset : Package :=
  { powered := true, state := 0, readied := false, bootport := 15, thr := false, badstk := 0, svn := 0, early := 0,
    watts := 0, capped := false, tdie := 0, tstk := 0, trans := Vector.replicate 12 0, retd := Vector.replicate 12 0, dpk := 0, badStacks := [],
    badUnits := [], failing := [], oasis := [], nvme := [] }

/-- The host link after reset (R357). -/
def HostLink.reset : HostLink :=
  { trained := false, based := false, base := 0, sizel := 0, head := 0, tail := 0, msix := false, msi := 0, waiting := [], sent := [],
    hostRead := [], consumed := 0, apertures := Vector.replicate 16 none }

/-- The system context (R340): identity 0, which holds no partition, no groups, no grants and no ways. -/
def Context.system : Context :=
  { st := .running, halted := false, root := none, clu := 0, pcg := 0, excl := false, strict := false,
    grants := Vector.replicate 4 (0, 0), ways := 0, gseed := 0, demand := [], nextLid := 1, cgroups := [],
    collNum := [] }

/-- The machine right after reset: no strand, nothing mapped, every port down, HKSTAT.STATE 0. -/
def State.reset : State :=
  { slot := 0, st := .empty, others := [], ending := [], mem := [], acc := [], oslots := [], claims := [], groups := [],
    nextGroup := 1, launches := [], objs := [], nextHandle := 1, queues := [], graves := [], passed := false,
    ctxs := [(0, .system)], soiled := [], holds := [],
    ktop := Config.hbmBytes, retired := [], shadow := Vector.replicate 8 none, spill := [], spillGrants := [],
    caches := { tlb := [], l1i := [], l1d := [], l2 := [], wayMask := [] }, host := .reset,
    link := { chip := 0, ports := Vector.replicate 16 .reset, routes := [], rx := [] }, hamada := .reset,
    pkg := .reset, admitted := [], held := [], inputs := [], elapsed := 0, ticks := 0, freeCtr := 0 }

end Sys2Proof.Machine
end

