-- ==== Sys2Proof/Machine/Memory.lean ====
section
/-! DEFINITION. Sparse maps in one canonical form, the memory cells, and where each memory of the machine lies in them.
Keys rise strictly and no entry holds the value that an unlisted key reads as. -/

namespace Sys2Proof.Machine

/-- The value at a key; d where the key is not listed. -/
def lookup {α : Type} (d : α) (k : Nat) : List (Nat × α) → α
  | [] => d
  | (k', v) :: r => if k' = k then v else lookup d k r

/-- Puts a pair before the first greater key. -/
def insertKey {α : Type} (k : Nat) (v : α) : List (Nat × α) → List (Nat × α)
  | [] => [(k, v)]
  | (k', x) :: r => if k < k' then (k, v) :: (k', x) :: r else (k', x) :: insertKey k v r

/-- Removes a key. -/
def eraseKey {α : Type} (k : Nat) : List (Nat × α) → List (Nat × α)
  | [] => []
  | (k', x) :: r => if k' = k then eraseKey k r else (k', x) :: eraseKey k r

/-- Stores a value at a key; the default value leaves no entry. -/
def store {α : Type} [DecidableEq α] (d : α) (k : Nat) (v : α) (l : List (Nat × α)) : List (Nat × α) :=
  if v = d then eraseKey k l else insertKey k v (eraseKey k l)

/-- Puts an element before the first that it may stand before. -/
def insertBy {α : Type} (le : α → α → Bool) (x : α) : List α → List α
  | [] => [x]
  | y :: r => if le x y then x :: y :: r else y :: insertBy le x r

/-- A list in an order. -/
def sortBy {α : Type} (le : α → α → Bool) : List α → List α
  | [] => []
  | x :: r => insertBy le x (sortBy le r)

/-- Keys rise strictly. -/
def rising {α : Type} : List (Nat × α) → Bool
  | [] => true
  | [_] => true
  | (a, _) :: (b, y) :: r => decide (a < b) && rising ((b, y) :: r)

/-- What a byte of memory that nothing has written reads as (DESIGN CHOICE, log 1). -/
def Memory.fresh : Byte := 0

/-- The canonical form of memory: addresses strictly rising, no byte that equals what an unlisted one reads as. -/
def Memory.wf (m : List Host.Cell) : Bool := rising m && m.all fun c => c.2 != Memory.fresh

/-- One byte of memory. -/
def Memory.get (m : List Host.Cell) (a : Nat) : Byte := lookup Memory.fresh a m

/-- Writes one byte. -/
def Memory.set (m : List Host.Cell) (a : Nat) (b : Byte) : List Host.Cell := store Memory.fresh a b m

/-- n bytes from address a as a number, the byte at a least significant (R4). -/
def Memory.read (m : List Host.Cell) (a : Nat) : Nat → Nat
  | 0 => 0
  | n + 1 => (Memory.get m a).toNat + 256 * Memory.read m (a + 1) n

/-- Writes the low n bytes of v from address a, least significant first (R4). -/
def Memory.write (m : List Host.Cell) (a : Nat) : Nat → Nat → List Host.Cell
  | 0, _ => m
  | n + 1, v => Memory.write (Memory.set m a (BitVec.ofNat 8 v)) (a + 1) n (v / 256)

/-- Writes a list of bytes from address a. -/
def Memory.writeList (m : List Host.Cell) (a : Nat) : List Byte → List Host.Cell
  | [] => m
  | b :: r => Memory.writeList (Memory.set m a b) (a + 1) r

/-- n bytes from address a as a list. -/
def Memory.readList (m : List Host.Cell) (a : Nat) : Nat → List Byte
  | 0 => []
  | n + 1 => Memory.get m a :: Memory.readList m (a + 1) n

/-- Removes every cell in [a, a + n): the bytes read as fresh again. -/
def Memory.clear (m : List Host.Cell) (a n : Nat) : List Host.Cell :=
  m.filter fun c => !(decide (a ≤ c.1) && decide (c.1 < a + n))

/-- The cells in [a, a + n). -/
def Memory.cut (m : List Host.Cell) (a n : Nat) : List Host.Cell :=
  m.filter fun c => decide (a ≤ c.1) && decide (c.1 < a + n)

/-- Writes a list of cells back. -/
def Memory.paste (m : List Host.Cell) : List Host.Cell → List Host.Cell
  | [] => m
  | c :: r => Memory.paste (Memory.set m c.1 c.2) r

/-- Location of byte 0 of the scratchpad of a core (DESIGN CHOICE: locations above HBM number the plates). -/
def spadAt (core : Nat) : Nat := Config.hbmBytes + core * Config.spadBytes
/-- Location of byte 0 of the memory of a cluster. -/
def clusterAt (cluster : Nat) : Nat := spadAt 256 + cluster * Config.clusterBytes
/-- Location of byte 0 of the scratchpad of a die. -/
def dieAt (die : Nat) : Nat := clusterAt 32 + die * Config.dieBytes

/-- The number whose bytes a list holds, first byte least significant. -/
def bytesToNat : List Byte → Nat
  | [] => 0
  | b :: r => b.toNat + 256 * bytesToNat r

/-- The low n bytes of a number, least significant first. -/
def natToBytes : Nat → Nat → List Byte
  | 0, _ => []
  | n + 1, v => BitVec.ofNat 8 v :: natToBytes n (v / 256)

end Sys2Proof.Machine
end

