-- ==== Sys2Proof/Machine/Keccak.lean ====
section
/-! DEFINITION. SHAKE256 with a 32-byte output, the hash of R251, R378 to R383 (its permutation is that of FIPS 202,
which the spec names by the hash's name; log 30). -/

namespace Sys2Proof.Machine

/-- The state of the permutation: 1,600 bits as 25 words of 64, word x + 5 y of column x and row y. -/
abbrev Sponge := Vector Word 25

/-- The next state of the eight-bit register whose low bits make up the round constants. -/
def lfsrNext (r : Nat) : Nat := if r < 128 then 2 * r else Nat.xor (2 * r) 0x171

/-- The constant of a round from the register at its start, and the register behind it: bit 2^j - 1 is the register's low bit
after j steps, for j from 0 to 6. -/
def roundConstant (r : Nat) : Word × Nat :=
  (List.range 7).foldl (fun q j => (q.1 ||| BitVec.ofNat 64 (q.2 % 2 * 2 ^ (2 ^ j - 1)), lfsrNext q.2)) (0, r)

/-- The parity of column x. -/
def columnParity (a : Sponge) (x : Nat) : Word := (List.range 5).foldl (fun p y => p ^^^ a.getD (x % 5 + 5 * y) 0) 0

/-- Every word takes in the parities of the columns beside its own. -/
def mixColumns (a : Sponge) : Sponge :=
  let d := (List.range 5).map fun x => columnParity a (x + 4) ^^^ (columnParity a (x + 1)).rotateLeft 1
  a.zipWith (fun w d => w ^^^ d) (Vector.ofFn fun i => d.getD (i.val % 5) 0)

/-- All words but word 0 move on by one place of the walk (x, y) to (y, 2x + 3y) that starts at (1, 0); the word that leaves
place t of it is turned by (t + 1)(t + 2) / 2 bits. -/
def walkWords (a : Sponge) : Sponge :=
  ((List.range 24).foldl (fun (q : Sponge × Nat × Nat) t =>
    let n := (q.2.2, (2 * q.2.1 + 3 * q.2.2) % 5)
    (q.1.setIfInBounds (n.1 + 5 * n.2) ((a.getD (q.2.1 + 5 * q.2.2) 0).rotateLeft ((t + 1) * (t + 2) / 2 % 64)), n))
    (a, 1, 0)).1

/-- Every word takes in the two that follow it in its row. -/
def mixRows (a : Sponge) : Sponge :=
  a.mapFinIdx fun i w _ =>
    let next := fun n => a.getD (i / 5 * 5 + (i + n) % 5) 0
    w ^^^ (next 2 &&& ~~~next 1)

/-- The permutation: 24 rounds. -/
def permuted (a : Sponge) : Sponge :=
  ((List.range 24).foldl (fun (q : Sponge × Nat) _ =>
    let c := roundConstant q.2
    let m := mixRows (walkWords (mixColumns q.1))
    (m.set 0 (m[0] ^^^ c.1), c.2)) (a, 1)).1

/-- Words of eight bytes, least significant byte first. -/
def wordsOf : Nat → List Byte → List Word
  | 0, _ => []
  | n + 1, b => BitVec.ofNat 64 (bytesToNat (b.take 8)) :: wordsOf n (b.drop 8)

/-- Takes n blocks of 17 words into the state. -/
def takeIn : Nat → List Byte → Sponge → Sponge
  | 0, _, a => a
  | n + 1, b, a =>
    let ws := wordsOf 17 b
    takeIn n (b.drop 136) (permuted (a.mapFinIdx fun i w _ => w ^^^ ws.getD i 0))

/-- SHAKE256 with 32 bytes of output, byte 0 least significant. The message is followed by 0x1F and zeros to the end of a
block of 136 bytes, whose last bit is set. -/
def shake256 (m : List Byte) : BitVec 256 :=
  let blocks := m.length / 136 + 1
  let bytes := (m ++ 0x1F :: List.replicate (136 * blocks - m.length - 1) 0).modify (136 * blocks - 1) (· ||| 0x80)
  let a := takeIn blocks bytes (Vector.replicate 25 0)
  (a[3] ++ a[2] ++ a[1] ++ a[0] : BitVec 256)

/-- The bytes of a value of 8 n bits, least significant first. -/
def bvBytes (n : Nat) {w : Nat} (v : BitVec w) : List Byte := natToBytes n v.toNat

end Sys2Proof.Machine
end

