-- ==== Sys2Proof/Machine/Pages.lean ====
section
/-! DEFINITION. Page tables, translation caches, L2 line tags and the frames of HBM (R20 to R22, R328 to R338, R352,
R393). -/

namespace Sys2Proof.Machine

/-- Kinds of access, in the row order of R333. -/
inductive Acc where
  | read | write | rw | fetch | queue
  deriving DecidableEq, Repr

/-- The code of an access kind in reports and audit entries (R360). -/
def Acc.code : Acc → Nat
  | .read => 0 | .write => 1 | .rw => 2 | .fetch => 3 | .queue => 4

/-- A page-table entry: valid bit (R329). -/
def pteV (e : Word) : Bool := e.getLsbD 0
/-- LEAF. -/
def pteLeaf (e : Word) : Bool := e.getLsbD 1
/-- R, W, X as one number, R in bit 0. -/
def ptePerm (e : Word) : Nat := fld e.toNat 4 2
/-- Q. -/
def pteQ (e : Word) : Bool := e.getLsbD 5
/-- ST: 0 mapped, 1 migrating, 2 retired. -/
def pteSt (e : Word) : Nat := fld e.toNat 7 6
/-- The physical address a table entry holds. -/
def ptePa (e : Word) : Nat := fld e.toNat 40 12 * 4096

/-- The leaf of a page: frame address, R W X in bits 0 to 2, Q, ST. -/
def mkLeaf (pa perm : Nat) (q : Bool) (stt : Nat) : Word :=
  BitVec.ofNat 64 (3 + perm % 8 * 4 + bitN q * 32 + stt % 4 * 64 + pa / 4096 * 4096)

/-- Page sizes by code: 64 KiB, 2 MiB, 1 GiB (R339). -/
def pageBytes : Nat → Nat
  | 0 => 65536
  | 1 => 2097152
  | _ => 1073741824

/-- Bits that every valid entry holds at zero (R329), and the bound of R330. -/
def pteCommonOk (e : Word) : Bool :=
  fld e.toNat 11 8 == 0 && fld e.toNat 63 41 == 0 && decide (ptePa e < Config.hbmBytes)

/-- A well-formed leaf of a page of the given size (R329, R330). -/
def leafOk (e : Word) (size : Nat) : Bool :=
  pteCommonOk e && pteSt e != 3 && (!pteQ e || ptePerm e == 0) && ptePa e % size == 0

/-- A well-formed entry that names a table (R329, R330). -/
def tableOk (e : Word) : Bool := pteCommonOk e && !pteLeaf e && pteSt e == 0 && (!pteQ e || ptePerm e == 0)

/-- What a walk finds. -/
inductive Walk where
  | unmapped
  | malformed
  | leaf (e : Word) (size : Nat)
  deriving DecidableEq, Repr

/-- Address of the entry of a virtual address in the table of a level (R328). -/
def pteAddr (level base va : Nat) : Nat :=
  match level with
  | 0 => base + 8 * fld va 55 39
  | 1 => base + 8 * fld va 38 30
  | 2 => base + 8 * fld va 29 21
  | _ => base + 8 * fld va 20 16

/-- The size of a page whose leaf stands at a level. -/
def levelBytes : Nat → Nat
  | 1 => 1073741824
  | 2 => 2097152
  | _ => 65536

/-- Walks down from a level with fuel levels left; also gives the last entry read, its level and its address. The entries are
read past L1 and L2 (DESIGN CHOICE, log 118). -/
def walkFrom (m : List Host.Cell) (va : Nat) : Nat → Nat → Nat → Walk × Word × Nat × Nat
  | 0, level, base => (.malformed, 0, level, base)
  | fuel + 1, level, base =>
    let at_ := pteAddr level base va
    let e := BitVec.ofNat 64 (Memory.read m at_ 8)
    if !pteV e then (.unmapped, e, level, at_)
    else if pteLeaf e then
      (if level != 0 && leafOk e (levelBytes level) then .leaf e (levelBytes level) else .malformed, e, level, at_)
    else if level == 3 || !tableOk e then (.malformed, e, level, at_)
    else walkFrom m va fuel (level + 1) (ptePa e)

/-- The walk of R328 to R330 from a root. -/
def walk (m : List Host.Cell) (root va : Nat) : Walk × Word × Nat × Nat := walkFrom m va 4 0 root

/-- A context, if it exists. -/
def State.ctx? (s : State) (c : BitVec 16) : Option Context := (s.ctxs.find? fun p => p.1 = c.toNat).map (·.2)

/-- Replaces a context that exists. -/
def State.modCtx (s : State) (c : BitVec 16) (f : Context → Context) : State :=
  { s with ctxs := s.ctxs.map fun p => if p.1 = c.toNat then (p.1, f p.2) else p }

/-- The walk in a context's tables; unmapped without a root. -/
def State.walkIn (s : State) (c : BitVec 16) (va : Nat) : Walk × Word × Nat × Nat :=
  match (s.ctx? c).bind (·.root) with
  | some r => walk s.mem r va
  | none => (.unmapped, 0, 0, 0)

/-- The leaf that a walk finds and its size. Only mapped pages answer (R333); the rest fault with 0x08. -/
def State.walkLeaf (s : State) (c : BitVec 16) (va : Nat) : Option (Word × Nat) :=
  match (s.walkIn c va).1 with
  | .leaf e size => if pteSt e = 0 then some (e, size) else none
  | _ => none

/-- Whether a cached translation serves an access through a cache: that of a core, or any of the base dies' for a Playa
engine (R331). -/
def Tlb.serves (t : Tlb) (cache : Nat) (c : BitVec 16) (va : Nat) : Bool :=
  decide (cache < 512) && (t.cache == cache || (decide (256 ≤ cache) && decide (256 ≤ t.cache))) && t.ctx == c
    && va / t.size == t.va / t.size

/-- A cached leaf of the context that lets the access through, else a walk (R331): a fault always reflects a walk. -/
def State.leafOf (s : State) (cache : Nat) (c : BitVec 16) (va : Nat) (ok : Word → Bool) : Option (Word × Nat) :=
  match s.caches.tlb.find? fun t => t.serves cache c va && ok t.leaf with
  | some t => some (t.leaf, t.size)
  | none => s.walkLeaf c va

/-- Whether a leaf lets an access through (R333). A queue form's own accesses are not tested here. -/
def permits (e : Word) (k : Acc) : Bool :=
  match k with
  | .read => !pteQ e && (ptePerm e) % 2 == 1
  | .write => !pteQ e && (ptePerm e) / 2 % 2 == 1
  | .rw => !pteQ e && (ptePerm e) % 4 == 3
  | .fetch => !pteQ e && (ptePerm e) / 4 == 1
  | .queue => true

/-- The home slice of a physical address, 128 * die + slice (R21). -/
def sliceOf (pa : Nat) : Nat := pa / Config.stackBytes / 3 * 128 + (pa / 128 % 128 ^^^ pa / 16384 % 128)

/-- The fill way mask of a context in a slice (R340, R352). -/
def State.wayMask (s : State) (slice : Nat) (c : BitVec 16) : BitVec 16 :=
  match s.caches.wayMask.find? fun e => e.1 = slice && e.2.1 = c with
  | some e => e.2.2
  | none => match s.ctx? c with | some x => x.ways | none => 0

/-- The victim of a fill (R352): an invalid way of the mask, then the least recently used line of the mask's ways that
lies outside its own context's mask, then the least recently used line of the mask's ways. -/
def State.victim (s : State) (slice : Nat) (set : BitVec 8) (mask : BitVec 16) : Option Nat :=
  let here := s.caches.l2.filter fun l => l.slice = slice && l.set = set
  match (List.range 16).find? fun w => mask.getLsbD w && here.all fun l => l.way ≠ w with
  | some w => some w
  | none =>
    let mine := here.filter fun l => mask.getLsbD l.way
    match (mine.filter fun l => !(s.wayMask slice l.ctx).getLsbD l.way).getLast? with
    | some l => some l.way
    | none => mine.getLast?.map (·.way)

/-- Whether the L2 of a die is out of service (R351). -/
def State.l2Out (s : State) (d : Nat) : Bool := s.pkg.badUnits.any fun u => match u with | .l2 m => m.val = d | _ => false

/-- The tags of L2 after an access to a physical address on behalf of a context (R352). In a die whose L2 is out of service no
line is allocated. -/
def State.l2Access (s : State) (c : BitVec 16) (pa : Nat) : Caches :=
  let slice := sliceOf pa
  let line := pa / 128
  let l2 := s.caches.l2
  match l2.find? fun l => l.slice = slice && l.line = line && l.ctx = c with
  | some l => { s.caches with l2 := l :: (l2.filter fun x => !(x.slice = slice && x.line = line && x.ctx = c)) }
  | none =>
    let mask := s.wayMask slice c
    if mask = 0 || s.l2Out (slice / 128) then s.caches
    else
      let set := Config.l2Set line
      match s.victim slice set mask with
      | none => s.caches
      | some w =>
        { s.caches with l2 := { slice := slice, set := set, way := w, ctx := c, line := line } ::
            (l2.filter fun x => !(x.slice = slice && x.set = set && x.way = w)) }

/-- Keeps a leaf in a translation cache (R331): that of a core, or of the base die on which the page lies; a cache above
those keeps nothing. -/
def Caches.keepLeaf (k : Caches) (cache : Nat) (c : BitVec 16) (va : Nat) (leaf : Word) (size : Nat) : Caches :=
  let at_ := if cache < 256 then cache else 256 + ptePa leaf / Config.stackBytes
  if 512 ≤ cache || k.tlb.any fun t => t.cache = at_ && t.ctx = c && va / t.size = t.va / t.size && t.leaf = leaf then k
  else { k with tlb := { cache := at_, ctx := c, va := va, size := size, leaf := leaf } :: k.tlb }

/-- The 128-byte lines that a list of locations touches (R21). -/
def linesOf (ls : List Nat) : List Nat := ls.foldr (fun a l => if l.contains (a / 128) then l else a / 128 :: l) []

/-- The tags of L2 after an access to every line of a list (R352). -/
def State.l2Lines (s : State) (c : BitVec 16) : List Nat → State
  | [] => s
  | l :: r => ({ s with caches := s.l2Access c (128 * l) }).l2Lines c r

/-- A slice writes back and invalidates its own copy of lines that are updated in memory (R176, R321). -/
def Caches.l2Drop (k : Caches) (lines : List Nat) : Caches := { k with l2 := k.l2.filter fun x => !lines.contains x.line }

/-- Lines of the 32 KiB scalar L1 data cache of a core (R14). -/
def l1dLines : Nat := 256

/-- Drops the oldest line of a core. The newest lines stand first. -/
def evictDLine (core : Nat) (l : List DLine) : List DLine :=
  match l.reverse.findIdx? fun x => x.core = core with
  | some n => l.eraseIdx (l.length - 1 - n)
  | none => l

/-- A scalar load fills a line that its core does not hold (R22). The spec names no victim: the oldest line goes
(DESIGN CHOICE, log 80). -/
def Caches.l1Fill (k : Caches) (core line : Nat) : Caches :=
  if k.l1d.any fun x => x.core = core && x.line = line then k
  else
    let l := if l1dLines ≤ (k.l1d.filter fun x => x.core = core).length then evictDLine core k.l1d else k.l1d
    { k with l1d := { core := core, line := line } :: l }

/-- The duplicate tags evict lines from every scalar L1 but that of a storing core (R22). -/
def Caches.l1Evict (k : Caches) (but : Option Nat) (lines : List Nat) : Caches :=
  { k with l1d := k.l1d.filter fun x => some x.core == but || !lines.contains x.line }

/-- Drops the cached translations of a context that overlap a range (R338, R339 INVVA). -/
def Caches.dropRange (k : Caches) (c : BitVec 16) (va len : Nat) : Caches :=
  { k with tlb := k.tlb.filter fun t =>
      !(t.ctx = c && decide (t.va / t.size * t.size < va + len) && decide (va < (t.va / t.size + 1) * t.size)) }

/-- Drops every cached translation of a context (INVCTX). -/
def Caches.dropCtx (k : Caches) (c : BitVec 16) : Caches := { k with tlb := k.tlb.filter fun t => t.ctx ≠ c }

/-- Where what keeps a frame from use begins: a stack that has failed (R389), a retired frame (R337), or a page of a context that
holds it; none where the frame is free. -/
def State.obstacle (s : State) (f : Nat) : Option Nat :=
  let stack := f * 65536 / Config.stackBytes
  if s.pkg.badStacks.contains stack then some (stack * Config.stackBytes)
  else if s.retired.contains f then some (f * 65536)
  else (s.holds.find? fun h => decide (h.frame ≤ f) && decide (f < h.frame + h.n)).map fun h => h.frame * 65536

/-- The greatest place below an address for n bytes with an alignment where nothing stands in the way. -/
def State.placeBelow (s : State) (n align : Nat) : Nat → Nat → Option Nat
  | 0, _ => none
  | fuel + 1, top =>
    if top < n then none
    else
      let a := (top - n) / align * align
      match (List.range ((a + n - 1) / 65536 + 1 - a / 65536)).findSome? fun i => s.obstacle (a / 65536 + i) with
      | none => some a
      | some b => s.placeBelow n align fuel b

/-- Where the Oasis kernel would take n bytes with an alignment for its own use; none where HBM has no place left for them. -/
def State.kplace (s : State) (n align : Nat) : Option Nat :=
  s.placeBelow n align (13 + s.retired.length + s.holds.length) s.ktop

/-- Takes n bytes with an alignment from the top of HBM for tables of the Oasis kernel (DESIGN CHOICE, log 8). It is asked only
where kplace has a place. -/
def State.kalloc (s : State) (n align : Nat) : State × Nat :=
  let a := (s.kplace n align).getD ((s.ktop - n) / align * align)
  ({ s with ktop := a, mem := Memory.clear s.mem a n }, a)

/-- The table that the entry at an address names, made when the entry is not valid. -/
def State.needTable (s : State) (at_ : Nat) : State × Nat :=
  let e := BitVec.ofNat 64 (Memory.read s.mem at_ 8)
  if pteV e then (s, ptePa e)
  else
    let (s', a) := s.kalloc 4096 4096
    ({ s' with mem := Memory.write s'.mem at_ 8 (1 + a) }, a)

/-- Writes the leaf of one page (R329); the Oasis kernel alone does this. Its stores touch no tag of L1 or L2 (DESIGN CHOICE,
log 118). -/
def State.setLeaf (s : State) (root va code : Nat) (leaf : Word) : State :=
  let (s, t1) := s.needTable (pteAddr 0 root va)
  if code = 2 then { s with mem := Memory.write s.mem (pteAddr 1 t1 va) 8 leaf.toNat }
  else
    let (s, t2) := s.needTable (pteAddr 1 t1 va)
    if code = 1 then { s with mem := Memory.write s.mem (pteAddr 2 t2 va) 8 leaf.toNat }
    else
      let (s, t3) := s.needTable (pteAddr 2 t2 va)
      { s with mem := Memory.write s.mem (pteAddr 3 t3 va) 8 leaf.toNat }

/-- Whether a frame may be given to a context (R340, R393). -/
def State.frameOk (s : State) (c : BitVec 16) (f : Nat) : Bool :=
  let stack := f * 65536 / Config.stackBytes
  let group := stack * 24 + f % 24
  decide ((f + 1) * 65536 ≤ s.ktop) && (s.obstacle f).isNone
    && (match s.ctx? c with | some x => x.pcg.getLsbD group | none => false)

/-- The lowest run of n free frames at a multiple of n, at or above f (DESIGN CHOICE: the spec leaves the frame open). -/
def State.findFrames (s : State) (c : BitVec 16) (n : Nat) : Nat → Nat → Option Nat
  | 0, _ => none
  | fuel + 1, f =>
    if (List.range n).all fun i => s.frameOk c (f + i) then some f else s.findFrames c n fuel (f + n)

/-- Takes n frames for a context and zeroes them (R350, R393). The zeros touch no tag of L1 or L2 (DESIGN CHOICE, log 118). -/
def State.takeFrames (s : State) (c : BitVec 16) (n : Nat) : Option (State × Nat) :=
  match s.findFrames c n (Config.hbmBytes / 65536) 0 with
  | none => none
  | some f =>
    some ({ s with holds := { frame := f, n := n, ctx := c } :: s.holds,
                   mem := Memory.clear s.mem (f * 65536) (n * 65536) }, f)

/-- Whether no valid leaf stands below a table entry. -/
def noLeafBelow (m : List Host.Cell) : Nat → Nat → Word → Bool
  | 0, _, _ => true
  | fuel + 1, level, e =>
    !pteV e || (!pteLeaf e && (List.range (if level = 2 then 32 else 512)).all fun i =>
      noLeafBelow m fuel (level + 1) (BitVec.ofNat 64 (Memory.read m (ptePa e + 8 * i) 8)))

/-- Whether no page of a context is mapped inside the page of a size code that holds va. -/
def State.slotFree (s : State) (c : BitVec 16) (va code : Nat) : Bool :=
  match (s.ctx? c).bind (·.root) with
  | none => false
  | some root =>
    let e0 := BitVec.ofNat 64 (Memory.read s.mem (pteAddr 0 root va) 8)
    let e1 := BitVec.ofNat 64 (Memory.read s.mem (pteAddr 1 (ptePa e0) va) 8)
    let e2 := BitVec.ofNat 64 (Memory.read s.mem (pteAddr 2 (ptePa e1) va) 8)
    if !pteV e0 then true
    else if 2 ≤ code then noLeafBelow s.mem 3 1 e1
    else if !pteV e1 then true
    else if pteLeaf e1 then false
    else if code = 1 then noLeafBelow s.mem 2 2 e2
    else (s.walkIn c va).1 == .unmapped

/-- Maps one fresh zeroed page of a context, and drops what the caches hold of the tables it replaces (R338); none where no
frame will do, or the tables it may need find no place. -/
def State.mapPage (s : State) (c : BitVec 16) (va code perm : Nat) (q : Bool) : Option State :=
  match s.ctx? c with
  | none => none
  | some x =>
    match x.root with
    | none => none
    | some root =>
      match s.takeFrames c (pageBytes code / 65536) with
      | none => none
      | some (s', f) =>
        if (s'.kplace 12288 4096).isNone then none
        else
        let s1 := s'.setLeaf root va code (mkLeaf (f * 65536) perm q 0)
        some { s1 with caches := s1.caches.dropRange c (va / pageBytes code * pageBytes code) (pageBytes code) }

/-- Maps n pages from va upward. -/
def State.mapPages (s : State) (c : BitVec 16) (va code perm : Nat) (q : Bool) : Nat → Option State
  | 0 => some s
  | n + 1 =>
    match s.mapPage c va code perm q with
    | none => none
    | some s' => s'.mapPages c (va + pageBytes code) code perm q n

/-- Frees the frames of a page. -/
def State.freeFrames (s : State) (pa size : Nat) : State :=
  { s with holds := s.holds.filter fun h => !(h.frame = pa / 65536 && h.n = size / 65536) }

/-- A leaf in another state (R329). -/
def leafIn (e : Word) (stt : Nat) : Word := mkLeaf (ptePa e) (ptePerm e) (pteQ e) stt

/-- The Oasis kernel puts the page that holds va into the migrating state (R338 step 1). -/
def State.startMove (s : State) (c : BitVec 16) (va : Nat) : State :=
  match s.walkIn c va with
  | (.leaf e _, _, _, at_) => { s with mem := Memory.write s.mem at_ 8 (leafIn e 1).toNat }
  | _ => s

/-- PTCTL INVVA over the page that holds va (R338 step 2). -/
def State.invalidate (s : State) (c : BitVec 16) (va : Nat) : State :=
  match (s.walkIn c va).1 with
  | .leaf _ size => { s with caches := s.caches.dropRange c (va / size * size) size }
  | _ => s

/-- A page leaves the migrating state: its entry changes (R338). The store touches no tag of L1 or L2 (DESIGN CHOICE,
log 118). -/
def State.setEntry (s : State) (c : BitVec 16) (va : Nat) (f : Word → Word) : State :=
  match s.walkIn c va with
  | (.leaf e _, _, _, at_) => { s with mem := Memory.write s.mem at_ 8 (f e).toNat }
  | _ => s

/-- Unmaps the page that holds va: first the migrating state, then the invalidation, then the entry is zero and the frame
free (R338). The Oasis kernel takes these steps of one request without another step between them (DESIGN CHOICE, log 82). -/
def State.unmapPage (s : State) (c : BitVec 16) (va : Nat) : State :=
  match (s.walkIn c va).1 with
  | .leaf e size => ((((s.startMove c va).invalidate c va).setEntry c va fun _ => 0).freeFrames (ptePa e) size)
  | _ => s

/-- Unmaps every page that meets [va, va + n * 64 KiB). -/
def State.unmapPages (s : State) (c : BitVec 16) (va : Nat) : Nat → State
  | 0 => s
  | n + 1 => (s.unmapPage c va).unmapPages c (va + 65536) n

/-- Whether no page of [va, va + n * 64 KiB) is mapped. -/
def State.allUnmapped (s : State) (c : BitVec 16) (va : Nat) : Nat → Bool
  | 0 => true
  | n + 1 => ((s.walkIn c va).1 == .unmapped) && s.allUnmapped c (va + 65536) n

end Sys2Proof.Machine
end

