-- ==== Sys2Proof/Machine/Audit.lean ====
section
/-! DEFINITION. The audit log of Hamada and the reports of the Oasis kernel (R357 to R360, R379 to R385). -/

namespace Sys2Proof.Machine

/-- An audit entry (R380). -/
def auditEntry (seq type origin : Nat) (c : BitVec 16) (body : BitVec 512) (prev : BitVec 256) : BitVec 1024 :=
  BitVec.ofNat 1024 (seq % 2 ^ 64 + type % 65536 * 2 ^ 64 + origin % 256 * 2 ^ 80 + c.toNat * 2 ^ 96
    + body.toNat * 2 ^ 256 + prev.toNat * 2 ^ 768)

/-- The chain value of an entry (R380). -/
def chainOf (e : BitVec 1024) : BitVec 256 := shake256 (bvBytes 128 e)

/-- The segment buffer in use. -/
def Hamada.seg (h : Hamada) : Segment := h.segs[h.active % 2]

/-- The other segment buffer. -/
def Hamada.other (h : Hamada) : Segment := h.segs[(h.active + 1) % 2]

/-- Places that an AUDIT or a hardware event can still take; the last of each buffer is kept for its seal (R382). -/
def Hamada.places (h : Hamada) : Nat :=
  (if h.seg.isSealed then 0 else 4095 - h.seg.entries.length)
    + (if h.other.isSealed || !h.other.entries.isEmpty then 0 else 4095)

/-- Puts a segment in the place of the one in use. -/
def Hamada.setSeg (h : Hamada) (g : Segment) : Hamada := { h with segs := h.segs.set (h.active % 2) g }

/-- Moves on from a sealed buffer, and opens an empty one: SEQF is written first (R385). -/
def Hamada.ready (h : Hamada) : Hamada :=
  let h := if h.seg.isSealed then { h with active := (h.active + 1) % 2 } else h
  if h.seg.entries.isEmpty then
    { (h.setSeg { h.seg with first := h.nextSeq }) with seqf := h.nextSeq + 4096 }
  else h

/-- Adds one entry to the segment in use. -/
def Hamada.push (h : Hamada) (type origin : Nat) (c : BitVec 16) (body : BitVec 512) : Hamada :=
  let e := auditEntry h.nextSeq type origin c body h.chain
  { (h.setSeg { h.seg with entries := h.seg.entries ++ [e] }) with nextSeq := h.nextSeq + 1, chain := chainOf e }

/-- The hash of M0 to M7 (R381, type 0x000B). -/
def Hamada.mBytes (h : Hamada) : List Byte := h.m.toList.flatMap (bvBytes 32)

/-- Whether every signature has been used (R382). -/
def Hamada.spent (h : Hamada) : Bool := decide (2 ^ 40 ≤ h.idx.toNat)

/-- Step 1 of a seal (R382): IDX + 1 goes to anti-rollback storage. -/
def Hamada.sealIndex (h : Hamada) : Hamada := if h.spent then h else { h with idx := h.idx + 1 }

/-- Step 2 of a seal (R381, R382): the seal entry with index i, and its chain value in HEAD. -/
def Hamada.sealEntry (h : Hamada) (i : Word) : Hamada :=
  let body := BitVec.ofNat 512 (h.seg.first + h.nextSeq * 2 ^ 64 + i.toNat * 2 ^ 128
    + (shake256 h.mBytes).toNat * 2 ^ 192)
  let g := h.push 0x000B 0 0 body
  { g with head := g.chain, sealedUpTo := g.nextSeq }

/-- Step 3 of a seal (R382): the trailer, signed with leaf i; none: a zero signature. -/
def Hamada.sealSign (h : Hamada) (leaf : Option Word) : Hamada :=
  let signed := h.seg.entries.flatMap (bvBytes 128) ++ h.mBytes ++ bvBytes 32 h.chain ++ bvBytes 8 Config.fuseDevid
  let sig := match leaf with
    | none => List.replicate 9893 0
    | some i => bvBytes 9893 (Config.xmssSign Config.fuseDkseed i (shake256 signed))
  let tr := h.mBytes ++ bvBytes 32 h.chain ++ bvBytes 8 Config.fuseDevid ++ sig
  h.setSeg { h.seg with isSealed := true, trailer := tr }

/-- Seals the segment in use (R382). Once the signatures are used up, the index is all ones. -/
def Hamada.seal (h : Hamada) : Hamada :=
  if h.spent then (h.sealEntry (BitVec.allOnes 64)).sealSign none
  else (h.sealIndex.sealEntry h.idx).sealSign (some h.idx)

/-- Appends an entry where a place is free; the 4,096th place of a buffer takes its seal (R382). -/
def Hamada.append (h : Hamada) (type origin : Nat) (c : BitVec 16) (body : BitVec 512) : Hamada :=
  let h := h.ready.push type origin c body
  if 4095 ≤ h.seg.entries.length then h.seal else h

/-- A hardware event's entry; it waits while no place is free (R384). -/
def Hamada.event (h : Hamada) (type : Nat) (c : BitVec 16) (body : BitVec 512) : Hamada :=
  if h.waiting.isEmpty && decide (0 < h.places) then h.append type 0 c body
  else { h with waiting := h.waiting ++ [(type, c, body)] }

/-- Appends waiting hardware entries while places are free (R384). -/
def Hamada.flush : Nat → Hamada → Hamada
  | 0, h => h
  | n + 1, h =>
    match h.waiting with
    | (t, c, b) :: r => if 0 < h.places then Hamada.flush n ({ h with waiting := r }.append t 0 c b) else h
    | [] => h

/-- FREE VALUE: the bytes of an image in the order its hash takes them; R345 does not lay out a record within its section. -/
opaque imageRest : Image → List Byte

/-- The hash of an image over all but itself (R345). -/
def imageHash (i : Image) : BitVec 256 := shake256 (imageRest { i with hash := 0 })

/-- An image with the hash of what it holds. -/
def Image.hashed (i : Image) : Image := { i with hash := imageHash i }

/-- Whether an image is as it was written (R345). -/
def Image.good (i : Image) : Bool := i.hash == imageHash i

/-- A hardware audit entry with its body as (byte offset, value) pairs in the order of R381 (layout: log 31). -/
def State.audit (s : State) (type : Nat) (c : BitVec 16) (body : List (Nat × Nat)) : State :=
  let b := body.foldl (fun a p => a + p.2 * 256 ^ p.1) 0
  { s with hamada := s.hamada.event type c (BitVec.ofNat 512 b) }

/-- A record of the ring: CODE, TAG, CTX, STATUS and results by byte offset (R357). -/
def mkReport (code : Nat) (tag c : BitVec 16) (status : Nat) (fs : List (Nat × Nat)) : Report :=
  BitVec.ofNat 512 (fs.foldl (fun a p => a + p.2 * 256 ^ p.1)
    (code + tag.toNat * 2 ^ 16 + c.toNat * 2 ^ 32 + status * 2 ^ 48))

/-- The Oasis kernel holds a report until the ring takes it (R357). -/
def State.report (s : State) (r : Report) : State := { s with host := { s.host with waiting := s.host.waiting ++ [r] } }

/-- A report at the end of a step that audit entries were written for: while one of them finds no place, the step is not over
(R384). obj: the object that its request names. -/
def State.reportLogged (s : State) (r : Report) (obj : Nat := 0) : State :=
  if s.hamada.waiting.isEmpty then s.report r else { s with held := s.held ++ [.tell r obj] }

/-- Whether record TAIL may be written now (R357); no ring stands before its registers are written (R390). -/
def HostLink.ringOpen (h : HostLink) : Bool :=
  h.based && decide (4 ≤ h.sizel.toNat) && decide (h.sizel.toNat ≤ 16) && decide ((h.tail - h.head).toNat < 2 ^ h.sizel.toNat)

/-- Report 0x82 and its audit entry for a permission violation (R336, R360). how: 0 trapped, 1 shortened, 4 an engine
transfer. -/
def State.violation (s : State) (c : BitVec 16) (slot : Nat) (va : Word) (k : Acc) (how : Nat) : State :=
  (s.audit 0x0005 c [(0, slot), (8, va.toNat), (16, k.code), (17, how)]).report
    (mkReport 0x82 0 c 0 [(8, va.toNat), (16, slot), (18, k.code), (19, how)])

end Sys2Proof.Machine
end

