-- ==== Sys2Proof/Machine/Ops.lean ====
section
/-! DEFINITION. The named operations every meaning is written with: strands and slots, scalar registers and clauses,
checked accesses to memory, taking an exception and returning from one, the end of a strand (R9 to R19, R35 to R44,
R69 to R73, R102, R118, R285, R333 to R336). -/

namespace Sys2Proof.Machine

/-- The answer of a meaning. -/
abbrev Res := Host.Outcome State Fault Refusal

/-- Core of a module strand slot number (R9). -/
def coreOf (slot : Nat) : Nat := slot / 8
/-- Cluster of a slot (R9). -/
def clusterOf (slot : Nat) : Nat := slot / 64
/-- Die of a slot (R9). -/
def dieOf (slot : Nat) : Nat := slot / 512

/-- Changes the strand that moves. -/
def State.mod (s : State) (f : Strand → Strand) : State := { s with st := f s.st }

/-- Changes the control registers of the strand that moves. -/
def State.modCsr (s : State) (f : Csrs → Csrs) : State := s.mod fun t => { t with csr := f t.csr }

/-- Changes the trap registers. -/
def State.modTrap (s : State) (f : TrapRegs → TrapRegs) : State := s.mod fun t => { t with trap := f t.trap }

/-- The strand in a slot; an empty one where none stands. -/
def State.strand (s : State) (k : Nat) : Strand := if k = s.slot then s.st else lookup .empty k s.others

/-- Puts a strand into a slot; an absent strand leaves the slot as a scrub does. -/
def State.putStrand (s : State) (k : Nat) (t : Strand) : State :=
  if k = s.slot then { s with st := t } else { s with others := store .empty k t s.others }

/-- Changes the strand in a slot. -/
def State.modStrand (s : State) (k : Nat) (f : Strand → Strand) : State := s.putStrand k (f (s.strand k))

/-- Makes another slot the one that moves. -/
def State.focus (s : State) (k : Nat) : State :=
  if k = s.slot then s
  else { s with slot := k, st := lookup .empty k s.others,
                others := store .empty s.slot s.st (eraseKey k s.others) }

/-- Slots that hold a strand. -/
def State.liveSlots (s : State) : List Nat :=
  (if s.st.stat = .absent then [] else [s.slot]) ++ (s.others.filter fun p => p.2.stat ≠ .absent).map (·.1)

/-! ### Clauses and scalar registers -/

/-- Count c_i of a clause (R68). -/
def Clause.count (c : Clause) (i : Nat) : Nat := fld c.cnt.toNat (3 * i - 1) (3 * i - 3)

/-- Σ (1 + c_j) for j = p + 1 to q (R69). -/
def Clause.dist (c : Clause) (p q : Nat) : Nat :=
  ((List.range (q - p)).map fun j => 1 + c.count (p + 1 + j)).sum

/-- Whether the write of a log entry is covered for the position at pc (R70). -/
def Clause.covered (c : Clause) (e : Nat × SReg × Nat × Word) : Bool := decide (e.2.2.1 ≤ c.dist e.1 c.pos)

/-- The value the position at pc reads with CHKSTALL.EN = 0 (R70): that of the most recent covered write of the
register, or of the last write outside the clause. The log stands newest first. -/
def Clause.view (c : Clause) (r : SReg) : List (Nat × SReg × Nat × Word) → Word → Word
  | [], v => v
  | e :: l, v => if e.2.1 = r then (if c.covered e then v else c.view r l e.2.2.2) else c.view r l v

/-- Whether reading a register at pc is an uncovered hazard (R70). -/
def Clause.hazard (c : Clause) (r : SReg) : Bool :=
  decide (r ≠ 0) && c.log.any fun e => e.2.1 = r && !c.covered e

/-- The clause for the next instruction (R68, R71). -/
def Clause.next (c : Clause) : Option Clause := if c.len ≤ c.pos then none else some { c with pos := c.pos + 1 }

/-- The value a register holds; s0 reads zero (R96). -/
def Strand.reg (t : Strand) (r : SReg) : Word := if r = 0 then 0 else t.regs[r]

/-- The value an instruction at pc reads (R70, R96). -/
def Strand.r (t : Strand) (r : SReg) : Word :=
  if r = 0 then 0
  else match t.clause with
    | some c => c.view r c.log t.regs[r]
    | none => t.regs[r]

/-- The value of scalar register r as the instruction at pc reads it. -/
def State.r (s : State) (r : SReg) : Word := s.st.r r

/-- Writes a scalar register; a write to s0 is discarded (R96). lat is the latency of R69, 0 for a variable one. -/
def Strand.setR (t : Strand) (r : SReg) (v : Word) (lat : Nat := 0) : Strand :=
  if r = 0 then t
  else { t with regs := t.regs.set r v,
                clause := t.clause.map fun c => { c with log := (c.pos, r, lat, t.regs[r]) :: c.log } }

/-- Writes a scalar register of the strand that moves. -/
def State.setR (s : State) (r : SReg) (v : Word) (lat : Nat := 0) : State := s.mod fun t => t.setR r v lat

/-- The vector side of a strand parks, unless its scalar side is parked already (R291). -/
def Strand.parkAt (t : Strand) (p : Park) : Strand := { t with park := if t.park = .none then p else t.park }

/-- Whether a strand is parked at a barrier, whose phase its saved state keeps (R296). -/
def Park.atBarrier : Park → Bool
  | .bwait _ _ | .barw _ _ => true
  | _ => false

/-- Whether it is the scalar side that is parked (R291). -/
def Park.scalar : Park → Bool
  | .qpop | .joinl | .bwait _ _ | .barw _ _ => true
  | _ => false

/-- Where the vector side of a strand is parked while its scalar side is not: at a head entry that waits (R175, R194). -/
def Strand.vectorPark (t : Strand) : Park :=
  match t.queue with
  | { instr := .vwait _ _ _ _ _ _, .. } :: _ => .vwait
  | { instr := .mclaim _, .. } :: _ => .mclaim
  | _ => .none

/-- Whether a read waits for the status of a port. -/
def ReadSrc.isPort : ReadSrc → Bool
  | .port _ => true
  | _ => false

/-- Whether a POP has not got its status yet (R211). -/
def Strand.popWaits (t : Strand) : Bool := t.sync.any fun p => p.src.isPort

/-- The scalar side of a strand is no longer parked. -/
def Strand.wake (t : Strand) : Strand := { t with park := t.vectorPark }

/-- The vector side of a strand no longer parks. -/
def Strand.unparkFrom (t : Strand) (p : Park) : Strand := { t with park := if t.park = p then .none else t.park }

/-- Moves past the instruction: next word, the payload is spent, the next clause position (R66, R68). -/
def Strand.advance (t : Strand) : Strand :=
  { t with pc := t.pc + 4, pfx := none, pfxLive := false, clause := t.clause.bind Clause.next }

/-- Moves past the instruction at pc. -/
def State.advance (s : State) : State := s.mod Strand.advance

/-- A taken branch or jump: it ends the clause (R71). -/
def State.jump (s : State) (t : BitVec 56) : State :=
  s.mod fun x => { x with pc := t, pfx := none, pfxLive := false, clause := none }

/-- Writes a result and moves on. -/
def State.result (s : State) (d : SReg) (v : Word) (lat : Nat := 0) : Res := .next (s.setR d v lat).advance

/-- An immediate field of n bits with the payload of class I, sign-extended to 64 bits (R66). -/
def Strand.imm (t : Strand) (n v : Nat) : Word :=
  match t.pfx with
  | some p => (BitVec.ofNat (26 + n) (p.toNat * 2 ^ n + v)).signExtend 64
  | none => (BitVec.ofNat n v).signExtend 64

/-! ### Checked accesses -/

/-- Who makes an access: the slot it is made for, its context and the translation cache it may use. -/
structure Who where
  slot : Nat
  ctx : BitVec 16
  cache : Nat
  deriving DecidableEq, Repr

/-- The strand that moves. -/
def State.me (s : State) : Who := { slot := s.slot, ctx := s.st.ctx, cache := coreOf s.slot }

/-- A stream or a copy of the strand of a slot: it translates through the cache of the strand's core (R331). -/
def engineOf (slot : Nat) (c : BitVec 16) : Who := { slot := slot, ctx := c, cache := coreOf slot }

/-- A Playa engine working for the strand of a slot: it translates through the caches of the base dies (R331). -/
def playaOf (slot : Nat) (c : BitVec 16) : Who := { slot := slot, ctx := c, cache := 256 }

/-- The host and the collective engine: no core and no base die, so each access walks the tables (R331). -/
def walkerOf (slot : Nat) (c : BitVec 16) : Who := { slot := slot, ctx := c, cache := 512 }

/-- Where the byte at an effective address lies, or the cause that an access to it raises (R15, R16, R164 steps 3 and 4,
R333). -/
def State.place (s : State) (w : Who) (ea : Nat) (k : Acc) : Except Nat Nat :=
  let o := ea % 2 ^ 56
  let top := ea / 2 ^ 56
  if top = 0xFE then
    if o < Config.spadBytes then .ok (spadAt (coreOf w.slot) + o) else .error 4
  else if top = 0xFD then
    if o < Config.clusterBytes then .ok (clusterAt (clusterOf w.slot) + o) else .error 4
  else if top = 0xFC then
    match s.ctx? w.ctx with
    | some c =>
      let g := c.grants[dieOf w.slot % 4]
      if o < g.2 * Config.plateBytes then .ok (dieAt (dieOf w.slot) + g.1 * Config.plateBytes + o) else .error 4
    | none => .error 4
  else if top = 0 then
    match s.leafOf w.cache w.ctx o fun e => permits e k with
    | some (e, size) => if permits e k then .ok (ptePa e + o % size) else .error 9
    | none => .error 8
  else .error 5

/-- Why a byte lies in no space that a form may name: step 3 of R164 on it. -/
def State.noSpace (s : State) (w : Who) (ea : Nat) : Option Nat :=
  if ea / 2 ^ 56 = 0 then none
  else match s.place w ea .read with | .ok _ => none | .error c => some c

/-- Byte by byte from ea: locations, or the first failing cause and byte. -/
def State.placeEach (s : State) (w : Who) (k : Acc) : Nat → Nat → Except (Nat × Nat) (List Nat)
  | _, 0 => .ok []
  | ea, n + 1 =>
    match s.place w ea k with
    | .error c => .error (c, ea)
    | .ok l =>
      match s.placeEach w k (ea + 1) n with
      | .error e => .error e
      | .ok ls => .ok (l :: ls)

/-- Where n bytes from ea lie: step 3 of R164 on every byte comes before step 4 on any. Bytes of one aligned 64-byte run
share a page and a plate row. -/
def State.locs (s : State) (w : Who) (ea n : Nat) (k : Acc) : Except (Nat × Nat) (List Nat) :=
  if ea % 64 + n ≤ 64 then
    match s.place w ea k with
    | .error c => .error (c, ea)
    | .ok l => .ok ((List.range n).map fun i => l + i)
  else match (List.range n).findSome? fun i => (s.noSpace w (ea + i)).map fun c => (c, ea + i) with
    | some e => .error e
    | none => s.placeEach w k ea n

/-- An address as an integer may lie outside [0, 2^64) (R163). -/
def State.locsI (s : State) (w : Who) (ea : Int) (n : Nat) (k : Acc) : Except (Nat × Nat) (List Nat) :=
  if 0 ≤ ea && ea < 2 ^ 64 then s.locs w ea.toNat n k else .error (5, (ea % 2 ^ 64).toNat)

/-- The bytes at a list of locations as a number. -/
def State.get (s : State) : List Nat → Nat
  | [] => 0
  | l :: r => (Memory.get s.mem l).toNat + 256 * s.get r

/-- Writes a number's bytes to a list of locations. -/
def putBytes (m : List Host.Cell) : List Nat → Nat → List Host.Cell
  | [], _ => m
  | l :: r, v => putBytes (Memory.set m l (BitVec.ofNat 8 v)) r (v / 256)

/-- Writes a number's bytes to a list of locations. -/
def State.put (s : State) (ls : List Nat) (v : Nat) : State := { s with mem := putBytes s.mem ls v }

/-- A translation that an access used stays in its cache (R331). -/
def State.keep (s : State) (w : Who) (ea : Nat) : State :=
  if ea / 2 ^ 56 % 256 ≠ 0 then s
  else match s.leafOf w.cache w.ctx ea fun _ => true with
    | some (e, size) => { s with caches := s.caches.keepLeaf w.cache w.ctx ea e size }
    | none => s

/-- The lines of global memory among a list of locations (R18, R21): window bytes are in no cache. -/
def globalLines (ls : List Nat) : List Nat := linesOf (ls.filter fun l => decide (l < Config.hbmBytes))

/-- What an access that is not a scalar one leaves in the caches: its leaf, no scalar L1 copy of its lines, and the lines in
their home slices (R22, R331, R352). No result depends on it. -/
def State.note (s : State) (w : Who) (ea : Nat) (ls : List Nat) : State :=
  let s1 := s.keep w ea
  ({ s1 with caches := s1.caches.l1Evict none (globalLines ls) }).l2Lines w.ctx (globalLines ls)

/-- What a scalar load leaves in the caches: its lines in the L1 of its core, and in their home slices unless that L1 held
them all (R22, R352). -/
def State.noteLoad (s : State) (w : Who) (ea : Nat) (ls : List Nat) : State :=
  let s1 := s.keep w ea
  let ns := globalLines ls
  if ns.all fun n => s1.caches.l1d.any fun x => x.core = coreOf w.slot && x.line = n then s1
  else ({ s1 with caches := ns.foldl (fun k n => k.l1Fill (coreOf w.slot) n) s1.caches }).l2Lines w.ctx ns

/-- What a scalar store or atomic leaves in the caches: no other core's L1 keeps its lines, the storing core's own copy is
updated, and the store goes through to the home slices (R22). -/
def State.noteStore (s : State) (w : Who) (ls : List Nat) : State :=
  ({ s with caches := s.caches.l1Evict (some (coreOf w.slot)) (globalLines ls) }).l2Lines w.ctx (globalLines ls)

/-- What an update in memory leaves in the caches (R176, R321): the slices give up their own copies of its lines. -/
def State.noteUpdate (s : State) (w : Who) (ea : Nat) (ls : List Nat) : State :=
  let s1 := s.keep w ea
  { s1 with caches := (s1.caches.l1Evict none (globalLines ls)).l2Drop (globalLines ls) }

/-! ### Stores that have been accepted and not performed (R230) -/

/-- A scalar store of a strand performs. -/
def State.storeNow (s : State) (w : Who) (ls : List Nat) (v : Nat) : State := (s.noteStore w ls).put ls v

/-- A store that a home slice itself, the host or an engine performs: no scalar L1 keeps its lines (R22). -/
def State.lineStore (s : State) (c : BitVec 16) (ls : List Nat) (v : Nat) : State :=
  (({ s with caches := s.caches.l1Evict none (globalLines ls) }).l2Lines c (globalLines ls)).put ls v

/-- Stores in order. -/
def State.storeAll (w : Who) : List (List Nat × Nat) → State → State
  | [], s => s
  | p :: r, s => State.storeAll w r (s.storeNow w p.1 p.2)

/-- Every store that the strand of a slot has accepted performs, in program order. -/
def State.flushLate (s : State) (k : Nat) : State :=
  let t := s.strand k
  if t.late.isEmpty then s
  else State.storeAll { slot := k, ctx := t.ctx, cache := coreOf k } t.late (s.modStrand k fun x => { x with late := [] })

/-- Every store that any strand has accepted performs. -/
def State.flushAll (s : State) : State :=
  ((s.slot :: (s.others.filter fun p => !p.2.late.isEmpty).map (·.1))).foldl State.flushLate s

/-! ### Grants -/

/-- The effective length of an entry (R33). -/
def Strand.effLen (t : Strand) (e : Entry) : Nat :=
  match t.trims.find? fun p => p.1 = e.grant with
  | some p => Nat.min e.len p.2
  | none => e.len

/-- The length that CSRR of VL returns (R33, R122). -/
def Strand.vlNow (t : Strand) : Nat :=
  match t.trims.find? fun p => p.1 = t.grant.id with
  | some p => Nat.min t.grant.len p.2
  | none => t.grant.len

/-- Sets the trim limit of a grant (R33). -/
def Strand.setTrim (t : Strand) (g n : Nat) : Strand := { t with trims := (g, n) :: t.trims.filter fun p => p.1 ≠ g }

/-- The sequence number of the oldest entry not completed (R32). -/
def Strand.vcpSeq (t : Strand) : BitVec 48 := match t.queue with | e :: _ => e.seq | [] => t.nextSeq

/-! ### The end of a strand -/

/-- Every strand of the machine, running, stopped or saved, with its slot. -/
def State.allStrands (s : State) : List (Nat × Strand) :=
  (s.slot, s.st) :: s.others ++ s.groups.flatMap (fun g => g.2.saved)
    ++ (s.shadow.toList.flatMap fun i => match i with | some x => x.strands | none => [])
    ++ s.spill.flatMap (·.strands)

/-- Whether an address lies in the text of an object. -/
def Obj.holds (o : Obj) (a : Nat) : Bool := decide (o.cbase ≤ a) && decide (a < o.cbase + 64 * o.lines)

/-- Whether references to an object remain (R249). -/
def State.refs (s : State) (o : Obj) : Bool :=
  (s.allStrands.any fun p =>
    p.2.stat ≠ .absent && (o.atts.contains p.2.ctx) && (o.holds p.2.pc.toNat || (p.2.trap.inh && o.holds p.2.trap.tpc.toNat)))
  || s.launches.any fun l => l.obj = o.handle &&
      (decide (l.next < l.groups) || s.groups.any fun g => g.2.ctx = l.ctx && g.2.lid = l.lid && !g.2.saved.isEmpty)

/-- 64 KiB pages of an object's text. -/
def Obj.textPages (o : Obj) : Nat := (64 * o.lines + 65535) / 65536

/-- Makes an object unloaded: its ranges are unmapped and its lines leave every L1 instruction cache (R248, R256). -/
def State.unloadObj (s : State) (o : Obj) : State :=
  let s1 := o.atts.foldl (fun x c => x.unmapPages c o.cbase (o.textPages + o.mpages)) s
  { s1 with
    objs := s1.objs.map fun x => if x.handle = o.handle then
      { x with st := .unloaded, latt := [], dicts := [], text := [], image := [] } else x,
    caches := { s1.caches with l1i := s1.caches.l1i.filter fun i => !(o.atts.contains i.ctx && o.holds i.line) } }

/-- Unloads every retiring object whose last reference has gone (R248). -/
def State.settleObjs (s : State) : State :=
  s.objs.foldl (fun x o => if o.st = .retiring && !x.refs o then x.unloadObj o else x) s

/-- Changes a launch. -/
def State.modLaunch (s : State) (c : BitVec 16) (lid : Nat) (f : Launch → Launch) : State :=
  { s with launches := s.launches.map fun l => if l.ctx = c && l.lid = lid then f l else l }

/-- A launch whose groups have all ended leaves, with report 0x80 (R281, R360). -/
def State.finishLaunch (s : State) (c : BitVec 16) (lid : Nat) : State :=
  match s.launches.find? fun l => l.ctx = c && l.lid = lid with
  | none => s
  | some l =>
    if l.ended < l.groups then s
    else
      let f := match l.failed with
        | some (cause, slot, tval) => [(24, 1), (25, cause), (26, slot), (32, tval.toNat)]
        | none => []
      ({ s with launches := s.launches.filter fun x => !(x.ctx = c && x.lid = lid) }).report
        (mkReport 0x80 0 c 0 ([(8, lid), (16, l.ended)] ++ f))

/-- A group, if it has been admitted and has not ended. -/
def State.group? (s : State) (g : Nat) : Option Group := (s.groups.find? fun p => p.1 = g).map (·.2)

/-- Changes a group. -/
def State.modGroup (s : State) (g : Nat) (f : Group → Group) : State :=
  { s with groups := s.groups.map fun p => if p.1 = g then (p.1, f p.2) else p }

/-- Whether a strand's copies, port commands and pushed words have all ended. -/
def Strand.bgDone (t : Strand) : Bool :=
  t.copies.all (·.status.isSome) && t.cmds.all (·.status.isSome) && t.colls.all (·.status.isSome)
    && t.streams.toList.all fun x => x.fifo.isEmpty

/-- Children of a strand that has ended return no allowance to whoever comes into its slot (R289). -/
def Strand.orphan (t : Strand) (k gkey : Nat) : Strand :=
  if t.parent = some k ∧ t.gkey = gkey then { t with parent := none } else t

/-- Takes a strand out of its slot: claims, deque ownership, parked waits and the lane allowance go back (R118, R273,
R289); issued copies, pushed words and port commands finish without it (R118, R227, R285). byExit tells how it ended. -/
def State.removeStrand (s : State) (k : Nat) (byExit : Bool) : State :=
  let s := s.flushLate k
  let t := s.strand k
  let s1 := { s with
    oslots := (s.oslots.map fun (p : Nat × OpSlot) =>
      if p.1 / 16 = coreOf k ∧ p.2.owner = some k then (p.1, { p.2 with owner := none }) else p).filter
      fun p => p.2 ≠ OpSlot.empty,
    claims := s.claims.filter fun x => x ≠ k,
    queues := s.queues.map fun (q : Queue) => if q.ctx ≠ t.ctx then q else { q with
      owner := if q.owner = some k then none else q.owner, parked := q.parked.filter fun x => x.slot ≠ k },
    ending := if t.bgDone then s.ending else s.ending ++ [(k, { t with queue := [] })] }
  let s2 := match t.parent with
    | none => s1
    | some p =>
      if (s1.strand p).stat = SStat.absent ∨ (s1.strand p).gkey ≠ t.gkey then s1
      else s1.modStrand p fun x => { x with
        csr := { x.csr with lanea := BitVec.ofNat 4 (Nat.min x.allow0.toNat (x.csr.lanea.toNat + t.csr.lanea.toNat)) },
        joins := x.joins.map fun (j : Join) =>
          if j.slot = k ∧ j.done = none then { j with done := some (if byExit then 1 else 2) } else j }
  let s3 := s2.putStrand k .empty
  ({ s3 with st := s3.st.orphan k t.gkey, others := s3.others.map fun (p : Nat × Strand) => (p.1, p.2.orphan k t.gkey) }).modGroup
    t.gkey fun g => { g with live := g.live.filter fun x => x ≠ k }

/-- Ends a group that has no strand left, and its launch with its last group (R281). -/
def State.finishGroup (s : State) (g : Nat) (failed : Option (Nat × Nat × Word)) : State :=
  match s.group? g with
  | none => s
  | some x =>
    if !x.live.isEmpty || !x.saved.isEmpty then s
    else
      let s1 := { s with groups := s.groups.filter fun p => p.1 ≠ g }
      ((s1.modLaunch x.ctx x.lid fun l =>
        { l with ended := l.ended + 1, failed := if l.failed.isSome then l.failed else failed }).finishLaunch
        x.ctx x.lid).settleObjs

/-- What report 0x81 tells (R360). -/
structure FailInfo where
  cause : Nat
  inner : Nat
  handled : Nat
  vec : Bool
  tval : Word
  tpc : BitVec 56
  tinst : BitVec 32
  deriving DecidableEq, Repr

/-- Ends a strand with a failure report and stops its group (R40, R285, R360). -/
def State.failStrand (s : State) (k : Nat) (i : FailInfo) : State :=
  let t := s.strand k
  let lid := match s.group? t.gkey with | some g => g.lid | none => 0
  let vcp := t.vcpSeq.toNat + t.queue.length * 2 ^ 48
  let s1 := s.report (mkReport 0x81 0 t.ctx 0
    [(8, i.cause), (9, bitN i.vec), (10, k), (12, i.inner), (13, i.handled), (16, i.tval.toNat), (24, i.tpc.toNat),
     (32, lid), (40, vcp), (48, i.tinst.toNat)])
  let s2 := s1.removeStrand k false
  match s2.group? t.gkey with
  | none => s2
  | some g =>
    let s3 := g.live.foldl (fun x m => x.removeStrand m false) s2
    (s3.modGroup t.gkey fun x => { x with saved := [] }).finishGroup t.gkey (some (i.cause, k, i.tval))

/-! ### Taking an exception and returning from one -/

/-- TSTAT as a delivery writes it (R72, R73). -/
def Strand.tstatNow (t : Strand) : BitVec 54 :=
  let p := match t.pfx with | some p => p.toNat + 2 ^ 26 | none => 0
  let c := match t.clause with
    | some c => c.pos * 2 ^ 27 + c.len * 2 ^ 30 + c.cnt.toNat * 2 ^ 33
    | none => 0
  BitVec.ofNat 54 (p + c)

/-- TINST: the head entry's word and payload when the trap point is the head entry, else the word at pc (R41). -/
def Strand.tinstNow (t : Strand) (vec : Bool) : BitVec 59 :=
  match vec, t.queue with
  | true, e :: _ =>
    BitVec.ofNat 59 (e.word.toNat + match e.pay with | some p => p.toNat * 2 ^ 32 + 2 ^ 58 | none => 0)
  | _, _ => t.ir.setWidth 59

/-- The head entry's operands when the trap point is the head entry, else zeros (R41). -/
def Strand.tqNow (t : Strand) (vec : Bool) : Opds :=
  match vec, t.queue with
  | true, e :: _ => e.opd
  | _, _ => { d := 0, a := 0, b := 0, c := 0 }

/-- Stops an entry at an element-group boundary (R45, R144): VSTART names the first element not complete. -/
def Strand.stopHead (t : Strand) : Strand :=
  if t.prog = 0 then t
  else { t with csr := { t.csr with vstart := if t.queue.isEmpty then t.csr.vstart else BitVec.ofNat 20 t.prog }, prog := 0 }

/-- Delivery of a strand-routed trap (R41, R42): the trap registers are written, IN is set, fetch goes to TVEC. -/
def Strand.deliver (t : Strand) (cause : Nat) (tval : Word) (vec : Bool) : Strand :=
  { t with
    trap := { t.trap with
      tpc := t.pc, code := BitVec.ofNat 8 cause, vec := vec, inh := true, tval := tval, tstat := t.tstatNow,
      tinst := t.tinstNow vec, tqa := (t.tqNow vec).d, tqb := (t.tqNow vec).a, tqc := (t.tqNow vec).b,
      tqd := (t.tqNow vec).c },
    pc := t.trap.tvec, pfx := none, pfxLive := false, clause := none, park := .none }

/-- The failure of a strand whose trap finds TVEC = 0 or IN = 1 (R40). -/
def Strand.failInfo (t : Strand) (cause : Nat) (tval : Word) (vec : Bool) : FailInfo :=
  if t.trap.inh then
    { cause := 0x30, inner := cause, handled := t.trap.code.toNat, vec := t.trap.vec, tval := t.trap.tval,
      tpc := t.trap.tpc, tinst := t.trap.tinst.setWidth 32 }
  else
    { cause := cause, inner := 0, handled := 0, vec := vec, tval := tval, tpc := t.pc,
      tinst := (t.tinstNow vec).setWidth 32 }

/-- A QPOP that is interrupted has not executed: it leaves the order of the parked ones (R42, R272). -/
def State.leaveParked (s : State) : State :=
  if s.st.park = .qpop then
    { s with queues := s.queues.map fun (q : Queue) =>
        if q.ctx ≠ s.st.ctx then q else { q with parked := q.parked.filter fun x => x.slot ≠ s.slot } }
  else s

/-- TAKING AN EXCEPTION (R40, R42): cause 0x08 goes to the Oasis kernel, and the strand will go on as if no trap had occurred,
a parked one from where it is parked; any other goes to the strand's handler; where there is none, or inside a handler, the
strand ends with report 0x81. -/
def State.trap (s : State) (cause : Nat) (tval : Word) (vec : Bool) : State :=
  if cause = 8 then
    s.mod fun t => { t with stat := .waiting { cause := 8, va := tval, vec := vec } }
  else if s.st.trap.inh || s.st.trap.tvec = 0 then s.failStrand s.slot (s.st.failInfo cause tval vec)
  else s.leaveParked.mod fun t => (if vec then { t with prog := 0 } else t.stopHead).deliver cause tval vec

/-- A trap raised by a scalar instruction. -/
def State.raise (s : State) (cause : Nat) (tval : Word) : Res := .next (s.trap cause tval false)

/-- The trap of a failing access (R40, R41, R334 to R336). byte is the failing byte, which a cause 0x08 is served for; a
permission violation is logged first, and waits while the log has no place (R384). -/
def State.trapAccess (s : State) (cause ea byte : Nat) (k : Acc) (vec : Bool) : State :=
  if cause = 9 then
    if s.hamada.places = 0 then s
    else (s.violation s.st.ctx s.slot (BitVec.ofNat 64 ea) k 0).trap 9 (BitVec.ofNat 64 ea) vec
  else s.trap cause (BitVec.ofNat 64 (if cause = 8 then byte else ea)) vec

/-- The trap of a check that a form makes before any of its elements: it is never counted as a violation (R336). -/
def State.trapCheck (s : State) (cause ea byte : Nat) (vec : Bool) : State :=
  s.trap cause (BitVec.ofNat 64 (if cause = 8 then byte else ea)) vec

/-- The clause that RETT restores from TSTAT: only when 1 ≤ CPOS ≤ CLEN (R73). -/
def clauseOfTstat (x : BitVec 54) : Option Clause :=
  let p := fld x.toNat 29 27
  let n := fld x.toNat 32 30
  if 1 ≤ p && p ≤ n then some { pos := p, len := n, cnt := BitVec.ofNat 21 (fld x.toNat 53 33), log := [] } else none

/-- RETURN FROM AN EXCEPTION (R44, R73): IN is cleared, the pending payload and clause position come from TSTAT, and
fetch continues at TPC. The head entry restarts from VSTART. -/
def Strand.returnFromTrap (t : Strand) : Strand :=
  { t with
    trap := { t.trap with inh := false },
    pc := t.trap.tpc,
    pfx := if t.trap.tstat.getLsbD 26 then some (t.trap.tstat.setWidth 26) else none,
    pfxLive := false,
    clause := clauseOfTstat t.trap.tstat }

/-! ### Scalar accesses -/

/-- A scalar access of n bytes at ea (R102): alignment, then the space, then translation and permission; on success k
runs with the locations, otherwise the trap is taken and nothing else happens. What k stores goes through storeNow. -/
def State.scalarAccess (s : State) (ea n : Nat) (a : Acc) (k : State → List Nat → Res) : Res :=
  if ea % n ≠ 0 then s.raise 7 (BitVec.ofNat 64 ea)
  else
    match s.locs s.me ea n a with
    | .error (c, byte) => .next (s.trapAccess c ea byte a false)
    | .ok ls => k (if a = .read then s.noteLoad s.me ea ls else s.keep s.me ea) ls

/-! ### Operand slots and waiting claims (R192 to R194) -/

/-- Operand slot n of the strand's core. -/
def State.oslot (s : State) (n : Nat) : OpSlot := lookup .empty (16 * coreOf s.slot + n) s.oslots

/-- Replaces operand slot n of the strand's core. -/
def State.setOslot (s : State) (n : Nat) (o : OpSlot) : State :=
  { s with oslots := store .empty (16 * coreOf s.slot + n) o s.oslots }

/-- Whether the strand owns a slot. -/
def State.owns (s : State) (n : Nat) : Bool := (s.oslot n).owner = some s.slot

/-- Slots a mask names. -/
def maskSlots (m : Word) : List Nat := (List.range 16).filter fun n => m.getLsbD n

/-- Whether MCLAIM refuses a mask: the strand owns a slot outside it, or it names more slots than the launch has (R193). -/
def State.claimRefused (s : State) (m : Word) : Bool :=
  ((List.range 16).filter s.owns).any (fun n => !(maskSlots m).contains n) || decide (s.st.lim.slots < (maskSlots m).length)

/-- An MCLAIM that has come to the head of its queue takes its place in the order of the claims (R194); one that traps or names
no slot has none. -/
def State.enterClaim (s : State) : State :=
  match s.st.queue with
  | { instr := .mclaim _, opd := o, .. } :: _ =>
    if o.a.toNat / 2 ^ 16 ≠ 0 || o.a = 0 || s.claimRefused o.a || s.claims.contains s.slot then s
    else { s with claims := s.claims ++ [s.slot] }
  | _ => s

/-- The same for the strand of a slot, which has come back (R192). -/
def State.enterClaimOf (s : State) (k : Nat) : State := (s.focus k).enterClaim.focus s.slot

end Sys2Proof.Machine
end

