-- ==== Sys2Proof/Machine/Queue.lean ====
section
/-! DEFINITION. Queues, task records and operator dispatch (17: R262 to R280). -/

namespace Sys2Proof.Machine

/-- OP of a record (R265). -/
def recOp (r : Nat) : Nat := fld r 15 0
/-- PRIO. -/
def recPrio (r : Nat) : Nat := fld r 18 16
/-- NOPD. -/
def recNopd (r : Nat) : Nat := fld r 21 19
/-- Dependence word n. -/
def recDep (r n : Nat) : Nat := r / 2 ^ (64 + 32 * n) % 2 ^ 32
/-- D0V or D1V. -/
def recDv (r n : Nat) : Bool := r / 2 ^ (22 + n) % 2 == 1
/-- Operand n. -/
def recOpd (r n : Nat) : Nat := r / 2 ^ (128 + 64 * n) % 2 ^ 64
/-- Tag byte of operand n. -/
def recTag (r n : Nat) : Nat := recOpd r n / 2 ^ 56

/-- Whether a pushed or appended record is valid on a queue (R266). -/
def recValid (q : Queue) (r : Nat) : Bool :=
  fld r 31 24 == 0 && fld r 63 62 == 0 && recNopd r != 7
    && (List.range 6).all (fun n => if n < recNopd r then recTag r n % 32 < 19 && recTag r n / 32 % 4 != 3
        else recOpd r n == 0)
    && (List.range 2).all fun n =>
        let d := recDep r n
        if recDv r n then
          d / 2 ^ 31 == 0 && decide (d % 65536 < q.depn)
            && !(decide (q.cvb ≤ d % 65536) && decide (d % 65536 < q.cvb + q.cvn))
        else d == 0

/-- A queue as an operation that comes after its destruction finds it (R264). -/
def Queue.grave (q : Queue) : Queue :=
  { q with isSealed := true, levels := Vector.replicate 8 [], parked := [], owner := none, cvn := 0 }

/-- The queue of a context at an address. -/
def State.queue? (s : State) (c : BitVec 16) (va : Nat) : Option Queue :=
  s.queues.find? fun q => q.ctx = c && q.va = va

/-- Replaces a queue. -/
def State.setQueue (s : State) (q : Queue) : State :=
  { s with queues := s.queues.map fun x => if x.ctx = q.ctx && x.va = q.va then q else x }

/-- Where counter n of a queue lies, while its page is mapped (R263). While the page migrates or is retired the home slice does not
read it (DESIGN CHOICE, log 125). -/
def State.counterAt (s : State) (q : Queue) (n : Nat) : Option (List Nat) :=
  match s.locs (walkerOf 0 q.ctx) (q.depb + 8 * n) 8 .queue with
  | .ok ls => some ls
  | .error _ => none

/-- Whether a record is ready: every valid dependence has counter ≥ target (R267). One whose counter cannot be read now is not ready
yet (DESIGN CHOICE, log 125). -/
def State.recReady (s : State) (q : Queue) (r : Nat) : Bool :=
  (List.range 2).all fun n =>
    !recDv r n || match s.counterAt q (recDep r n % 65536) with
      | some ls => decide (recDep r n / 65536 % 32768 ≤ s.get ls)
      | none => false

/-- Delivery of a record, which is ready, so that its counters have been found, frees the counter of its DEP0 when FREE is set (R267). -/
def State.recDelivered (s : State) (q : Queue) (r : Nat) : State :=
  if recDv r 0 && recDep r 0 / 2 ^ 31 == 1 then
    match s.counterAt q (recDep r 0 % 65536) with
    | some ls => s.lineStore q.ctx ls (2 ^ 63)
    | none => s
  else s

/-- Level of the queue that takes records of a priority. -/
def Queue.level (q : Queue) (prio : Nat) : Fin 8 := if q.deque then 0 else ⟨prio % 8, Nat.mod_lt _ (by decide)⟩

/-- Records in all levels. -/
def Queue.count (q : Queue) : Nat := (q.levels.toList.map List.length).sum

/-- Whether a level has room for n more records (R263). -/
def Queue.room (q : Queue) (prio n : Nat) : Bool := decide ((q.levels[q.level prio]).length + n ≤ 2 ^ q.capl)

/-- Removes the record with a sequence number. -/
def Queue.drop1 (q : Queue) (seq : BitVec 48) : Queue :=
  { q with levels := q.levels.map fun l => l.filter fun e => e.seq ≠ seq }

/-- Adds a record at the end of its level (tail, or top of a deque) or at its start (bottom), with a new number. -/
def Queue.add (q : Queue) (atEnd : Bool) (r : BitVec 512) : Queue :=
  let i := q.level (recPrio r.toNat)
  let e : QRec := { seq := q.nextSeq, data := r }
  { q with levels := q.levels.set i (if atEnd then q.levels[i] ++ [e] else e :: q.levels[i]),
           nextSeq := q.nextSeq + 1 }

/-- The highest level holding any record. -/
def Queue.topLevel (q : Queue) : List QRec :=
  ((List.range 8).map fun i => q.levels.toList.getD (7 - i) []).find? (fun l => !l.isEmpty) |>.getD []

/-- The selection of R272: the first ready of the first 8 records of the highest non-empty level. -/
def State.selectRec (s : State) (q : Queue) : Option QRec :=
  (q.topLevel.take 8).find? fun e => s.recReady q e.data.toNat

/-- Where the counters lie that the home slice reads to choose among records: those of each up to the first that is ready (R267). -/
def State.counterLocs (s : State) (q : Queue) : List QRec → List Nat
  | [] => []
  | e :: l =>
    let r := e.data.toNat
    ((List.range 2).flatMap fun n => if recDv r n then (s.counterAt q (recDep r n % 65536)).getD [] else [])
      ++ if s.recReady q r then [] else s.counterLocs q l

/-- The home slice reads counters: their lines come through their own home slices, and no scalar L1 keeps them (R21, R22). -/
def State.noteCounters (s : State) (q : Queue) (l : List QRec) : State :=
  let ns := globalLines (s.counterLocs q l)
  ({ s with caches := s.caches.l1Evict none ns }).l2Lines q.ctx ns

/-- The result word of a pop that delivers (R270). -/
def popWord (q : Queue) (e : QRec) : Word :=
  BitVec.ofNat 64 (e.seq.toNat + bitN q.isSealed * 2 ^ 49 + recPrio e.data.toNat * 2 ^ 50)

/-- The result word of a pop that delivers nothing (R270). -/
def emptyWord (isSealed : Bool) : Word := BitVec.ofNat 64 (2 ^ 48 + bitN isSealed * 2 ^ 49)

/-- A pop of the strand that w names takes record e: written to the buffer, removed, its counter freed (R267, R270). -/
def State.takeRec (s : State) (w : Who) (q : Queue) (e : QRec) (buf : List Nat) : State :=
  ((s.storeNow w buf e.data.toNat).setQueue (q.drop1 e.seq)).recDelivered q e.data.toNat

/-- Completes the QPOP a strand is parked at. -/
def State.finishPop (s : State) (k : Nat) (d : SReg) (v : Word) : State :=
  s.modStrand k fun t => (t.setR d v).advance.wake

/-- Whether a strand stands parked in a QPOP: one that waits for the Oasis kernel keeps its place (R40, R272). -/
def Strand.popParked (t : Strand) (c : BitVec 16) : Bool :=
  t.stat != .absent && t.stat != .halted && t.ctx = c && t.park = .qpop

/-- The home slice serves the parked QPOPs in arrival order (R272), each into the buffer that it translated before it parked
(R269). -/
def State.serveParked (c : BitVec 16) (va : Nat) : Nat → State → State
  | 0, s => s
  | n + 1, s =>
    match s.queue? c va with
    | none => s
    | some q =>
      match q.parked with
      | [] => s
      | p :: rest =>
        if !(s.strand p.slot).popParked c then s
        else
          let s := s.noteCounters q (q.topLevel.take 8)
          match s.selectRec q with
          | some e =>
            State.serveParked c va n ((s.takeRec { slot := p.slot, ctx := c, cache := coreOf p.slot }
              { q with parked := rest } e p.locs).finishPop p.slot p.dst (popWord q e))
          | none =>
            if q.isSealed && q.count = 0 then
              State.serveParked c va n ((s.setQueue { q with parked := rest }).finishPop p.slot p.dst (emptyWord true))
            else s

/-- Serves the parked QPOPs of a queue. -/
def State.serve (s : State) (c : BitVec 16) (va : Nat) : State :=
  match s.queue? c va with
  | some q => State.serveParked c va q.parked.length s
  | none => s

/-- Bytes of a queue from its header on (R262). -/
def queueBytes (capl : Nat) : Nat := 128 + 8 * 2 ^ capl * 64

/-- Whether a parked QPOP holds a translation of a page that meets [va, va + len): its queue's, or its buffer's (R269). -/
def State.translationHeld (s : State) (c : BitVec 16) (va len : Nat) : Bool :=
  let meets := fun (a n : Nat) => decide (a / 65536 * 65536 < va + len) && decide (va < (a + n + 65535) / 65536 * 65536)
  s.queues.any fun q => q.ctx = c && !q.parked.isEmpty &&
    (meets q.va (queueBytes q.capl) || q.parked.any fun p => meets p.buf 64)

/-- The queue that step 3 of R269 finds: that at the address, or its grave for an operation that has passed the step before
the destruction (R264). -/
def State.queueFor (s : State) (c : BitVec 16) (va : Nat) : Option Queue :=
  match s.queue? c va with
  | some q => some q
  | none => if s.passed then s.graves.find? fun q => q.ctx = c && q.va = va else none

/-- Steps 1 to 3 of R269 on a queue address; kind: none any, some b a FIFO queue (false) or a deque (true). The error is
a cause with TVAL. -/
def State.queueAt (s : State) (sq : Word) (kind : Option Bool) : Except (Nat × Word) Queue :=
  if sq.toNat % 128 ≠ 0 then .error (7, sq)
  else if sq.toNat / 2 ^ 56 ≠ 0 then .error (2, 0)
  else
    match s.leafOf (coreOf s.slot) s.st.ctx sq.toNat pteQ with
    | none => .error (8, sq)
    | some (e, _) =>
      if !pteQ e then .error (2, 0)
      else
        match s.queueFor s.st.ctx sq.toNat with
        | none => .error (2, 0)
        | some q => if kind = none || kind = some q.deque then .ok q else .error (2, 0)

/-- The owner test of QPUSHB and QPOPB: the strand owns the deque, or nobody does (R269, R273). -/
def Queue.ownedBy (q : Queue) (k : Nat) : Bool := q.owner = none || q.owner = some k

/-- QPUSH and QPUSHB over R269 to R271. A queue operation at the home slice of the header leaves no line of the queue in L2 (DESIGN
CHOICE, log 117). -/
def State.pushForm (s : State) (d a b : SReg) (bottom : Bool) : Res :=
  match s.queueAt (s.r a) (if bottom then some true else none) with
  | .error (c, tv) => s.raise c tv
  | .ok q =>
    if bottom && !q.ownedBy s.slot then s.raise 2 0
    else
      s.scalarAccess (s.r b).toNat 64 .read fun s ls =>
        let r := s.get ls
        if !recValid q r then s.raise 2 0
        else
          let q := if bottom then { q with owner := some s.slot } else q
          let full := !q.room (recPrio r) 1
          if full || q.isSealed then
            (s.setQueue q).result d (BitVec.ofNat 64 (bitN full * 2 ^ 48 + bitN q.isSealed * 2 ^ 49))
          else
            (((s.setQueue (q.add (!bottom) (BitVec.ofNat 512 r))).setR d (q.nextSeq.setWidth 64)).advance.serve q.ctx q.va)
            |> .next

/-- QPUSH (R271). -/
def execQpush (d a b : SReg) (s : State) : Res := s.pushForm d a b false

/-- QPUSHB (R271, R273). -/
def execQpushb (d a b : SReg) (s : State) : Res := s.pushForm d a b true

/-- QPOP (R272): served at once, or parked behind the others. A parked QPOP waits for its home slice. -/
def execQpop (d a b : SReg) (s : State) : Res :=
  if s.st.park = .qpop then .next (s.serve s.st.ctx (s.r a).toNat)
  else
    match s.queueAt (s.r a) (some false) with
    | .error (c, tv) => s.raise c tv
    | .ok q =>
      s.scalarAccess (s.r b).toNat 64 .rw fun s ls =>
        let s := if q.parked.isEmpty then s.noteCounters q (q.topLevel.take 8) else s
        match (if q.parked.isEmpty then s.selectRec q else none) with
        | some e => (s.takeRec s.me q e ls).result d (popWord q e)
        | none =>
          if q.isSealed && q.count = 0 then s.result d (emptyWord true)
          else
            .next ((s.setQueue { q with parked := q.parked ++ [{ slot := s.slot, dst := d, buf := (s.r b).toNat, locs := ls }] }).mod
              fun t =>
              { t with park := .qpop })

/-- QPOPB and QSTEAL over a window of 8 records nearest one end (R273). -/
def State.popEnd (s : State) (d a b : SReg) (bottom : Bool) : Res :=
  match s.queueAt (s.r a) (some true) with
  | .error (c, tv) => s.raise c tv
  | .ok q =>
    if bottom && !q.ownedBy s.slot then s.raise 2 0
    else
      s.scalarAccess (s.r b).toNat 64 .rw fun s ls =>
        let q := if bottom then { q with owner := some s.slot } else q
        let l := (if bottom then q.levels[0] else q.levels[0].reverse).take 8
        let s := s.noteCounters q l
        match l.find? fun e => s.recReady q e.data.toNat with
        | some e => (s.takeRec s.me q e ls).result d (popWord q e)
        | none => (s.setQueue q).result d (emptyWord q.isSealed)

/-- QPOPB (R273). -/
def execQpopb (d a b : SReg) (s : State) : Res := s.popEnd d a b true

/-- QSTEAL (R273). -/
def execQsteal (d a b : SReg) (s : State) : Res := s.popEnd d a b false

/-- QLEN (R275); of a queue destroyed meanwhile SEALED alone is set (R264). -/
def execQlen (d a : SReg) (s : State) : Res :=
  match s.queueAt (s.r a) none with
  | .error (c, tv) => s.raise c tv
  | .ok q =>
    if (s.queue? q.ctx q.va).isNone then s.result d (BitVec.ofNat 64 (2 ^ 56))
    else s.result d (BitVec.ofNat 64 (q.count % 2 ^ 24 + Nat.min q.drop 65535 * 2 ^ 32
      + Nat.min q.parked.length 255 * 2 ^ 48 + bitN q.isSealed * 2 ^ 56 + bitN q.deque * 2 ^ 57))

/-! ### Method tables -/

/-- A method entry (R276): OP, the tags of its N operands, ROUT. -/
structure Method where
  op : Nat
  tags : List Nat
  rout : Nat
  deriving DecidableEq, Repr

/-- The method entry whose 16 bytes are a number. -/
def methodOf (v : Nat) : Method :=
  { op := v % 65536, tags := (List.range (v / 65536 % 256)).map fun i => v / 2 ^ (32 + 8 * i) % 256, rout := v / 2 ^ 96 }

/-- The entries of a resident table that lies in memory at consecutive 16-byte places, read as a core reads memory. -/
def State.readMethods (s : State) (w : Who) (base : Nat) : Nat → Except (Nat × Nat) (State × List Method)
  | 0 => .ok (s, [])
  | n + 1 =>
    match s.locs w base 16 .read with
    | .error e => .error e
    | .ok ls =>
      match (s.noteLoad w base ls).readMethods w (base + 16) n with
      | .error e => .error e
      | .ok (s1, r) => .ok (s1, methodOf (s.get ls) :: r)

/-- The method table that MTAB names, with its CBASE (R276); no entry when BASE is 0. -/
def State.methods (s : State) : Except (Nat × Nat) (State × Nat × List Method) :=
  let base := s.st.csr.mtab.toNat
  if base = 0 then .ok (s, 0, [])
  else
    match s.locs s.me base 16 .read with
    | .error e => .error e
    | .ok ls =>
      let h := s.get ls
      match (s.noteLoad s.me base ls).readMethods s.me (base + 16) (h % 2 ^ 32) with
      | .error e => .error e
      | .ok (s1, ms) => .ok (s1, h / 2 ^ 64, ms)

/-- The positions at which tags differ. -/
def tagDiff (t g : List Nat) : List Nat := (List.range t.length).filter fun p => t.getD p 256 ≠ g.getD p 256

/-- Whether a conversion method from x to y exists (R276, R278). -/
def convExists (ms : List Method) (x y : Nat) : Bool := ms.any fun m => m.op = 0xFFFF && m.tags = [x, y]

/-- The conversion plan of R278: the first method with the fewest conversions, one or two. -/
def planOf (ms : List Method) (op : Nat) (t : List Nat) : Option (Method × List Nat) :=
  ms.foldl (fun best m =>
    if m.op = op && m.tags.length = t.length then
      let p := tagDiff t m.tags
      if p.all (fun i => convExists ms (t.getD i 256) (m.tags.getD i 256)) && decide (1 ≤ p.length)
          && decide (p.length ≤ 2)
          && (match best with | none => true | some b => decide (p.length < b.2.length)) then some (m, p)
      else best
    else best) none

/-- TVAL of cause 0x18 (R278): positions at and above n give 0xFF, but for a record with NOPD 7. -/
def noMethodTval (r : Nat) : Word :=
  let n := if recNopd r = 7 then 6 else recNopd r
  BitVec.ofNat 64 (recOp r * 2 ^ 48
    + ((List.range 6).map fun p => (if p < n then recTag r p else 255) * 2 ^ (8 * p)).sum)

/-- A conversion record (R279). -/
def convRecord (r p tag c : Nat) : Nat :=
  0xFFFF + recPrio r * 2 ^ 16 + 2 * 2 ^ 19 + 2 ^ 24 + fld r 63 32 * 2 ^ 32 + c * 2 ^ 96 + recOpd r p * 2 ^ 128
    + (recOpd r p % 2 ^ 56 + tag * 2 ^ 56) * 2 ^ 192

/-- The original as it is put back (R279). -/
def waitRecord (r : Nat) (p : List Nat) (tags : List Nat) (c : Nat) : Nat :=
  let opd := fun i => if p.contains i then recOpd r i % 2 ^ 56 + tags.getD i 0 * 2 ^ 56 else recOpd r i
  fld r 21 0 + 2 ^ 22 + fld r 63 24 * 2 ^ 24 + (c + p.length * 2 ^ 16 + 2 ^ 31) * 2 ^ 64
    + ((List.range 6).map fun i => opd i * 2 ^ (128 + 64 * i)).sum

/-- The insertion of R279, or its refusal. The ring counter is found through the core's translations, and where its page is not
mapped just then, the access waits for the Oasis kernel as any other does (R335; DESIGN CHOICE, log 125). -/
def State.insertPlan (s : State) (d : SReg) (q : Queue) (r : Nat) (m : Method) (p : List Nat) : Res :=
  let c := q.cvb + q.cvnext % q.cvn
  let refuse : Res := s.result d 3
  if q.isSealed || q.cvn = 0 || !q.room (recPrio r) (p.length + 1) then refuse
  else
    match s.locs s.me (q.depb + 8 * c) 8 .queue with
    | .error (cause, byte) => .next (s.trapAccess cause (q.depb + 8 * c) byte .queue false)
    | .ok ls =>
      let s := s.note s.me (q.depb + 8 * c) ls
      if s.get ls < 2 ^ 63 then s.result d 3
      else
        let i := q.level (recPrio r)
        let recs := (p.map fun x => convRecord r x (m.tags.getD x 0) c) ++ [waitRecord r p m.tags c]
        let es : List QRec := (List.range recs.length).map fun n =>
          { seq := q.nextSeq + BitVec.ofNat 48 n, data := BitVec.ofNat 512 (recs.getD n 0) }
        let q' := { q with levels := q.levels.set i (es ++ q.levels[i]), cvnext := q.cvnext + 1,
                           nextSeq := q.nextSeq + BitVec.ofNat 48 recs.length }
        .next ((((s.storeNow s.me ls 0).setQueue q').setR d 1).advance.serve q.ctx q.va)

/-- DISPATCH (R277 to R279). -/
def execDispatch (d a b : SReg) (s : State) : Res :=
  s.scalarAccess (s.r a).toNat 64 .read fun s ls =>
    let r := s.get ls
    let t := (List.range (recNopd r)).map fun p => recTag r p
    match s.methods with
    | .error (c, ea) => .next (s.trapAccess c ea ea .read false)
    | .ok (s, cbase, ms) =>
      match ms.find? fun m => m.op = recOp r && m.tags = t with
      | some m =>
        .next ((s.setR d ((s.st.pc + 4).setWidth 64)).jump (BitVec.ofNat 56 (cbase + m.rout)))
      | none =>
        match planOf ms (recOp r) t with
        | none => s.raise 0x18 (noMethodTval r)
        | some (m, p) =>
          match s.queueAt (s.r b) none with
          | .error (c, tv) => s.raise c tv
          | .ok q => s.insertPlan d q r m p

/-- Whether a DISPATCH is about to insert records, which alone makes it a release (R231, R279). -/
def State.dispatchInserts (s : State) (a b : SReg) : Bool :=
  match s.locs s.me (s.r a).toNat 64 .read, s.methods with
  | .ok ls, .ok (_, _, ms) =>
    let r := s.get ls
    let t := (List.range (recNopd r)).map fun p => recTag r p
    (s.r a).toNat % 64 = 0 && !(ms.any fun m => m.op = recOp r && m.tags = t) && (planOf ms (recOp r) t).isSome
      && (match s.queueAt (s.r b) none with
        | .ok q => !q.isSealed && q.cvn ≠ 0
        | .error _ => false)
  | _, _ => false

/-- The checks of a jump target (R106): its low bits, then its space. -/
def jumpFault (t : Word) : Option Nat :=
  if t.toNat % 4 ≠ 0 then some 7 else if t.toNat / 2 ^ 56 ≠ 0 then some 5 else none

/-- DRET (R280). -/
def execDret (d a b : SReg) (s : State) : Res :=
  let t := s.r a
  match jumpFault t with
  | some c => s.raise c t
  | none =>
    s.scalarAccess (s.r b).toNat 64 .read fun s ls =>
      let r := s.get ls
      if r / 2 ^ 24 % 2 = 0 then .next (s.jump (t.setWidth 56))
      else
        match s.queueAt (s.r d) none with
        | .error (c, tv) => s.raise c tv
        | .ok q =>
          s.scalarAccess (q.depb + 8 * (recDep r 1 % 65536)) 8 .rw fun s cs =>
            .next (((s.storeNow s.me cs (s.get cs + 1)).jump (t.setWidth 56)).serve q.ctx q.va)

/-- DEPENDENCE_READY (R267, R272): the home slice of a queue reads its counters again and serves what has become
ready. -/
def execDependenceReady (c : BitVec 16) (q : Word) (s : State) : Res := .next (s.serve c q.toNat)

end Sys2Proof.Machine
end

