-- ==== Sys2Proof/Machine/Lines.lean ====
section
/-! DEFINITION. The L1 instruction caches: lines of resident text, their expansion and pinning (16: R254 to R256). -/

namespace Sys2Proof.Machine

/-- A number from a byte list at an offset. -/
def numAt (b : List Byte) (o n : Nat) : Nat := bytesToNat ((b.drop o).take n)

/-- 1 bits of a number below bit n. -/
def bitsBelow (x n : Nat) : Nat := ((List.range n).map fun i => x / 2 ^ i % 2).sum

/-- Word n of a compressed line (R254). -/
def expandWord (dict : List (BitVec 32)) (line : List Byte) (n : Nat) : BitVec 32 :=
  let hit := numAt line 0 2
  let h := bitsBelow hit 16
  if hit / 2 ^ n % 2 = 1 then dict.getD (numAt line (2 + bitsBelow hit n) 1) 0
  else BitVec.ofNat 32 (numAt line (2 + h + 4 * (n - bitsBelow hit n)) 4)

/-- The object whose text an address of a context lies in. -/
def State.objAt (s : State) (c : BitVec 16) (a : Nat) : Option Obj :=
  s.objs.find? fun o => o.st ≠ .unloaded && o.atts.contains c && o.holds a

/-- Whether an address lies in the former text of an object that was attached to a context when it was unloaded (R248). -/
def State.formerText (s : State) (c : BitVec 16) (a : Nat) : Bool :=
  s.objs.any fun o => o.st = .unloaded && o.atts.contains c && o.holds a

/-- Where a core reads line n of an object: its LATT entry and its compressed bytes (R254, R255), in the image of the object that
the Oasis kernel keeps in its own memory: the LATT, the dictionaries, the compressed text. -/
def Obj.fillLocs (o : Obj) (n : Nat) : List Nat :=
  let at_ := Config.residentAt o.handle
  let off := fld (o.latt.getD n 0).toNat 39 0
  let len := 66 - 3 * bitsBelow (numAt (o.text.drop off) 0 2) 16
  let text := at_ + 8 * o.latt.length + ((o.dicts.map fun d => 4 * d.length).sum) + off
  ((List.range 8).map fun i => at_ + 8 * n + i) ++ (List.range len).map fun i => text + i

/-- Line n of an object's text, expanded through its LATT entry and its kernel's dictionary. -/
def Obj.expand (o : Obj) (n : Nat) : Vector (BitVec 32) 16 :=
  let e := (o.latt.getD n 0).toNat
  Vector.ofFn fun i => expandWord (o.dicts.getD (fld e 45 40) []) (o.text.drop (fld e 39 0)) i.val

/-- Lines of the 64 KiB cache of one core. -/
def l1iLines : Nat := 1024

/-- Drops the oldest line of a core that is not pinned. The newest lines stand first. -/
def evictLine (core : Nat) (l : List ILine) : List ILine :=
  match l.reverse.findIdx? fun x => x.core = core && !x.pin with
  | some n => l.eraseIdx (l.length - 1 - n)
  | none => l

/-- Line numbers of an object that a kernel of it pins. -/
def Obj.pinned (o : Obj) (kix : Nat) : List Nat := match o.kernels[kix]? with
  | some k => k.pins.flatMap fun p => (List.range p.2).map (p.1 + ·)
  | none => []

/-- The kernels whose pinned lines a core holds for a context, with the lines in all: taken in the order of their first
admission to the core, those that would pass the quota of 256 lines left out (R256). -/
def State.pinHolders (s : State) (core : Nat) (c : BitVec 16) : List (Nat × Nat) × Nat :=
  s.admitted.foldl (fun (x : List (Nat × Nat) × Nat) p =>
    if p.1 ≠ core || p.2.1 ≠ c then x
    else match s.objs.find? fun o => o.handle = p.2.2.1 && o.st ≠ .unloaded with
      | none => x
      | some o =>
        let n := (o.pinned p.2.2.2).length
        if x.2 + n ≤ 256 then (x.1 ++ [(p.2.2.1, p.2.2.2)], x.2 + n) else x) ([], 0)

/-- Whether line n of an object is held in the cache of a core (R256). -/
def State.lineHeld (s : State) (core : Nat) (c : BitVec 16) (o : Obj) (n : Nat) : Bool :=
  (o.latt.getD n 0).getLsbD 46 && (s.pinHolders core c).1.any fun p => p.1 = o.handle && (o.pinned p.2).contains n

/-- Fills the line at an address of a context (R255, R256). The LATT entry and the compressed bytes are read through their home
slices. -/
def State.fillLine (s : State) (core : Nat) (c : BitVec 16) (va : Nat) : State :=
  let line := va / 64 * 64
  if s.caches.l1i.any fun x => x.core = core && x.ctx = c && x.line = line then s
  else match s.objAt c line with
    | none => s
    | some o =>
      let n := (line - o.cbase) / 64
      let mine := s.caches.l1i.filter fun x => x.core = core
      let l := if l1iLines ≤ mine.length then evictLine core s.caches.l1i else s.caches.l1i
      ({ s with caches := { s.caches with
        l1i := { core := core, ctx := c, line := line, words := o.expand n, pin := s.lineHeld core c o n } :: l } }).l2Lines c
        (globalLines (o.fillLocs n))

/-- The kernels of a context's strands on its cores hold their pinned lines again when it has come back to them: they are loaded
as strands fetch them (R256), in the order of the strand slots (DESIGN CHOICE, log 115). -/
def State.readmit (s : State) (c : BitVec 16) (slots : List Nat) : State :=
  slots.foldl (fun x k =>
    match (x.group? (x.strand k).gkey).bind fun g => x.launches.find? fun l => l.ctx = c && l.lid = g.lid with
    | none => x
    | some l =>
      let a := (coreOf k, c, l.obj, l.kix)
      if x.admitted.contains a then x else { x with admitted := x.admitted ++ [a] }) s

/-- A kernel of a context comes to a core: at its first admission there the lines it pins are loaded and held (R256). -/
def State.admitKernel (s : State) (core : Nat) (c : BitVec 16) (o : Obj) (kix : Nat) : State :=
  if s.admitted.contains (core, c, o.handle, kix) then s
  else
    let s1 := { s with admitted := s.admitted ++ [(core, c, o.handle, kix)] }
    if !(s1.pinHolders core c).1.contains (o.handle, kix) then s1
    else (o.pinned kix).foldl (fun (x : State) n =>
      ({ x with caches := { x.caches with
        l1i := x.caches.l1i.filter fun i => !(i.core = core && i.ctx = c && i.line = o.cbase + 64 * n) } }).fillLine core c (o.cbase + 64 * n)) s1

end Sys2Proof.Machine
end

