-- ==== Sys2Proof/Machine/Group.lean ====
section
/-! DEFINITION. Groups, admission, fork and join, and the barriers' scalar forms (18: R281 to R291; 19: R292 to R296;
the generator's start, R315). -/

namespace Sys2Proof.Machine

/-! ### Work identifiers and generators -/

/-- Width of field n of WIDF; 0 for n ≥ NF (R115). -/
def widW (w : BitVec 45) (n : Nat) : Nat := if n < fld w.toNat 44 42 then fld w.toNat (7 * n + 6) (7 * n) else 0

/-- Field n of a work identifier (R115). -/
def widField (w : BitVec 45) (id : Word) (n : Nat) : Nat :=
  if n < fld w.toNat 44 42 then
    id.toNat / 2 ^ ((List.range n).map (widW w)).sum % 2 ^ widW w n
  else 0

/-- The multipliers M_j (R303). -/
def sketchMul (j : Nat) : Word :=
  [0xA4D16C37E2B95F0B, 0x6F3B9A25C8E1D473, 0xD72E41B80F9C6A35, 0x3B95E6D27A41C80F, 0xE1C835AF946D2B17,
   0x58F2B07ED3A6914D, 0xB36AD9C14E85F729].getD j 0

/-- One round of the mixing function (R315). -/
def mixRound (key : Word) (p : Word × Word) (r : Nat) : Word × Word :=
  let x := p.1 + p.2 + key + BitVec.ofNat 64 r * 0x8C1F6E49D2A73B65
  let y := (p.2.rotateLeft ([13, 29, 41, 7, 53, 19].getD r 0)) ^^^ x
  (x * sketchMul r, y)

/-- mix(K, C) (R315). -/
def mix (key : Word) (c : BitVec 128) : Word :=
  let p := (List.range 6).foldl (mixRound key) (c.extractLsb' 0 64, c.extractLsb' 64 64)
  p.1 ^^^ p.2.rotateLeft 32

/-- The generator key of a new strand (R315). -/
def State.newKey (s : State) (c : BitVec 16) (wid : Word) : Word :=
  mix (match s.ctx? c with | some x => x.gseed | none => 0) (wid.setWidth 128)

/-! ### Placement -/

/-- Whether a context has left its clusters (R344). -/
def State.awayCtx (s : State) (c : BitVec 16) : Bool :=
  match s.ctx? c with | some x => x.st == .swapped || x.st == .saved | none => false

/-- The strands that hold something of a core: those in its slots and those that a pre-emption has saved from them (R282, R284), but
for what a context that has left the cluster has taken along (R344). -/
def State.holders (s : State) (core : Nat) : List Strand :=
  (((s.slot, s.st) :: s.others ++ s.groups.flatMap fun g => if s.awayCtx g.2.ctx then [] else g.2.saved).filter fun p =>
    coreOf p.1 = core && p.2.stat ≠ .absent).map (·.2)

/-- Free strand slots of a core, lowest first. -/
def State.freeSlots (s : State) (core : Nat) : List Nat :=
  ((List.range 8).map fun i => 8 * core + i).filter fun k => (s.strand k).stat = .absent

/-- The least start of n free places out of m, where busy lists held ranges [a, b). -/
def freeRun (busy : List (Nat × Nat)) (m n : Nat) : Option Nat :=
  (List.range (m + 1 - n)).find? fun a => a + n ≤ m && busy.all fun r => a + n ≤ r.1 || r.2 ≤ a || r.1 = r.2 || n = 0

/-- The least run of accumulator rows (R282). -/
def State.freeRows (s : State) (core n : Nat) : Option Nat :=
  freeRun ((s.holders core).map fun t => (t.csr.accbase.toNat, t.csr.acclim.toNat)) 4096 n

/-- STRMAP.CNT. -/
def Strand.strCnt (t : Strand) : Nat := fld t.csr.strmap.toNat 9 5

/-- The least run of streams (R212, R282). -/
def State.freeStreams (s : State) (core n : Nat) : Option Nat :=
  freeRun ((s.holders core).map fun t => (t.csr.strmap.toNat % 32, t.csr.strmap.toNat % 32 + t.strCnt)) 32 n

/-- The core of a cluster on which the next strand of a kernel stands: most free slots among those with rows and streams,
ties to the lowest (R282). -/
def State.pickCore (s : State) (cluster rows streams : Nat) : Option Nat :=
  ((List.range 8).map fun i => 8 * cluster + i).foldl (fun best c =>
    if (s.freeSlots c).isEmpty || (s.freeRows c rows).isNone || (s.freeStreams c streams).isNone then best
    else match best with
      | none => some c
      | some b => if (s.freeSlots b).length < (s.freeSlots c).length then some c else best) none

/-- A strand as admission starts it (R257, R283). -/
def startStrand (s : State) (l : Launch) (k : Kernel) (gkey g i row str : Nat) : Strand :=
  let wid := BitVec.ofNat 64 (g * 2 ^ widW k.widf 0 + i)
  let allow := 2 ^ fld l.lane.toNat 5 4
  { Strand.empty with
    stat := .running, ctx := l.ctx, gkey := gkey, wid := wid,
    lim := { tiles := k.tiles, slots := k.slots, strands := k.strands }, allow0 := BitVec.ofNat 4 allow,
    pc := k.entry.setWidth 56,
    regs := Vector.ofFn fun n => if n.val = 0 || 15 < n.val then 0 else l.s.toList.getD (n.val - 1) 0,
    csr := { Csrs.reset with
      widf := k.widf, lanew := l.lane.setWidth 4, lanea := BitVec.ofNat 4 allow, accbase := BitVec.ofNat 13 row,
      acclim := BitVec.ofNat 13 (row + k.accrows), strmap := BitVec.ofNat 10 (str + 32 * k.streams), mtab := k.mtab },
    trap := { TrapRegs.reset with tvec := k.tvec.setWidth 56 },
    key := s.newKey l.ctx wid }

/-- Places strands i, i + 1, … of a group one after the other (R282). -/
def State.placeStrands (s : State) (l : Launch) (k : Kernel) (cluster gkey g : Nat) : Nat → Nat → Option (State × List Nat)
  | 0, _ => some (s, [])
  | n + 1, i =>
    match s.pickCore cluster k.accrows k.streams with
    | none => none
    | some c =>
      match s.freeSlots c, s.freeRows c k.accrows, s.freeStreams c k.streams with
      | slot :: _, some row, some str =>
        match (s.putStrand slot (startStrand s l k gkey g i row str)).placeStrands l k cluster gkey g n (i + 1) with
        | none => none
        | some (s', ks) => some (s', slot :: ks)
      | _, _, _ => none

/-- Whether two groups of a launch agree in fields 2 and above of their identifiers (R258, R282): the group number stands
above field 0. -/
def sameUpper (w : BitVec 45) (g h : Nat) : Bool :=
  let id := fun (x : Nat) => BitVec.ofNat 64 (x * 2 ^ widW w 0)
  (List.range 7).all fun n => decide (n < 2) || widField w (id g) n == widField w (id h) n

/-- The best cluster of a list: most free slots, ties to the lowest (R282). -/
def State.bestCluster (s : State) (cs : List Nat) : Option Nat :=
  let free := fun c => (((List.range 8).map fun i => (s.freeSlots (8 * c + i)).length).sum)
  cs.foldl (fun b c => match b with | none => some c | some x => if free x < free c then some c else b) none

/-- Whether a cluster is out of service (R351). -/
def State.clusterOut (s : State) (n : Nat) : Bool :=
  s.pkg.badUnits.any fun u => match u with | .cluster m => m.val = n | _ => false

/-- Puts a group of a launch onto a cluster of the partition (R282); none where no cluster takes it whole. -/
def State.placeGroup (s : State) (l : Launch) (k : Kernel) (g : Nat) : Option State :=
  match s.ctx? l.ctx with
  | none => none
  | some x =>
    let gkey := s.nextGroup
    let fits := (List.range 32).filter fun c =>
      x.clu.getLsbD c && !s.clusterOut c && (s.placeStrands l k c gkey g k.strands 0).isSome
    let near := fits.filter fun c => s.groups.any fun h =>
      h.2.ctx = l.ctx && h.2.lid = l.lid && h.2.saved.isEmpty && h.2.cluster / 8 = c / 8 && sameUpper k.widf g h.2.num
    match s.bestCluster (if near.isEmpty then fits else near) with
    | none => none
    | some c =>
      match s.placeStrands l k c gkey g k.strands 0 with
      | none => none
      | some (s', slots) =>
        let grp : Group := { ctx := l.ctx, lid := l.lid, num := g, cluster := c, prio := l.prio, live := slots,
                             saved := [], bars := Vector.replicate 8 .idle }
        some ({ s' with groups := (gkey, grp) :: s'.groups, nextGroup := gkey + 1 })

/-- Claims and deques of a saved strand are kept under a mark that no slot number has (R273, R284). -/
def savedOwner (gkey k : Nat) : Nat := k + 2048 * gkey

/-- Renames the owner of operand slots, and of deques of a context. -/
def State.reown (s : State) (c : BitVec 16) (a b : Nat) : State :=
  { s with
    oslots := s.oslots.map (fun (p : Nat × OpSlot) => if p.2.owner = some a then (p.1, { p.2 with owner := some b }) else p),
    queues := s.queues.map fun (q : Queue) =>
      { q with owner := if q.ctx = c ∧ q.owner = some a then some b else q.owner } }

/-- A VWAIT that is stopped tests every element again (R175). -/
def Entry.again (e : Entry) : Entry :=
  match e.instr with
  | .vwait _ _ _ _ _ _ => { e with done := 0 }
  | _ => e

/-- A clause after a pre-emption or a trap (R70): its position stays, and no write before it makes a hazard. -/
def Clause.settled (c : Clause) : Clause := { c with log := [] }

/-- A read stream without its buffer, which is no part of the saved state (R214). -/
def Stream.unbuffered (x : Stream) : Stream := if x.write then x else { x with buf := [] }

/-- A strand as a pre-emption leaves it (R45, R70, R144, R175, R214, R272, R291, R343): its head entry stops at an
element-group boundary, an access that the Oasis kernel serves will be made again, a parked QPOP is not executed, a VWAIT at
the head will test every element again, BWAIT and BARW keep their phase. -/
def Strand.stopped (t : Strand) : Strand :=
  let t := t.stopHead
  { t with stat := (match t.stat with | .waiting _ => .running | y => y),
           park := if t.park = .vwait ∨ t.park = .qpop then .none else t.park,
           clause := t.clause.map Clause.settled, streams := t.streams.map Stream.unbuffered,
           queue := match t.queue with | e :: r => e.again :: r | [] => [] }

/-- Takes a strand of a context out of the parked orders (R272). -/
def State.unparkPop (s : State) (k : Nat) : State :=
  { s with queues := s.queues.map fun (q : Queue) =>
      if q.ctx = (s.strand k).ctx then { q with parked := q.parked.filter fun x => x.slot ≠ k } else q }

/-- Takes a strand out of the parked orders and waiting claims of a core. -/
def State.unpark (s : State) (k : Nat) : State := { s.unparkPop k with claims := s.claims.filter (· ≠ k) }

/-- Pre-empts a group (R284): its strands are saved, rows, operand slots, claims and streams stay in place. -/
def State.preemptGroup (s : State) (g : Nat) : State :=
  match s.group? g with
  | none => s
  | some x =>
    let s1 := x.live.foldl (fun y k => ((y.flushLate k).unpark k).reown x.ctx k (savedOwner g k)) s
    let saved := x.live.map fun k => (k, (s1.strand k).stopped)
    let s2 := x.live.foldl (fun y k => y.putStrand k .empty) s1
    s2.modGroup g fun y => { y with saved := saved }

/-- Whether a pre-empted group can stand in its slots again (R284). -/
def State.canResume (s : State) (x : Group) : Bool := x.saved.all fun p => (s.strand p.1).stat = .absent

/-- Claims at the heads of queues that come back in one step take their places in ascending slot order (R192, R194). -/
def State.enterClaims (s : State) (slots : List Nat) : State :=
  (sortBy (fun a b => decide (a ≤ b)) slots).foldl State.enterClaimOf s

/-- Puts a pre-empted group back (R284): it is the one most recently admitted, and its claims wait again (log 121). -/
def State.resumeGroup (s : State) (g : Nat) (x : Group) : State :=
  let s1 := x.saved.foldl (fun y p => (y.putStrand p.1 p.2).reown x.ctx (savedOwner g p.1) p.1) s
  let s2 := s1.enterClaims (x.saved.map (·.1))
  { s2 with groups := (g, { x with saved := [] }) :: s2.groups.filter fun p => p.1 ≠ g }

/-- A pending group: its launch's place in acceptance order, priority, number, and its key when it was pre-empted. -/
structure Pending where
  prio : Nat
  fresh : Bool
  order : Nat
  num : Nat
  gkey : Nat
  deriving DecidableEq, Repr

/-- Pending groups of a context (R281). -/
def State.pendings (s : State) (c : BitVec 16) : List Pending :=
  ((s.launches.filter fun l => l.ctx = c && l.next < l.groups).map fun l =>
    { prio := l.prio, fresh := true, order := l.lid, num := l.next, gkey := 0 })
  ++ ((s.groups.filter fun g => g.2.ctx = c && !g.2.saved.isEmpty).map fun g =>
    { prio := g.2.prio, fresh := false, order := g.2.lid, num := g.2.num, gkey := g.1 })

/-- Whether one pending group comes before another (R282). -/
def Pending.before (a b : Pending) : Bool :=
  if a.prio ≠ b.prio then b.prio < a.prio
  else if a.fresh ≠ b.fresh then !a.fresh
  else if a.order ≠ b.order then a.order < b.order
  else a.num < b.num

/-- The first pending group in the order of R282. -/
def State.nextPending (s : State) (c : BitVec 16) : Option Pending :=
  (s.pendings c).foldl (fun b p => match b with | none => some p | some x => if p.before x then some p else b) none

/-- Admits a pending group where it can stand now. -/
def State.tryAdmit (s : State) (c : BitVec 16) (p : Pending) : Option State :=
  if p.fresh then
    match s.launches.find? fun l => l.ctx = c && l.lid = p.order with
    | none => none
    | some l =>
      match (s.objs.find? fun o => o.handle = l.obj).bind fun o => o.kernels[l.kix]? with
      | none => none
      | some k =>
        match s.placeGroup l k p.num with
        | none => none
        | some s' => some (s'.modLaunch c l.lid fun x => { x with next := x.next + 1 })
  else
    match s.group? p.gkey with
    | none => none
    | some x => if s.canResume x then some (s.resumeGroup p.gkey x) else none

/-- Whether a running group stands in a slot that a pre-empted group needs again. -/
def State.inTheWay (s : State) (p : Pending) (x : Group) : Bool := match s.group? p.gkey with
  | some y => x.live.any fun k => y.saved.any fun q => q.1 = k
  | none => false

/-- Running groups that a pending group may pre-empt, in the order they are taken (R284): the lowest priority first, then
the most recently admitted, which stands first among the groups. -/
def State.victims (s : State) (c : BitVec 16) (p : Pending) : List (Nat × Group) :=
  sortBy (fun a b => decide (a.2.prio ≤ b.2.prio)) (s.groups.filter fun g =>
    g.2.ctx = c && g.2.saved.isEmpty && decide (g.2.prio < p.prio) && (p.fresh || s.inTheWay p g.2))

/-- Admission with as many victims as are needed and no more (R284): of those before it in the order, the last one needs
only the ones of its cluster. seen: the ones before. -/
def State.admitOver (s : State) (c : BitVec 16) (p : Pending) (seen : List (Nat × Group)) : List (Nat × Group) → Option State
  | [] => none
  | v :: vs =>
    let on := (seen ++ [v]).filter fun g => g.2.cluster = v.2.cluster
    match (on.foldl (fun y g => y.preemptGroup g.1) s).tryAdmit c p with
    | some s' => some s'
    | none => s.admitOver c p (seen ++ [v]) vs

/-- Whether a context may run on its clusters now (R344): no other tenant that runs, or has not been scrubbed yet, holds one
of them, and no strand of another context stands there. -/
def State.clustersFree (s : State) (c : BitVec 16) (clu : BitVec 32) : Bool :=
  (s.ctxs.all fun p => p.1 = 0 || p.1 = c.toNat || !(p.2.st = .running || p.2.st = .releasing) || p.2.clu &&& clu = 0)
    && s.liveSlots.all fun k => !clu.getLsbD (clusterOf k) || (s.strand k).ctx = c

/-- The kernel of a group that has just been admitted, which stands first among the groups, comes to its cores (R256). -/
def State.noteAdmission (s : State) (c : BitVec 16) (p : Pending) : State :=
  match s.launches.find? fun l => l.ctx = c && l.lid = p.order with
  | none => s
  | some l =>
    match s.objs.find? fun o => o.handle = l.obj with
    | none => s
    | some o =>
      let cores := (((s.groups.head?.map fun g => g.2.live).getD []).map coreOf).eraseDups
      cores.foldl (fun x core => x.admitKernel core c o l.kix) s

/-! ### FORKL, JOINL, GRPID -/

/-- Field 0 values of the live strands of a group. -/
def State.liveIndexes (s : State) (g : Group) : List Nat :=
  g.live.map fun k => widField (s.strand k).csr.widf (s.strand k).wid 0

/-- The child that FORKL creates (R288). -/
def forkChild (s : State) (pc : BitVec 56) (names : Word) (k allow : Nat) : Strand :=
  let t := s.st
  let w0 := widW t.csr.widf 0
  let wid := BitVec.ofNat 64 (t.wid.toNat / 2 ^ w0 * 2 ^ w0 + k)
  { Strand.empty with
    stat := .running, ctx := t.ctx, gkey := t.gkey, wid := wid, lim := t.lim, parent := some s.slot,
    startAfter := some { slot := s.slot, seq := t.nextSeq, ord := t.pushes },
    allow0 := BitVec.ofNat 4 allow, pc := pc,
    regs := Vector.ofFn fun n => if n.val ≠ 0 && names.getLsbD n.val then s.r n else 0,
    csr := { Csrs.reset with
      lanea := BitVec.ofNat 4 allow, lanew := t.csr.lanew, widf := t.csr.widf, mtab := t.csr.mtab, xact := t.csr.xact,
      frm := t.csr.frm, fxrm := t.csr.fxrm, chkstall := t.csr.chkstall, accbase := t.csr.acclim,
      acclim := t.csr.acclim },
    trap := { TrapRegs.reset with tvec := t.trap.tvec },
    key := s.newKey t.ctx wid }

/-- FORKL (R288). It waits for the named registers' pending writes. -/
def execForkl (d a b : SReg) (s : State) : Res :=
  let pc := s.r a
  let names := s.r b
  if !s.st.trap.inh && (s.st.pend &&& names.setWidth 32) ≠ 0 then .next s
  else if names.toNat % 2 ≠ 0 || 2 ^ 32 ≤ names.toNat then s.raise 2 0
  else match jumpFault pc with
  | some c => s.raise c pc
  | none =>
    match s.group? s.st.gkey with
    | none => s.result d 0
    | some g =>
      let used := s.liveIndexes g
      let allow := s.st.csr.lanea.toNat
      let n := 2 ^ Nat.min (widW s.st.csr.widf 0) 12
      let k := ((List.range (n - s.st.lim.strands)).map (· + s.st.lim.strands)).find? fun i => !used.contains i
      match k, s.freeSlots (coreOf s.slot) with
      | some k, slot :: _ =>
        if allow ≤ 1 || 64 ≤ g.live.length then s.result d 0
        else
          let half := allow / 2
          let s1 := s.putStrand slot (forkChild s (pc.setWidth 56) names k half)
          let s2 := (s1.modGroup s.st.gkey fun x => { x with live := x.live ++ [slot] }).mod fun t => { t with
            csr := { t.csr with lanea := BitVec.ofNat 4 (allow - half) },
            joins := t.joins ++ [{ slot := slot, done := none }] }
          s2.result d (BitVec.ofNat 64 (1 + slot))
      | _, _ => s.result d 0

/-- Whether work that a strand of a group left behind in a slot is still to perform (R118, R289). -/
def State.leftovers (s : State) (k gkey : Nat) : Bool := s.ending.any fun p => p.1 = k && p.2.gkey = gkey

/-- JOINL (R289): every access of the child, its pushed commands' among them, performs before it completes. Of two records that
bear the same FORKL result, where a slot was used again, it takes the older (DESIGN CHOICE, log 124). -/
def execJoinl (d a : SReg) (s : State) : Res :=
  match s.st.joins.find? fun j => s.r a = BitVec.ofNat 64 (1 + j.slot) with
  | none => s.raise 2 0
  | some j =>
    match j.done with
    | none => .next (s.mod fun t => { t with park := .joinl })
    | some v =>
      if s.leftovers j.slot s.st.gkey then .next (s.mod fun t => { t with park := .joinl })
      else (s.mod fun t => { t.wake with joins := t.joins.erase j }).result d (BitVec.ofNat 64 v)

/-- GRPID (R290). A strand of the system context belongs to no group: it reads its slot, and LIVE and GROUP 0 (DESIGN CHOICE, log
123). -/
def execGrpid (d : SReg) (s : State) : Res :=
  match s.group? s.st.gkey with
  | none => s.result d (BitVec.ofNat 64 s.slot)
  | some g => s.result d (BitVec.ofNat 64 (s.slot + g.live.length * 2 ^ 16 + g.num * 2 ^ 32))

/-! ### Barriers -/

/-- The barrier unit that an operand names, in the strand's group; none for a value outside [0, 8) (R292). -/
def State.bar? (s : State) (v : Word) : Option Barrier :=
  if h : v.toNat < 8 then (s.group? s.st.gkey).map fun g => g.bars[v.toNat] else none

/-- Writes a barrier unit of the strand's group. -/
def State.setBar (s : State) (n : Nat) (b : Barrier) : State :=
  s.modGroup s.st.gkey fun g => if h : n < 8 then { g with bars := g.bars.set n b } else g

/-- BINIT (R294). -/
def execBinit (a b : SReg) (s : State) : Res :=
  let n := (s.r b).toNat
  match s.bar? (s.r a) with
  | none => s.raise 2 0
  | some x =>
    if n = 0 || 64 < n then s.raise 2 0
    else if x.n = 0 then .next (s.setBar (s.r a).toNat { n := n, arr := 0, ph := 0 }).advance
    else if x.n = n then .next s.advance
    else if x.arr = 0 then .next (s.setBar (s.r a).toNat { x with n := n }).advance
    else s.raise 2 0

/-- One arrival at a barrier that is not idle, and the phase it falls in (R293, R295). -/
def Barrier.arrive (x : Barrier) : Barrier :=
  if x.arr + 1 = x.n then { x with arr := 0, ph := x.ph + 1 } else { x with arr := x.arr + 1 }

/-- Whether a wait for phase q completes (R296). -/
def Barrier.passed (x : Barrier) (q : BitVec 32) : Bool :=
  decide (1 ≤ (x.ph - q).toNat) && decide ((x.ph - q).toNat ≤ 2 ^ 31)

/-- A strand parked at a barrier goes on once the phase it waits for has been released (R296). -/
def Strand.pastBar (t : Strand) (n : Nat) (x : Barrier) : Strand :=
  match t.park with
  | .bwait b q | .barw b q => if b = n && t.stat = .running && x.passed q then t.advance.wake else t
  | _ => t

/-- BWAIT (R296). -/
def execBwait (a b : SReg) (s : State) : Res :=
  match s.st.park with
  | .bwait n _ =>
    match s.bar? (BitVec.ofNat 64 n) with
    | none => s.raise 2 0
    | some x => .next (s.mod fun t => t.pastBar n x)
  | _ =>
    match s.bar? (s.r a) with
    | none => s.raise 2 0
    | some x =>
      if x.n = 0 then s.raise 2 0
      else if x.passed ((s.r b).setWidth 32) then .next s.advance
      else .next (s.mod fun t => { t with park := .bwait (s.r a).toNat ((s.r b).setWidth 32) })

/-- An arrival at barrier n of the group of the strand that moves (R293, R295). With the phase, its parked waiters are woken
in ascending slot order (R296). -/
def State.arriveAt (s : State) (n : Nat) (x : Barrier) : State :=
  let y := x.arrive
  let s1 := s.setBar n y
  if y.ph = x.ph then s1
  else match s.group? s.st.gkey with
    | none => s1
    | some g => (((List.range 64).map (64 * g.cluster + ·)).filter g.live.contains).foldl
        (fun z k => if k = s.slot then z else z.modStrand k fun t => t.pastBar n y) s1

end Sys2Proof.Machine
end

