-- ==== Sys2Proof/Machine/Flits.lean ====
section
/-! DEFINITION. Barchan flits, routes and ports as their senders see them (26: R362 to R364, R371). -/

namespace Sys2Proof.Machine

/-- Whether a port carries flits (R364). -/
def BPort.isOpen (p : BPort) : Bool := p.st == .up || p.st == .degraded

/-- n bytes of a flit's payload at an offset. -/
def flitField (f : Flit) (o n : Nat) : Nat := f.payload.toNat / 256 ^ o % 256 ^ n

/-- The context of a flit of a collective (R363). -/
def flitCtx (f : Flit) : Nat := flitField f 0 2

/-- The context whose flit goes next (R364): flit-by-flit round robin, the contexts in ascending order after the last. -/
def nextTurn (turn : Nat) (fs : List Flit) : Nat :=
  let cs := fs.map flitCtx
  let after := cs.filter fun c => decide (turn < c)
  (if after.isEmpty then cs else after).foldl Nat.min (2 ^ 16)

/-- Flits in the order in which a port sends them. -/
def roundRobin : Nat → Nat → List Flit → List Flit
  | 0, _, _ => []
  | n + 1, turn, fs =>
    let c := nextTurn turn fs
    match fs.findIdx? fun f => flitCtx f = c with
    | none => []
    | some i => (fs[i]?).toList ++ roundRobin n c (fs.eraseIdx i)

/-- Sends what waits, with sequence numbers, while the port carries flits; down and training ports make it wait. -/
def BPort.flush (p : BPort) : BPort :=
  if !p.isOpen then p
  else
    let tx := roundRobin p.tx.length p.turn p.tx
    let fs := (List.range tx.length).filterMap fun i =>
      (tx[i]?).map fun (f : Flit) => { f with seq := p.txSeq + BitVec.ofNat 16 i }
    { p with tx := [], turn := (tx.getLast?.map flitCtx).getD p.turn, unacked := p.unacked ++ fs,
             txSeq := p.txSeq + BitVec.ofNat 16 fs.length, sent := p.sent + fs.length }

/-! ### Flits on the wire (R362) -/

/-- CRC-32 of a byte string with the IEEE 802.3 polynomial. Its bit order, preset and final complement are those of that
standard (PRESUMED, log 91). -/
def crc32 (l : List Byte) : BitVec 32 :=
  let bit := fun (c : BitVec 32) (_ : Nat) => if c.getLsbD 0 then (c >>> 1) ^^^ 0xEDB88320 else c >>> 1
  ~~~(l.foldl (fun c b => (List.range 8).foldl bit (c ^^^ b.setWidth 32)) (BitVec.allOnes 32))

/-- Bytes [0, 248) of a flit: header, then payload. The header's fields follow each other from bit 0 (DEDUCED, log 91). -/
def flitFront (f : Flit) : List Byte :=
  natToBytes 8 (f.seq.toNat + f.dst.toNat * 2 ^ 16 + f.src.toNat * 2 ^ 28 + f.type.toNat * 2 ^ 40) ++ bvBytes 240 f.payload

/-- The 256 bytes of a flit, byte 0 least significant. -/
def flitImage (f : Flit) : BitVec 2048 := BitVec.ofNat 2048 (bytesToNat (flitFront f ++ bvBytes 4 (crc32 (flitFront f))))

/-- The flit that 256 bytes hold; none when its CRC fails. -/
def flitOfImage (x : BitVec 2048) : Option Flit :=
  let f : Flit := { seq := x.extractLsb' 0 16, dst := x.extractLsb' 16 12, src := x.extractLsb' 28 12, type := x.extractLsb' 40 8,
                    payload := x.extractLsb' 64 1920 }
  if crc32 (natToBytes 248 x.toNat) = x.extractLsb' 1984 32 then some f else none

/-- Changes a port. -/
def State.modPort (s : State) (n : Nat) (f : BPort → BPort) : State :=
  { s with link := { s.link with ports := s.link.ports.set (n % 16) (f s.link.ports[n % 16]) } }

/-- The port that the route table names for a chip (R363). -/
def State.route? (s : State) (dst : BitVec 12) : Option Nat := (s.link.routes.find? fun r => r.1 = dst.toNat).map (·.2)

/-- Sends a flit toward its destination; without a route, or over a quarantined port, it is lost. -/
def State.sendFlit (s : State) (f : Flit) : State :=
  match s.route? f.dst with
  | none => s
  | some n =>
    if s.link.ports[n % 16].st = .quarantined then s
    else s.modPort n fun p => ({ p with tx := p.tx ++ [f] }).flush

/-- A flit of a collective from its payload fields: (byte offset, value). -/
def State.mkFlit (s : State) (type : Nat) (dst : BitVec 12) (fs : List (Nat × Nat)) : Flit :=
  { seq := 0, dst := dst, src := s.link.chip, type := BitVec.ofNat 8 type,
    payload := BitVec.ofNat 1920 ((fs.map fun f => f.2 * 256 ^ f.1).sum) }

/-- Chip numbers of a collective group, rank 0 first; none when it is not defined (R366). -/
def State.cgroup? (s : State) (c : BitVec 16) (gid : Nat) : Option (List Nat) :=
  (s.ctx? c).bind fun x => (x.cgroups.find? fun g => g.1 = gid).map (·.2)

/-- Payload fields that name a collective: CTX, GID and number (R363). -/
def collPrefix (c : BitVec 16) (gid num : Nat) : List (Nat × Nat) := [(0, c.toNat), (2, gid % 256), (4, num % 2 ^ 32)]

/-- Sends a flit to every member of a group but this chip and the chip that a LEAVE names. -/
def State.sendMembers (s : State) (c : BitVec 16) (gid : Nat) (but : Nat) (type : Nat) (fs : List (Nat × Nat)) : State :=
  (((s.cgroup? c gid).getD []).filter fun m => m ≠ s.link.chip.toNat ∧ m ≠ but).foldl
    (fun x m => x.sendFlit (x.mkFlit type (BitVec.ofNat 12 m) fs)) s

/-- Announces that a chip has left a collective (R371). -/
def State.sendLeave (s : State) (c : BitVec 16) (gid num : Nat) (chip : BitVec 12) : State :=
  s.sendMembers c gid chip.toNat 6 (collPrefix c gid num ++ [(8, chip.toNat)])

end Sys2Proof.Machine
end

