-- ==== Sys2Proof/Machine/Float.lean ====
section
/-! DEFINITION. Number formats, rounding and exact arithmetic (05: R74 to R87; R109, R134). Every floating operation is
computed exactly, as a signed dyadic number, and rounded once. -/

namespace Sys2Proof.Machine

/-- Floating formats (R74). -/
inductive FP where
  | f32 | bf16 | f16 | e5m2 | e4m3 | e3m2 | e2m3 | e2m1
  deriving DecidableEq, Repr

/-- Mantissa bits. -/
def FP.man : FP → Nat
  | .f32 => 23 | .bf16 => 7 | .f16 => 10 | .e5m2 => 2 | .e4m3 => 3 | .e3m2 => 2 | .e2m3 => 3 | .e2m1 => 1

/-- Exponent bits. -/
def FP.exp : FP → Nat
  | .f32 => 8 | .bf16 => 8 | .f16 => 5 | .e5m2 => 5 | .e4m3 => 4 | .e3m2 => 3 | .e2m3 => 2 | .e2m1 => 2

/-- Exponent bias. -/
def FP.bias : FP → Nat
  | .f32 => 127 | .bf16 => 127 | .f16 => 15 | .e5m2 => 15 | .e4m3 => 7 | .e3m2 => 3 | .e2m3 => 1 | .e2m1 => 1

/-- Width in bits. -/
def FP.width (f : FP) : Nat := 1 + f.exp + f.man

/-- Whether the format has infinities. -/
def FP.hasInf : FP → Bool
  | .f32 | .bf16 | .f16 | .e5m2 => true
  | _ => false

/-- Encoding of the largest finite magnitude. -/
def FP.maxEnc : FP → Nat
  | .f32 => 0x7F7FFFFF | .bf16 => 0x7F7F | .f16 => 0x7BFF | .e5m2 => 0x7B | .e4m3 => 0x7E | .e3m2 => 0x1F
  | .e2m3 => 0x1F | .e2m1 => 0x7

/-- The canonical NaN (R75); none for a format without NaN. -/
def FP.nan? : FP → Option Nat
  | .f32 => some 0x7FC00000 | .bf16 => some 0x7FC0 | .f16 => some 0x7E00 | .e5m2 => some 0x7E | .e4m3 => some 0x7F
  | _ => none

/-- Formats whose subnormal results are replaced by zero (R76). -/
def FP.flush : FP → Bool
  | .e5m2 | .e4m3 => true
  | _ => false

/-- The sign bit's weight. -/
def FP.signBit (f : FP) : Nat := 2 ^ (f.exp + f.man)

/-- Encoding of infinity, for a format that has one. -/
def FP.infEnc (f : FP) : Nat := (2 ^ f.exp - 1) * 2 ^ f.man

/-- Flag classes NV, DZ, OF, UF, NX, SAT in bits 0 to 5 (R82, and the order of R36). -/
abbrev Cls := BitVec 6

/-- Invalid operation. -/
def Cls.nv : Cls := 1
/-- Division by zero. -/
def Cls.dz : Cls := 2
/-- Overflow. -/
def Cls.of : Cls := 4
/-- Underflow. -/
def Cls.uf : Cls := 8
/-- Inexact. -/
def Cls.nx : Cls := 16
/-- Saturation. -/
def Cls.sat : Cls := 32

/-- c when b holds. -/
def Cls.when (b : Bool) (c : Cls) : Cls := if b then c else 0

/-- Floating rounding modes, FRM.MODE 0 to 4 (R82). -/
inductive RM where
  | rne | rtz | rdn | rup | rmm
  deriving DecidableEq, Repr

/-- The mode a code names; FRM never holds 5 to 7. -/
def RM.ofCode : Nat → RM
  | 0 => .rne | 1 => .rtz | 2 => .rdn | 3 => .rup | _ => .rmm

/-- Fixed-point rounding modes, FXRM.MODE 0 to 3 (R82). -/
inductive XM where
  | fxrnu | fxrne | fxtrn | fxrod
  deriving DecidableEq, Repr

/-- The mode a code names. -/
def XM.ofCode : Nat → XM
  | 0 => .fxrnu | 1 => .fxrne | 2 => .fxtrn | _ => .fxrod

/-- An exact value: a NaN (signalling or quiet), an infinity, or ±m · 2^e. -/
inductive Val where
  | nan (signalling : Bool)
  | inf (neg : Bool)
  | fin (neg : Bool) (m : Nat) (e : Int)
  deriving DecidableEq, Repr

/-- The value of an encoding (R74, R75). -/
def FP.val (f : FP) (x : Nat) : Val :=
  let s := x / f.signBit % 2 == 1
  let e := x / 2 ^ f.man % 2 ^ f.exp
  let m := x % 2 ^ f.man
  let top := e == 2 ^ f.exp - 1
  if f.hasInf && top then (if m = 0 then .inf s else .nan (decide (m < 2 ^ (f.man - 1))))
  else if f == .e4m3 && top && m == 7 then .nan false
  else if e = 0 then .fin s m (1 - f.bias - f.man)
  else .fin s (2 ^ f.man + m) (e - f.bias - f.man)

/-- Bits of a number. -/
def bitLen (n : Nat) : Nat := if n = 0 then 0 else n.log2 + 1

/-- 2^e for e ≥ 0, else 1. -/
def pow2 (e : Int) : Nat := 2 ^ e.toNat

/-- Whether a discarded rest r of 2^k rounds the magnitude n up. -/
def roundUp (mode : RM) (neg : Bool) (n r k : Nat) : Bool :=
  let half := 2 ^ k / 2
  match mode with
  | .rne => decide (half < r) || (r == half && n % 2 == 1 && decide (0 < k))
  | .rmm => decide (half ≤ r) && decide (0 < r)
  | .rtz => false
  | .rdn => neg && decide (0 < r)
  | .rup => !neg && decide (0 < r)

/-- Encoding of the magnitude n · 2^q, which a format holds exactly when it is in range. -/
def FP.encode (f : FP) (n : Nat) (q : Int) : Nat :=
  let l := bitLen n
  let low : Int := 1 - f.bias - f.man
  let top := (l : Int) - 1 + q
  if n = 0 then 0
  else if top < 1 - f.bias then n * pow2 (q - low)
  else
    let frac := if l ≤ f.man + 1 then n * 2 ^ (f.man + 1 - l) else n / 2 ^ (l - (f.man + 1))
    (top + f.bias).toNat * 2 ^ f.man + frac - 2 ^ f.man

/-- Rounding to prec significant bits within a format's range (R83 with prec = p + 1; R134 with prec = P). Subnormal spacing
is honoured in every format, e5m2 and e4m3 among them, before the flush of R76 is judged (DESIGN CHOICE, log 84). -/
def FP.roundTo (f : FP) (prec : Nat) (mode : RM) (x : Val) : Nat × Cls :=
  let sign := fun (b : Bool) => if b then f.signBit else 0
  match x with
  | .nan _ => match f.nan? with | some n => (n, 0) | none => (0, Cls.nv)
  | .inf s => if f.hasInf then (f.infEnc + sign s, 0) else (f.maxEnc + sign s, Cls.sat)
  | .fin s m e =>
    if m = 0 then (sign s, 0)
    else
      let q := max ((bitLen m : Int) + e - prec) (1 - f.bias - f.man)
      let k := (q - e).toNat
      let n := m * pow2 (e - q) / 2 ^ k
      let r := m * pow2 (e - q) % 2 ^ k
      let n' := if roundUp mode s n r k then n + 1 else n
      let nx := Cls.when (r ≠ 0) Cls.nx
      let enc := f.encode n' q
      if f.maxEnc < enc then
        if !f.hasInf then (f.maxEnc + sign s, nx ||| Cls.sat)
        else
          let toInf := mode = .rne || mode = .rmm || (mode = .rup && !s) || (mode = .rdn && s)
          ((if toInf then f.infEnc else f.maxEnc) + sign s, nx ||| Cls.of ||| Cls.nx)
      else if enc < 2 ^ f.man then
        if f.flush then (sign s, nx ||| Cls.uf ||| Cls.nx)
        else (enc + sign s, nx ||| Cls.when (r ≠ 0) Cls.uf)
      else (enc + sign s, nx)

/-- round(x, fmt, mode) (R83). -/
def FP.round (f : FP) (mode : RM) (x : Val) : Nat × Cls := f.roundTo (f.man + 1) mode x

/-- NV for a signalling NaN. -/
def Val.snan : Val → Bool
  | .nan b => b
  | _ => false

/-- Whether a value is a NaN. -/
def Val.isNan : Val → Bool
  | .nan _ => true
  | _ => false

/-- Whether a value is finite. -/
def Val.isFin : Val → Bool
  | .fin _ _ _ => true
  | _ => false

/-- Whether a value is a zero. -/
def Val.isZero : Val → Bool
  | .fin _ m _ => m == 0
  | _ => false

/-- The sign; a NaN has none. -/
def Val.neg? : Val → Bool
  | .nan _ => false
  | .inf s => s
  | .fin s _ _ => s

/-- The opposite. -/
def Val.negate : Val → Val
  | .nan b => .nan b
  | .inf s => .inf !s
  | .fin s m e => .fin (!s) m e

/-- ±m · 2^e as a signed integer at exponent e. -/
def signed (s : Bool) (m : Nat) : Int := if s then -(m : Int) else m

/-- A signed integer at an exponent as a value; zero takes the given sign. -/
def valOfInt (z : Int) (e : Int) (zeroNeg : Bool := false) : Val :=
  if z = 0 then .fin zeroNeg 0 0 else .fin (decide (z < 0)) z.natAbs e

/-- Exact sum of two finite values, with the zero sign of R83. -/
def sumFin (mode : RM) (s1 : Bool) (m1 : Nat) (e1 : Int) (s2 : Bool) (m2 : Nat) (e2 : Int) : Val :=
  if m1 = 0 && m2 = 0 then .fin (if s1 == s2 then s1 else mode == .rdn) 0 0
  else
    let e := if m1 = 0 then e2 else if m2 = 0 then e1 else min e1 e2
    let z := signed s1 m1 * pow2 (e1 - e) + signed s2 m2 * pow2 (e2 - e)
    valOfInt z e (mode == .rdn)

/-- Exact sum and the classes of an invalid case (R84). -/
def Val.add (mode : RM) (x y : Val) : Val × Cls :=
  match x, y with
  | .nan a, _ => (.nan false, Cls.when (a || y.snan) Cls.nv)
  | _, .nan b => (.nan false, Cls.when b Cls.nv)
  | .inf a, .inf b => if a == b then (.inf a, 0) else (.nan false, Cls.nv)
  | .inf a, _ => (.inf a, 0)
  | _, .inf b => (.inf b, 0)
  | .fin s m e, .fin t n g => (sumFin mode s m e t n g, 0)

/-- Exact product. -/
def Val.mul (x y : Val) : Val × Cls :=
  match x, y with
  | .nan a, _ => (.nan false, Cls.when (a || y.snan) Cls.nv)
  | _, .nan b => (.nan false, Cls.when b Cls.nv)
  | .inf a, .inf b => (.inf (a != b), 0)
  | .inf a, .fin t n _ => if n = 0 then (.nan false, Cls.nv) else (.inf (a != t), 0)
  | .fin s m _, .inf b => if m = 0 then (.nan false, Cls.nv) else (.inf (s != b), 0)
  | .fin s m e, .fin t n g => (.fin (s != t) (m * n) (e + g), 0)

/-- Exact x · y + z, rounded once by the caller (R84). -/
def Val.fma (mode : RM) (x y z : Val) : Val × Cls :=
  let p := x.mul y
  let r := p.1.add mode z
  (r.1, p.2 ||| r.2 ||| Cls.when (x.snan || y.snan || z.snan) Cls.nv)

/-- A quotient of magnitudes with a sticky last bit: enough bits for every format. -/
def quot (a b : Nat) : Nat × Int :=
  let k := 64 + bitLen b
  let q := a * 2 ^ k / b
  (2 * q + bitN (a * 2 ^ k % b ≠ 0), -(k : Int) - 1)

/-- Quotient (R84). -/
def Val.div (x y : Val) : Val × Cls :=
  match x, y with
  | .nan a, _ => (.nan false, Cls.when (a || y.snan) Cls.nv)
  | _, .nan b => (.nan false, Cls.when b Cls.nv)
  | .inf _, .inf _ => (.nan false, Cls.nv)
  | .inf a, .fin t _ _ => (.inf (a != t), 0)
  | .fin s _ _, .inf b => (.fin (s != b) 0 0, 0)
  | .fin s m e, .fin t n g =>
    if n = 0 then (if m = 0 then (.nan false, Cls.nv) else (.inf (s != t), Cls.dz))
    else if m = 0 then (.fin (s != t) 0 0, 0)
    else
      let q := quot m n
      (.fin (s != t) q.1 (q.2 + e - g), 0)

/-- The integer square root, bit by bit from bit n - 1 down. -/
def isqrt (x : Nat) : Nat → Nat → Nat
  | 0, r => r
  | n + 1, r => if (r + 2 ^ n) * (r + 2 ^ n) ≤ x then isqrt x n (r + 2 ^ n) else isqrt x n r

/-- ⌊√x⌋. -/
def sqrtNat (x : Nat) : Nat := isqrt x (bitLen x / 2 + 1) 0

/-- Square root (R84): of −0 it is −0. -/
def Val.sqrt (x : Val) : Val × Cls :=
  match x with
  | .nan a => (.nan false, Cls.when a Cls.nv)
  | .inf s => if s then (.nan false, Cls.nv) else (.inf false, 0)
  | .fin s m e =>
    if m = 0 then (.fin s 0 0, 0)
    else if s then (.nan false, Cls.nv)
    else
      let odd := (e % 2).toNat
      let y := m * 2 ^ (odd + 128)
      let r := sqrtNat y
      (.fin false (2 * r + bitN (r * r ≠ y)) ((e - odd) / 2 - 65), 0)

/-! ### Comparison and classes -/

/-- Whether x < y for values that are no NaN; zeros are equal. -/
def Val.lt (x y : Val) : Bool :=
  match x, y with
  | .inf a, .inf b => a && !b
  | .inf a, _ => a
  | _, .inf b => !b
  | .fin s m e, .fin t n g =>
    let k := min e g
    decide (signed s m * pow2 (e - k) < signed t n * pow2 (g - k))
  | _, _ => false

/-- Whether x = y for values that are no NaN. -/
def Val.eq (x y : Val) : Bool := !x.isNan && !y.isNan && !x.lt y && !y.lt x

/-- Lesser with −0 below +0 (R109). -/
def Val.less (x y : Val) : Bool := x.lt y || (x.isZero && y.isZero && x.neg? && !y.neg?)

/-- FMIN (R109): encodings in, encoding out. -/
def FP.fmin (f : FP) (a b : Nat) : Nat × Cls :=
  let x := f.val a
  let y := f.val b
  let c := Cls.when (x.snan || y.snan) Cls.nv
  if x.isNan && y.isNan then (f.nan?.getD 0, c)
  else if x.isNan then (b, c)
  else if y.isNan then (a, c)
  else (if y.less x then b else a, c)

/-- FMAX (R109). -/
def FP.fmax (f : FP) (a b : Nat) : Nat × Cls :=
  let x := f.val a
  let y := f.val b
  let c := Cls.when (x.snan || y.snan) Cls.nv
  if x.isNan && y.isNan then (f.nan?.getD 0, c)
  else if x.isNan then (b, c)
  else if y.isNan then (a, c)
  else (if x.less y then b else a, c)

/-- Comparisons (R109). -/
inductive FRel where
  | eq | lt | le | un
  deriving DecidableEq, Repr

/-- A comparison of two encodings, with its class. -/
def FP.cmp (f : FP) (r : FRel) (a b : Nat) : Bool × Cls :=
  let x := f.val a
  let y := f.val b
  let nan := x.isNan || y.isNan
  let s := x.snan || y.snan
  match r with
  | .eq => (x.eq y, Cls.when s Cls.nv)
  | .lt => (!nan && x.lt y, Cls.when nan Cls.nv)
  | .le => (!nan && !y.lt x, Cls.when nan Cls.nv)
  | .un => (nan, Cls.when s Cls.nv)

/-- FCLASS (R109): the bit of the class of an encoding. -/
def FP.fclass (f : FP) (a : Nat) : Nat :=
  match f.val a with
  | .nan s => if s then 2 ^ 8 else 2 ^ 9
  | .inf s => if s then 1 else 2 ^ 7
  | .fin s m _ =>
    if m = 0 then (if s then 2 ^ 3 else 2 ^ 4)
    else if m < 2 ^ f.man then (if s then 2 ^ 2 else 2 ^ 5)
    else (if s then 2 else 2 ^ 6)

/-! ### Integers -/

/-- sat(x, fmt) over a range (R85). -/
def satInt (lo hi x : Int) : Int × Cls :=
  if x < lo then (lo, Cls.sat) else if hi < x then (hi, Cls.sat) else (x, 0)

/-- Least and greatest value of an integer format of n bits (R78). -/
def rangeOf (isSigned : Bool) (n : Nat) : Int × Int :=
  if isSigned then (-(2 ^ (n - 1)), 2 ^ (n - 1) - 1) else (0, 2 ^ n - 1)

/-- Fixed-point rounding of n / 2^d (R85), with NX when it is no integer. -/
def fxRound (m : XM) (n : Int) (d : Nat) : Int × Cls :=
  let fl := n / 2 ^ d
  let r := n % 2 ^ d
  let half : Int := 2 ^ d / 2
  let v := match m with
    | .fxtrn => fl
    | .fxrnu => if 0 < d && half ≤ r then fl + 1 else fl
    | .fxrne => if 0 < d && (half < r || (r = half && fl % 2 = 1)) then fl + 1 else fl
    | .fxrod => if r ≠ 0 && fl % 2 = 0 then fl + 1 else fl
  (v, Cls.when (r ≠ 0) Cls.nx)

/-- A value to an integer format (R85). -/
def Val.toInt (m : XM) (lo hi : Int) (x : Val) : Int × Cls :=
  match x with
  | .nan _ => (0, Cls.nv)
  | .inf s => (if s then lo else hi, Cls.sat)
  | .fin s k e =>
    let r := fxRound m (signed s k * pow2 e) (-e).toNat
    let v := satInt lo hi r.1
    (v.1, r.2 ||| v.2)

/-- An integer as an exact value. -/
def intVal (z : Int) : Val := valOfInt z 0

/-! ### Special functions (R134) -/

/-- Bits after the point in the fixed-point series. -/
def fixBits : Nat := 320

/-- ⌊2^320 · ln 2⌋. -/
def ln2Fix : Nat :=
  0xb17217f7d1cf79abc9e3b39803f2f6af40f343267298b62d8a0d175b8baafa2be7b876206debac98

/-- The series of exp over y · 2^−320, 0 ≤ y < 2^320, from term k on. -/
def expSeries (y : Nat) : Nat → Nat → Nat → Nat
  | 0, _, _ => 0
  | n + 1, k, term => term + expSeries y n (k + 1) (term * y / 2 ^ fixBits / (k + 1))

/-- exp(y · 2^−320) · 2^320. -/
def expFix (y : Nat) : Nat := expSeries y 90 0 (2 ^ fixBits)

/-- e^z for z · 2^−320: mantissa over 2^320 and a power of two. -/
def expParts (z : Int) : Nat × Int :=
  let n := z / (ln2Fix : Int)
  (expFix (z % (ln2Fix : Int)).toNat, n)

/-- The series of 2 · artanh over z · 2^−320. -/
def artanhSeries (z2 : Nat) : Nat → Nat → Nat → Nat
  | 0, _, _ => 0
  | n + 1, k, p => 2 * p / (2 * k + 1) + artanhSeries z2 n (k + 1) (p * z2 / 2 ^ fixBits)

/-- ln(x · 2^−320) · 2^320 for x in [2^320, 2^321). -/
def lnFix (x : Nat) : Nat :=
  let z := (x - 2 ^ fixBits) * 2 ^ fixBits / (x + 2 ^ fixBits)
  artanhSeries (z * z / 2 ^ fixBits) 110 0 z

/-- A magnitude that is not exact: its last bit is made odd. -/
def inexact (s : Bool) (m : Nat) (e : Int) : Val := .fin s (m / 2 * 2 + 1) e

/-- 1 less a tiny amount, and a positive amount too small for every format. -/
def belowOne (s : Bool) : Val := .fin s (2 ^ 200 - 1) (-200)
/-- A positive value below every format's range. -/
def tinyVal : Val := .fin false 1 (-1000)

/-- m · 2^e in units of 2^−320, for e ≥ −320. -/
def toFix (m : Nat) (e : Int) : Nat := m * pow2 (e + fixBits)

/-- 2^a. -/
def exp2Val (s : Bool) (m : Nat) (e : Int) : Val :=
  let a : Int := signed s m * pow2 e
  if 0 ≤ e then
    if s then (if a < -1000 then tinyVal else .fin false 1 a) else .fin false 1 (min a 1000)
  else
    let z : Int := signed s (toFix m e)
    let n := z / 2 ^ fixBits
    let f := (z % 2 ^ fixBits).toNat
    if 1000 < n then .fin false 1 1000
    else if n < -1000 then tinyVal
    else if f = 0 then .fin false 1 n
    else inexact false (expFix (f * ln2Fix / 2 ^ fixBits)) (n - fixBits)

/-- log2 of m · 2^e, m > 0. -/
def log2Val (m : Nat) (e : Int) : Val :=
  let l := bitLen m - 1
  let k : Int := l + e
  if m = 2 ^ l then valOfInt k 0
  else
    let x := m * 2 ^ fixBits / 2 ^ l
    let v : Int := k * 2 ^ fixBits + (lnFix x * 2 ^ fixBits / ln2Fix : Nat)
    inexact (decide (v < 0)) v.natAbs (-fixBits)

/-- tanh of the magnitude m · 2^e. -/
def tanhVal (s : Bool) (m : Nat) (e : Int) : Val :=
  let top := (bitLen m : Int) + e
  if top < -60 then .fin s (m * 2 ^ 100 - 1) (e - 100)
  else if 7 ≤ top then belowOne s
  else
    let p := expParts (2 * toFix m e : Nat)
    let t := p.1 * pow2 p.2
    let q := quot (t - 2 ^ fixBits) (t + 2 ^ fixBits)
    inexact s q.1 q.2

/-- 1 / (1 + e^−a) for a = ±m · 2^e. -/
def sigmVal (s : Bool) (m : Nat) (e : Int) : Val :=
  let top := (bitLen m : Int) + e
  if 9 ≤ top then (if s then tinyVal else belowOne false)
  else
    let p := expParts (-(signed s (toFix m e)))
    let one := 2 ^ fixBits * pow2 (-p.2)
    let q := quot one (one + p.1 * pow2 p.2)
    inexact false q.1 q.2

/-- 1 / √(m · 2^e). -/
def rsqVal (m : Nat) (e : Int) : Val :=
  let odd := (e % 2).toNat
  let y := m * 2 ^ odd
  let k := 2 * (64 + bitLen y)
  let r := sqrtNat (2 ^ k / y)
  .fin false (2 * r + bitN (r * r * y ≠ 2 ^ k)) (-(k / 2 : Nat) - 1 - (e - odd) / 2)

/-- The special functions. -/
inductive SFun where
  | rece | rsqe | exp2 | log2 | tanh | sigm
  deriving DecidableEq, Repr

/-- Exact value of a special function and the classes of its special operands (R134). -/
def SFun.val (g : SFun) (x : Val) : Val × Cls :=
  match x with
  | .nan a => (.nan false, Cls.when a Cls.nv)
  | .inf s =>
    match g with
    | .rece => (.fin s 0 0, 0)
    | .rsqe => if s then (.nan false, Cls.nv) else (.fin false 0 0, 0)
    | .exp2 => if s then (.fin false 0 0, 0) else (.inf false, 0)
    | .log2 => if s then (.nan false, Cls.nv) else (.inf false, 0)
    | .tanh => (.fin s 1 0, 0)
    | .sigm => if s then (.fin false 0 0, 0) else (.fin false 1 0, 0)
  | .fin s m e =>
    if m = 0 then
      match g with
      | .rece | .rsqe => (.inf s, Cls.dz)
      | .exp2 => (.fin false 1 0, 0)
      | .log2 => (.inf true, Cls.dz)
      | .tanh => (.fin s 0 0, 0)
      | .sigm => (.fin false 1 (-1), 0)
    else
      match g with
      | .rece => let q := quot 1 m; (.fin s q.1 (q.2 - e), 0)
      | .rsqe => if s then (.nan false, Cls.nv) else (rsqVal m e, 0)
      | .exp2 => (exp2Val s m e, 0)
      | .log2 => if s then (.nan false, Cls.nv) else (log2Val m e, 0)
      | .tanh => (tanhVal s m e, 0)
      | .sigm => (sigmVal s m e, 0)

/-- A special function of an encoding (R134): P is 12 for 1/a and 1/√a, 16 for the others. -/
def FP.special (f : FP) (g : SFun) (a : Nat) : Nat × Cls :=
  let p := match g with | .rece | .rsqe => 12 | _ => 16
  let v := g.val (f.val a)
  let r := f.roundTo (Nat.min p (f.man + 1)) .rne v.1
  (r.1, v.2 ||| r.2)

end Sys2Proof.Machine
end

