-- ==== Sys2Proof/Machine/Operands.lean ====
section
/-! DEFINITION. Operands of vector-stream entries: elements of registers and masks, register groups, grants, roundings and
what a governing PFX lends (R29, R33, R37, R66, R74 to R81, R122, R123, R143). -/

namespace Sys2Proof.Machine

/-! ### Widths and formats -/

end Sys2Proof.Machine

namespace Sys2Proof

/-- Bits of an element width code (R62). -/
def EW.bits : EW → Nat
  | .e8 => 8 | .e16 => 16 | .e32 => 32 | .e64 => 64 | .e4 => 4 | .e6 => 6

/-- Bits of an integer width code. -/
def IW.bits : IW → Nat
  | .w8 => 8 | .w16 => 16 | .w32 => 32 | .w64 => 64

/-- The format of a float code. -/
def FF.fp : FF → Machine.FP
  | .f32 => .f32 | .bf16 => .bf16 | .f16 => .f16

/-- Bits of a float code. -/
def FF.bits : FF → Nat
  | .f32 => 32 | .bf16 => 16 | .f16 => 16

/-- Bits of an element code. -/
def Elem.bits : Elem → Nat
  | .f32 => 32 | .bf16 => 16 | .f16 => 16 | .e5m2 => 8 | .e4m3 => 8 | .e3m2 => 6 | .e2m3 => 6 | .e2m1 => 4
  | .i8 => 8 | .i16 => 16 | .i32 => 32 | .i64 => 64 | .n8 => 8 | .n16 => 16 | .n32 => 32 | .n64 => 64
  | .i4 => 4 | .n4 => 4 | .t2 => 2 | .e8m0 => 8

/-- The floating format of an element code. -/
def Elem.fp? : Elem → Option Machine.FP
  | .f32 => some .f32 | .bf16 => some .bf16 | .f16 => some .f16 | .e5m2 => some .e5m2 | .e4m3 => some .e4m3
  | .e3m2 => some .e3m2 | .e2m3 => some .e2m3 | .e2m1 => some .e2m1
  | _ => none

/-- Whether an element code is a signed integer. -/
def Elem.isSigned : Elem → Bool
  | .i8 | .i16 | .i32 | .i64 | .i4 => true
  | _ => false

/-- Bits of an atomic's width. -/
def MW.bits : MW → Nat
  | .w32 => 32 | .d64 => 64

/-- VAMOs that are a release (R174, R231). -/
def Instr.releases : Instr → Bool
  | .vamoSwap _ _ _ _ _ r _ | .vamoAdd _ _ _ _ _ r _ | .vamoAnd _ _ _ _ _ r _ | .vamoOr _ _ _ _ _ r _
  | .vamoXor _ _ _ _ _ r _ | .vamoMin _ _ _ _ _ r _ | .vamoMax _ _ _ _ _ r _ => r == .rel || r == .acqrel
  | _ => false

/-- Entries that are an acquire (R28, R174, R175). -/
def Instr.acquires : Instr → Bool
  | .vamoSwap _ _ _ _ _ r _ | .vamoAdd _ _ _ _ _ r _ | .vamoAnd _ _ _ _ _ r _ | .vamoOr _ _ _ _ _ r _
  | .vamoXor _ _ _ _ _ r _ | .vamoMin _ _ _ _ _ r _ | .vamoMax _ _ _ _ _ r _ => r == .acq || r == .acqrel
  | .vwait _ _ _ _ _ _ => true
  | _ => false

/-- The FENCE kinds of an entry's accesses, as a mask whose bit k is kind k (R119, R312); 0 for one that accesses no memory. -/
def Instr.accessKinds : Instr → Nat
  | .setvlf .. | .vld .. | .vlds .. | .vldx .. | .vldg .. | .vldt .. | .skqry .. | .mlds .. | .mtile .. => 2 ^ 3
  | .vst .. | .vsts .. | .vstx .. | .vstg .. | .vstt .. | .skinit .. | .skupd .. | .skadd .. | .skscl .. => 2 ^ 4
  | .vamoSwap .. | .vamoAdd .. | .vamoAnd .. | .vamoOr .. | .vamoXor .. | .vamoMin .. | .vamoMax .. | .vwait ..
  | .vscadd .. => 2 ^ 5
  | .cpyv .. | .cpyx .. | .cpyt .. => 2 ^ 3 + 2 ^ 7
  | _ => 0

/-- Whether a form names BARV. -/
def Instr.isBarv : Instr → Bool
  | .barv _ _ => true
  | _ => false

/-- The multiplier of a grant (R122). -/
def Grp.times : Grp → Nat
  | .x1 => 1 | .x2 => 2 | .x4 => 4 | .x8 => 8

end Sys2Proof

namespace Sys2Proof.Machine

/-! ### Fields of registers -/

/-- Replaces bits [lo, lo + w) of a register. -/
def putField {n : Nat} (x : BitVec n) (lo w v : Nat) : BitVec n :=
  BitVec.ofNat n (x.toNat / 2 ^ (lo + w) * 2 ^ (lo + w) + v % 2 ^ w * 2 ^ lo + x.toNat % 2 ^ lo)

/-- Bits [lo, lo + w) of a register. -/
def getField {n : Nat} (x : BitVec n) (lo w : Nat) : Nat := x.toNat / 2 ^ lo % 2 ^ w

/-- E(w): elements of w bits in one register (R80, R123). -/
def perReg (w : Nat) : Nat := if w = 6 then 1364 else 8192 / w

/-- Register n of a file of 32. -/
def VecFile.reg (f : VecFile) (n : Nat) : VReg8k := f.v[n % 32]

/-- Element i of width w of the group that begins at v (R80, R81). -/
def VecFile.elem (f : VecFile) (v i w : Nat) : Nat := getField (f.reg (v + i / perReg w)) (i % perReg w * w) w

/-- The element group of the element at a position of a register (R81). -/
def groupOf (pos w : Nat) : Nat := if w = 6 then 24 * (pos / 4) / 512 else pos * w / 512

/-- Writes element i of a group; the register's write extent grows over it (R47). -/
def VecFile.setElem (f : VecFile) (v i w x : Nat) : VecFile :=
  let n := (v + i / perReg w) % 32
  let pos := i % perReg w
  { f with
    v := f.v.set (Fin.ofNat 32 n) (putField (f.reg n) (pos * w) w x),
    wext := f.wext.set (Fin.ofNat 32 n) (Nat.max f.wext[n % 32] (groupOf pos w + 1)) }

/-- Bit i of a mask register; m0 reads as all ones (R37). -/
def VecFile.mbit (f : VecFile) (m : MReg) (i : Nat) : Bool := m == 0 || f.m[m].getLsbD i

/-- Writes bit i of a mask register. -/
def VecFile.setMbit (f : VecFile) (m : MReg) (i : Nat) (b : Bool) : VecFile :=
  { f with m := f.m.set m (putField f.m[m] i 1 (bitN b)) }

/-- Replaces the head entry. -/
def State.setHead (s : State) (e : Entry) : State :=
  s.mod fun t => { t with queue := match t.queue with | _ :: r => e :: r | [] => [] }

/-- Changes the vector registers of the strand that moves. -/
def State.modVec (s : State) (f : VecFile → VecFile) : State := s.mod fun t => { t with vec := f t.vec }

/-! ### Grants and groups -/

/-- Bits of a width code of VTYPE. -/
def widthBits (n : Nat) : Nat := match EW.ofCode? n with | some w => w.bits | none => 8

/-- Grant width of a VTYPE in bits (R122). -/
def grantWidth (vt : BitVec 5) : Nat := widthBits (vt.toNat % 8)

/-- VLMAX of a VTYPE (R123). -/
def vlmax (vt : BitVec 5) : Nat := 2 ^ (vt.toNat / 8) * perReg (grantWidth vt)

/-- EMUL(w): the least power of two p ≥ 1 with p · E(w) ≥ VLMAX; 16 stands for any that exceeds 8 (R123). -/
def emul (vt : BitVec 5) (w : Nat) : Nat :=
  let m := vlmax vt
  if m ≤ perReg w then 1 else if m ≤ 2 * perReg w then 2 else if m ≤ 4 * perReg w then 4
  else if m ≤ 8 * perReg w then 8 else 16

/-- A register group: first register, registers, element width. -/
structure VGroup where
  v : Nat
  n : Nat
  w : Nat
  deriving DecidableEq, Repr

/-- The group an operand field of width w names under an entry's grant. -/
def Entry.group (e : Entry) (v : VReg) (w : Nat) : VGroup := { v := v.val, n := emul e.vtype w, w := w }

/-- Whether a group is legal (R123). -/
def VGroup.ok (g : VGroup) : Bool := decide (g.n ≤ 8) && g.v % g.n == 0 && decide (g.v + g.n ≤ 32)

/-- Whether two groups share a register. -/
def VGroup.meets (g h : VGroup) : Bool := decide (g.v < h.v + h.n) && decide (h.v < g.v + g.n)

/-- Overlap of a source with a destination (R143): none, or exact overlap where the form admits it. -/
def VGroup.overlapOk (src dst : VGroup) (exact : Bool) : Bool := !src.meets dst || (exact && src == dst)

/-! ### What an entry captured -/

/-- Floating rounding of an entry: FR of its PFX, else the FRM captured (R66, R130). -/
def Entry.rm (e : Entry) : RM :=
  let fr := match e.pay with | some p => p.toNat % 8 | none => 0
  RM.ofCode (if 1 ≤ fr ∧ fr ≤ 5 then fr - 1 else e.frm.toNat)

/-- Fixed-point rounding of an entry: XR of its PFX, else the FXRM captured. -/
def Entry.xm (e : Entry) : XM :=
  let xr := match e.pay with | some p => p.toNat / 8 % 8 | none => 0
  XM.ofCode (if 1 ≤ xr ∧ xr ≤ 4 then xr - 1 else e.fxrm.toNat)

/-- The source stream of its PFX: k for stream k − 1, 0 for none. -/
def Entry.strm (e : Entry) : Nat :=
  let k := match e.pay with | some p => p.toNat / 64 % 32 | none => 0
  if k ≤ 16 then k else 0

/-- The signed byte offset of its PFX (R66). -/
def Entry.off (e : Entry) : Int := match e.pay with | some p => (p.extractLsb' 11 15).toInt | none => 0

/-- The w low bits of a number as a signed integer. -/
def sx (w x : Nat) : Int := (BitVec.ofNat w x).toInt

/-- An integer modulo 2^w. -/
def wrap (w : Nat) (z : Int) : Nat := (z % 2 ^ w).toNat

/-- Element i of an operand that is a vector register of width w, or the low w bits of the captured scalar b. -/
inductive BSrc where
  | v (r : VReg)
  | x

/-- The groups an operand names. -/
def BSrc.groups (b : BSrc) (e : Entry) (w : Nat) : List VGroup :=
  match b with | .v r => [e.group r w] | .x => []

/-- Element i of a b operand. -/
def BSrc.elem (b : BSrc) (e : Entry) (f : VecFile) (i w : Nat) : Nat :=
  match b with | .v r => f.elem r.val i w | .x => e.opd.b.toNat % 2 ^ w

end Sys2Proof.Machine
end

