-- ==== Sys2Proof/Machine/Flags.lean ====
section
/-! DEFINITION. Arithmetic classes and shortening: how an entry executes its elements in order, and fpx (R33 to R39, R130,
R131), and how a scalar instruction raises its classes (R110). -/

namespace Sys2Proof.Machine

/-- What the execution of a head entry comes to: it has completed, shortened or retired, with the value of its scalar
destination; or the vector side stops, the entry staying at the head (a trap taken, or a wait). -/
inductive VRes where
  | done (s : State) (v : Option Word)
  | stop (s : State)

/-- Modes of a class in XACT (R32): 0 flag, 1 trim, 2 trap. -/
def modeOf (xact : BitVec 12) (c : Nat) : Nat := fld xact.toNat (2 * c + 1) (2 * c)

/-- The classes of a set whose mode is m. -/
def Cls.inMode (c : Cls) (xact : BitVec 12) (m : Nat) : List Nat :=
  (List.range 6).filter fun i => c.getLsbD i && modeOf xact i == m

/-- Whether some class has a mode other than flag. -/
def Cls.acts (c : Cls) (xact : BitVec 12) : Bool := (List.range 6).any fun i => c.getLsbD i && modeOf xact i != 0

/-- Sets classes of a scalar instruction in XFLAGS. -/
def State.raiseScalar (s : State) (c : Cls) : State := s.modCsr fun r => { r with xflags := r.xflags ||| c }

/-- Sets classes of a vector entry in XFLAGS, and in the reads that wait behind the entry (R31). -/
def State.raiseFlags (s : State) (c : Cls) : State :=
  (s.raiseScalar c).mod fun t => { t with sync := t.sync.map fun p => { p with flags := p.flags ||| c } }

/-- The arithmetic cause of the first class in trap mode, in the order of R36. -/
def Cls.trapCause (c : Cls) (xact : BitVec 12) : Option Nat := (c.inMode xact 2).head?.map (0x10 + ·)

/-- A scalar result with its classes (R110): a trap-mode class traps before anything is written; otherwise all are
flagged. -/
def State.scalarResult (s : State) (d : SReg) (v : Word) (c : Cls) (lat : Nat) : Res :=
  match c.trapCause s.st.csr.xact with
  | some cause => s.raise cause 0
  | none => (s.raiseScalar c).result d v lat

/-- Completion of an entry with an element count (R33). -/
def State.complete1 (s : State) (al : Nat) : State := s.modCsr fun r => { r with al := BitVec.ofNat 32 al, vstart := 0 }

/-- Sets VSTART. -/
def State.setVstart (s : State) (i : Nat) : State := s.modCsr fun r => { r with vstart := BitVec.ofNat 20 i }

/-- VSTART of the strand. -/
def State.vstart (s : State) : Nat := s.st.csr.vstart.toNat

/-- Cause 0x02 on the leading element. -/
def State.vIllegal (s : State) : VRes := .stop (s.trap 2 0 true)

/-- What one element comes to: its effects with the classes it raises, or an access fault (cause, address, failing byte,
kind). -/
inductive Elt where
  | ok (s : State) (c : Cls)
  | fault (cause ea byte : Nat) (k : Acc)

/-- shorten(i) for an access fault in an entry that began at vs (R35, R336). after: what the form does with AL. A
permission violation is logged, and the entry waits while the log has no place (R384). -/
def State.shortenFault (s s0 : State) (e : Entry) (vs i cause ea byte : Nat) (k : Acc) (after : Nat → State → State) : VRes :=
  if cause = 9 && s.hamada.places = 0 then .stop s0
  else if i = vs then .stop ((s.setVstart i).trapAccess cause ea byte k true)
  else
    let s1 := if cause = 9 then s.violation s.st.ctx s.slot (BitVec.ofNat 64 ea) k 1 else s
    .done (after i ((s1.mod fun t => t.setTrim e.grant i).complete1 i)) none

/-- fpx(i, c) (R36, R37) for an element whose effects stand in s1, and s before them. none: the element completes, in the
state given beside. Where the leading element raises several trim-mode classes the spec names no one cause: the first in
the order of R36 is taken (DESIGN CHOICE, log 83). -/
def fpx (s s1 : State) (e : Entry) (xm : MReg) (vs i : Nat) (c : Cls) (after : Nat → State → State) : Option VRes × State :=
  if xm ≠ 0 then (none, (s1.raiseFlags c).modVec fun f => f.setMbit xm i (c.acts e.xact))
  else match c.trapCause e.xact with
    | some cause => (some (.stop ((s.setVstart i).trap cause 0 true)), s)
    | none =>
      if (c.inMode e.xact 1).isEmpty then (none, s1.raiseFlags c)
      else if i = vs then
        (some (.stop ((s.setVstart i).trap (0x10 + (c.inMode e.xact 1).headD 0) 0 true)), s)
      else (some (.done (after i ((s.mod fun t => t.setTrim e.grant i).complete1 i)) none), s)

/-- Elements i, i + 1, … of an entry of top elements in ascending order (R34); n are left, vs is where it began. One that stops
before its end stays at the head (R144). -/
def vloop (top : Nat) (s0 : State) (e : Entry) (xm : MReg) (act : VecFile → Nat → Bool) (f : State → Nat → Elt)
    (after : Nat → State → State) (vs : Nat) : Nat → Nat → State → VRes
  | 0, i, s => if i < top then .stop (s.mod fun t => { t with prog := i }) else .done (after i (s.complete1 i)) none
  | n + 1, i, s =>
    if act s.st.vec i then
      match f s i with
      | .fault cause ea byte k => s.shortenFault s0 e vs i cause ea byte k after
      | .ok s1 c =>
        match fpx s s1 e xm vs i c after with
        | (some r, _) => r
        | (none, s2) => vloop top s0 e xm act f after vs n (i + 1) s2
    else vloop top s0 e xm act f after vs n (i + 1) s

/-- An entry of vl elements: it retires without a check where VSTART is at or above vl (R38); a failed check raises its
cause on the leading element; otherwise its elements execute, without those that a part of it has already completed, and as
far as the goal of this step (R144). -/
def State.ventryN (s : State) (e : Entry) (vl : Nat) (bad : Option Nat) (xm : MReg) (act : VecFile → Nat → Bool)
    (f : State → Nat → Elt) (after : Nat → State → State := fun _ s => s) : VRes :=
  let vs := s.vstart
  if vl ≤ vs then .done (after vl (s.complete1 vl)) none
  else match bad with
    | some cause => .stop (s.trap cause 0 true)
    | none =>
      let from_ := Nat.max vs s.st.prog
      vloop vl s e xm act f after vs ((if s.st.goal = 0 then vl else Nat.min vl s.st.goal) - from_) from_ s

/-- An entry with an element count over its effective length (R33). -/
def State.ventry (s : State) (e : Entry) (checks : Bool) (xm : MReg) (act : VecFile → Nat → Bool) (f : State → Nat → Elt)
    (after : Nat → State → State := fun _ s => s) : VRes :=
  s.ventryN e (s.st.effLen e) (if checks then none else some 2) xm act f after

/-- Whether `.xmN` may stand with a form's execution mask and mask destination (R37, R131). -/
def xmOk (xm m : MReg) (others : List MReg := []) : Bool := xm == 0 || (xm != m && !others.contains xm)

/-- The element-wise pattern (R130): d of width wd, sources by group, value and classes from the register file. -/
def State.elementwise (s : State) (e : Entry) (d : VReg) (wd : Nat) (srcs : List VGroup) (exact : Bool) (m xm : MReg)
    (f : VecFile → Nat → Nat × Cls) : VRes :=
  let g := e.group d wd
  s.ventry e (g.ok && srcs.all (fun x => x.ok && x.overlapOk g exact) && xmOk xm m) xm (fun v i => v.mbit m i)
    fun s i =>
      let y := f s.st.vec i
      .ok (s.modVec fun v => v.setElem d.val i wd y.1) y.2

/-- The pattern with a mask destination (R131). -/
def State.maskwise (s : State) (e : Entry) (d : MReg) (srcs : List VGroup) (m xm : MReg)
    (f : VecFile → Nat → Bool × Cls) : VRes :=
  s.ventry e (srcs.all VGroup.ok && xmOk xm m [d]) xm (fun v i => v.mbit m i)
    fun s i =>
      let y := f s.st.vec i
      .ok (s.modVec fun v => v.setMbit d i y.1) y.2

end Sys2Proof.Machine
end

