-- ==== Sys2Proof/Machine/Tile.lean ====
section
/-! DEFINITION. Tiles: regions, shapes, tags, states and the bytes of a tile on its plates (09: R169; 10: R177 to R191; R129). -/

namespace Sys2Proof.Machine

/-! ### Bytes of a tile -/

/-- Window address of the byte at row r and byte column c of a tile (R169), as an integer: it may lie beyond the region. -/
def TileDef.addr (t : TileDef) (r c : Nat) : Nat :=
  let p := t.base.toNat % 2 ^ 56 / 4096
  t.base.toNat / 2 ^ 56 * 2 ^ 56 + (p + 16 * (r / 64) + (c / 64 + r / 64) % 16) * 4096 + r % 64 * 64 + c % 64

/-- Where a byte of a tile lies, for the strand that w names. -/
def State.tileByte (s : State) (w : Who) (t : TileDef) (r c : Nat) : Nat :=
  match s.place w (t.addr r c % 2 ^ 64) .read with
  | .ok l => l
  | .error _ => 0

/-- One byte of a tile, zero outside its shape (R196). -/
def State.tileGet (s : State) (w : Who) (t : TileDef) (r c : Nat) : Nat :=
  if r < t.rows ∧ c < t.len then (Memory.get s.mem (s.tileByte w t r c)).toNat else 0

/-- Element ec of width w of row r, packed as R80 places it; bits outside the shape read as zero. -/
def State.tileElem (s : State) (who : Who) (t : TileDef) (r ec w : Nat) : Nat :=
  let lo := ec * w
  let n := (lo + w - 1) / 8 - lo / 8 + 1
  bytesToNat ((List.range n).map fun k => BitVec.ofNat 8 (s.tileGet who t r (lo / 8 + k))) / 2 ^ (lo % 8) % 2 ^ w

/-- Locations of the bytes that element ec of width w of row r touches. -/
def State.tileLocs (s : State) (who : Who) (t : TileDef) (r ec w : Nat) : List Nat :=
  let lo := ec * w
  (List.range ((lo + w - 1) / 8 - lo / 8 + 1)).map fun k => s.tileByte who t r (lo / 8 + k)

/-- Writes element ec of row r; other bits of the bytes it touches stay. -/
def State.tileSet (s : State) (who : Who) (t : TileDef) (r ec w x : Nat) : State :=
  let ls := s.tileLocs who t r ec w
  let sh := ec * w % 8
  let old := s.get ls
  s.put ls (old / 2 ^ (sh + w) * 2 ^ (sh + w) + x % 2 ^ w * 2 ^ sh + old % 2 ^ sh)

/-! ### Tags -/

/-- FMT of a tag word (R184). -/
def tagFmt (g : BitVec 9) : Nat := fld g.toNat 4 0
/-- SP. -/
def tagSp (g : BitVec 9) : Nat := fld g.toNat 6 5
/-- LAY. -/
def tagLay (g : BitVec 9) : Nat := fld g.toNat 7 7
/-- LOCK. -/
def tagLock (g : BitVec 9) : Bool := g.getLsbD 8

/-- A tag word from its fields. -/
def mkTag (fmt sp lay : Nat) (lock : Bool) : BitVec 9 := BitVec.ofNat 9 (fmt % 32 + sp % 4 * 32 + lay % 2 * 128 + bitN lock * 256)

/-- Width in bits of an element code. -/
def codeBits (n : Nat) : Nat := match Elem.ofCode? n with | some c => c.bits | none => 8

/-- FMT after a store of a width (R185). -/
def storeFmt (fmt w : Nat) : Nat :=
  if codeBits fmt = w then fmt
  else match w with
    | 4 => 17 | 6 => 5 | 8 => 12 | 16 => 13 | 32 => 14 | _ => 15

/-- Lines of a tile along which blocks run, and elements of a line (R186): rows for LAY 0, element columns for LAY 1. -/
def TileDef.lines (t : TileDef) : Nat × Nat :=
  let w := codeBits (tagFmt t.tag)
  let er := if w = 6 then 4 * (t.len / 3) else 8 * t.len / w
  if tagLay t.tag = 0 then (t.rows, er) else (er, t.rows)

/-- Whether an element is a zero encoding of a format (R186). -/
def zeroEnc (fmt x : Nat) : Bool :=
  match (Elem.ofCode? fmt).bind Elem.fp? with
  | some f => x % f.signBit == 0
  | none => x == 0

/-- Whether block b of line l of a tile is zero. -/
def State.zeroBlock (s : State) (who : Who) (t : TileDef) (l b : Nat) : Bool :=
  let w := codeBits (tagFmt t.tag)
  (List.range 32).all fun k =>
    let i := 32 * b + k
    decide (t.lines.2 ≤ i) ||
      zeroEnc (tagFmt t.tag) (if tagLay t.tag = 0 then s.tileElem who t l i w else s.tileElem who t i l w)

/-- Blocks of a line, a partial last one counted. -/
def TileDef.blocks (t : TileDef) : Nat := (t.lines.2 + 31) / 32

/-- Place of block b of line l in the bitmap (layout: DESIGN CHOICE, log 50): a line takes 8 bits for LAY 1, else 64, and 128
for t2, whose lines from 128 up no form reads. -/
def TileDef.bit (t : TileDef) (l b : Nat) : Nat :=
  l * (if tagLay t.tag = 1 then 8 else if codeBits (tagFmt t.tag) = 2 then 128 else 64) + b

/-- Whether the bitmap keeps the block that holds element ec of row r (R187, R197). -/
def TileDef.keeps (t : TileDef) (r ec : Nat) : Bool :=
  tagSp t.tag == 0 || t.bitmap.getLsbD (if tagLay t.tag = 0 then t.bit r (ec / 32) else t.bit ec (r / 32))

/-- The groups of n blocks of every line with the non-zero blocks of each. -/
def State.groupsOf (s : State) (who : Who) (t : TileDef) (n : Nat) : List (Nat × Nat × List Nat) :=
  (List.range t.lines.1).flatMap fun l => (List.range ((t.blocks + n - 1) / n)).map fun g =>
    (l, g, ((List.range n).map fun k => n * g + k).filter fun b => decide (b < t.blocks) && !s.zeroBlock who t l b)

/-- The bitmap for a sparsity (R186, R187); none when some group holds more non-zero blocks than it allows. -/
def State.bitmapFor (s : State) (who : Who) (t : TileDef) (sp : Nat) : Option (BitVec 16384) :=
  if sp = 0 then some (BitVec.allOnes 16384)
  else
    let n := if sp = 1 then 2 else 4
    let gs := s.groupsOf who t n
    if gs.any fun g => 1 < g.2.2.length then none
    else some (BitVec.ofNat 16384 ((gs.map fun g => 2 ^ t.bit g.1 (g.2.2.headD (n * g.2.1))).sum))

/-- Sparsity and bitmap recomputed at the end of a fill (R186). -/
def State.recompute (s : State) (who : Who) (t : TileDef) : TileDef :=
  if tagLock t.tag then t
  else
    let set := fun sp b => { t with tag := mkTag (tagFmt t.tag) sp (tagLay t.tag) false, bitmap := b }
    match s.bitmapFor who t 2, s.bitmapFor who t 1 with
    | some b, _ => set 2 b
    | none, some b => set 1 b
    | none, none => set 0 (BitVec.allOnes 16384)

/-! ### States -/

/-- Code of a state (R181). -/
def TileSt.code : TileSt → Nat
  | .empty => 0 | .filling => 1 | .ready => 2 | .draining => 3

/-- How an entry may use a tile now. -/
inductive TileUse where
  | go | wait | illegal
  deriving DecidableEq, Repr

/-- Readers: VLDT, MLDS, MTILE, TGTAG and CPYT out of the tile (R181). -/
def Tile.reader (t : Tile) : TileUse :=
  match t.st with
  | .empty => .illegal
  | .filling => .wait
  | .ready => .go
  | .draining => if t.pending.isNone then .go else .wait

/-- Other naming entries wait until the tile is ready: VSTT and CPYT into it. -/
def Tile.writer (t : Tile) : TileUse :=
  match t.st with
  | .empty => .illegal
  | .ready => .go
  | _ => .wait

/-- Changes: SETSHAPE, TTAG; TDEF also on an empty tile (R179, R183). -/
def Tile.changer (t : Tile) (onEmpty : Bool) : TileUse :=
  match t.st with
  | .empty => if onEmpty then .go else .illegal
  | .filling => .wait
  | .ready => .go
  | .draining => if t.pending.isNone then .go else .wait

/-- Replaces a tile's table entry. -/
def State.setTile (s : State) (n : TReg) (t : Tile) : State := s.mod fun x => { x with tiles := x.tiles.set n t }

/-- A change takes effect at once on a ready tile and is held back on a draining one (R183). -/
def State.changeTile (s : State) (n : TReg) (d : TileDef) : State :=
  let t := s.st.tiles[n]
  s.setTile n (match t.st with
    | .draining => { t with pending := some d }
    | _ => { cur := d, st := .ready, pending := none })

/-- An entry that names a tile (R38, R178, R181): the handle's limit, then the tile's state, then the rest. -/
def State.withTile (s : State) (n : TReg) (use : Tile → TileUse) (k : Tile → VRes) : VRes :=
  if s.st.lim.tiles ≤ n.val then .stop ((s.setVstart 0).trap 2 0 true)
  else match use s.st.tiles[n] with
    | .illegal => .stop ((s.setVstart 0).trap 2 0 true)
    | .wait => .stop s
    | .go => k s.st.tiles[n]

/-- The trap of an entry without an element count (VSTART = 0). -/
def State.vTrap0 (s : State) (cause : Nat) (tval : Word) : VRes := .stop ((s.setVstart 0).trap cause tval true)

/-! ### The entries -/

/-- TDEF (R179). -/
def effTdef (d : TReg) (_a _b : SReg) (e : Entry) (s : State) : VRes :=
  s.withTile d (fun t => t.changer true) fun _ =>
    let sa := e.opd.a
    let b := e.opd.b.toNat
    let top := sa.toNat / 2 ^ 56
    let o := sa.toNat % 2 ^ 56
    if b = 0 || 4 < b then s.vTrap0 2 0
    else if sa.toNat % 4096 ≠ 0 then s.vTrap0 7 sa
    else if top ≠ 0xFE && top ≠ 0xFD && top ≠ 0xFC then s.vTrap0 6 sa
    else match s.place s.me (sa.toNat + 65536 * b - 1) .read with
      | .error _ => s.vTrap0 4 sa
      | .ok _ =>
        if o / 2 ^ 20 ≠ (o + 65536 * b - 1) / 2 ^ 20 then s.vTrap0 4 sa
        else
          .done ((s.changeTile d { base := sa, rb := b, rows := 0, len := 0, tag := 0x0C, bitmap := BitVec.allOnes 16384 }).setVstart 0)
            none

/-- SETSHAPE (R129). Of a half or quarter tile, blocks that a new shape brings in are absent from the bitmap (DESIGN CHOICE,
log 85). -/
def effSetshape (d : TReg) (_a _b : SReg) (e : Entry) (s : State) : VRes :=
  s.withTile d (fun t => t.changer false) fun t =>
    .done ((s.changeTile d { t.cur with
      rows := Nat.min (Nat.min e.opd.a.toNat 256) (64 * t.cur.rb), len := Nat.min e.opd.b.toNat 1024 }).setVstart 0) none

/-- TTAG (R187). A refused tag traps with VSTART 0; R187 names no VSTART (DEDUCED, log 51). -/
def effTtag (d : TReg) (_a : SReg) (e : Entry) (s : State) : VRes :=
  s.withTile d (fun t => t.changer false) fun t =>
    let x := e.opd.a.toNat
    if 512 ≤ x || 19 ≤ x % 32 || x / 32 % 4 = 3 then s.vTrap0 2 0
    else
      let c := { t.cur with tag := BitVec.ofNat 9 x }
      match s.bitmapFor s.me c (x / 32 % 4) with
      | none => s.vTrap0 2 0
      | some b => .done ((s.changeTile d { c with bitmap := b }).setVstart 0) none

/-- TGTAG (R188). -/
def effTgtag (_d : SReg) (a : TReg) (_e : Entry) (s : State) : VRes :=
  s.withTile a Tile.reader fun t => .done (s.setVstart 0) (some (t.cur.tag.setWidth 64))

/-- TSTAT (R188): it issues in every state. -/
def effTstat (_d : SReg) (a : TReg) (_e : Entry) (s : State) : VRes :=
  s.withTile a (fun _ => .go) fun t => .done (s.setVstart 0) (some (BitVec.ofNat 64 t.st.code))

/-- TWAIT (R189): it completes once the tile is ready or empty. -/
def effTwait (d : TReg) (_e : Entry) (s : State) : VRes :=
  s.withTile d (fun t => if t.st = .ready || t.st = .empty then .go else .wait) fun _ => .done (s.setVstart 0) none

/-- SHAPEn as CSRR reads it (R180). -/
def Tile.shape (t : Tile) : Word :=
  if t.st = .empty then 0 else BitVec.ofNat 64 (t.cur.rows + t.cur.len * 2 ^ 16 + t.cur.rb * 2 ^ 32)

end Sys2Proof.Machine
end

