-- ==== Sys2Proof/Machine/VArith.lean ====
section
/-! DEFINITION. Element-wise integer and floating entries (07: R130 to R134). Each effect takes its instruction's fields,
the queue entry and the state in which the entry starts. -/

namespace Sys2Proof.Machine

/-! ### Integer forms -/

/-- A VV or VX form of width W: value and classes from a, b and d at width W (R132). -/
def State.vint (s : State) (e : Entry) (d a : VReg) (b : BSrc) (m xm : MReg) (w : IW) (f : Nat → Nat → Nat → Nat → Nat × Cls) : VRes :=
  s.elementwise e d w.bits (e.group a w.bits :: b.groups e w.bits) true m xm
    fun v i => f w.bits (v.elem a.val i w.bits) (b.elem e v i w.bits) (v.elem d.val i w.bits)

/-- A compare form of width W. -/
def State.vcmp (s : State) (e : Entry) (d : MReg) (a : VReg) (b : BSrc) (m : MReg) (w : IW) (f : Nat → Nat → Nat → Bool) : VRes :=
  s.maskwise e d (e.group a w.bits :: b.groups e w.bits) m 0
    fun v i => (f w.bits (v.elem a.val i w.bits) (b.elem e v i w.bits), 0)

/-- sat to iW. -/
def satW (w : Nat) (z : Int) : Nat × Cls :=
  let r := satInt (rangeOf true w).1 (rangeOf true w).2 z
  (wrap w r.1, r.2)

/-- a + b. -/
def iAdd (w x y _ : Nat) : Nat × Cls := (wrap w (x + y), 0)
/-- a − b. -/
def iSub (w x y _ : Nat) : Nat × Cls := (wrap w ((x : Int) - y), 0)
/-- b − a. -/
def iRsub (w x y _ : Nat) : Nat × Cls := (wrap w ((y : Int) - x), 0)
/-- Low half of a · b. -/
def iMul (w x y _ : Nat) : Nat × Cls := (x * y % 2 ^ w, 0)
/-- High half of the signed product. -/
def iMulh (w x y _ : Nat) : Nat × Cls := (wrap w (sx w x * sx w y / 2 ^ w), 0)
/-- sat(d + a · b, iW). -/
def iMacc (w x y d : Nat) : Nat × Cls := satW w (sx w d + sx w x * sx w y)
/-- (d ≠ 0) ? a : b. -/
def iMerge (_ x y d : Nat) : Nat × Cls := (if d ≠ 0 then x else y, 0)
/-- Bitwise and. -/
def iAnd (_ x y _ : Nat) : Nat × Cls := (x &&& y, 0)
/-- Bitwise or. -/
def iOr (_ x y _ : Nat) : Nat × Cls := (x ||| y, 0)
/-- Bitwise exclusive or. -/
def iXor (_ x y _ : Nat) : Nat × Cls := (x ^^^ y, 0)
/-- Left shift by b mod W. -/
def iSll (w x y _ : Nat) : Nat × Cls := (x * 2 ^ (y % w) % 2 ^ w, 0)
/-- Right shift with zeros. -/
def iSrl (w x y _ : Nat) : Nat × Cls := (x / 2 ^ (y % w), 0)
/-- Right shift with the sign. -/
def iSra (w x y _ : Nat) : Nat × Cls := (wrap w (sx w x / 2 ^ (y % w)), 0)
/-- Signed minimum. -/
def iMin (w x y _ : Nat) : Nat × Cls := (if sx w y < sx w x then y else x, 0)
/-- Signed maximum. -/
def iMax (w x y _ : Nat) : Nat × Cls := (if sx w x < sx w y then y else x, 0)
/-- Unsigned minimum. -/
def iMinn (_ x y _ : Nat) : Nat × Cls := (Nat.min x y, 0)
/-- Unsigned maximum. -/
def iMaxn (_ x y _ : Nat) : Nat × Cls := (Nat.max x y, 0)
/-- sat(a + b, iW). -/
def iSadd (w x y _ : Nat) : Nat × Cls := satW w (sx w x + sx w y)
/-- sat(a − b, iW). -/
def iSsub (w x y _ : Nat) : Nat × Cls := satW w (sx w x - sx w y)
/-- Signed quotient toward zero; division by zero and overflow as R132 says. -/
def iDiv (w x y _ : Nat) : Nat × Cls :=
  if y = 0 then (2 ^ w - 1, Cls.dz)
  else if sx w x = -(2 ^ (w - 1)) && sx w y = -1 then (2 ^ (w - 1) - 1, Cls.sat)
  else (wrap w (Int.tdiv (sx w x) (sx w y)), 0)
/-- Remainder. -/
def iRem (w x y _ : Nat) : Nat × Cls :=
  if y = 0 then (x, Cls.dz)
  else if sx w x = -(2 ^ (w - 1)) && sx w y = -1 then (0, 0)
  else (wrap w (Int.tmod (sx w x) (sx w y)), 0)

/-- VWMACC: d at width 2W = d + a · b, signed, modulo 2^2W (R132). -/
def State.vwide (s : State) (e : Entry) (d a : VReg) (b : BSrc) (m : MReg) (w : IW) : VRes :=
  s.elementwise e d (2 * w.bits) (e.group a w.bits :: b.groups e w.bits) true m 0
    fun v i => (wrap (2 * w.bits) ((v.elem d.val i (2 * w.bits) : Int)
      + sx w.bits (v.elem a.val i w.bits) * sx w.bits (b.elem e v i w.bits)), 0)

/-- VNSRA: a at width 2W shifted right by b mod 2W, rounded and saturated to iW (R132). -/
def State.vnarrow (s : State) (e : Entry) (d a : VReg) (b : BSrc) (m xm : MReg) (w : IW) : VRes :=
  s.elementwise e d w.bits (e.group a (2 * w.bits) :: b.groups e w.bits) true m xm
    fun v i =>
      let r := fxRound e.xm (sx (2 * w.bits) (v.elem a.val i (2 * w.bits))) (b.elem e v i w.bits % (2 * w.bits))
      let y := satW w.bits r.1
      (y.1, r.2 ||| y.2)


/-! #### VV forms -/

/-- VADD (R132). -/
def effVadd (d a : VReg) (b : VReg) (m : MReg) (w : IW) (e : Entry) (s : State) : VRes :=
  s.vint e d a (.v b) m 0 w iAdd

/-- VSUB (R132). -/
def effVsub (d a : VReg) (b : VReg) (m : MReg) (w : IW) (e : Entry) (s : State) : VRes :=
  s.vint e d a (.v b) m 0 w iSub

/-- VRSUB (R132). -/
def effVrsub (d a : VReg) (b : VReg) (m : MReg) (w : IW) (e : Entry) (s : State) : VRes :=
  s.vint e d a (.v b) m 0 w iRsub

/-- VMUL (R132). -/
def effVmul (d a : VReg) (b : VReg) (m : MReg) (w : IW) (e : Entry) (s : State) : VRes :=
  s.vint e d a (.v b) m 0 w iMul

/-- VMULH (R132). -/
def effVmulh (d a : VReg) (b : VReg) (m : MReg) (w : IW) (e : Entry) (s : State) : VRes :=
  s.vint e d a (.v b) m 0 w iMulh

/-- VMACC (R132). -/
def effVmacc (d a : VReg) (b : VReg) (m : MReg) (x : MReg) (w : IW) (e : Entry) (s : State) : VRes :=
  s.vint e d a (.v b) m x w iMacc

/-- VWMACC (R132). -/
def effVwmacc (d a : VReg) (b : VReg) (m : MReg) (w : IW) (e : Entry) (s : State) : VRes :=
  s.vwide e d a (.v b) m w

/-- VMERGE (R132). -/
def effVmerge (d a : VReg) (b : VReg) (m : MReg) (w : IW) (e : Entry) (s : State) : VRes :=
  s.vint e d a (.v b) m 0 w iMerge

/-- VAND (R132). -/
def effVand (d a : VReg) (b : VReg) (m : MReg) (w : IW) (e : Entry) (s : State) : VRes :=
  s.vint e d a (.v b) m 0 w iAnd

/-- VOR (R132). -/
def effVor (d a : VReg) (b : VReg) (m : MReg) (w : IW) (e : Entry) (s : State) : VRes :=
  s.vint e d a (.v b) m 0 w iOr

/-- VXOR (R132). -/
def effVxor (d a : VReg) (b : VReg) (m : MReg) (w : IW) (e : Entry) (s : State) : VRes :=
  s.vint e d a (.v b) m 0 w iXor

/-- VSLL (R132). -/
def effVsll (d a : VReg) (b : VReg) (m : MReg) (w : IW) (e : Entry) (s : State) : VRes :=
  s.vint e d a (.v b) m 0 w iSll

/-- VSRL (R132). -/
def effVsrl (d a : VReg) (b : VReg) (m : MReg) (w : IW) (e : Entry) (s : State) : VRes :=
  s.vint e d a (.v b) m 0 w iSrl

/-- VSRA (R132). -/
def effVsra (d a : VReg) (b : VReg) (m : MReg) (w : IW) (e : Entry) (s : State) : VRes :=
  s.vint e d a (.v b) m 0 w iSra

/-- VNSRA (R132). -/
def effVnsra (d a : VReg) (b : VReg) (m : MReg) (x : MReg) (w : IW) (e : Entry) (s : State) : VRes :=
  s.vnarrow e d a (.v b) m x w

/-- VMIN (R132). -/
def effVmin (d a : VReg) (b : VReg) (m : MReg) (w : IW) (e : Entry) (s : State) : VRes :=
  s.vint e d a (.v b) m 0 w iMin

/-- VMAX (R132). -/
def effVmax (d a : VReg) (b : VReg) (m : MReg) (w : IW) (e : Entry) (s : State) : VRes :=
  s.vint e d a (.v b) m 0 w iMax

/-- VMINN (R132). -/
def effVminn (d a : VReg) (b : VReg) (m : MReg) (w : IW) (e : Entry) (s : State) : VRes :=
  s.vint e d a (.v b) m 0 w iMinn

/-- VMAXN (R132). -/
def effVmaxn (d a : VReg) (b : VReg) (m : MReg) (w : IW) (e : Entry) (s : State) : VRes :=
  s.vint e d a (.v b) m 0 w iMaxn

/-- VSADD (R132). -/
def effVsadd (d a : VReg) (b : VReg) (m : MReg) (x : MReg) (w : IW) (e : Entry) (s : State) : VRes :=
  s.vint e d a (.v b) m x w iSadd

/-- VSSUB (R132). -/
def effVssub (d a : VReg) (b : VReg) (m : MReg) (x : MReg) (w : IW) (e : Entry) (s : State) : VRes :=
  s.vint e d a (.v b) m x w iSsub

/-- VDIV (R132). -/
def effVdiv (d a : VReg) (b : VReg) (m : MReg) (x : MReg) (w : IW) (e : Entry) (s : State) : VRes :=
  s.vint e d a (.v b) m x w iDiv

/-- VREM (R132). -/
def effVrem (d a : VReg) (b : VReg) (m : MReg) (x : MReg) (w : IW) (e : Entry) (s : State) : VRes :=
  s.vint e d a (.v b) m x w iRem

/-- VCMP_EQ (R131, R132). -/
def effVcmpEq (d : MReg) (a : VReg) (b : VReg) (m : MReg) (w : IW) (e : Entry) (s : State) : VRes :=
  s.vcmp e d a (.v b) m w (fun _ x y => x == y)

/-- VCMP_NE (R131, R132). -/
def effVcmpNe (d : MReg) (a : VReg) (b : VReg) (m : MReg) (w : IW) (e : Entry) (s : State) : VRes :=
  s.vcmp e d a (.v b) m w (fun _ x y => x != y)

/-- VCMP_LT (R131, R132). -/
def effVcmpLt (d : MReg) (a : VReg) (b : VReg) (m : MReg) (w : IW) (e : Entry) (s : State) : VRes :=
  s.vcmp e d a (.v b) m w (fun w x y => decide (sx w x < sx w y))

/-- VCMP_LE (R131, R132). -/
def effVcmpLe (d : MReg) (a : VReg) (b : VReg) (m : MReg) (w : IW) (e : Entry) (s : State) : VRes :=
  s.vcmp e d a (.v b) m w (fun w x y => decide (sx w x ≤ sx w y))

/-- VCMP_LTN (R131, R132). -/
def effVcmpLtn (d : MReg) (a : VReg) (b : VReg) (m : MReg) (w : IW) (e : Entry) (s : State) : VRes :=
  s.vcmp e d a (.v b) m w (fun _ x y => decide (x < y))

/-- VCMP_LEN (R131, R132). -/
def effVcmpLen (d : MReg) (a : VReg) (b : VReg) (m : MReg) (w : IW) (e : Entry) (s : State) : VRes :=
  s.vcmp e d a (.v b) m w (fun _ x y => decide (x ≤ y))


/-! #### VX forms -/

/-- VADD_VX (R132). -/
def effVaddVx (d a : VReg) (_b : SReg) (m : MReg) (w : IW) (e : Entry) (s : State) : VRes :=
  s.vint e d a .x m 0 w iAdd

/-- VSUB_VX (R132). -/
def effVsubVx (d a : VReg) (_b : SReg) (m : MReg) (w : IW) (e : Entry) (s : State) : VRes :=
  s.vint e d a .x m 0 w iSub

/-- VRSUB_VX (R132). -/
def effVrsubVx (d a : VReg) (_b : SReg) (m : MReg) (w : IW) (e : Entry) (s : State) : VRes :=
  s.vint e d a .x m 0 w iRsub

/-- VMUL_VX (R132). -/
def effVmulVx (d a : VReg) (_b : SReg) (m : MReg) (w : IW) (e : Entry) (s : State) : VRes :=
  s.vint e d a .x m 0 w iMul

/-- VMULH_VX (R132). -/
def effVmulhVx (d a : VReg) (_b : SReg) (m : MReg) (w : IW) (e : Entry) (s : State) : VRes :=
  s.vint e d a .x m 0 w iMulh

/-- VMACC_VX (R132). -/
def effVmaccVx (d a : VReg) (_b : SReg) (m : MReg) (x : MReg) (w : IW) (e : Entry) (s : State) : VRes :=
  s.vint e d a .x m x w iMacc

/-- VWMACC_VX (R132). -/
def effVwmaccVx (d a : VReg) (_b : SReg) (m : MReg) (w : IW) (e : Entry) (s : State) : VRes :=
  s.vwide e d a .x m w

/-- VMERGE_VX (R132). -/
def effVmergeVx (d a : VReg) (_b : SReg) (m : MReg) (w : IW) (e : Entry) (s : State) : VRes :=
  s.vint e d a .x m 0 w iMerge

/-- VAND_VX (R132). -/
def effVandVx (d a : VReg) (_b : SReg) (m : MReg) (w : IW) (e : Entry) (s : State) : VRes :=
  s.vint e d a .x m 0 w iAnd

/-- VOR_VX (R132). -/
def effVorVx (d a : VReg) (_b : SReg) (m : MReg) (w : IW) (e : Entry) (s : State) : VRes :=
  s.vint e d a .x m 0 w iOr

/-- VXOR_VX (R132). -/
def effVxorVx (d a : VReg) (_b : SReg) (m : MReg) (w : IW) (e : Entry) (s : State) : VRes :=
  s.vint e d a .x m 0 w iXor

/-- VSLL_VX (R132). -/
def effVsllVx (d a : VReg) (_b : SReg) (m : MReg) (w : IW) (e : Entry) (s : State) : VRes :=
  s.vint e d a .x m 0 w iSll

/-- VSRL_VX (R132). -/
def effVsrlVx (d a : VReg) (_b : SReg) (m : MReg) (w : IW) (e : Entry) (s : State) : VRes :=
  s.vint e d a .x m 0 w iSrl

/-- VSRA_VX (R132). -/
def effVsraVx (d a : VReg) (_b : SReg) (m : MReg) (w : IW) (e : Entry) (s : State) : VRes :=
  s.vint e d a .x m 0 w iSra

/-- VNSRA_VX (R132). -/
def effVnsraVx (d a : VReg) (_b : SReg) (m : MReg) (x : MReg) (w : IW) (e : Entry) (s : State) : VRes :=
  s.vnarrow e d a .x m x w

/-- VMIN_VX (R132). -/
def effVminVx (d a : VReg) (_b : SReg) (m : MReg) (w : IW) (e : Entry) (s : State) : VRes :=
  s.vint e d a .x m 0 w iMin

/-- VMAX_VX (R132). -/
def effVmaxVx (d a : VReg) (_b : SReg) (m : MReg) (w : IW) (e : Entry) (s : State) : VRes :=
  s.vint e d a .x m 0 w iMax

/-- VMINN_VX (R132). -/
def effVminnVx (d a : VReg) (_b : SReg) (m : MReg) (w : IW) (e : Entry) (s : State) : VRes :=
  s.vint e d a .x m 0 w iMinn

/-- VMAXN_VX (R132). -/
def effVmaxnVx (d a : VReg) (_b : SReg) (m : MReg) (w : IW) (e : Entry) (s : State) : VRes :=
  s.vint e d a .x m 0 w iMaxn

/-- VSADD_VX (R132). -/
def effVsaddVx (d a : VReg) (_b : SReg) (m : MReg) (x : MReg) (w : IW) (e : Entry) (s : State) : VRes :=
  s.vint e d a .x m x w iSadd

/-- VSSUB_VX (R132). -/
def effVssubVx (d a : VReg) (_b : SReg) (m : MReg) (x : MReg) (w : IW) (e : Entry) (s : State) : VRes :=
  s.vint e d a .x m x w iSsub

/-- VDIV_VX (R132). -/
def effVdivVx (d a : VReg) (_b : SReg) (m : MReg) (x : MReg) (w : IW) (e : Entry) (s : State) : VRes :=
  s.vint e d a .x m x w iDiv

/-- VREM_VX (R132). -/
def effVremVx (d a : VReg) (_b : SReg) (m : MReg) (x : MReg) (w : IW) (e : Entry) (s : State) : VRes :=
  s.vint e d a .x m x w iRem

/-- VCMP_EQ_VX (R131, R132). -/
def effVcmpEqVx (d : MReg) (a : VReg) (_b : SReg) (m : MReg) (w : IW) (e : Entry) (s : State) : VRes :=
  s.vcmp e d a .x m w (fun _ x y => x == y)

/-- VCMP_NE_VX (R131, R132). -/
def effVcmpNeVx (d : MReg) (a : VReg) (_b : SReg) (m : MReg) (w : IW) (e : Entry) (s : State) : VRes :=
  s.vcmp e d a .x m w (fun _ x y => x != y)

/-- VCMP_LT_VX (R131, R132). -/
def effVcmpLtVx (d : MReg) (a : VReg) (_b : SReg) (m : MReg) (w : IW) (e : Entry) (s : State) : VRes :=
  s.vcmp e d a .x m w (fun w x y => decide (sx w x < sx w y))

/-- VCMP_LE_VX (R131, R132). -/
def effVcmpLeVx (d : MReg) (a : VReg) (_b : SReg) (m : MReg) (w : IW) (e : Entry) (s : State) : VRes :=
  s.vcmp e d a .x m w (fun w x y => decide (sx w x ≤ sx w y))

/-- VCMP_LTN_VX (R131, R132). -/
def effVcmpLtnVx (d : MReg) (a : VReg) (_b : SReg) (m : MReg) (w : IW) (e : Entry) (s : State) : VRes :=
  s.vcmp e d a .x m w (fun _ x y => decide (x < y))

/-- VCMP_LEN_VX (R131, R132). -/
def effVcmpLenVx (d : MReg) (a : VReg) (_b : SReg) (m : MReg) (w : IW) (e : Entry) (s : State) : VRes :=
  s.vcmp e d a .x m w (fun _ x y => decide (x ≤ y))


/-! ### Floating forms -/

/-- Rounds an exact result to a format, with the classes of its operands (R83, R84). -/
def finish (f : FP) (rm : RM) (p : Val × Cls) : Nat × Cls :=
  let r := f.round rm p.1
  (r.1, p.2 ||| r.2)

/-- A form over a, b and d in one format (R133). -/
def State.vfloat (s : State) (e : Entry) (d a : VReg) (b : BSrc) (m xm : MReg) (f : FF) (g : FP → RM → Nat → Nat → Nat → Nat × Cls) : VRes :=
  s.elementwise e d f.bits (e.group a f.bits :: b.groups e f.bits) true m xm
    fun v i => g f.fp e.rm (v.elem a.val i f.bits) (b.elem e v i f.bits) (v.elem d.val i f.bits)

/-- A form over a alone. -/
def State.vfloat1 (s : State) (e : Entry) (d a : VReg) (m xm : MReg) (f : FF) (g : FP → RM → Nat → Nat × Cls) : VRes :=
  s.elementwise e d f.bits [e.group a f.bits] true m xm fun v i => g f.fp e.rm (v.elem a.val i f.bits)

/-- a + b. -/
def fAddE (f : FP) (r : RM) (x y _ : Nat) : Nat × Cls := finish f r ((f.val x).add r (f.val y))
/-- a − b. -/
def fSubE (f : FP) (r : RM) (x y _ : Nat) : Nat × Cls := finish f r ((f.val x).add r (f.val y).negate)
/-- a · b. -/
def fMulE (f : FP) (r : RM) (x y _ : Nat) : Nat × Cls := finish f r ((f.val x).mul (f.val y))
/-- a / b. -/
def fDivE (f : FP) (r : RM) (x y _ : Nat) : Nat × Cls := finish f r ((f.val x).div (f.val y))
/-- Lesser of a and b. -/
def fMinE (f : FP) (_ : RM) (x y _ : Nat) : Nat × Cls := f.fmin x y
/-- Greater of a and b. -/
def fMaxE (f : FP) (_ : RM) (x y _ : Nat) : Nat × Cls := f.fmax x y
/-- a · b + d, rounded once. -/
def fMaE (f : FP) (r : RM) (x y d : Nat) : Nat × Cls := finish f r (Val.fma r (f.val x) (f.val y) (f.val d))
/-- d − a · b, rounded once. -/
def fNmaE (f : FP) (r : RM) (x y d : Nat) : Nat × Cls := finish f r (Val.fma r (f.val x).negate (f.val y) (f.val d))


/-- VFADD (R133). -/
def effVfadd (d a : VReg) (b : VReg) (m x : MReg) (f : FF) (e : Entry) (s : State) : VRes :=
  s.vfloat e d a (.v b) m x f fAddE

/-- VFSUB (R133). -/
def effVfsub (d a : VReg) (b : VReg) (m x : MReg) (f : FF) (e : Entry) (s : State) : VRes :=
  s.vfloat e d a (.v b) m x f fSubE

/-- VFMUL (R133). -/
def effVfmul (d a : VReg) (b : VReg) (m x : MReg) (f : FF) (e : Entry) (s : State) : VRes :=
  s.vfloat e d a (.v b) m x f fMulE

/-- VFDIV (R133). -/
def effVfdiv (d a : VReg) (b : VReg) (m x : MReg) (f : FF) (e : Entry) (s : State) : VRes :=
  s.vfloat e d a (.v b) m x f fDivE

/-- VFMIN (R133). -/
def effVfmin (d a : VReg) (b : VReg) (m x : MReg) (f : FF) (e : Entry) (s : State) : VRes :=
  s.vfloat e d a (.v b) m x f fMinE

/-- VFMAX (R133). -/
def effVfmax (d a : VReg) (b : VReg) (m x : MReg) (f : FF) (e : Entry) (s : State) : VRes :=
  s.vfloat e d a (.v b) m x f fMaxE

/-- VFMA (R133). -/
def effVfma (d a : VReg) (b : VReg) (m x : MReg) (f : FF) (e : Entry) (s : State) : VRes :=
  s.vfloat e d a (.v b) m x f fMaE

/-- VFNMA (R133). -/
def effVfnma (d a : VReg) (b : VReg) (m x : MReg) (f : FF) (e : Entry) (s : State) : VRes :=
  s.vfloat e d a (.v b) m x f fNmaE

/-- VFADD_VX (R133). -/
def effVfaddVx (d a : VReg) (_b : SReg) (m x : MReg) (f : FF) (e : Entry) (s : State) : VRes :=
  s.vfloat e d a .x m x f fAddE

/-- VFSUB_VX (R133). -/
def effVfsubVx (d a : VReg) (_b : SReg) (m x : MReg) (f : FF) (e : Entry) (s : State) : VRes :=
  s.vfloat e d a .x m x f fSubE

/-- VFMUL_VX (R133). -/
def effVfmulVx (d a : VReg) (_b : SReg) (m x : MReg) (f : FF) (e : Entry) (s : State) : VRes :=
  s.vfloat e d a .x m x f fMulE

/-- VFDIV_VX (R133). -/
def effVfdivVx (d a : VReg) (_b : SReg) (m x : MReg) (f : FF) (e : Entry) (s : State) : VRes :=
  s.vfloat e d a .x m x f fDivE

/-- VFMIN_VX (R133). -/
def effVfminVx (d a : VReg) (_b : SReg) (m x : MReg) (f : FF) (e : Entry) (s : State) : VRes :=
  s.vfloat e d a .x m x f fMinE

/-- VFMAX_VX (R133). -/
def effVfmaxVx (d a : VReg) (_b : SReg) (m x : MReg) (f : FF) (e : Entry) (s : State) : VRes :=
  s.vfloat e d a .x m x f fMaxE

/-- VFMA_VX (R133). -/
def effVfmaVx (d a : VReg) (_b : SReg) (m x : MReg) (f : FF) (e : Entry) (s : State) : VRes :=
  s.vfloat e d a .x m x f fMaE

/-- VFNMA_VX (R133). -/
def effVfnmaVx (d a : VReg) (_b : SReg) (m x : MReg) (f : FF) (e : Entry) (s : State) : VRes :=
  s.vfloat e d a .x m x f fNmaE

/-- VFSQRT (R133). -/
def effVfsqrt (d a : VReg) (m x : MReg) (f : FF) (e : Entry) (s : State) : VRes :=
  s.vfloat1 e d a m x f fun g r y => finish g r (g.val y).sqrt

/-- VFCLASS (R109, R133): raises nothing. -/
def effVfclass (d a : VReg) (m : MReg) (f : FF) (e : Entry) (s : State) : VRes :=
  s.vfloat1 e d a m 0 f fun g _ y => (g.fclass y, 0)

/-- VFCMP_EQ (R131, R133). -/
def effVfcmpEq (d : MReg) (a b : VReg) (m x : MReg) (f : FF) (e : Entry) (s : State) : VRes :=
  s.maskwise e d [e.group a f.bits, e.group b f.bits] m x
    fun v i => f.fp.cmp .eq (v.elem a.val i f.bits) (v.elem b.val i f.bits)

/-- VFCMP_LT (R131, R133). -/
def effVfcmpLt (d : MReg) (a b : VReg) (m x : MReg) (f : FF) (e : Entry) (s : State) : VRes :=
  s.maskwise e d [e.group a f.bits, e.group b f.bits] m x
    fun v i => f.fp.cmp .lt (v.elem a.val i f.bits) (v.elem b.val i f.bits)

/-- VFCMP_LE (R131, R133). -/
def effVfcmpLe (d : MReg) (a b : VReg) (m x : MReg) (f : FF) (e : Entry) (s : State) : VRes :=
  s.maskwise e d [e.group a f.bits, e.group b f.bits] m x
    fun v i => f.fp.cmp .le (v.elem a.val i f.bits) (v.elem b.val i f.bits)

/-- VFCMP_UN (R131, R133). -/
def effVfcmpUn (d : MReg) (a b : VReg) (m x : MReg) (f : FF) (e : Entry) (s : State) : VRes :=
  s.maskwise e d [e.group a f.bits, e.group b f.bits] m x
    fun v i => f.fp.cmp .un (v.elem a.val i f.bits) (v.elem b.val i f.bits)

/-! ### Special functions -/

/-- VFRECE (R134). -/
def effVfrece (d a : VReg) (m x : MReg) (f : FF) (e : Entry) (s : State) : VRes :=
  s.vfloat1 e d a m x f fun p _ y => p.special .rece y

/-- VFRSQE (R134). -/
def effVfrsqe (d a : VReg) (m x : MReg) (f : FF) (e : Entry) (s : State) : VRes :=
  s.vfloat1 e d a m x f fun p _ y => p.special .rsqe y

/-- VFEXP2 (R134). -/
def effVfexp2 (d a : VReg) (m x : MReg) (f : FF) (e : Entry) (s : State) : VRes :=
  s.vfloat1 e d a m x f fun p _ y => p.special .exp2 y

/-- VFLOG2 (R134). -/
def effVflog2 (d a : VReg) (m x : MReg) (f : FF) (e : Entry) (s : State) : VRes :=
  s.vfloat1 e d a m x f fun p _ y => p.special .log2 y

/-- VFTANH (R134). -/
def effVftanh (d a : VReg) (m x : MReg) (f : FF) (e : Entry) (s : State) : VRes :=
  s.vfloat1 e d a m x f fun p _ y => p.special .tanh y

/-- VFSIGM (R134). -/
def effVfsigm (d a : VReg) (m x : MReg) (f : FF) (e : Entry) (s : State) : VRes :=
  s.vfloat1 e d a m x f fun p _ y => p.special .sigm y

end Sys2Proof.Machine
end

