-- ==== Sys2Proof/Machine/VConv.lean ====
section
/-! DEFINITION. Conversion, packing, block quantisation, Hadamard stages and generator draws (07: R135 to R141). -/

namespace Sys2Proof.Machine

/-- One element of VCVT from S to D (R135). From integer to integer a value that the target does not hold is clamped and raises
SAT, also where the target is no narrower, of which the spec states no result (DESIGN CHOICE, log 109). -/
def cvtElem (src dst : Elem) (rm : RM) (xm : XM) (x : Nat) : Nat × Cls :=
  match src.fp?, dst.fp? with
  | some f, some g => finish g rm (f.val x, Cls.when (f.val x).snan Cls.nv)
  | some f, none =>
    let r := (f.val x).toInt xm (rangeOf dst.isSigned dst.bits).1 (rangeOf dst.isSigned dst.bits).2
    (wrap dst.bits r.1, r.2)
  | none, some g => g.round rm (intVal (if src.isSigned then sx src.bits x else x))
  | none, none =>
    let r := satInt (rangeOf dst.isSigned dst.bits).1 (rangeOf dst.isSigned dst.bits).2 (if src.isSigned then sx src.bits x else x)
    (wrap dst.bits r.1, r.2)

/-- VCVT (R135). -/
def effVcvt (d a : VReg) (src : Elem) (m x : MReg) (dst : Elem) (e : Entry) (s : State) : VRes :=
  s.elementwise e d dst.bits [e.group a src.bits] true m x
    fun v i => cvtElem src dst e.rm e.xm (v.elem a.val i src.bits)

/-- A byte to a packed element (R136). -/
def packElem (c : Elem) (b : Nat) : Nat × Cls :=
  match c with
  | .t2 =>
    let z := sx 8 b
    if z = 0 then (0, 0) else if 0 < z then (1, Cls.when (1 < z) Cls.sat) else (3, Cls.when (z < -1) Cls.sat)
  | .i4 => satW 4 (sx 8 b)
  | .n4 => if 15 < b then (15, Cls.sat) else (b, 0)
  | _ => (b % 2 ^ c.bits, 0)

/-- A packed element to a byte (R136, R79). -/
def unpackElem (c : Elem) (x : Nat) : Nat × Cls :=
  match c with
  | .t2 => if x = 2 then (0, Cls.nv) else (wrap 8 (sx 2 x), 0)
  | .i4 => (wrap 8 (sx 4 x), 0)
  | _ => (x, 0)

/-- VPACK (R136). -/
def effVpack (d a : VReg) (c : Elem) (m : MReg) (e : Entry) (s : State) : VRes :=
  s.elementwise e d c.bits [e.group a 8] true m 0 fun v i => packElem c (v.elem a.val i 8)

/-- VUNPK (R136). -/
def effVunpk (d a : VReg) (c : Elem) (m : MReg) (e : Entry) (s : State) : VRes :=
  s.elementwise e d 8 [e.group a c.bits] true m 0 fun v i => unpackElem c (v.elem a.val i c.bits)

/-! ### Block quantisation -/

/-- QG (R137); 16 stands for any that exceeds 8. -/
def qgroup (vt : BitVec 5) : Nat :=
  let b := (vlmax vt + 31) / 32
  if b ≤ 64 then 1 else if b ≤ 128 then 2 else if b ≤ 256 then 4 else if b ≤ 512 then 8 else 16

/-- Whether a scale-register field is legal (R137). -/
def qOk (vt : BitVec 5) (q : QReg) : Bool := q.val % qgroup vt == 0 && decide (q.val + qgroup vt ≤ 8)

/-- The scale byte of block j (R137). -/
def VecFile.scale (f : VecFile) (q : QReg) (j : Nat) : Nat := getField (f.q[(q.val + j / 64) % 8]) (j % 64 * 8) 8

/-- Writes the scale byte of block j. -/
def VecFile.setScale (f : VecFile) (q : QReg) (j x : Nat) : VecFile :=
  let n := (q.val + j / 64) % 8
  { f with q := f.q.set (Fin.ofNat 8 n) (putField f.q[n] (j % 64 * 8) 8 x) }

/-- Element i of vc in a format; zeros while its dirty bit is clear (R47, R140). -/
def VecFile.vcElem (f : VecFile) (i w : Nat) : Nat := if f.vcDirty then getField f.vc (i * w) w else 0

/-- A read of vc clears the dirty bit (R47); what the bit no longer covers reads as zeros from then on. An entry that reads vc does
it once every element below the grant's length has completed, not where it shortens or retires (DESIGN CHOICE, log 110). -/
def VecFile.clearVc (f : VecFile) : VecFile := { f with vcDirty := false, vc := 0 }

/-- Writes element i of vc in a format (R140). -/
def VecFile.setVc (f : VecFile) (i : Nat) (g : FF) (x : Nat) : VecFile :=
  { f with vc := putField f.vc (i * g.bits) g.bits x, vcDirty := true, vcFmt := g }

/-- E(T) (R87). -/
def quantExp : Elem → Int
  | .e4m3 => 8 | .e5m2 => 15 | .e3m2 => 4 | .e2m3 => 2 | .e2m1 => 2 | .i8 => 6 | _ => 2

/-- ⌊log2 M⌋ of a finite non-zero value. -/
def Val.log? : Val → Option Int
  | .fin _ m e => if m = 0 then none else some ((bitLen m : Int) - 1 + e)
  | _ => none

/-- The scale of a block (R87): 0xFF with a NaN among the members; else the clamped exponent plus 127. -/
def blockScale (t : Elem) (vs : List Val) : Nat :=
  if vs.any Val.isNan then 255
  else match (vs.filterMap Val.log?).max? with
    | none => 0
    | some l => (max (-127) (min 127 (l - quantExp t)) + 127).toNat

/-- An element of a block quantised under a scale byte (R87, R138): rounded by R83, then clamped to the greatest finite
magnitude, which adds SAT to the classes of the rounding (log 45). -/
def quantElem (t : Elem) (rm : RM) (scale : Nat) (v : Val) : Nat × Cls :=
  if scale = 255 then (0, Cls.when v.isNan Cls.nv)
  else
    let shifted := match v with | .fin s m e => Val.fin s m (e - ((scale : Int) - 127)) | y => y
    match t.fp? with
    | some f =>
      match shifted with
      | .inf s => (f.maxEnc + bitN s * f.signBit, Cls.sat)
      | y =>
        let r := f.round rm y
        if f.maxEnc < r.1 % f.signBit then (f.maxEnc + bitN y.neg? * f.signBit, r.2 ||| Cls.sat) else r
    | none =>
      let lim : Int := 2 ^ (t.bits - 1) - 1
      match shifted with
      | .fin s m e =>
        let k := (-e).toNat
        let n := m * pow2 e / 2 ^ k
        let r := m * pow2 e % 2 ^ k
        let z := signed s (if roundUp rm s n r k then n + 1 else n)
        let y := satInt (-lim) lim z
        (wrap t.bits y.1, Cls.when (r ≠ 0) Cls.nx ||| y.2)
      | y => (wrap t.bits (if y.neg? then -lim else lim), Cls.sat)

/-- Blocks j, j + 1, … of a VBQ that began at vs; rd reads element i's value (R138). -/
def vbqBlocks (e : Entry) (d : VReg) (t : Elem) (q : QReg) (xm : MReg) (rd : VecFile → Nat → Val) (vs vl : Nat)
    (after : Nat → State → State) : Nat → Nat → State → VRes
  | 0, j, s => if 32 * j < vl then .stop (s.mod fun t => { t with prog := Nat.max vs (32 * j) }) else .done (after vl (s.complete1 vl)) none
  | n + 1, j, s =>
    let mem := (List.range (Nat.min 32 (vl - 32 * j))).map (· + 32 * j)
    let x := blockScale t (mem.map (rd s.st.vec))
    let ys := (mem.filter fun i => vs ≤ i).map fun i => (i, quantElem t e.rm x (rd s.st.vec i))
    let s1 := s.modVec fun f => (ys.foldl (fun f y => f.setElem d.val y.1 t.bits y.2.1) f).setScale q j x
    if xm ≠ 0 then
      vbqBlocks e d t q xm rd vs vl after n (j + 1)
        (ys.foldl (fun s y => (s.raiseFlags y.2.2).modVec fun f => f.setMbit xm y.1 (y.2.2.acts e.xact)) s1)
    else
      match fpx s s1 e 0 vs (Nat.max vs (32 * j)) (ys.foldl (fun c y => c ||| y.2.2) 0) after with
      | (some r, _) => r
      | (none, s2) => vbqBlocks e d t q xm rd vs vl after n (j + 1) s2

/-- VBQ (R137, R138). c: vc is the source. -/
def effVbq (d a : VReg) (t : Elem) (q : QReg) (x : MReg) (c : Bool) (e : Entry) (s : State) : VRes :=
  let vl := s.st.effLen e
  let vs := s.vstart
  let g := e.group d t.bits
  let src := e.group a 32
  let fmt := s.st.vec.vcFmt
  if vl ≤ vs then .done (s.complete1 vl) none
  else if !(g.ok && qOk e.vtype q && (if c then emul e.vtype fmt.bits == 1 else src.ok && src.overlapOk g false)) then s.vIllegal
  else
    vbqBlocks e d t q x (fun f i => if c then fmt.fp.val (f.vcElem i fmt.bits) else FP.f32.val (f.elem a.val i 32)) vs vl
      (fun al s => if c && al = vl then s.modVec VecFile.clearVc else s)
      (((if s.st.goal = 0 then vl else Nat.min vl s.st.goal) + 31) / 32 - Nat.max vs s.st.prog / 32) (Nat.max vs s.st.prog / 32) s

/-- The value of an element of a block-scaled format. -/
def scaledVal (t : Elem) (x : Nat) : Val :=
  match t.fp? with
  | some f => f.val x
  | none => intVal (sx t.bits x)

/-- VBDQ (R139). Under a scale of 0xFF no element raises anything, a signalling NaN of e5m2 neither, of which the rule says both
(DESIGN CHOICE, log 108). -/
def effVbdq (d a : VReg) (t : Elem) (q : QReg) (x : MReg) (e : Entry) (s : State) : VRes :=
  let g := e.group d 32
  let src := e.group a t.bits
  s.ventry e (g.ok && src.ok && src.overlapOk g true && qOk e.vtype q) x (fun _ _ => true)
    fun s i =>
      let sc := s.st.vec.scale q (i / 32)
      let y := if sc = 255 then (0x7FC00000, 0)
        else match scaledVal t (s.st.vec.elem a.val i t.bits) with
          | .fin n m k => FP.f32.round e.rm (.fin n m (k + sc - 127))
          | v => finish .f32 e.rm (v, Cls.when v.snan Cls.nv)
      .ok (s.modVec fun v => v.setElem d.val i 32 y.1) y.2

/-! ### Hadamard stages -/

/-- x / √2 of an exact value, exact enough to round once. -/
def Val.overRoot2 : Val → Val
  | .fin s m e =>
    match (Val.fin false (m * m) (2 * e - 1)).sqrt.1 with
    | .fin _ n k => .fin s n k
    | v => v
  | v => v

/-- VHAD (R140). y: vc is read; z: vc is written; h: the 1/√2 scale. -/
def effVhad (d a : VReg) (k : Fin 32) (y z h : Bool) (x : MReg) (f : FF) (e : Entry) (s : State) : VRes :=
  let vl := s.st.effLen e
  let vs := s.vstart
  let gd := e.group d f.bits
  let ga := e.group a f.bits
  let okD := if z then emul e.vtype f.bits == 1 else gd.ok
  let okA := if y then emul e.vtype f.bits == 1 && s.st.vec.vcFmt == f else ga.ok
  let rd := fun (v : VecFile) i => f.fp.val (if y then v.vcElem i f.bits else v.elem a.val i f.bits)
  s.ventry e (okD && okA && vl % 2 ^ (k.val + 1) == 0 && !(y && z) && (y || z || ga.overlapOk gd false)) x (fun _ _ => true)
    (fun s i =>
      let q := i ^^^ 2 ^ k.val
      let low := i / 2 ^ k.val % 2 == 0
      let ai := rd s.st.vec i
      let aq := rd s.st.vec q
      let p := if low then ai.add e.rm aq else aq.add e.rm ai.negate
      let r := finish f.fp e.rm (if h then p.1.overRoot2 else p.1, p.2)
      .ok (s.modVec fun v => if z then v.setVc i f r.1 else v.setElem d.val i f.bits r.1) r.2)
    fun al s => if y && al = vl && decide (vs < vl) then s.modVec VecFile.clearVc else s

/-! ### Generator draws -/

/-- The element of a draw (R141). -/
def drawElem (t : Elem) (z : Word) : Nat :=
  match t with
  | .f32 => (FP.f32.round .rne (.fin false (z.toNat / 2 ^ 40) (-24))).1
  | .n32 => z.toNat / 2 ^ 32
  | _ => z.toNat

/-- VRNG (R141). -/
def effVrng (d : VReg) (t : Elem) (m : MReg) (e : Entry) (s : State) : VRes :=
  s.ventry e (e.group d t.bits).ok 0 (fun v i => v.mbit m i)
    (fun s i =>
      .ok (s.modVec fun v => v.setElem d.val i t.bits (drawElem t (mix s.st.key (s.st.ctr + BitVec.ofNat 128 i)))) 0)
    fun al s => s.mod fun t => { t with ctr := t.ctr + BitVec.ofNat 128 al }

end Sys2Proof.Machine
end

