-- ==== Sys2Proof/Machine/Matrix.lean ====
section
/-! DEFINITION. Operand slots, claims, the matrix array and the accumulator store (05: R91 to R95; 11: R192 to R207). -/

namespace Sys2Proof.Machine

/-! ### Slots and rows -/

/-- Accumulator row r of the strand's core. -/
def State.accRow (s : State) (r : Nat) : BitVec 4096 := lookup 0 (4096 * coreOf s.slot + r) s.acc

/-- Writes an accumulator row. -/
def State.setAccRow (s : State) (r : Nat) (x : BitVec 4096) : State :=
  { s with acc := store 0 (4096 * coreOf s.slot + r) x s.acc }

/-- Whether rows [r, r + n) lie in the strand's range (R203). -/
def State.rowsOk (s : State) (r n : Nat) : Bool :=
  decide (s.st.csr.accbase.toNat ≤ r) && decide (r + n ≤ s.st.csr.acclim.toNat)

/-! ### Claims -/

/-- The mask a strand's waiting MCLAIM names. -/
def State.claimMask (s : State) (k : Nat) : Word := match (s.strand k).queue with | e :: _ => e.opd.a | [] => 0

/-- Whether an older waiting claim of the core names a slot of the mask (R194). -/
def State.olderClaim (s : State) (m : Word) : Bool :=
  (s.claims.takeWhile fun k => k ≠ s.slot).any fun k => coreOf k = coreOf s.slot && s.claimMask k &&& m ≠ 0

/-- MCLAIM (R193, R194). -/
def effMclaim (_a : SReg) (e : Entry) (s : State) : VRes :=
  let m := e.opd.a
  let ns := maskSlots m
  let leave := fun (s : State) => (({ s with claims := s.claims.filter (· ≠ s.slot) }).mod fun t => t.unparkFrom .mclaim).setVstart 0
  if m.toNat / 2 ^ 16 ≠ 0 then s.vTrap0 2 0
  else if m = 0 then .done (leave s) none
  else if s.claimRefused m then s.vTrap0 2 0
  else if ns.all s.owns then .done (leave s) none
  else if s.olderClaim m || ns.any (fun n => (s.oslot n).owner.isSome && !s.owns n) then
    .stop (({ s with claims := if s.claims.contains s.slot then s.claims else s.claims ++ [s.slot] }).mod fun t => t.parkAt .mclaim)
  else .done (leave (ns.foldl (fun x n => x.setOslot n { x.oslot n with owner := some s.slot }) s)) none

/-- MRELS (R193). -/
def effMrels (_a : SReg) (e : Entry) (s : State) : VRes :=
  let m := e.opd.a
  if m.toNat / 2 ^ 16 ≠ 0 then s.vTrap0 2 0
  else
    .done (((maskSlots m).foldl (fun x n => if x.owns n then x.setOslot n { x.oslot n with owner := none } else x) s).setVstart 0) none

/-! ### Filling a slot -/

/-- Stored blocks with a scale in a column (R196); none for a format that no slot holds (R195). -/
def slotScales? (fmt : Nat) : Option Nat :=
  match Elem.ofCode? fmt with
  | some .e4m3 | some .e5m2 | some .i8 => some 3
  | some .e3m2 | some .e2m3 => some 4
  | some .e2m1 | some .i4 => some 6
  | some .bf16 | some .f16 | some .t2 => some 0
  | _ => none

/-- K element k of column n of a tile (R196). col: `.col`. -/
def State.kElem (s : State) (t : TileDef) (col : Bool) (n k : Nat) : Nat :=
  let w := codeBits (tagFmt t.tag)
  if col then s.tileElem s.me t k n w else s.tileElem s.me t n k w

/-- Selector of group g of column n: the position of the kept block (R197); none where the bitmap keeps no block of it. -/
def TileDef.kept (t : TileDef) (sp n g : Nat) : Option Nat :=
  (List.range (2 ^ sp)).find? fun p => t.bitmap.getLsbD (t.bit n (2 ^ sp * g + p))

/-- The slot as MLDS rewrites it (R196, R197); its owner stays. Blocks that the bitmap does not keep are zeros (R187), with
the scale of R95; a group without a kept block takes selector 0. A column holds the first 96 bytes of what is kept (log 54). -/
def State.fillSlot (s : State) (t : TileDef) (col : Bool) (nb : Nat) (owner : Option Nat) : OpSlot :=
  let w := codeBits (tagFmt t.tag)
  let sp := tagSp t.tag
  let m := 2 ^ sp
  let span := 96 * m
  let k := span * 8 / w
  let groups := ((k + 31) / 32 + m - 1) / m
  let band := if col then k + nb ≤ t.rows && 128 ≤ t.len else 128 ≤ t.rows && span + nb ≤ t.len
  let elemsOf := fun n =>
    if sp = 0 then (List.range k).map fun i => s.kElem t col n i
    else (List.range groups).flatMap fun g => (List.range 32).map fun j =>
      match t.kept sp n g with
      | none => 0
      | some p => let i := 32 * (m * g + p) + j; if i < k then s.kElem t col n i else 0
  let packed := fun n => (elemsOf n).foldr (fun x a => x + a * 2 ^ w) 0
  { cols := Vector.ofFn fun n => BitVec.ofNat 768 (packed n.val),
    fill := s.freeCtr, fmt := tagFmt t.tag, sp := sp,
    sel := Vector.ofFn fun n =>
      if sp = 0 then 0
      else BitVec.ofNat 24 (((List.range groups).map fun g => (t.kept sp n.val g).getD 0 * 2 ^ (sp * g)).sum),
    scales := Vector.ofFn fun n => BitVec.ofNat 48 (((List.range nb).map fun j =>
      (if band && (sp = 0 || (t.kept sp n.val j).isSome) then (if col then s.tileGet s.me t (k + j) n.val else s.tileGet s.me t n.val (span + j)) else 0x7F) * 2 ^ (8 * j)).sum),
    owner := owner }

/-- Whether the blocks kept of a column are longer than its 96 bytes: a half or quarter tile of 16-bit elements (log 54). -/
def overfills (tag : BitVec 9) : Bool := tagSp tag != 0 && codeBits (tagFmt tag) == 16

/-- MLDS (R195). The free values of a slot that it overfills are those of a fresh number. -/
def effMlds (d : OSlot) (a : TReg) (c : Bool) (_e : Entry) (s : State) : VRes :=
  s.withTile a Tile.reader fun t =>
    let g := t.cur.tag
    if !s.owns d.val then s.vTrap0 0x1A 0
    else match slotScales? (tagFmt g) with
      | none => s.vTrap0 2 0
      | some nb =>
        if (c && codeBits (tagFmt g) < 8) || (tagSp g ≠ 0 && tagLay g ≠ bitN c) then s.vTrap0 2 0
        else
          let s1 := s.setOslot d.val (s.fillSlot t.cur c nb (s.oslot d.val).owner)
          .done ({ s1 with freeCtr := s1.freeCtr + bitN (overfills g) }.setVstart 0) none

/-! ### One row -/

/-- What a mode decides (R91, R199): slot format, activation format, D0, elements per block, whether scaled, whether
integer. -/
structure ModeInfo where
  slot : Elem
  act : Elem
  d0 : Nat
  block : Nat
  scaled : Bool
  int : Bool
  deriving DecidableEq, Repr

/-- The table of R199. -/
def modeInfo : MMode → ModeInfo
  | .e4m3 => { slot := .e4m3, act := .e4m3, d0 := 96, block := 32, scaled := true, int := false }
  | .e5m2 => { slot := .e5m2, act := .e5m2, d0 := 96, block := 32, scaled := true, int := false }
  | .i8 => { slot := .i8, act := .i8, d0 := 96, block := 32, scaled := true, int := true }
  | .e3m2 => { slot := .e3m2, act := .e3m2, d0 := 96, block := 32, scaled := true, int := false }
  | .e2m3 => { slot := .e2m3, act := .e2m3, d0 := 96, block := 32, scaled := true, int := false }
  | .e2m1 => { slot := .e2m1, act := .e2m1, d0 := 96, block := 32, scaled := true, int := false }
  | .i4 => { slot := .i4, act := .i4, d0 := 96, block := 32, scaled := true, int := true }
  | .bf16 => { slot := .bf16, act := .bf16, d0 := 96, block := 16, scaled := false, int := false }
  | .f16 => { slot := .f16, act := .f16, d0 := 96, block := 16, scaled := false, int := false }
  | .t2 => { slot := .t2, act := .i8, d0 := 384, block := 32, scaled := true, int := true }

/-- K element k of column n of a slot; zero in an absent block (R95), a free value where the slot has no byte for it (log 54). -/
def OpSlot.elem (o : OpSlot) (n k : Nat) : Nat :=
  let w := codeBits o.fmt
  let x := o.cols.toList.getD n 0
  if o.sp = 0 then getField x (k * w) w
  else
    let m := 2 ^ o.sp
    let g := k / 32 / m
    if k / 32 % m = getField (o.sel.toList.getD n 0) (o.sp * g) o.sp then
      if (32 * g + k % 32) * w + w ≤ 768 then getField x ((32 * g + k % 32) * w) w else (Config.slotRest o.fill n k).toNat
    else 0

/-- Stationary scale of matrix block b of column n (R86, R196); 0x7F for an absent or unscaled block. -/
def OpSlot.scaleOf (o : OpSlot) (i : ModeInfo) (n b : Nat) : Nat :=
  let m := 2 ^ o.sp
  if !i.scaled || i.slot == .t2 || (o.sp != 0 && b % m != getField (o.sel.toList.getD n 0) (o.sp * (b / m)) o.sp) then 0x7F
  else getField (o.scales.toList.getD n 0) (8 * (b / m)) 8

/-- The block sum of a floating mode before the scales (R92). -/
def blockSum (ps : List (Val × Val)) : Val × Cls :=
  let rs := ps.map fun p => p.1.mul p.2
  let pos := rs.any fun r => r.1 == .inf false
  let neg := rs.any fun r => r.1 == .inf true
  let cls := rs.foldl (fun c r => c ||| r.2) (Cls.when (pos && neg) Cls.nv)
  if rs.any (fun r => r.1.isNan) || (pos && neg) then (.nan false, cls)
  else if pos || neg then (.inf neg, cls)
  else (rs.foldl (fun a r => (a.add .rne r.1).1) (.fin false 0 0), cls)

/-- A floating entry after one block (R92, R93). -/
def floatStep (am : AccM) (a xa xb : Nat) (b : Val × Cls) : Nat × Cls :=
  let v := if xa = 255 || xb = 255 then .nan false
    else match b.1 with
      | .fin s m e => .fin s m (e + xa + xb - 254)
      | x => x
  let r := FP.f32.round .rne v
  if r.1 % 2 ^ 31 = 0 then (a, b.2 ||| r.2)
  else
    let y := if am = .sub then (r.1 + 2 ^ 31) % 2 ^ 32 else r.1
    let z := fAddE .f32 .rne a y 0
    (z.1, b.2 ||| r.2 ||| z.2)

/-- Weight of a ternary pattern, and NV for 0b10 (R79, R91). -/
def ternary (x : Nat) : Int × Cls := if x = 2 then (0, Cls.nv) else (sx 2 x, 0)

/-- An integer entry after one block (R94). NX is raised when the scaled sum is not an integer, whatever its single products
are (DESIGN CHOICE, log 86: the rule speaks of a product). A register scale of 0xFF raises NV over an absent block as over any
other, though R95 lets the array skip such a block (DESIGN CHOICE, log 104). -/
def intStep (am : AccM) (a xa xb : Nat) (sum : Int) (c : Cls) : Nat × Cls :=
  if xa = 255 || xb = 255 then (a, c ||| Cls.nv)
  else
    let k : Int := (xa : Int) + xb - 254
    let r := fxRound .fxtrn (sum * pow2 k) (-k).toNat
    let z := satInt (-(2 ^ 31)) (2 ^ 31 - 1) (if am = .sub then sx 32 a - r.1 else sx 32 a + r.1)
    (wrap 32 z.1, c ||| r.2 ||| z.2)

/-- Column n after a row (R92 to R95): act gives the activation elements, xs the register scale of each block. -/
def matColumn (i : ModeInfo) (am : AccM) (o : OpSlot) (n nblk : Nat) (act xs : Nat → Nat) (old : Nat) : Nat × Cls :=
  (List.range nblk).foldl (fun (a : Nat × Cls) b =>
    let ks := (List.range i.block).map fun j => b * i.block + j
    let r := match i.slot.fp? with
      | some f => floatStep am a.1 (xs b) (o.scaleOf i n b) (blockSum (ks.map fun k => (f.val (act k), f.val (o.elem n k))))
      | none =>
        let ws : List (Int × Cls) := ks.map fun k => if i.slot == Elem.t2 then ternary (o.elem n k) else (sx i.slot.bits (o.elem n k), 0)
        intStep am a.1 (xs b) (o.scaleOf i n b)
          (((ks.zip ws).map fun (p : Nat × (Int × Cls)) => sx i.act.bits (act p.1) * p.2.1).sum) (ws.foldl (fun c (w : Int × Cls) => c ||| w.2) 0)
    (r.1, a.2 ||| r.2)) (if am = .ovw then 0 else old, 0)

/-- All 128 entries of a row, with the classes of its columns (R200). -/
def matRow (i : ModeInfo) (am : AccM) (o : OpSlot) (nblk : Nat) (act xs : Nat → Nat) (old : BitVec 4096) : BitVec 4096 × Cls :=
  let cs := (List.range 128).map fun n => matColumn i am o n nblk act xs (getField old (32 * n) 32)
  (BitVec.ofNat 4096 (cs.foldr (fun c a => c.1 + a * 2 ^ 32) 0), cs.foldl (fun a c => a ||| c.2) 0)

/-- D (R199). -/
def ModeInfo.span (i : ModeInfo) (o : OpSlot) : Nat := i.d0 * 2 ^ o.sp

/-- Activation elements of a row. -/
def ModeInfo.elems (i : ModeInfo) (o : OpSlot) : Nat := i.span o * 8 / i.act.bits

/-- The slot's checks: owned, then its format (R200). -/
def State.slotBad (s : State) (d : OSlot) (i : ModeInfo) : Option Nat :=
  let o := s.oslot d.val
  if !s.owns d.val then some 0x1A
  else if o.fmt ≠ i.slot.code || (i.slot = .t2 && o.sp = 2) then some 2
  else none

/-- MROW (R200). SE = 1 in an unscaled mode names no scale register: R199 gives its blocks none (DESIGN CHOICE, log 105). -/
def effMrow (d : OSlot) (a : VReg) (_b : SReg) (m : MMode) (k : Fin 16) (c : AccM) (e : Entry) (s : State) : VRes :=
  let i := modeInfo m
  let o := s.oslot d.val
  let b := e.opd.b.toNat
  let row := fld b 11 0
  let q := fld b 14 12
  let se := fld b 15 15 = 1
  let n := i.elems o
  let k0 := k.val * 768 / i.act.bits
  let g := e.group a 8
  let limit := g.n * (if i.act.bits = 6 then 1364 else 8192 / i.act.bits)
  let b0 := k0 / i.block
  let nblk := n / i.block
  let bad := if b / 2 ^ 16 ≠ 0 then some 2
    else match s.slotBad d i with
      | some x => some x
      | none =>
        if k.val * 96 % i.span o ≠ 0 || !g.ok || limit < k0 + n then some 2
        else if se && i.scaled && 7 < q + (b0 + nblk - 1) / 64 then some 2
        else if !s.rowsOk row 1 then some 0x19
        else none
  s.ventryN e 1 bad 0 (fun _ _ => true) fun s _ =>
    let r := matRow i c o nblk (fun j => s.st.vec.elem a.val (k0 + j) i.act.bits)
      (fun j => if se && i.scaled then getField (s.st.vec.q[(q + (b0 + j) / 64) % 8]) ((b0 + j) % 64 * 8) 8 else 0x7F) (s.accRow row)
    .ok (s.setAccRow row r.1) r.2

/-- K element k of vector v of an activation tile (R201); zero in a block that a locked bitmap keeps out (R187). -/
def State.actElem (s : State) (t : TileDef) (col : Bool) (w v k : Nat) : Nat :=
  let r := if col then k else v
  let ec := if col then v else k
  if tagLock t.tag && !t.keeps r ec then 0 else s.tileElem s.me t r ec w

/-- MTILE (R201). The list of cause 0x02 is tested before the slot and its format (DESIGN CHOICE, log 106). -/
def effMtile (d : OSlot) (a : TReg) (_b : SReg) (m : MMode) (col : Bool) (c : AccM) (e : Entry) (s : State) : VRes :=
  s.withTile a Tile.reader fun t =>
    let i := modeInfo m
    let o := s.oslot d.val
    let w := i.act.bits
    let b := e.opd.b.toNat
    let td := t.cur
    let n := if col then 8 * td.len / w else td.rows
    let len := match s.st.trims.find? fun p => p.1 = e.grant with | some p => Nat.min n p.2 | none => n
    let k := i.elems o
    let nblk := k / i.block
    let band := i.scaled && (if col then decide (k + nblk ≤ td.rows) else decide (i.span o + nblk ≤ td.len))
    let bad := if b / 2 ^ 12 ≠ 0 || tagFmt td.tag ≠ i.act.code || (col && w < 8) then some 2 else s.slotBad d i
    s.ventryN e len none 0 (fun _ _ => true) (fun s v =>
      let row := b % 4096 + v
      if !s.rowsOk row 1 then .fault 0x19 0 0 .rw
      else
        let r := matRow i c o nblk (fun j => s.actElem td col w v j)
          (fun j => if !band then 0x7F else if col then s.tileGet s.me td (k + j) v else s.tileGet s.me td v (i.span o + j)) (s.accRow row)
        .ok (s.setAccRow row r.1) r.2)
      |> fun r => if s.vstart < len then match bad with | some x => s.vTrap0 x 0 | none => r else r

/-! ### The accumulator store -/

/-- The element code of a row code (R62). -/
def rcodeElem : RCode → Elem
  | .f32 => .f32 | .bf16 => .bf16 | .f16 => .f16 | .e4m3 => .e4m3 | .e5m2 => .e5m2 | .i8 => .i8 | .i32 => .i32

/-- One element of MACR (R204): the entry times 2^e, rounded once. -/
def macrElem (r : RCode) (rm : RM) (xm : XM) (e : Int) (x : Nat) : Nat × Cls :=
  let t := rcodeElem r
  match t.fp? with
  | some f =>
    let v := FP.f32.val x
    finish f rm ((match v with | .fin s m q => .fin s m (q + e) | y => y), Cls.when v.snan Cls.nv)
  | none =>
    let y := fxRound xm (sx 32 x * pow2 e) (-e).toNat
    let z := satInt (rangeOf true t.bits).1 (rangeOf true t.bits).2 y.1
    (wrap t.bits z.1, y.2 ||| z.2)

/-- MACR (R204). The row is tested before the exponent and the register group (DESIGN CHOICE, log 107). -/
def effMacr (d : VReg) (_a _b : SReg) (r : RCode) (e : Entry) (s : State) : VRes :=
  let row := e.opd.a.toNat
  let x := e.opd.b.toInt
  let w := (rcodeElem r).bits
  let bad := if !s.rowsOk row 1 then some 0x19 else if x < -256 || 255 < x || !(e.group d w).ok then some 2 else none
  s.ventryN e (Nat.min (s.st.effLen e) 128) bad 0 (fun _ _ => true) fun s i =>
    let y := macrElem r e.rm e.xm x (getField (s.accRow row) (32 * i) 32)
    .ok (s.modVec fun v => v.setElem d.val i w y.1) y.2

/-- One element of MACW (R205). -/
def macwElem (r : RCode) (x : Nat) : Nat × Cls :=
  match r with
  | .f32 | .i32 => (x, 0)
  | .i8 => (wrap 32 (sx 8 x), 0)
  | _ =>
    match (rcodeElem r).fp? with
    | some f => finish .f32 .rne (f.val x, Cls.when (f.val x).snan Cls.nv)
    | none => (x, 0)

/-- MACW (R205). The row is tested before the register group (DESIGN CHOICE, log 107). -/
def effMacw (a : VReg) (_b : SReg) (r : RCode) (e : Entry) (s : State) : VRes :=
  let row := e.opd.b.toNat
  let w := (rcodeElem r).bits
  let bad := if !s.rowsOk row 1 then some 0x19 else if !(e.group a w).ok then some 2 else none
  s.ventryN e (Nat.min (s.st.effLen e) 128) bad 0 (fun _ _ => true) fun s i =>
    let y := macwElem r (s.st.vec.elem a.val i w)
    .ok (s.setAccRow row (putField (s.accRow row) (32 * i) 32 y.1)) y.2

/-- MACZ (R206). -/
def effMacz (_a _b : SReg) (e : Entry) (s : State) : VRes :=
  let r := e.opd.a.toNat
  let n := e.opd.b.toNat
  if n = 0 then .done (s.setVstart 0) none
  else if !s.rowsOk r n then s.vTrap0 0x19 0
  else .done (((List.range (Nat.min n 4096)).foldl (fun x i => x.setAccRow (r + i) 0) s).setVstart 0) none

end Sys2Proof.Machine
end

