-- ==== Sys2Proof/Machine/VMem.lean ====
section
/-! DEFINITION. Vector loads and stores, tile slices, vector atomics, waiting on memory and scatter-add; SETVLF (07: R126,
R127; 09: R160 to R176). -/

namespace Sys2Proof.Machine

/-! ### Element accesses -/

/-- Which spaces a form admits at step 2 of R164. -/
inductive Kind where
  | any
  /-- `.col`: windows only. -/
  | window
  /-- VWAIT and VSCADD: no window. -/
  | memory
  deriving DecidableEq, Repr

/-- Whether an address lies in one of the three windows. An address outside [0, 2^64) lies in none: its bits [63:56] are not
looked at (DESIGN CHOICE, log 87). -/
def isWindow (ea : Int) : Bool :=
  decide (0 ≤ ea) && decide (ea < 2 ^ 64) && (let t := ea.toNat / 2 ^ 56; t == 0xFE || t == 0xFD || t == 0xFC)

/-- The checks of R164 on n bytes at ea with an alignment: the locations, or the cause and the failing byte. -/
def State.check (s : State) (w : Who) (ea : Int) (n align : Nat) (kind : Kind) (k : Acc) : Except (Nat × Nat) (List Nat) :=
  let e := (ea % 2 ^ 64).toNat
  if ea % align ≠ 0 then .error (7, e)
  else if (kind = .window && !isWindow ea) || (kind = .memory && isWindow ea) then .error (6, e)
  else s.locsI w ea n k

/-- An address as TVAL holds it. -/
def ea64 (ea : Int) : Nat := (ea % 2 ^ 64).toNat

/-- Base address of an entry: its captured scalar operand a. -/
def Entry.base (e : Entry) : Int := (e.opd.a.toNat : Int)

/-! ### Strip buffers -/

/-- The byte at an address that a stream's buffer holds for the current strip (R166). Where several buffered elements cover it,
the one that was fetched first supplies it (DESIGN CHOICE, log 112). -/
def Stream.byteAt (t : Stream) (a : Nat) : Option Byte :=
  (t.buf.find? fun p =>
    let b : Int := (t.base.toNat : Int) + p.1 * t.stride.toInt
    decide (p.1 < t.cur + t.slen) && decide (b ≤ a) && decide ((a : Int) < b + 2 ^ t.width)).map fun p =>
      p.2.extractLsb' (8 * ((a : Int) - ((t.base.toNat : Int) + p.1 * t.stride.toInt)).toNat) 8

/-- The n bytes at an address as a number, when the buffer holds every one. -/
def Stream.bytes (t : Stream) (a : Int) (n : Nat) : Option Nat :=
  let bs := (List.range n).map fun i => t.byteAt (a + i).toNat
  if t.write || t.st = .idle || a < 0 || 2 ^ 64 < a + n || bs.any (·.isNone) then none
  else some (bytesToNat (bs.map (·.getD 0)))

/-- The cursor moves on by n, to at most COUNT (R214, R215). -/
def Stream.advance (t : Stream) (n : Nat) : Stream :=
  if t.write || t.st = .idle || t.st = .ended || n = 0 then t
  else
    let c := Nat.min (t.cur + n) t.count
    { t with cur := c, buf := t.buf.filter (fun p => c ≤ p.1), st := if c = t.count then .ended else .running }

/-- The port a load reads through: its source field, or the STRM of its PFX (R161). -/
def srcPort (src : Src) (e : Entry) : Option Nat :=
  match src with
  | .strm0 => some 0 | .strm1 => some 1 | .strm2 => some 2
  | .mem => if e.strm = 0 then none else some (e.strm - 1)

/-- Whether the port a load reads through is bound (R166). -/
def State.srcOk (s : State) (p : Option Nat) : Bool := match p with | none => true | some n => decide (n < s.st.strCnt)

/-- The stream at a port number. -/
def State.streamAt (s : State) (n : Nat) : Stream := s.st.streams[n % 16]

/-- Changes the stream at a port number. -/
def State.modStream (s : State) (n : Nat) (f : Stream → Stream) : State :=
  s.mod fun t => { t with streams := t.streams.set (n % 16) (f t.streams[n % 16]) }

/-- An entry that read through a stream moves its cursor by AL (R215). -/
def State.useStream (s : State) (p : Option Nat) (al : Nat) : State :=
  match p with | none => s | some n => s.modStream n fun t => t.advance al

/-- The bytes that the strip buffer of a port supplies (R166). -/
def State.buffered (s : State) (p : Option Nat) (ea : Int) (n : Nat) : Option Nat :=
  p.bind fun k => (s.streamAt k).bytes ea n

/-- Reads n bytes from memory for an element under R164. -/
def State.loadBytes (s : State) (ea : Int) (n align : Nat) (kind : Kind) : Except (Nat × Nat) (Nat × State) :=
  match s.check s.me ea n align kind .read with
  | .error e => .error e
  | .ok ls => .ok (s.get ls, s.note s.me ea.toNat ls)

/-! ### Loads and stores -/

/-- First byte, bytes and bit offset of element i of width w in a dense image (R163). -/
def denseAt (base : Int) (i w : Nat) : Int × Nat × Nat :=
  (base + (i * w / 8 : Nat), (i * w + w - 1) / 8 - i * w / 8 + 1, i * w % 8)

/-- A load whose element i of width w lies at addr i: first byte, bytes, bit offset (R165). What the strip buffer supplies is
not checked (R166). base: the element that a misaligned base faults, whatever the mask (R164). -/
def State.vload (s : State) (e : Entry) (d : VReg) (w : EW) (m : MReg) (p : Option Nat) (checks : Bool) (kind : Kind)
    (addr : VecFile → Nat → Int × Nat × Nat) (base : Option Nat := none) : VRes :=
  s.ventry e ((e.group d w.bits).ok && s.srcOk p && checks) 0 (fun v i => v.mbit m i || base == some i)
    (fun s i =>
      let a := addr s.st.vec i
      let set := fun (v : Nat) (s1 : State) => s1.modVec fun f => f.setElem d.val i w.bits (v / 2 ^ a.2.2)
      match s.buffered p a.1 a.2.1 with
      | some v => .ok (if s.st.vec.mbit m i then set v s else s) 0
      | none =>
        if base = some i then .fault 7 (ea64 a.1) a.1.toNat .read
        else match s.loadBytes a.1 a.2.1 (Nat.max 1 (w.bits / 8)) kind with
        | .error (c, b) => .fault c (ea64 a.1) b .read
        | .ok (v, s1) => .ok (set v s1) 0)
    fun al s => s.useStream p al

/-- A store of element i of width w to addr i. Bits of other elements in the bytes it touches stay. -/
def State.vstore (s : State) (e : Entry) (d : VReg) (w : EW) (m : MReg) (checks : Bool) (kind : Kind)
    (addr : VecFile → Nat → Int × Nat × Nat) (base : Option Nat := none) : VRes :=
  s.ventry e ((e.group d w.bits).ok && checks) 0 (fun v i => v.mbit m i || base == some i)
    fun s i =>
      let a := addr s.st.vec i
      if base = some i then .fault 7 (ea64 a.1) a.1.toNat .write
      else match s.check s.me a.1 a.2.1 (Nat.max 1 (w.bits / 8)) kind .write with
      | .error (c, b) => .fault c (ea64 a.1) b .write
      | .ok ls =>
        let old := s.get ls
        let x := s.st.vec.elem d.val i w.bits
        .ok ((s.note s.me a.1.toNat ls).put ls (old / 2 ^ (a.2.2 + w.bits) * 2 ^ (a.2.2 + w.bits) + x * 2 ^ a.2.2 + old % 2 ^ a.2.2)) 0

/-- Element addresses of VLD and VST (R163). c: `.col`. -/
def unitAddr (e : Entry) (w : EW) (c : Bool) (i : Nat) : Int × Nat × Nat :=
  if c then (e.base + e.off + 64 * i, w.bits / 8, 0) else denseAt (e.base + e.off) i w.bits

/-- Element addresses of a strided form. -/
def strideAddr (e : Entry) (w : EW) (i : Nat) : Int × Nat × Nat := (e.base + i * e.opd.b.toInt, w.bits / 8, 0)

/-- Index width of an indexed form (R162). -/
def indexBits (w : Nat) : Nat := if w = 64 then 64 else 32

/-- Element addresses of an indexed form. -/
def indexAddr (e : Entry) (b : VReg) (w : Nat) (f : VecFile) (i : Nat) : Int × Nat × Nat :=
  (e.base + (f.elem b.val i (indexBits w) : Nat), w / 8, 0)

/-- Overlap of a load's destination with its index group (R162): exact, where the widths are equal. -/
def indexOk (e : Entry) (d b : VReg) (w : Nat) : Bool :=
  let g := e.group b (indexBits w)
  g.ok && g.overlapOk (e.group d w) true

/-- The element that a misaligned base of `.col` faults: element VSTART, whatever the mask (R164; log 65). -/
def State.colFault (s : State) (e : Entry) (w : EW) (c : Bool) : Option Nat :=
  if c && (e.base + e.off) % (w.bits / 8 : Nat) != 0 then some s.vstart else none

/-- VLD (R165). -/
def effVld (d : VReg) (_a : SReg) (m : MReg) (c : Bool) (w : EW) (src : Src) (e : Entry) (s : State) : VRes :=
  s.vload e d w m (srcPort src e) true (if c then .window else .any) (fun _ i => unitAddr e w c i)
    (s.colFault e w c)

/-- VST (R165). -/
def effVst (d : VReg) (_a : SReg) (m : MReg) (c : Bool) (w : EW) (e : Entry) (s : State) : VRes :=
  s.vstore e d w m true (if c then .window else .any) (fun _ i => unitAddr e w c i)
    (s.colFault e w c)

/-- VLDS (R165). -/
def effVlds (d : VReg) (_a _b : SReg) (m : MReg) (w : EW) (src : Src) (e : Entry) (s : State) : VRes :=
  s.vload e d w m (srcPort src e) true .any fun _ i => strideAddr e w i

/-- VSTS (R165). -/
def effVsts (d : VReg) (_a _b : SReg) (m : MReg) (w : EW) (e : Entry) (s : State) : VRes :=
  s.vstore e d w m true .any fun _ i => strideAddr e w i

/-- VLDX (R162, R165). -/
def effVldx (d : VReg) (_a : SReg) (b : VReg) (m : MReg) (w : EW) (src : Src) (e : Entry) (s : State) : VRes :=
  s.vload e d w m (srcPort src e) (indexOk e d b w.bits) .any fun f i => indexAddr e b w.bits f i

/-- VSTX (R165). -/
def effVstx (d : VReg) (_a : SReg) (b : VReg) (m : MReg) (w : EW) (e : Entry) (s : State) : VRes :=
  s.vstore e d w m (e.group b (indexBits w.bits)).ok .any fun f i => indexAddr e b w.bits f i

/-- The checks of a segment form over F groups (R162). -/
def segOk (e : Entry) (d : VReg) (w : EW) (n : Nat) : Bool :=
  let p := emul e.vtype w.bits
  decide (p ≤ 8) && d.val % p == 0 && decide (d.val + n * p ≤ 32)

/-- First register of field f of a segment form. -/
def segReg (e : Entry) (d : VReg) (w : EW) (f : Nat) : Nat := d.val + f * emul e.vtype w.bits

/-- Address of field f of element i of a segment of n fields (R163). -/
def segAddr (e : Entry) (w : EW) (n i f : Nat) : Int := e.base + e.off + ((i * n + f) * (w.bits / 8) : Nat)

/-- Steps 1 to 3 of R164 on the fields of a segment element, which come before step 4 on any of its bytes: the field's
address, the cause and the byte. -/
def State.segEarly (s : State) (e : Entry) (w : EW) (n i : Nat) : Option (Nat × Nat × Nat) :=
  let b := w.bits / 8
  (List.range n).findSome? fun f =>
    let ea := segAddr e w n i f
    if ea % b ≠ 0 then some (ea64 ea, 7, ea64 ea)
    else if ea < 0 || 2 ^ 64 ≤ ea then some (ea64 ea, 5, ea64 ea)
    else (List.range b).findSome? fun j => (s.noSpace s.me (ea.toNat + j)).map fun c => (ea64 ea, c, ea.toNat + j)

/-- Fields f, f + 1, … of a segment element from memory: their values, or the first fault. -/
def State.segLoad (s : State) (e : Entry) (d : VReg) (w : EW) (n i : Nat) : Nat → Nat → State → Elt
  | 0, _, s1 => .ok s1 0
  | k + 1, f, s1 =>
    match s1.loadBytes (segAddr e w n i f) (w.bits / 8) (w.bits / 8) .any with
    | .error (c, b) => .fault c (ea64 (segAddr e w n i f)) b .read
    | .ok (v, s2) => s.segLoad e d w n i k (f + 1) (s2.modVec fun x => x.setElem (segReg e d w f) i w.bits v)

/-- A segment element: from the strip buffer where that holds every byte of it, else all of it from memory (R166). -/
def State.segElem (s : State) (e : Entry) (d : VReg) (w : EW) (p : Option Nat) (n i : Nat) : Elt :=
  match s.buffered p (segAddr e w n i 0) (n * (w.bits / 8)) with
  | some v => .ok (s.modVec fun x => (List.range n).foldl (fun y f =>
      y.setElem (segReg e d w f) i w.bits (v / 2 ^ (f * w.bits))) x) 0
  | none =>
    match s.segEarly e w n i with
    | some (ea, c, b) => .fault c ea b .read
    | none => s.segLoad e d w n i n 0 s

/-- VLDG (R162, R165): an element loads all F fields or none. -/
def effVldg (d : VReg) (_a : SReg) (b : Fin 32) (m : MReg) (w : EW) (src : Src) (e : Entry) (s : State) : VRes :=
  let n := b.val + 1
  let p := srcPort src e
  s.ventry e (segOk e d w n && s.srcOk p) 0 (fun v i => v.mbit m i) (fun s i => s.segElem e d w p n i)
    fun al s => s.useStream p al

/-- Fields of a segment element to memory: the first fault, or every field stored. -/
def State.segStore (s : State) (e : Entry) (d : VReg) (w : EW) (n i : Nat) : Nat → Nat → State → Elt
  | 0, _, s1 => .ok s1 0
  | k + 1, f, s1 =>
    match s.check s.me (segAddr e w n i f) (w.bits / 8) (w.bits / 8) .any .write with
    | .error (c, b) => .fault c (ea64 (segAddr e w n i f)) b .write
    | .ok ls => s.segStore e d w n i k (f + 1) ((s1.note s.me (segAddr e w n i f).toNat ls).put ls (s.st.vec.elem (segReg e d w f) i w.bits))

/-- VSTG (R162, R165). -/
def effVstg (d : VReg) (_a : SReg) (b : Fin 32) (m : MReg) (w : EW) (e : Entry) (s : State) : VRes :=
  let n := b.val + 1
  s.ventry e (segOk e d w n) 0 (fun v i => v.mbit m i) fun s i =>
    match s.segEarly e w n i with
    | some (ea, c, x) => .fault c ea x .write
    | none => s.segStore e d w n i n 0 s

/-! ### Tile slices -/

/-- Er (R170). -/
def rowElems (len : Nat) (w : EW) : Nat := if w = .e6 then 4 * (len / 3) else 8 * len / w.bits

/-- Tile row and element column of element i (R170). On an empty shape, where the divisor is 0, the quotient is taken as 0 and
the remainder as i (DESIGN CHOICE, log 88). -/
def sliceAt (t : TileDef) (w : EW) (c : Bool) (slice i : Nat) : Nat × Nat :=
  if c then (i % t.rows, slice + i / t.rows) else (slice + i / rowElems t.len w, i % rowElems t.len w)

/-- ALROW and ALCOL from AL (R171). Where the shape has no elements the spec states no values: free ones for n ≥ 1, and
zeros for n = 0; what exceeds the width of its register is cut to it (DESIGN CHOICE, log 89). -/
def State.setRowCol (s : State) (t : TileDef) (w : EW) (c : Bool) (n : Nat) : State :=
  let q := if c then t.rows else rowElems t.len w
  if q = 0 && n ≠ 0 then
    let x := Config.freeChoice s.freeCtr
    ({ s with freeCtr := s.freeCtr + 1 }).modCsr fun r =>
      { r with alrow := BitVec.ofNat 9 x, alcol := BitVec.ofNat 16 (x / 512) }
  else
    s.modCsr fun r => { r with
      alrow := BitVec.ofNat 9 (if c then n % q else n / q), alcol := BitVec.ofNat 16 (if c then n / q else n % q) }

/-- VLDT (R170, R171). -/
def effVldt (d : VReg) (a : TReg) (_b : SReg) (m : MReg) (c : Bool) (w : EW) (e : Entry) (s : State) : VRes :=
  s.withTile a Tile.reader fun t =>
    s.ventry e (e.group d w.bits).ok 0 (fun v i => v.mbit m i)
      (fun s i =>
        let p := sliceAt t.cur w c e.opd.b.toNat i
        if t.cur.rows ≤ p.1 || rowElems t.cur.len w ≤ p.2 then
          let va := t.cur.addr p.1 (p.2 * w.bits / 8) % 2 ^ 64
          .fault 4 va va .read
        else .ok (s.modVec fun v => v.setElem d.val i w.bits (s.tileElem s.me t.cur p.1 p.2 w.bits)) 0)
      fun al s => s.setRowCol t.cur w c al

/-- The tag after a VSTT that wrote an element (R185). -/
def TileDef.stored (t : TileDef) (w : EW) (c : Bool) : TileDef :=
  if tagLock t.tag then t
  else { t with tag := mkTag (storeFmt (tagFmt t.tag) w.bits) 0 (bitN c) false, bitmap := BitVec.allOnes 16384 }

/-- VSTT (R170, R171, R185). -/
def effVstt (d : VReg) (a : TReg) (_b : SReg) (m : MReg) (c : Bool) (w : EW) (e : Entry) (s : State) : VRes :=
  s.withTile a Tile.writer fun t =>
    let vs := s.vstart
    let tag := fun (s : State) (al : Nat) =>
      if (List.range al).any fun i => decide (vs ≤ i) && s.st.vec.mbit m i then s.setTile a { t with cur := t.cur.stored w c } else s
    (s.ventry e (e.group d w.bits).ok 0 (fun v i => v.mbit m i)
      (fun s i =>
        let p := sliceAt t.cur w c e.opd.b.toNat i
        if t.cur.rows ≤ p.1 || rowElems t.cur.len w ≤ p.2 then
          let va := t.cur.addr p.1 (p.2 * w.bits / 8) % 2 ^ 64
          .fault 4 va va .write
        else .ok (s.tileSet s.me t.cur p.1 p.2 w.bits (s.st.vec.elem d.val i w.bits)) 0)
      fun al s => (tag s al).setRowCol t.cur w c al)
    |> fun r => match r with | .stop s1 => .stop (if s1.st.prog = s.st.prog then s1 else tag s1 s1.st.prog) | x => x

/-! ### Vector atomics -/

/-- The update of an atomic at a width (R103, R173). -/
inductive AmoOp where
  | swap | add | and | or | xor | min | max
  deriving DecidableEq, Repr

/-- New memory value from the old one and the operand. -/
def AmoOp.apply (o : AmoOp) (w old x : Nat) : Nat :=
  match o with
  | .swap => x
  | .add => (old + x) % 2 ^ w
  | .and => old &&& x
  | .or => old ||| x
  | .xor => old ^^^ x
  | .min => if sx w x < sx w old then x else old
  | .max => if sx w old < sx w x then x else old

/-- The first element in [i, i + n) that takes part and fails its checks, with its fault (R174). -/
def State.firstFault (s : State) (act : Nat → Bool) (addr : Nat → Int) (w : Nat) (kind : Kind) (k : Acc) :
    Nat → Nat → Option (Nat × Nat × Nat)
  | 0, _ => none
  | n + 1, i =>
    match (if act i then s.check s.me (addr i) (w / 8) (w / 8) kind k else .ok []) with
    | .error (c, b) => some (i, c, b)
    | .ok _ => s.firstFault act addr w kind k n (i + 1)

/-- Picks elements of a list one after the other by free choices (R174, R176). -/
def permute (ctr : Nat) : Nat → List Nat → List Nat
  | 0, _ => []
  | n + 1, l =>
    match l with
    | [] => []
    | _ =>
      let i := Config.freeChoice (ctr + n) % l.length
      l.getD i 0 :: permute ctr n (l.eraseIdx i)

/-- Entries that first check and then perform the elements before the first that fails (R174 to R176), without those that a part
of it has already performed, and as far as the goal of this step (R144). perf performs the elements of a list in some order. -/
def State.checkedEntry (s : State) (e : Entry) (checks : Bool) (m : MReg) (addr : Nat → Int) (w : Nat) (kind : Kind) (k : Acc)
    (perf : List Nat → State → State) : VRes :=
  let vl := s.st.effLen e
  let vs := s.vstart
  let act := fun i => s.st.vec.mbit m i && !e.done.getLsbD i
  if vl ≤ vs then .done (s.complete1 vl) none
  else if !checks then s.vIllegal
  else
    let from_ := Nat.max vs s.st.prog
    let span := fun n => ((List.range n).filter fun i => decide (from_ ≤ i) && act i)
    let f := s.firstFault act addr w kind k (vl - from_) from_
    let lim := match f with | some (i, _, _) => i | none => vl
    if s.st.goal ≠ 0 && decide (s.st.goal < lim) then
      .stop ((perf (span s.st.goal) s).mod fun t => { t with prog := Nat.max from_ t.goal })
    else match f with
    | none => .done ((perf (span vl) s).complete1 vl) none
    | some (i, c, b) =>
      if c = 9 && s.hamada.places = 0 then .stop s
      else (perf (span i) s).shortenFault s e vs i c (ea64 (addr i)) b k fun _ s => s

/-- One element of a VAMO: an indivisible read-modify-write, its old value to d (R173). -/
def amoElem (e : Entry) (d b : VReg) (w : MW) (o : AmoOp) (i : Nat) (s : State) : State :=
  let a := (indexAddr e b w.bits s.st.vec i).1
  match s.check s.me a (w.bits / 8) (w.bits / 8) .any .rw with
  | .error _ => s
  | .ok ls =>
    let old := s.get ls
    ((s.note s.me a.toNat ls).put ls (o.apply w.bits old (s.st.vec.elem d.val i w.bits))).modVec fun v => v.setElem d.val i w.bits old

/-- A part of a VAMO (R174): its next n elements perform, and the entry's done mask keeps which. The head entry then stops at
the least element not performed. -/
def State.vamoPart (s : State) (e : Entry) (d b : VReg) (m : MReg) (u : Bool) (w : MW) (o : AmoOp) (n : Nat) : State :=
  let vl := s.st.effLen e
  let vs := s.vstart
  let addr := fun i => (indexAddr e b w.bits s.st.vec i).1
  let act := fun i => s.st.vec.mbit m i && !e.done.getLsbD i
  if vl ≤ vs || !((e.group d w.bits).ok && indexOk e d b w.bits) then s
  else
    let lim := match s.firstFault act addr w.bits .any .rw (vl - vs) vs with | none => vl | some (i, _, _) => i
    let l := (List.range lim).filter fun i => decide (vs ≤ i) && act i
    let order := (if u then permute s.freeCtr l.length l else l).take n
    let s1 := order.foldl (fun s i => amoElem e d b w o i s) (if u then { s with freeCtr := s.freeCtr + l.length } else s)
    let rest := l.filter fun i => !order.contains i
    let done := order.foldl (fun x i => x ||| (1#2048) <<< i) e.done
    (s1.setHead { e with done := done }).mod fun t => { t with prog := rest.headD lim }

/-- VAMO (R173, R174): in index order, or for .unord in an order of free choice. The addresses are those the index group
holds when the entry starts. u: .unord. -/
def State.vamo (s : State) (e : Entry) (d b : VReg) (m : MReg) (u : Bool) (w : MW) (o : AmoOp) : VRes :=
  let addr := fun i => (indexAddr e b w.bits s.st.vec i).1
  if s.st.goal ≠ 0 then .stop (s.vamoPart e d b m u w o s.st.goal)
  else s.checkedEntry e ((e.group d w.bits).ok && indexOk e d b w.bits) m addr w.bits .any .rw fun l s =>
    let order := if u then permute s.freeCtr l.length l else l
    let s1 := if u then { s with freeCtr := s.freeCtr + l.length } else s
    order.foldl (fun s i => amoElem e d b w o i s) s1

/-- VAMO_SWAP (R173). -/
def effVamoSwap (d : VReg) (_a : SReg) (b : VReg) (m : MReg) (u : Bool) (_r : Ordr) (w : MW) (e : Entry) (s : State) : VRes := s.vamo e d b m u w .swap
/-- VAMO_ADD (R173). -/
def effVamoAdd (d : VReg) (_a : SReg) (b : VReg) (m : MReg) (u : Bool) (_r : Ordr) (w : MW) (e : Entry) (s : State) : VRes := s.vamo e d b m u w .add
/-- VAMO_AND (R173). -/
def effVamoAnd (d : VReg) (_a : SReg) (b : VReg) (m : MReg) (u : Bool) (_r : Ordr) (w : MW) (e : Entry) (s : State) : VRes := s.vamo e d b m u w .and
/-- VAMO_OR (R173). -/
def effVamoOr (d : VReg) (_a : SReg) (b : VReg) (m : MReg) (u : Bool) (_r : Ordr) (w : MW) (e : Entry) (s : State) : VRes := s.vamo e d b m u w .or
/-- VAMO_XOR (R173). -/
def effVamoXor (d : VReg) (_a : SReg) (b : VReg) (m : MReg) (u : Bool) (_r : Ordr) (w : MW) (e : Entry) (s : State) : VRes := s.vamo e d b m u w .xor
/-- VAMO_MIN (R173). -/
def effVamoMin (d : VReg) (_a : SReg) (b : VReg) (m : MReg) (u : Bool) (_r : Ordr) (w : MW) (e : Entry) (s : State) : VRes := s.vamo e d b m u w .min
/-- VAMO_MAX (R173). -/
def effVamoMax (d : VReg) (_a : SReg) (b : VReg) (m : MReg) (u : Bool) (_r : Ordr) (w : MW) (e : Entry) (s : State) : VRes := s.vamo e d b m u w .max

/-! ### Waiting on memory -/

/-- A condition of VWAIT at a width (R175). -/
def condHolds (c : VCond) (w x y : Nat) : Bool :=
  match c with
  | .eq => x == y
  | .ne => x != y
  | .lt => decide (sx w x < sx w y)
  | .ge => decide (sx w y ≤ sx w x)
  | .ltn => decide (x < y)
  | .gen => decide (y ≤ x)

/-- VWAIT (R175): it reads every element not satisfied yet, keeps which are in the entry, and completes when all are. An
element is satisfied by any one read since the entry began. -/
def effVwait (d : VReg) (_a : SReg) (b : VReg) (m : MReg) (c : VCond) (w : MW) (e : Entry) (s : State) : VRes :=
  let vl := s.st.effLen e
  let vs := s.vstart
  let addr := fun i => (indexAddr e b w.bits s.st.vec i).1
  let act := fun i => s.st.vec.mbit m i && !e.done.getLsbD i
  if vl ≤ vs then .done (s.complete1 vl) none
  else if !((e.group d w.bits).ok && (e.group b (indexBits w.bits)).ok) then s.vIllegal
  else
    let f := s.firstFault act addr w.bits .memory .read (vl - vs) vs
    let stopAt := match f with | some (i, _, _) => i | none => vl
    let todo := (List.range stopAt).filter fun i => decide (vs ≤ i) && act i
    let read := fun i => match s.check s.me (addr i) (w.bits / 8) (w.bits / 8) .memory .read with | .ok ls => ls | .error _ => []
    let now := todo.filter fun i => condHolds c w.bits (s.get (read i)) (s.st.vec.elem d.val i w.bits)
    let s := todo.foldl (fun s i => s.note s.me (addr i).toNat (read i)) s
    if now.length = todo.length then
      let s1 := s.mod fun t => t.unparkFrom .vwait
      match f with
      | none => .done (s1.complete1 vl) none
      | some (i, q, x) => s1.shortenFault s e vs i q (ea64 (addr i)) x .read fun _ s => s
    else
      .stop ((s.setHead { e with done := now.foldl (fun b i => b ||| (1#2048) <<< i) e.done }).mod fun t => t.parkAt .vwait)

/-! ### Scatter-add -/

/-- Bits of a scatter-add type. -/
def sctBits : SctT → Nat
  | .i32 => 32 | .i64 => 64 | .f32 => 32 | .bf16 => 16

/-- One addition of VSCADD and SCADD (R176): exact modulo 2^W, or rounded to nearest even with canonical NaN results. -/
def sctPlus (t : SctT) (x y : Nat) : Nat :=
  match t with
  | .i32 => (x + y) % 2 ^ 32
  | .i64 => (x + y) % 2 ^ 64
  | .f32 => (fAddE .f32 .rne x y 0).1
  | .bf16 => (fAddE .bf16 .rne x y 0).1

/-- Contributions in flight, by address: at each step a free choice merges two to one address, or adds one into memory
(R176, R323). Only contributions of one entry or command merge: those of two entries, strands or commands meet in memory alone
(DESIGN CHOICE, log 38). -/
def scatter (t : SctT) (w : Who) : Nat → List (Int × Nat) → State → State
  | 0, _, s => s
  | n + 1, l, s =>
    match l with
    | [] => s
    | _ =>
      let ch := Config.freeChoice s.freeCtr
      let s1 := { s with freeCtr := s.freeCtr + 1 }
      let i := ch / 2 % l.length
      let p := l.getD i (0, 0)
      let r := l.eraseIdx i
      match (if ch % 2 = 1 then r.findIdx? (fun q => q.1 = p.1) else none) with
      | some j => scatter t w n ((r.eraseIdx j) ++ [(p.1, sctPlus t p.2 (r.getD j (0, 0)).2)]) s1
      | none =>
        match s1.check w p.1 (sctBits t / 8) 1 .any .rw with
        | .ok ls => scatter t w n r ((s1.noteUpdate w p.1.toNat ls).put ls (sctPlus t (s1.get ls) p.2))
        | .error _ => scatter t w n r s1

/-- VSCADD (R176). -/
def effVscadd (d : VReg) (_a : SReg) (b : VReg) (m : MReg) (t : SctT) (e : Entry) (s : State) : VRes :=
  let iw := indexBits (sctBits t)
  let addr := fun i => e.base + (s.st.vec.elem b.val i iw : Nat)
  s.checkedEntry e ((e.group d (sctBits t)).ok && (e.group b iw).ok) m addr (sctBits t) .memory .rw fun l s =>
    scatter t s.me (2 * l.length) (l.map fun i => (addr i, s.st.vec.elem d.val i (sctBits t))) s

/-! ### Fibre grants -/

/-- Fibres n, n + 1, … of the list (R127): the mask is written, lengths add up. The answer is the state with the fibres
packed and the length, or the trap of fibre 0. -/
def State.fibres (s : State) (e : Entry) (d : MReg) : Nat → Nat → Nat → Except State (State × Nat × Nat)
  | 0, n, len => .ok (s, n, len)
  | k + 1, n, len =>
    if e.opd.b.toNat ≤ n then .ok (s, n, len)
    else
      let ea := e.base + 4 * n
      match s.check s.me ea 4 4 .any .read with
      | .error (c, b) =>
        if n = 0 then .error ((s.setVstart 0).trapAccess c (ea64 ea) b .read true)
        else .ok (if c = 9 then s.violation s.st.ctx s.slot (BitVec.ofNat 64 (ea64 ea)) .read 1 else s, n, len)
      | .ok ls =>
        let f := s.get ls
        if f = 0 || vlmax e.vtype - len < f then
          if n = 0 then .error ((s.setVstart 0).trap 2 0 true) else .ok (s, n, len)
        else
          let s1 := (s.note s.me ea.toNat ls).modVec fun v =>
            { v with m := v.m.set d (putField v.m[d] len f 1) }
          s1.fibres e d k (n + 1) (len + f)

/-- SETVLF (R126, R127): it sets the trim limit of its own grant; AL counts fibres. -/
def effSetvlf (d : MReg) (_a _b : SReg) (_g : Grp) (_w : EW) (e : Entry) (s : State) : VRes :=
  match s.fibres e d (vlmax e.vtype + 1) 0 0 with
  | .error s1 => .stop s1
  | .ok (s1, n, len) =>
    if s1.hamada.places = 0 && s1.hamada.waiting.length ≠ s.hamada.waiting.length then .stop s
    else .done ((s1.mod fun t => t.setTrim e.grant len).complete1 n) none

end Sys2Proof.Machine
end

