-- ==== Sys2Proof/Machine/Copy.lean ====
section
/-! DEFINITION. Background copies (12: R218 to R225) and the tile states they cause (10: R181 to R186). -/

namespace Sys2Proof.Machine

/-! ### Strands that still have work in the background -/

/-- Whether a strand has a copy in flight. -/
def Strand.hasCopy (t : Strand) : Bool := t.copies.any (·.status.isNone)
/-- Whether a strand has pushed words that have not performed. -/
def Strand.hasWord (t : Strand) : Bool := t.streams.toList.any fun x => !x.fifo.isEmpty
/-- Whether a strand has a Playa command that has not ended. -/
def Strand.hasCmd (t : Strand) : Bool := t.cmds.any (·.status.isNone)
/-- Whether a strand has a collective that has not ended. -/
def Strand.hasColl (t : Strand) : Bool := t.colls.any (·.status.isNone)

/-- The strand that background work of one kind at a slot belongs to: one that has ended with such work left, else the one
that stands there. -/
def State.bgStrand (s : State) (k : Nat) (p : Strand → Bool) : Strand :=
  match s.ending.find? fun x => x.1 = k && p x.2 with
  | some x => x.2
  | none => s.strand k

/-- Replaces the first strand of a slot with work of a kind in a list; one whose work is done leaves it. -/
def replaceBg (k : Nat) (p : Strand → Bool) (t : Strand) : List (Nat × Strand) → List (Nat × Strand)
  | [] => []
  | x :: r => if x.1 = k && p x.2 then (if t.bgDone then r else (k, t) :: r) else x :: replaceBg k p t r

/-- Puts back the strand that bgStrand gives. -/
def State.putBg (s : State) (k : Nat) (p : Strand → Bool) (t : Strand) : State :=
  if s.ending.any fun x => x.1 = k && p x.2 then { s with ending := replaceBg k p t s.ending } else s.putStrand k t

/-- Strands that are saved: those of pre-empted groups and those in images (R284, R345). -/
def State.stored (s : State) : List (Nat × Strand) :=
  s.groups.flatMap (fun g => g.2.saved)
    ++ (s.shadow.toList.flatMap fun i => match i with | some x => x.strands | none => [])
    ++ s.spill.flatMap (·.strands)

/-- Changes the strands of an image; its hash stays right if it was. -/
def Image.mapStrands (i : Image) (f : Nat × Strand → Nat × Strand) : Image :=
  let j := { i with strands := i.strands.map f }
  if j = i then i else if i.good then j.hashed else j

/-- Changes every saved strand. -/
def State.mapStored (s : State) (f : Nat × Strand → Nat × Strand) : State :=
  let g := fun (i : Image) => i.mapStrands f
  { s with groups := s.groups.map fun p => (p.1, { p.2 with saved := p.2.saved.map f }),
           shadow := s.shadow.map fun (o : Option Image) => o.map g, spill := s.spill.map g }

/-- The strand that the port commands of a slot belong to, by their kind: the one bgStrand gives, and where that has none in
progress a saved one, whose commands go on (R322, R342). -/
def State.cmdStrand (s : State) (k : Nat) (p : Strand → Bool) : Strand :=
  let t := s.bgStrand k p
  if p t then t
  else match s.stored.find? fun x => x.1 = k && p x.2 with
    | some x => x.2
    | none => t

/-- Puts back the strand that cmdStrand gives. -/
def State.putCmd (s : State) (k : Nat) (p : Strand → Bool) (t : Strand) : State :=
  if p (s.bgStrand k p) then s.putBg k p t
  else s.mapStored fun x => if x.1 = k && x.2.gkey = t.gkey && x.2.wid = t.wid then (k, t) else x

/-- Slots with a strand whose background work of a kind may go on: one that has ended with such work left, or one that stands there
and is not halted, whose copies wait (R348). -/
def State.bgLive (s : State) (k : Nat) (p : Strand → Bool) : Bool :=
  (s.ending.any fun x => x.1 = k && p x.2) || ((s.strand k).stat ≠ .absent && (s.strand k).stat ≠ .halted)

/-! ### Descriptors (R219, R220) -/

/-- n bytes at an offset of a descriptor. -/
def copyField (d : BitVec 1024) (o n : Nat) : Nat := d.toNat / 256 ^ o % 256 ^ n

/-- The CTL word. -/
def copyCtl (d : BitVec 1024) : Nat := copyField d 16 8
/-- Element width in bits. -/
def copyWidth (d : BitVec 1024) : Nat := 8 * 2 ^ fld (copyCtl d) 1 0
/-- Dimensions, 1 to 4. -/
def copyDims (d : BitVec 1024) : Nat := fld (copyCtl d) 5 4 + 1
/-- L of a dimension; 1 for one that is not used. -/
def copyLen (d : BitVec 1024) (k : Nat) : Nat := if k < copyDims d then copyField d (96 + 4 * k) 4 else 1
/-- Elements of the copy. -/
def copyTotal (d : BitVec 1024) : Nat := copyLen d 0 * copyLen d 1 * copyLen d 2 * copyLen d 3
/-- Place of element j in a dimension (R220). -/
def copyPlace (d : BitVec 1024) (j k : Nat) : Nat := j / ((List.range k).map (copyLen d)).prod % copyLen d k

/-- Whether a descriptor holds a bit it must not (R219). -/
def copyBad (d : BitVec 1024) : Bool :=
  copyCtl d &&& (2 ^ 64 - 1 - (0x73 + 0x7FF * 2 ^ 32 + 0x1F * 2 ^ 48 + 7 * 2 ^ 53)) != 0
    || copyField d 24 8 != 0 || copyField d 112 16 != 0 || (List.range 4).any fun k => copyLen d k == 0

/-- Effective address of element j; none where it takes FILL (R220). -/
def copyEa (d : BitVec 1024) (j : Nat) : Option Int :=
  let ks := List.range (copyDims d)
  let x := fun k => sx 32 (copyField d (32 + 4 * k) 4) + copyPlace d j k
  if ks.any fun k => x k < 0 || (copyField d (48 + 4 * k) 4 : Int) ≤ x k then none
  else some ((copyField d 0 8 : Int) + (ks.map fun k => x k * sx 64 (copyField d (64 + 8 * k) 8)).sum)

/-- Tile row and element column of element j (R224). -/
def copyTile (d : BitVec 1024) (j : Nat) : Nat × Nat :=
  let row0 := fld (copyCtl d) 40 32
  let j0 := j % copyLen d 0
  let rest := j / copyLen d 0
  if fld (copyCtl d) 6 6 = 1 then (row0 + j0, rest) else (row0 + rest, j0)

/-! ### Issue (R221 to R224) -/

/-- Step 3: the least j that makes an access, with its fault. -/
def State.copyLeading (s : State) (d : BitVec 1024) (k : Acc) : Option (Nat × Int × Nat) :=
  match (List.range (copyTotal d)).find? fun j => (copyEa d j).isSome with
  | none => none
  | some j =>
    let ea := (copyEa d j).getD 0
    match s.check s.me ea (copyWidth d / 8) (copyWidth d / 8) .any k with
    | .error (c, b) => some (c, ea, b)
    | .ok _ => none

/-- A copy entry (R221). via is step 2: it checks the registers or the tile, and goes on with the tile and with what the issue
makes of it. Whatever becomes of the entry, the descriptor has been read through its home slice. -/
def State.issueCopy (s : State) (e : Entry) (kind : Nat) (out : Bool) (reg regs : Nat)
    (via : State → BitVec 1024 → (TileDef → (State → State) → VRes) → VRes) : VRes :=
  match s.check s.me e.base 128 128 .any .read with
  | .error (c, b) => .stop ((s.setVstart 0).trapCheck c (ea64 e.base) b true)
  | .ok ls =>
    let d := BitVec.ofNat 1024 (s.get ls)
    let n := s.note s.me e.base.toNat ls
    if copyBad d then n.vTrap0 2 0
    else via n d fun tile start =>
      let acc : Acc := if out then .write else .read
      match (if kind = 1 then none else s.copyLeading d acc) with
      | some (c, ea, b) =>
        if c = 9 && s.hamada.places = 0 then .stop n else .stop ((n.setVstart 0).trapAccess c (ea64 ea) b acc true)
      | none =>
        if 16 ≤ s.st.copies.length then .stop n
        else
          let c : Copy := { kind := kind, out := out, desc := d, reg := reg, regs := regs, tile := tile, seq := e.seq,
                            done := 0, status := none }
          .done ((start n).mod fun t => { t with
            copies := t.copies ++ [c], csr := { t.csr with vstart := 0 } }) none

/-- Step 2 for a copy to or from registers. -/
def copyRegs (ok : State → BitVec 1024 → Bool) (s : State) (x : BitVec 1024) (k : TileDef → (State → State) → VRes) : VRes :=
  if ok s x then k .empty id else s.vTrap0 2 0

/-- CPYV (R222). -/
def effCpyv (d : VReg) (_a : SReg) (g : Fin 8) (r : Bool) (e : Entry) (s : State) : VRes :=
  let n := g.val + 1
  s.issueCopy e 0 r d.val n
    (copyRegs fun _ x => d.val % n == 0 && decide (d.val + n ≤ 32) && decide (copyTotal x ≤ n * (8192 / copyWidth x)))

/-- CPYX (R223). -/
def effCpyx (d : VReg) (_a : SReg) (r : Bool) (e : Entry) (s : State) : VRes :=
  s.issueCopy e 1 r d.val 0 (copyRegs fun s x =>
    let n := fld (copyCtl x) 55 53 + 1
    let p := s.strand (fld (copyCtl x) 42 32)
    let v := fld (copyCtl x) 52 48
    copyDims x == 1 && decide (p.stat ≠ .absent) && p.gkey == s.st.gkey && d.val % n == 0 && decide (d.val + n ≤ 32)
      && v % n == 0 && decide (v + n ≤ 32) && decide (copyLen x 0 ≤ n * (8192 / copyWidth x)))

/-- Whether every element of a copy lies in a tile's shape (R224). -/
def copyInTile (t : TileDef) (d : BitVec 1024) : Bool :=
  let p := copyTile d (copyTotal d - 1)
  let row := if fld (copyCtl d) 6 6 = 1 then fld (copyCtl d) 40 32 + copyLen d 0 - 1 else p.1
  let col := if fld (copyCtl d) 6 6 = 1 then p.2 else copyLen d 0 - 1
  decide (row < t.rows) && decide ((col + 1) * copyWidth d ≤ 8 * t.len)

/-- CPYT (R224): `.in` makes the tile filling, `.out` draining (R181). -/
def effCpyt (d : TReg) (_a : SReg) (r : Bool) (e : Entry) (s : State) : VRes :=
  s.issueCopy e 2 r d.val 0 fun s x k =>
    s.withTile d (fun t => if r then t.reader else t.writer) fun t =>
      if copyInTile t.cur x then k t.cur fun s => s.setTile d { t with st := if r then .draining else .filling }
      else s.vTrap0 2 0

/-! ### Progress (R221, R225) -/

/-- Elements of a copy (R219, R223). -/
def Copy.total (c : Copy) : Nat := if c.kind = 1 then copyLen c.desc 0 else copyTotal c.desc

/-- First byte that element j of a copy writes, in memory, in its tile or in registers; none where it writes none. -/
def Copy.dest (c : Copy) (j : Nat) : Option Int :=
  let n := copyWidth c.desc / 8
  if c.kind = 1 || (c.kind = 0 && !c.out) then some (j * n : Nat)
  else if c.out then copyEa c.desc j
  else some (c.tile.addr (copyTile c.desc j).1 ((copyTile c.desc j).2 * n) : Nat)

/-- Whether a copy writes every byte of the aligned 8-byte unit u. -/
def Copy.whole (c : Copy) (u : Int) : Bool :=
  (List.range 8).all fun b => (List.range c.total).any fun j => match c.dest j with
    | some d => decide (d ≤ 8 * u + b) && decide (8 * u + b < d + (copyWidth c.desc / 8 : Nat))
    | none => false

/-- Whether a copy may stop before element m: no aligned 8-byte unit that it writes whole has elements on both sides (R225). -/
def Copy.stops (c : Copy) (m : Nat) : Bool :=
  let unit := fun j => (c.dest j).map (· / 8)
  let rest := ((List.range (c.total - m)).map (m + ·)).filterMap unit
  ((List.range m).filterMap unit).all fun u => !(rest.contains u && c.whole u)

/-- Where a copy stops that goes on to element m: there, or at the first place behind it where it may. -/
def Copy.boundary (c : Copy) (m : Nat) : Nat :=
  (((List.range (c.total - m)).map (m + ·)).find? c.stops).getD c.total

/-! ### Transfer -/

/-- One element of a copy for strand t of slot k: the changed state and strand, or the fault (cause, byte). What an element
reads from a peer that has ended is a free value, and what goes to one is lost (log 37). -/
def State.copyElem (s : State) (k : Nat) (t : Strand) (c : Copy) (j : Nat) : Except (Nat × Nat) (State × Strand) :=
  let w := copyWidth c.desc
  let who := engineOf k t.ctx
  if c.kind = 1 then
    let p := fld (copyCtl c.desc) 42 32
    let v := fld (copyCtl c.desc) 52 48
    let peer := if p = k then t else s.strand p
    if c.out then
      if p = k then .ok (s, { t with vec := t.vec.setElem v j w (t.vec.elem c.reg j w) })
      else if peer.stat = .absent || peer.gkey ≠ t.gkey then .ok (s, t)
      else .ok (s.modStrand p fun x => { x with vec := x.vec.setElem v j w (t.vec.elem c.reg j w) }, t)
    else if peer.gkey = t.gkey then .ok (s, { t with vec := t.vec.setElem c.reg j w (peer.vec.elem v j w) })
    else .ok ({ s with freeCtr := s.freeCtr + 1 }, { t with vec := t.vec.setElem c.reg j w (Config.freeChoice s.freeCtr % 2 ^ w) })
  else
    let put := fun (s : State) (x : Nat) =>
      if c.kind = 0 then (s, { t with vec := t.vec.setElem c.reg j w x })
      else (s.tileSet who c.tile (copyTile c.desc j).1 (copyTile c.desc j).2 w x, t)
    match copyEa c.desc j with
    | none => .ok (if c.out then (s, t) else put s (copyField c.desc 8 8))
    | some ea =>
      match s.check who ea (w / 8) (w / 8) .any (if c.out then .write else .read) with
      | .error (q, b) => .error (q, if q = 8 then b else ea64 ea)
      | .ok ls =>
        let s1 := s.note who ea.toNat ls
        if c.out then
          .ok (s1.put ls (if c.kind = 0 then t.vec.elem c.reg j w
            else s.tileElem who c.tile (copyTile c.desc j).1 (copyTile c.desc j).2 w), t)
        else .ok (put s1 (s.get ls))

/-- Elements j, j + 1, … until one faults. -/
def State.copyRun (s : State) (k : Nat) (t : Strand) (c : Copy) : Nat → Nat → State × Strand × Option (Nat × Nat × Nat)
  | 0, _ => (s, t, none)
  | n + 1, j =>
    match s.copyElem k t c j with
    | .error (q, b) => (s, t, some (j, q, b))
    | .ok (s1, t1) => s1.copyRun k t1 c n (j + 1)

/-- A copy's end as its tile sees it (R181, R183, R186). others: the strand's copies still in flight. -/
def State.endTile (s : State) (who : Who) (t : Strand) (c : Copy) (others : List Copy) : Strand :=
  let n : TReg := Fin.ofNat 8 c.reg
  let x := t.tiles[n]
  if c.kind ≠ 2 then t
  else if !c.out then { t with tiles := t.tiles.set n { x with cur := s.recompute who x.cur, st := .ready } }
  else if others.any fun o => o.kind = 2 && o.out && o.reg = c.reg && o.status.isNone then t
  else { t with tiles := t.tiles.set n { cur := x.pending.getD x.cur, st := .ready, pending := none } }

/-- Status word of a copy (R221). -/
def copyStatus (count cause kind : Nat) : Word := BitVec.ofNat 64 (count % 2 ^ 32 + cause * 2 ^ 32 + kind * 2 ^ 40)

/-- Copy number i of a slot's strand goes on from its record until m elements are transferred, or a few more where it may not stop
there (R221, R225). All of them end it, and so does the first that faults. A violation is logged, and the copy does not go on while
the log has no place (R336, R384), unless force says that it ends now: its entry then waits. -/
def State.moveCopy (s : State) (k i m : Nat) (force : Bool := false) : State :=
  let t := s.bgStrand k Strand.hasCopy
  match t.copies[i]? with
  | none => s
  | some c =>
    let stop := c.boundary m
    if c.status.isSome || (stop ≤ c.done && stop < c.total) then s
    else
      let (s1, t1, f) := s.copyRun k t c (stop - c.done) c.done
      let (n, cause) := match f with | some (j, q, _) => (j, q) | none => (stop, 0)
      if cause = 9 && s.hamada.places = 0 && !force then s
      else if f.isNone && stop < c.total then
        s1.putBg k Strand.hasCopy { t1 with copies := t1.copies.set i { c with done := n } }
      else
        let t2 := s1.endTile (engineOf k t.ctx) t1 c (t.copies.eraseIdx i)
        let s2 := s1.putBg k Strand.hasCopy { t2 with
          copies := t2.copies.set i { c with done := n, status := some (copyStatus n cause c.kind) } }
        match f with
        | some (_, 9, b) => s2.violation t.ctx k (BitVec.ofNat 64 b) (if c.out then .write else .read) 4
        | _ => s2

/-- Copy number i of a slot's strand goes on to its end. -/
def State.runCopy (s : State) (k i : Nat) (force : Bool := false) : State :=
  match (s.bgStrand k Strand.hasCopy).copies[i]? with
  | none => s
  | some c => s.moveCopy k i c.total force

/-- Numbers of a strand's copies in flight that meet a condition. -/
def Strand.openCopies (t : Strand) (p : Copy → Bool) : List Nat :=
  (List.range t.copies.length).filter fun i => match t.copies[i]? with | some c => c.status.isNone && p c | none => false

/-- Ends every copy in flight of a slot's strand that meets a condition. -/
def State.endCopies (s : State) (k : Nat) (p : Copy → Bool) (force : Bool := false) : State :=
  ((s.bgStrand k Strand.hasCopy).openCopies p).foldl (fun x i => x.runCopy k i force) s

/-- COPY_END (R221, R225): copies in flight are unordered, so which one ends is a free choice. -/
def execCopyEnd (k : Nat) (s : State) : Res :=
  if !s.bgLive k Strand.hasCopy then .next s
  else match (s.bgStrand k Strand.hasCopy).openCopies fun _ => true with
    | [] => .next s
    | [i] => .next (s.runCopy k i)
    | l =>
      .next ({ s with freeCtr := s.freeCtr + 1 }.runCopy k (l.getD (Config.freeChoice s.freeCtr % l.length) 0))

end Sys2Proof.Machine
end

