-- ==== Sys2Proof/Machine/Playa.lean ====
section
/-! DEFINITION. What the Oasis kernel does about a page an access faults on (24: R335), and the Playa engines (22: R317 to
R323). -/

namespace Sys2Proof.Machine

/-! ### The Oasis kernel and a faulting page -/

/-- How a fault on a page ends (R335). -/
inductive PageFix where
  /-- The access is made again. -/
  | mapped (s : State)
  /-- The page migrates: the fault waits. -/
  | wait
  /-- The fault is not resolved. -/
  | final

/-- The page size with which a demand-filled range takes a byte: its own, or the greatest below it whose place holds no mapped
page (DESIGN CHOICE, log 90: a mapped page is never replaced). -/
def State.fillSize (s : State) (c : BitVec 16) (va size : Nat) : Nat :=
  if s.slotFree c va size then size else if size = 2 && s.slotFree c va 1 then 1 else 0

/-- The Oasis kernel acts on the page of a faulting byte (R335). Where a demand-filled range finds no frame, the fault is not
resolved (DESIGN CHOICE, log 90: the spec does not say). -/
def State.fixPage (s : State) (c : BitVec 16) (va : Nat) : PageFix :=
  match (s.walkIn c va).1 with
  | .leaf e _ => if pteSt e = 0 then .mapped s else if pteSt e = 1 then .wait else .final
  | .malformed => .final
  | .unmapped =>
    match (s.ctx? c).bind fun x => x.demand.find? fun r => decide (r.va ≤ va) && decide (va < r.va + r.len) with
    | none => .final
    | some r =>
      let z := s.fillSize c va r.size
      match s.mapPage c (va / pageBytes z * pageBytes z) z r.perm false with
      | some s' => .mapped s'
      | none => .final

/-! ### Order of commands (R210) -/

/-- Whether a sequence number comes before another (R29: modulo 2^48). -/
def seqBefore (x y : BitVec 48) : Bool := decide (0 < (y - x).toNat) && decide ((y - x).toNat < 2 ^ 47)

/-- Whether every access that precedes a place in program order has performed, those of port commands left out: those of older
entries, older copies, words of older PUSHes. seq and ord number the first entry and the first PUSH that do not precede the
place. -/
def Strand.released (t : Strand) (seq : BitVec 48) (ord : Nat) : Bool :=
  t.queue.all (fun e => e.instr.accessKinds = 0 || !seqBefore e.seq seq) && t.copies.all (fun c => c.status.isSome || !seqBefore c.seq seq)
    && t.streams.toList.all fun x => x.fifo.all fun w => decide (ord ≤ w.2.1)

/-- Whether every command pushed before a place in program order has ended. -/
def Strand.cmdsBefore (t : Strand) (ord : Nat) : Bool :=
  t.cmds.all (fun c => c.status.isSome || decide (ord ≤ c.ord)) && t.colls.all fun c => c.status.isSome || decide (ord ≤ c.ord)

/-! ### Commands -/

/-- OP of a command (R317). -/
def Cmd.op (c : Cmd) : Nat := fld c.w0.toNat 7 0
/-- TYPE. -/
def Cmd.ty (c : Cmd) : Nat := fld c.w0.toNat 9 8
/-- MOM. -/
def Cmd.mom (c : Cmd) : Bool := c.w0.getLsbD 10
/-- BETA. -/
def Cmd.beta (c : Cmd) : Nat := fld c.w0.toNat 31 16
/-- N. -/
def Cmd.n (c : Cmd) : Nat := fld c.w0.toNat 63 32
/-- e. -/
def Cmd.e (c : Cmd) : Nat := if c.ty = 1 then 2 else 4

/-- The checks of R319 in order: a cause, or none. -/
def Cmd.bad (c : Cmd) : Option Nat :=
  let o := c.op
  let a := c.w1.toNat
  let b := c.w2.toNat
  let n := c.e * c.n
  if fld c.w0.toNat 15 11 ≠ 0 || o < 1 || 5 < o || c.ty = 3 || ((o = 1 || o = 2) && c.ty = 2) || (o = 5 && c.ty = 1)
      || (o ≠ 2 && (c.mom || c.beta ≠ 0)) || (o = 2 && !c.mom && c.beta ≠ 0) || c.n = 0 || 2 ^ 26 < c.n || (o = 3 && b ≠ 0)
      || (o = 4 && a < b + n && b < a + n) then some 2
  else if a / 2 ^ 56 ≠ 0 || (o ≠ 3 && o ≠ 5 && b / 2 ^ 56 ≠ 0) then some 6
  else if a % c.e ≠ 0 || (o = 5 && b % 8 ≠ 0) || (o ≠ 3 && o ≠ 5 && b % c.e ≠ 0) then some 7
  else none

/-- A fault of an element: cause, address, failing byte, kind. -/
structure EFault where
  cause : Nat
  ea : Nat
  byte : Nat
  kind : Acc
  deriving DecidableEq, Repr

/-- Locations of n bytes for an engine, or the fault of the first element that fails; size: bytes of an element. -/
def State.engAccess (s : State) (w : Who) (ea n : Nat) (k : Acc) (size : Nat := n) : Except EFault (List Nat) :=
  match s.locsI w ea n k with
  | .ok ls => .ok ls
  | .error (c, b) => .error { cause := c, ea := ea + (b - ea) / size * size, byte := b, kind := k }

/-- What element i of a command other than SCADD touches: A_i, B_i, m_i, with the kinds of access (R318, R320). -/
def Cmd.touches (c : Cmd) (i : Nat) : List (Nat × Acc) :=
  (c.w1.toNat + c.e * i, .rw) :: (if c.op = 3 then [] else
    (c.w2.toNat + c.e * i, .read) :: if c.op = 2 && c.mom then [(c.w2.toNat + c.e * (c.n + i), .rw)] else [])

/-- Step 3 of R164 on every byte of such an element, which comes before step 4 on any. -/
def State.cmdEarly (s : State) (w : Who) (e : Nat) (l : List (Nat × Acc)) : Option EFault :=
  l.findSome? fun p => (List.range e).findSome? fun j => (s.noSpace w (p.1 + j)).map fun c =>
    { cause := c, ea := p.1, byte := p.1 + j, kind := p.2 }

/-- The lowest byte of the first element whose translation fails (R335); f: the fault found first. -/
def State.cmdByte (s : State) (w : Who) (c : Cmd) (f : EFault) : Nat :=
  if c.op = 5 then f.byte
  else ((c.touches 0).flatMap fun p => (List.range c.e).filterMap fun j =>
    match s.place w (p.1 + j) p.2 with | .error 8 => some (p.1 + j) | _ => none).foldl Nat.min f.byte

/-- Locations of A_i, of B_i or the pair, and of m_i or the target of the pair (R320). -/
def State.cmdElem (s : State) (w : Who) (c : Cmd) (i : Nat) : Except EFault (List Nat × List Nat × List Nat) :=
  let a := c.w1.toNat
  let b := c.w2.toNat
  let e := c.e
  if c.op = 5 then
    match s.engAccess w (b + 8 * i) 8 .read with
    | .error f => .error f
    | .ok ps =>
      match s.engAccess w (a + 4 * (s.get ps % 2 ^ 32)) 4 .rw with
      | .error f => .error f
      | .ok ts => .ok ([], ps, ts)
  else
    match s.cmdEarly w e (c.touches i) with
    | some f => .error f
    | none =>
    match s.engAccess w (a + e * i) e .rw with
    | .error f => .error f
    | .ok as =>
      if c.op = 3 then .ok (as, [], [])
      else match s.engAccess w (b + e * i) e .read with
        | .error f => .error f
        | .ok bs =>
          if c.op = 4 && (as.headD 0) / Config.stackBytes ≠ (bs.headD 0) / Config.stackBytes then
            .error { cause := 6, ea := a + e * i, byte := a + e * i, kind := .rw }
          else if c.op = 2 && c.mom then
            match s.engAccess w (b + e * (c.n + i)) e .rw with
            | .error f => .error f
            | .ok ms => .ok (as, bs, ms)
          else .ok (as, bs, [])

/-- Elements i, i + 1, … : the first that faults. -/
def State.cmdFault (s : State) (w : Who) (c : Cmd) : Nat → Nat → Option (Nat × EFault)
  | 0, _ => none
  | n + 1, i =>
    match s.cmdElem w c i with
    | .error f => some (i, f)
    | .ok _ => s.cmdFault w c n (i + 1)

/-- The floating format of a command. -/
def Cmd.fp (c : Cmd) : FP := if c.ty = 1 then .bf16 else .f32

/-- A value read by an engine, with NV for a signalling NaN (R75). -/
def engVal (f : FP) (x : Nat) : Val × Cls := (f.val x, Cls.when (f.val x).snan Cls.nv)

/-- x · y + z of values with their classes. -/
def engFma (x y z : Val × Cls) : Val × Cls :=
  let p := x.1.mul y.1
  let r := p.1.add .rne z.1
  (r.1, x.2 ||| y.2 ||| z.2 ||| p.2 ||| r.2)

/-- The opposite of a value. -/
def engNeg (x : Val × Cls) : Val × Cls := (x.1.negate, x.2)

/-- One element of AXPY or FADE (R318): the new A_i, the new m_i, the classes. -/
def Cmd.float (c : Cmd) (a b m : Nat) : Nat × Nat × Cls :=
  let f := c.fp
  let x := engVal .f32 (c.w3.toNat % 2 ^ 32)
  let y := engVal .f32 (c.w3.toNat / 2 ^ 32)
  let w := engVal f a
  let g := engVal f b
  let one : Val × Cls := (.fin false 1 0, 0)
  if c.op = 1 then
    let r := finish f .rne (engFma x g w)
    (r.1, 0, r.2)
  else if !c.mom then
    let r := finish f .rne (engFma (engNeg x) (engFma y w g) w)
    (r.1, 0, r.2)
  else
    let mb := finish f .rne (engFma one (engFma (engVal .bf16 c.beta) (engVal f m) g) (engFma y w (.fin true 0 0, 0)))
    let r := finish f .rne (engFma (engNeg x) (f.val mb.1, 0) w)
    (r.1, mb.1, mb.2 ||| r.2)

/-- What element i of a command other than SCADD becomes: the new A_i, the new m_i, the classes. -/
def Cmd.result (c : Cmd) (a b m : Nat) : Nat × Nat × Cls :=
  match c.op with
  | 3 => (c.w3.toNat % 2 ^ (8 * c.e), 0, 0)
  | 4 => (b, 0, 0)
  | _ => c.float a b m

/-- Performs the elements of one line that a command writes (R321): all are computed from the line as it was read, and the
line changes whole, in one step. Sources are read through their home slices. -/
def State.cmdLine (s : State) (w : Who) (c : Cmd) (is : List Nat) : State × Cls :=
  let ps := is.filterMap fun i => match s.cmdElem w c i with
    | .error _ => none
    | .ok (as, bs, ms) => some ((c.w1.toNat + c.e * i, c.w2.toNat + c.e * i), (as, bs, ms), c.result (s.get as) (s.get bs) (s.get ms))
  ps.foldl (fun (x : State × Cls) p =>
    let s1 := (x.1.note w p.1.2 p.2.1.2.1).noteUpdate w p.1.1 (p.2.1.1 ++ p.2.1.2.2)
    ((s1.put p.2.1.2.2 p.2.2.2.1).put p.2.1.1 p.2.2.1, x.2 ||| p.2.2.2.2)) (s, 0)

/-- The lines that elements below k of a command write, in ascending order. -/
def Cmd.lines (c : Cmd) (k : Nat) : List Nat :=
  let first := c.w1.toNat / 128
  let last := (c.w1.toNat + c.e * k - 1) / 128
  if k = 0 then [] else (List.range (last + 1 - first)).map (first + ·)

/-- The pairs below n of SCADD are read through their home slices, as far as they can be read. -/
def State.notePairs (s : State) (w : Who) (c : Cmd) (n : Nat) : State :=
  if c.op ≠ 5 then s
  else (List.range (Nat.min n c.n)).foldl (fun x i =>
    let ea := c.w2.toNat + 8 * i
    match x.engAccess w ea 8 .read with | .ok ps => x.note w ea ps | .error _ => x) s

/-- Performs elements below k: the lines of a command perform in no defined order (R321), and SCADD's additions take any
order (R323). -/
def State.cmdRun (s : State) (w : Who) (c : Cmd) (k : Nat) : State × Cls :=
  if c.op = 5 then
    let l := (List.range k).filterMap fun i =>
      match s.cmdElem w c i with
      | .error _ => none
      | .ok (_, ps, _) => some ((c.w1.toNat : Int) + 4 * (s.get ps % 2 ^ 32 : Nat), s.get ps / 2 ^ 32)
    (scatter (if c.ty = 2 then .i32 else .f32) w (2 * l.length) l s, 0)
  else
    let ls := c.lines k
    (permute s.freeCtr ls.length ls).foldl (fun (x : State × Cls) l =>
      let r := x.1.cmdLine w c ((List.range k).filter fun i => (c.w1.toNat + c.e * i) / 128 = l)
      (r.1, x.2 ||| r.2)) ({ s with freeCtr := s.freeCtr + ls.length }, 0)

/-- Status word of a command (R322). -/
def cmdStatus (count cause : Nat) (xf : Cls) (trans : Nat) : Word :=
  BitVec.ofNat 64 (count + cause * 2 ^ 32 + xf.toNat * 2 ^ 40 + Nat.min trans 15 * 2 ^ 48)

/-- Gives a command of a slot's strand its status. -/
def State.endCmd (s : State) (k i : Nat) (c : Cmd) (st : Word) : State :=
  let t := s.cmdStrand k Strand.hasCmd
  s.putCmd k Strand.hasCmd { t with cmds := t.cmds.set i { c with status := some st } }

/-! ### Which command acts (R210, R321) -/

/-- Lines that a command may write, as ranges from first to last. The targets of SCADD are those its pairs name now; while its
first pair cannot be read, it may write any line. -/
def State.cmdSpans (s : State) (w : Who) (c : Cmd) : List (Nat × Nat) :=
  let a := c.w1.toNat
  let b := c.w2.toNat
  let n := c.e * c.n
  let span := fun (x m : Nat) => (x / 128, (x + m - 1) / 128)
  if c.bad.isSome then []
  else if c.op = 5 then
    let ts := (List.range c.n).map fun i => match s.engAccess w (b + 8 * i) 8 .read with
      | .ok ps => some (span (a + 4 * (s.get ps % 2 ^ 32)) 4)
      | .error _ => none
    if (ts.headD none).isNone then [(0, 2 ^ 64)] else (ts.takeWhile (·.isSome)).filterMap id
  else span a n :: if c.op = 2 && c.mom then [span (b + n) n] else []

/-- Whether two commands of a strand may write a common line: there they perform in push order. -/
def State.cmdsMeet (s : State) (w : Who) (b c : Cmd) : Bool :=
  (s.cmdSpans w b).any fun x => (s.cmdSpans w c).any fun y => decide (x.1 ≤ y.2) && decide (y.1 ≤ x.2)

/-- Commands of a slot's strand that may act, with their numbers: what precedes their PUSH has performed (R210), and no older one
that has not ended may write a common line (R321). -/
def State.cmdChoices (s : State) (k : Nat) : List (Nat × Cmd) :=
  let t := s.cmdStrand k Strand.hasCmd
  (t.cmds.zipIdx.filter fun p => p.1.status.isNone && t.released p.1.seq p.1.ord
    && (t.cmds.take p.2).all fun b => b.status.isSome || !s.cmdsMeet (playaOf k t.ctx) b p.1).map fun p => (p.2, p.1)

/-- Performs command number i of a slot's strand, if it may act (R319 to R322). A command that finds a migrating page, or no place
in the log for its violation, waits. -/
def State.runCmdAt (s : State) (k i : Nat) : State :=
  let t := s.cmdStrand k Strand.hasCmd
  match (s.cmdChoices k).find? (fun p => decide (p.1 = i)) with
  | none => s
  | some (_, c) =>
    match c.bad with
    | some cause => s.endCmd k i c (cmdStatus 0 cause 0 0)
    | none =>
      let w := playaOf k t.ctx
      let finishAt := fun (s : State) (n cause : Nat) =>
        let r := s.cmdRun w c n
        r.1.endCmd k i c (cmdStatus n cause r.2 c.trans)
      match s.cmdFault w c c.n 0 with
      | none => finishAt (s.notePairs w c c.n) c.n 0
      | some (j, f) =>
        let s := s.notePairs w c (j + 1)
        if j = 0 && f.cause = 8 then
          match s.fixPage t.ctx (s.cmdByte w c f) with
          | .wait => s
          | .mapped s' => s'
          | .final => finishAt s 0 8
        else if f.cause = 9 then
          if s.hamada.places = 0 then s
          else (finishAt s j 9).violation t.ctx k (BitVec.ofNat 64 f.ea) f.kind 4
        else finishAt s j f.cause

/-- Every command of a slot's strand that may act does, in push order. -/
def State.runCmds (s : State) (k : Nat) : State :=
  (List.range (s.cmdStrand k Strand.hasCmd).cmds.length).foldl (fun x i => x.runCmdAt k i) s

/-- A row of the table moves a command of its OP that may act, or a malformed one: of several, which is a free choice. -/
def State.playaRow (s : State) (op k : Nat) : Res :=
  match (s.cmdChoices k).filter (fun p => p.2.op = op || p.2.op = 0 || decide (5 < p.2.op)) with
  | [] => .next s
  | [p] => .next (s.runCmdAt k p.1)
  | l =>
    let s1 := { s with freeCtr := s.freeCtr + 1 }
    .next (s1.runCmdAt k ((l.map Prod.fst).getD (Config.freeChoice s.freeCtr % l.length) 0))

/-- AXPY (R318). -/
def execAxpy (k : Nat) (s : State) : Res := s.playaRow 1 k
/-- FADE (R318). -/
def execFade (k : Nat) (s : State) : Res := s.playaRow 2 k
/-- FILL (R318). -/
def execFill (k : Nat) (s : State) : Res := s.playaRow 3 k
/-- COPY (R318). -/
def execCopy (k : Nat) (s : State) : Res := s.playaRow 4 k
/-- SCADD (R318). -/
def execScadd (k : Nat) (s : State) : Res := s.playaRow 5 k

end Sys2Proof.Machine
end

