-- ==== Sys2Proof/Machine/Sketch.lean ====
section
/-! DEFINITION. Sketches and the loss scale (21: R301 to R314). -/

namespace Sys2Proof.Machine

/-- The fields of a valid sketch header (R301). -/
structure SkHead where
  d : Nat
  logw : Nat
  cw : Nat
  satr : Nat
  seed : Word
  scale : Int
  deriving DecidableEq, Repr

/-- A header from its 64 bytes; none when it is invalid (R301, R304). -/
def skHead? (x : Nat) : Option SkHead :=
  let f := fun o n => x / 256 ^ o % 256 ^ n
  let h : SkHead := { d := f 4 1, logw := f 5 1, cw := f 6 1, satr := f 7 1, seed := BitVec.ofNat 64 (f 8 8), scale := sx 16 (f 16 2) }
  if f 0 4 = 0x4B530001 && (h.d = 3 || h.d = 5 || h.d = 7) && 6 ≤ h.logw && h.logw ≤ 26 && (h.cw = 16 || h.cw = 32)
      && h.satr / 2 ^ h.d = 0 && -1024 ≤ h.scale && h.scale ≤ 1023 && f 18 46 = 0 then some h else none

/-- The 64 bytes of a header. -/
def SkHead.bytes (h : SkHead) : Nat :=
  0x4B530001 + h.d * 2 ^ 32 + h.logw * 2 ^ 40 + h.cw * 2 ^ 48 + h.satr % 256 * 2 ^ 56 + h.seed.toNat * 2 ^ 64 + wrap 16 h.scale * 2 ^ 128

/-- Counters of a sketch. -/
def SkHead.count (h : SkHead) : Nat := h.d * 2 ^ h.logw

/-- Bytes of its counters. -/
def SkHead.size (h : SkHead) : Nat := h.count * (h.cw / 8)

/-- Number of the counter of row j for a key, and whether its sign is negative (R302, R303). -/
def SkHead.place (h : SkHead) (key : Word) (j : Nat) : Nat × Bool :=
  let x := ((key ^^^ (h.seed + BitVec.ofNat 64 j)) * sketchMul j).toNat
  (j * 2 ^ h.logw + x / 2 ^ (64 - h.logw), x / 2 ^ (63 - h.logw) % 2 == 1)

/-- sat(x, iCW), and whether it clamps. -/
def SkHead.sat (h : SkHead) (x : Int) : Int × Bool :=
  let r := satInt (rangeOf true h.cw).1 (rangeOf true h.cw).2 x
  (r.1, r.2 != 0)

/-- A trap of an access on the leading element; the entry waits while a violation finds no place in the log (R384). -/
def State.leadTrap (s : State) (cause ea byte : Nat) (k : Acc) : State :=
  if cause = 9 && s.hamada.places = 0 then s else s.trapAccess cause ea byte k true

/-- Steps 1 to 4 of R306 on a header, before any element: no violation is counted (R336). The header is read through its home
slice, valid or not (R21, R22). The error is the state in which the vector side stops. n: the machine with what the form has read
before in its caches. -/
def State.skCheck (s n : State) (h : Word) (k : Acc) : Except State (State × SkHead × List Nat) :=
  match s.check s.me h.toNat 64 64 .memory k with
  | .error (c, b) => .error (n.trapCheck c h.toNat b true)
  | .ok ls =>
    let n := n.note s.me h.toNat ls
    match skHead? (s.get ls) with | some x => .ok (n, x, ls) | none => .error (n.trap 2 0 true)

/-- The counters of a sketch are read through their home slices. -/
def State.skRead (s : State) (h : Word) (ls : List Nat) : State := s.note s.me (h.toNat + 64) ls

/-- Where the counters of a sketch lie (R302, R306), or the state in which the vector side stops. -/
def State.skCells (s n : State) (h : Word) (x : SkHead) (k : Acc) : Except State (List Nat) :=
  match s.check s.me (h.toNat + 64) x.size 1 .memory k with
  | .error (c, b) => .error (n.leadTrap c b b k)
  | .ok ls => .ok ls

/-- Counters from their cells. -/
def State.skCounters (s : State) (x : SkHead) (ls : List Nat) : List Int :=
  let v := s.get ls
  (List.range x.count).map fun i => sx x.cw (v / 2 ^ (x.cw * i))

/-- Counters as one number. -/
def SkHead.pack (x : SkHead) (l : List Int) : Nat := l.foldr (fun c a => wrap x.cw c + a * 2 ^ x.cw) 0

/-- Rows that hold a marked counter, as SATR bits. -/
def SkHead.rows (x : SkHead) (l : List Bool) : Nat :=
  ((List.range x.d).map fun j => bitN ((l.drop (j * 2 ^ x.logw)).take (2 ^ x.logw) |>.any id) * 2 ^ j).sum

/-- Writes a whole sketch, in memory: its header to hs, its counters to ls. -/
def State.skStore (s : State) (w : Who) (h : Word) (x : SkHead) (hs ls : List Nat) (l : List Int) : State :=
  ((s.noteUpdate w h.toNat (hs ++ ls)).put hs x.bytes).put ls (x.pack l)

/-- Classes of a form without an element count (R306, R110): a trap-mode class changes nothing. -/
def State.skFinish (s s1 : State) (e : Entry) (c : Cls) : VRes :=
  match c.trapCause e.xact with
  | some cause => s.vTrap0 cause 0
  | none => .done ((s1.raiseFlags c).setVstart 0) none

/-- SKINIT (R307). -/
def effSkinit (_d _a _b : SReg) (e : Entry) (s : State) : VRes :=
  let h := e.opd.d
  match s.check s.me h.toNat 64 64 .memory .write with
  | .error (c, b) => .stop (s.trapCheck c h.toNat b true)
  | .ok hs =>
    let g := e.opd.a.toNat
    let x : SkHead := { d := fld g 3 0, logw := fld g 8 4, cw := if fld g 9 9 = 1 then 32 else 16, satr := 0, seed := e.opd.b,
                        scale := sx 16 (fld g 31 16) }
    if fld g 15 10 ≠ 0 || g / 2 ^ 32 ≠ 0 || (skHead? x.bytes).isNone then .stop (s.trap 2 0 true)
    else match s.skCells s h x .write with
      | .error s1 => .stop s1
      | .ok ls => .done ((s.skStore s.me h x hs ls (List.replicate x.count 0)).setVstart 0) none

/-- Rounds a counter times 2^k, ties to even. -/
def rescale (c k : Int) : Int × Cls := fxRound .fxrne (c * pow2 k) (-k).toNat

/-- SKADD (R310). -/
def effSkadd (_d _a : SReg) (e : Entry) (s : State) : VRes :=
  match s.skCheck s e.opd.d .rw with
  | .error s1 => .stop s1
  | .ok (n, x, hs) =>
    match s.skCheck n e.opd.a .rw with
    | .error s1 => .stop s1
    | .ok (n, y, _) =>
      if x.d ≠ y.d || x.logw ≠ y.logw || x.cw ≠ y.cw || x.seed ≠ y.seed then .stop (n.trap 2 0 true)
      else match s.skCells n e.opd.d x .rw with
        | .error s1 => .stop s1
        | .ok ls =>
          match s.skCells n e.opd.a y .rw with
          | .error s1 => .stop s1
          | .ok ms =>
            let n := (n.skRead e.opd.d ls).skRead e.opd.a ms
            let rs := ((s.skCounters x ls).zip (s.skCounters y ms)).map fun p =>
              let r := rescale p.2 (y.scale - x.scale)
              let z := x.sat (p.1 + r.1)
              (z.1, r.2 ||| Cls.when z.2 Cls.sat, z.2)
            let satr := x.satr ||| y.satr ||| x.rows (rs.map (·.2.2))
            n.skFinish (n.skStore s.me e.opd.d { x with satr := satr } hs ls (rs.map (·.1))) e
              (rs.foldl (fun c r => c ||| r.2.1) 0)

/-- SKSCL (R311). -/
def effSkscl (_d _a : SReg) (e : Entry) (s : State) : VRes :=
  match s.skCheck s e.opd.d .rw with
  | .error s1 => .stop s1
  | .ok (n, x, hs) =>
    let k := e.opd.a.toInt
    if k < -63 || 63 < k || x.scale + k < -1024 || 1023 < x.scale + k then .stop (n.trap 2 0 true)
    else match s.skCells n e.opd.d x .rw with
      | .error s1 => .stop s1
      | .ok ls =>
        let n := n.skRead e.opd.d ls
        let rs := (s.skCounters x ls).map fun c =>
          let r := rescale c (-k)
          let z := x.sat r.1
          (z.1, r.2 ||| Cls.when z.2 Cls.sat, z.2)
        n.skFinish (n.skStore s.me e.opd.d { x with scale := x.scale + k, satr := x.satr ||| x.rows (rs.map (·.2.2)) } hs ls
          (rs.map (·.1))) e (rs.foldl (fun c r => c ||| r.2.1) 0)

/-- Checks of the counters of rows j, j + 1, … for a key: cells with signs, or the first fault. -/
def State.skRows (s : State) (h : Word) (x : SkHead) (key : Word) (k : Acc) : Nat → Nat → Except (Nat × Nat × Nat) (List (List Nat × Bool))
  | 0, _ => .ok []
  | n + 1, j =>
    let p := x.place key j
    let ea := h.toNat + 64 + p.1 * (x.cw / 8)
    match s.check s.me ea (x.cw / 8) 1 .memory k with
    | .error (c, b) => .error (c, ea64 ea, b)
    | .ok ls =>
      match s.skRows h x key k n (j + 1) with
      | .error e => .error e
      | .ok r => .ok ((ls, p.2) :: r)

/-- The increment of SKUPD: none for an infinity, whose sign is given beside; with its classes (R308). -/
def skInc (v : Val) (k : Int) : Option Int × Bool × Cls :=
  match v with
  | .nan _ => (some 0, false, Cls.nv)
  | .inf n => (none, n, 0)
  | .fin n m e =>
    let r := fxRound .fxrne (signed n m * pow2 (e + k)) (-(e + k)).toNat
    (some r.1, false, r.2)

/-- A counter after an increment, and whether it clamps (R308). -/
def SkHead.bump (x : SkHead) (c : Int) (inc : Option Int × Bool × Cls) (neg : Bool) : Int × Bool :=
  match inc.1 with
  | some i => x.sat (if neg then c - i else c + i)
  | none => (if inc.2.1 != neg then (rangeOf true x.cw).1 else (rangeOf true x.cw).2, true)

/-- The head entry's header check of SKUPD and SKQRY (R306). One that a part of it has begun checks it again, and fails at the
element it has come to: none before it is performed twice (R34). -/
def State.skBegin (s : State) (h : Word) (k : Acc) : Except State (State × SkHead) :=
  let q := s.mod Strand.stopHead
  match q.skCheck q h k with
  | .error s1 => .error s1
  | .ok (s1, x, _) => .ok ({ s with caches := s1.caches }, x)

/-- SKUPD (R308). -/
def effSkupd (d : VReg) (_a : SReg) (b : VReg) (m : MReg) (e : Entry) (s : State) : VRes :=
  let h := e.opd.a
  if s.st.effLen e ≤ s.vstart then s.ventry e true 0 (fun _ _ => false) (fun s _ => .ok s 0)
  else match s.skBegin h .rw with
    | .error s1 => .stop s1
    | .ok (s, x) =>
      s.ventry e ((e.group d 32).ok && (e.group b 64).ok) 0 (fun v i => v.mbit m i) fun s i =>
        match s.skRows h x (BitVec.ofNat 64 (s.st.vec.elem b.val i 64)) .rw x.d 0 with
        | .error (c, ea, byte) => .fault c ea byte .rw
        | .ok rows =>
          let inc := skInc (FP.f32.val (s.st.vec.elem d.val i 32)) (-(s.st.csr.lscale.toInt) - x.scale)
          let news := rows.map fun r => (r.1, x.bump (sx x.cw (s.get r.1)) inc r.2)
          let s1 := news.foldl (fun s r => s.put r.1 (wrap x.cw r.2.1)) (s.noteUpdate s.me h.toNat (rows.flatMap (·.1)))
          let clamps := ((List.range x.d).map fun j => bitN ((news.map (·.2.2)).getD j false) * 2 ^ j).sum
          let s2 := if clamps = 0 then s1 else match s1.locs s1.me (h.toNat + 7) 1 .rw with
            | .ok ls => (s1.noteUpdate s1.me (h.toNat + 7) ls).put ls (s1.get ls ||| clamps)
            | .error _ => s1
          .ok s2 (inc.2.2 ||| Cls.when (clamps ≠ 0) Cls.sat)

/-- The median of an odd number of integers (R309). -/
def median (l : List Int) : Int := (sortBy (fun a b => decide (a ≤ b)) l).getD (l.length / 2) 0

/-- SKQRY (R309). -/
def effSkqry (d : VReg) (_a : SReg) (b : VReg) (m : MReg) (e : Entry) (s : State) : VRes :=
  let h := e.opd.a
  if s.st.effLen e ≤ s.vstart then s.ventry e true 0 (fun _ _ => false) (fun s _ => .ok s 0)
  else match s.skBegin h .read with
    | .error s1 => .stop s1
    | .ok (s, x) =>
      s.ventry e ((e.group d 32).ok && (e.group b 64).ok && (e.group b 64).overlapOk (e.group d 32) false) 0
        (fun v i => v.mbit m i) fun s i =>
          match s.skRows h x (BitVec.ofNat 64 (s.st.vec.elem b.val i 64)) .read x.d 0 with
          | .error (c, ea, byte) => .fault c ea byte .read
          | .ok rows =>
            let r := FP.f32.round .rne (valOfInt (median (rows.map fun r =>
              let c := sx x.cw (s.get r.1)
              if r.2 then -c else c)) x.scale)
            .ok ((s.note s.me h.toNat (rows.flatMap (·.1))).modVec fun v => v.setElem d.val i 32 r.1) r.2

/-- SETLS (R314). -/
def effSetls (_a : SReg) (e : Entry) (s : State) : VRes :=
  let x := e.opd.a.toInt
  if x < -128 || 127 < x then s.vTrap0 2 0
  else .done ((s.modCsr fun r => { r with lscale := BitVec.ofInt 8 x }).setVstart 0) none

end Sys2Proof.Machine
end

