-- ==== Sys2Proof/Machine/Collective.lean ====
section
/-! DEFINITION. Collectives on this chip (26: R366 to R372, R394). What the members have sent stands in link.rx. -/

namespace Sys2Proof.Machine

/-! ### Commands -/

/-- OP of a command (R367). -/
def Coll.op (c : Coll) : Nat := fld c.w0.toNat 7 0
/-- TYPE. -/
def Coll.ty (c : Coll) : Nat := fld c.w0.toNat 9 8
/-- GRP. -/
def Coll.grp (c : Coll) : Nat := fld c.w0.toNat 17 10
/-- CHL. -/
def Coll.chl (c : Coll) : Nat := fld c.w0.toNat 23 18
/-- N. -/
def Coll.n (c : Coll) : Nat := fld c.w0.toNat 63 32
/-- e. -/
def Coll.e (c : Coll) : Nat := if c.ty = 1 then 2 else 4

/-- Whether a command breaks a limit of R367. chips: its group, when that is defined. -/
def Coll.bad (c : Coll) (chip : Nat) (chips : Option (List Nat)) : Bool :=
  let glob := fun (w : Word) => w.toNat / 2 ^ 56 == 0
  c.op < 1 || 3 < c.op || fld c.w0.toNat 31 24 ≠ 0 || 20 < c.chl
    || (if c.op = 3 then c.ty ≠ 0 || c.n ≠ 0 else 1 < c.ty || c.n = 0 || 2 ^ 30 < c.n)
    || !((chips.getD []).contains chip) || !(glob c.w1 && glob c.w2 && glob c.w3)
    || c.w1.toNat % c.e ≠ 0 || c.w2.toNat % c.e ≠ 0 || c.w3.toNat % 8 ≠ 0

/-- Status word of a collective (R370). -/
def collStatus (count cause : Nat) (xf : Cls) (partial_ : Bool) : Word :=
  BitVec.ofNat 64 (count + cause * 2 ^ 32 + xf.toNat * 2 ^ 40 + bitN partial_ * 2 ^ 46)

/-- A command as PUSH makes it: a malformed one ends at once and takes no number (R367). -/
def State.newColl (s : State) (w0 w1 w2 w3 : Word) : State :=
  let c : Coll := { w0 := w0, w1 := w1, w2 := w2, w3 := w3, seq := s.st.nextSeq, ord := s.st.pushes, num := 0, sent := false,
                    chunks := [], satr := 0, xf := 0, status := none }
  if c.bad s.link.chip.toNat (s.cgroup? s.st.ctx c.grp) then
    s.mod fun t => { t with colls := t.colls ++ [{ c with status := some (collStatus 0 2 0 false) }] }
  else
    let nums := match s.ctx? s.st.ctx with | some x => x.collNum | none => []
    let n := lookup 0 c.grp nums
    (s.modCtx s.st.ctx fun x => { x with collNum := store 0 c.grp (n + 1) x.collNum }).mod fun t =>
      { t with colls := t.colls ++ [{ c with num := n }] }

/-! ### What has arrived -/

/-- Whether a flit belongs to a collective. -/
def flitOf (c : BitVec 16) (gid num : Nat) (f : Flit) : Bool :=
  flitField f 0 2 == c.toNat && flitField f 2 1 == gid && flitField f 4 4 == num

/-- Chips that have left. -/
def leftChips (fs : List Flit) : List Nat := (fs.filter fun f => f.type = 6).map fun f => flitField f 8 2

/-- Flits in order of arrival without those that a member sent and that came after its LEAVE: its work in flight is discarded
(R371). -/
def timely (gone : List Nat) : List Flit → List Flit
  | [] => []
  | f :: r =>
    if f.type = 6 then f :: timely (flitField f 8 2 :: gone) r
    else if gone.contains f.src.toNat && f.type.toNat ≤ 3 then timely gone r
    else f :: timely gone r

/-- Flits of a collective that this chip holds. -/
def State.collFlits (s : State) (c : BitVec 16) (k : Coll) : List Flit := timely [] (s.link.rx.filter (flitOf c k.grp k.num))

/-- The cause of an ABORT. -/
def abortCause (fs : List Flit) : Option Nat := (fs.find? fun f => f.type = 7).map fun f => flitField f 8 1

/-- Word 0 of another member's command (R363). -/
def memberWord (fs : List Flit) (chip : Nat) : Option Nat :=
  (fs.find? fun f => f.src.toNat = chip && (f.type = 1 || f.type = 2 || f.type = 3)).map fun f => flitField f 8 8

/-- Values a flit carries at most (R363). -/
def flitCap (w : Nat) : Nat := if w = 48 then 34 else if w = 16 then 104 else 52

/-- The len values of width w of a chunk that flits of a type from a chip carry, when every one is here. -/
def gather (fs : List Flit) (type chip ch w len : Nat) : Option (List Nat) :=
  let mine := fs.filter fun f => f.type.toNat = type && f.src.toNat = chip && flitField f 16 4 = ch
  let vs := (List.range len).map fun i =>
    (mine.find? fun f => flitField f 20 4 ≤ i && i < flitField f 20 4 + flitCap w).map fun f =>
      f.payload.toNat / 2 ^ (256 + w * (i - flitField f 20 4)) % 2 ^ w
  if vs.any (·.isNone) then none else some (vs.map (·.getD 0))

/-- Contributor bitmap and SATR of a RESULT. -/
def resultMarks (fs : List Flit) (chip ch : Nat) : Nat × Nat :=
  match fs.find? fun f => f.type = 3 && f.src.toNat = chip && flitField f 16 4 = ch with
  | some f => (flitField f 24 8, flitField f 3 1)
  | none => (0, 0)

/-- Flits of a chunk's values to one chip. -/
def State.sendValues (s : State) (c : BitVec 16) (k : Coll) (type satr : Nat) (dst : Nat) (ch w bitmap : Nat) (vs : List Nat) : State :=
  let cap := flitCap w
  (List.range ((vs.length + cap - 1) / cap)).foldl (fun x j =>
    let part := (vs.drop (cap * j)).take cap
    x.sendFlit (x.mkFlit type (BitVec.ofNat 12 dst) (collPrefix c k.grp k.num ++ [(3, satr), (8, k.w0.toNat), (16, ch), (20, cap * j),
      (24, bitmap), (32, part.foldr (fun v a => v + a * 2 ^ w) 0)]))) s

/-- The flit of a member that sends a member no data (R363). -/
def State.sendWord (s : State) (c : BitVec 16) (k : Coll) (dst : Nat) : State :=
  s.sendFlit (s.mkFlit (if k.op = 3 then 2 else 1) (BitVec.ofNat 12 dst)
    (collPrefix c k.grp k.num ++ [(8, k.w0.toNat), (16, 0xFFFFFFFF)]))

/-! ### Layout -/

/-- What a member needs to know to work on a command: its slot and place there, group, rank, elements or counters in all,
bytes and bits of each, bytes before the first, and for OP 3 the header fields. -/
structure CollEnv where
  k : Nat
  i : Nat
  ctx : BitVec 16
  w : Who
  ms : List Nat
  rank : Nat
  total : Nat
  size : Nat
  base : Nat
  head : SkHead

/-- A header of no sketch. -/
def SkHead.none : SkHead := { d := 0, logw := 0, cw := 0, satr := 0, seed := 0, scale := 0 }

/-- Chunks of a command (R368). -/
def CollEnv.chunks (v : CollEnv) (c : Coll) : Nat := (v.total + 2 ^ c.chl - 1) / 2 ^ c.chl
/-- Values of a chunk. -/
def CollEnv.len (v : CollEnv) (c : Coll) (ch : Nat) : Nat := Nat.min (2 ^ c.chl) (v.total - ch * 2 ^ c.chl)
/-- Owner of a chunk, as a rank. -/
def CollEnv.owner (v : CollEnv) (ch : Nat) : Nat := ch % v.ms.length
/-- Address of a chunk in an array or sketch. -/
def CollEnv.at (v : CollEnv) (c : Coll) (a : Word) (ch : Nat) : Nat := a.toNat + v.base + v.size * (ch * 2 ^ c.chl)
/-- Address of a chunk's bitmap (R370). -/
def CollEnv.bitmapAt (v : CollEnv) (c : Coll) (ch : Nat) : Nat :=
  c.w2.toNat + (v.base + v.size * v.total + 7) / 8 * 8 + 8 * ch
/-- Bits of a value on the way to its owner. -/
def CollEnv.partBits (v : CollEnv) (c : Coll) : Nat := if c.op = 3 then 48 else 8 * v.size

/-- A sketch header for a collective: SRC or DST (R369). What is not aligned to 64 bytes is no header (R301; log 74). -/
def State.collHead (s : State) (w : Who) (a : Word) (k : Acc) : Except EFault (Option SkHead) :=
  if a.toNat % 64 ≠ 0 then .ok none
  else match s.check w a.toNat 64 4 .memory k with
  | .error (c, b) => .error { cause := c, ea := a.toNat, byte := b, kind := k }
  | .ok ls => .ok (skHead? (s.get ls))

/-- The layout of a command; none where its headers do not agree (R369). -/
def State.collEnv (s : State) (k i : Nat) (t : Strand) (c : Coll) : Except EFault (Option CollEnv) :=
  let ms := (s.cgroup? t.ctx c.grp).getD []
  let v : CollEnv := { k := k, i := i, ctx := t.ctx, w := walkerOf k t.ctx, ms := ms,
                       rank := (ms.findIdx? (· = s.link.chip.toNat)).getD 0, total := c.n, size := c.e, base := 0, head := .none }
  if c.op ≠ 3 then .ok (some v)
  else match s.collHead v.w c.w1 .read with
    | .error f => .error f
    | .ok a =>
      match s.collHead v.w c.w2 .rw with
      | .error f => .error f
      | .ok b =>
        match a, b with
        | some x, some y =>
          if x.d = y.d && x.logw = y.logw && x.cw = y.cw && x.seed = y.seed && x.scale = y.scale then
            .ok (some { v with total := x.count, size := x.cw / 8, base := 64, head := x })
          else .ok none
        | _, _ => .ok none

/-- This chip's own values of a chunk, as they travel. -/
def State.ownValues (s : State) (v : CollEnv) (c : Coll) (ch : Nat) : Except EFault (List Nat) :=
  match s.engAccess v.w (v.at c c.w1 ch) (v.size * v.len c ch) .read v.size with
  | .error f => .error f
  | .ok ls =>
    let x := s.get ls
    .ok ((List.range (v.len c ch)).map fun i =>
      let y := x / 2 ^ (8 * v.size * i) % 2 ^ (8 * v.size)
      if c.op = 3 then wrap 48 (sx (8 * v.size) y) else y)

/-! ### Sums -/

/-- One element of a chunk for OP 1 and 2 (R368): contributors in ascending rank. -/
def collElem (bf : Bool) (vs : List Nat) : Nat × Cls :=
  let up := fun x => if bf then x * 2 ^ 16 else x
  match vs with
  | [] => (0, 0)
  | x :: r =>
    let a := r.foldl (fun (a : Nat × Cls) y =>
      let z := fAddE .f32 .rne a.1 (up y) 0
      (z.1, a.2 ||| z.2)) (up x, 0)
    let z := finish (if bf then .bf16 else .f32) .rne (FP.f32.val a.1, Cls.when (FP.f32.val a.1).snan Cls.nv)
    (z.1, a.2 ||| z.2)

/-- A finished chunk: its values, classes and for OP 3 the rows that clamp. parts: contributions in ascending rank. -/
def collSum (v : CollEnv) (c : Coll) (ch : Nat) (parts : List (List Nat)) : List Nat × Cls × Nat :=
  let rs := (List.range (v.len c ch)).map fun i =>
    let vs := parts.map fun p => p.getD i 0
    if c.op = 3 then
      let z := v.head.sat ((vs.map fun x => sx 48 x).sum)
      (wrap v.head.cw z.1, Cls.when z.2 Cls.sat, if z.2 then 2 ^ ((ch * 2 ^ c.chl + i) / 2 ^ v.head.logw) else 0)
    else
      let z := collElem (c.ty = 1) vs
      (z.1, z.2, 0)
  (rs.map (·.1), rs.foldl (fun a r => a ||| r.2.1) 0, rs.foldl (fun a r => a ||| r.2.2) 0)

/-! ### Ends -/

/-- Replaces a command of a slot's strand. -/
def State.setColl (s : State) (v : CollEnv) (c : Coll) : State :=
  let t := s.cmdStrand v.k Strand.hasColl
  s.putCmd v.k Strand.hasColl { t with colls := t.colls.set v.i c }

/-- Ends a collective on this chip; what had arrived for it is discarded. -/
def State.endColl (s : State) (v : CollEnv) (c : Coll) (count cause : Nat) (part : Bool) : State :=
  (({ s with link := { s.link with rx := s.link.rx.filter fun f => !flitOf v.ctx c.grp c.num f } }).setColl v
    { c with status := some (collStatus count cause c.xf part) })

/-- Ends it on every member with a cause (R394, R367). -/
def State.abortColl (s : State) (v : CollEnv) (c : Coll) (cause : Nat) (part : Bool) : State :=
  (s.sendMembers v.ctx c.grp s.link.chip.toNat 7 (collPrefix v.ctx c.grp c.num ++ [(8, cause)])).endColl v c c.chunks.length cause part

/-- A fault of this member (R394): cause 0x08 goes to the Oasis kernel first, a violation is logged. -/
def State.collFault (s : State) (v : CollEnv) (c : Coll) (part : Bool) (f : EFault) : State :=
  if f.cause = 8 then
    match s.fixPage v.ctx f.byte with
    | .wait => s
    | .mapped s' => s'
    | .final => s.abortColl v c 8 part
  else if f.cause = 9 then
    if s.hamada.places = 0 then s
    else (s.abortColl v c 9 part).violation v.ctx v.k (BitVec.ofNat 64 f.ea) f.kind 4
  else s.abortColl v c f.cause part

/-! ### Progress -/

/-- Whether the route to a chip leads over a quarantined port. -/
def State.cutOff (s : State) (chip : Nat) : Bool := match s.route? (BitVec.ofNat 12 chip) with
  | some n => decide (s.link.ports[n % 16].st = .quarantined)
  | none => false

/-- The other members. -/
def CollEnv.others (v : CollEnv) : List Nat := (List.range v.ms.length).filter (· ≠ v.rank)

/-- Members of a group that no port reaches any longer: this chip itself where it reaches no other member (R371). Of two members
that do not reach each other it is the one of higher rank, as R365 has it (DESIGN CHOICE, log 99). -/
def State.cutMembers (s : State) (ms : List Nat) : List Nat :=
  let others := ms.filter (· ≠ s.link.chip.toNat)
  if others.isEmpty then []
  else if !others.all s.cutOff then others.filter s.cutOff
  else if ms.length = 2 then ms.drop 1
  else [s.link.chip.toNat]

/-- Members that no port reaches any longer and of which no LEAVE has come. -/
def State.collLost (s : State) (v : CollEnv) (left : List Nat) : List Nat := (s.cutMembers v.ms).filter fun m => !left.contains m

/-- Numbers of the collectives of a group in progress that this chip knows of (R371): those it has pushed and not completed, and
those that another member has pushed, whose flits are here. -/
def State.openNums (s : State) (c : BitVec 16) (gid : Nat) : List Nat :=
  (((s.allStrands ++ s.ending).flatMap fun p => if p.2.ctx = c then
    (p.2.colls.filter fun k => k.status.isNone && k.grp = gid).map (·.num) else [])
    ++ (s.link.rx.filter fun f => flitField f 0 2 = c.toNat && flitField f 2 1 = gid).map fun f => flitField f 4 4).eraseDups

/-- A member has left one collective, unless that is known: LEAVE is sent to the others where told says so, and is taken as
arrived (R371). A chip that has left it itself names no other (R365). -/
def State.leaveOne (s : State) (c : BitVec 16) (gid chip num : Nat) (told : Bool) : State :=
  let left := leftChips (s.link.rx.filter (flitOf c gid num))
  if left.contains chip || left.contains s.link.chip.toNat then s
  else
    let y := if told then s.sendLeave c gid num (BitVec.ofNat 12 chip) else s
    { y with link := { y.link with rx := y.link.rx ++ [y.mkFlit 6 y.link.chip (collPrefix c gid num ++ [(8, chip)])] } }

/-- A member that leaves is absent from the collectives of a list and from every other one of the group in progress (R371). This
chip tells the other members, but for those of the list that it leaves itself: the chip that finds it gone does (R365). -/
def State.leaveGroup (s : State) (c : BitVec 16) (gid chip : Nat) (nums : List Nat) : State :=
  let s1 := nums.foldl (fun x n => x.leaveOne c gid chip n (chip ≠ s.link.chip.toNat)) s
  ((s.openNums c gid).filter fun n => !nums.contains n).foldl (fun x n => x.leaveOne c gid chip n true) s1

/-- Members that no port reaches have left (R371). -/
def State.collDepart (s : State) (v : CollEnv) (c : Coll) (gone : List Nat) : State :=
  gone.foldl (fun (x : State) m => x.leaveGroup v.ctx c.grp m [c.num]) s

/-- Whether a rank owns a chunk. -/
def CollEnv.hasChunk (v : CollEnv) (c : Coll) (r : Nat) : Bool := (List.range (v.chunks c)).any fun ch => v.owner ch = r

/-- Members to whom this one has nothing else to send (R363): no contribution, since they own no chunk, and no RESULT, since
this one owns none or OP is 2. -/
def CollEnv.wordOnly (v : CollEnv) (c : Coll) : List Nat :=
  v.others.filter fun r => !v.hasChunk c r && (c.op = 2 || !v.hasChunk c v.rank)

/-- SATR bits of the members that own no chunk (R369). No flit of R363 carries them, so this chip cannot know them: a free
value (log 29). -/
def State.strangeSatr (s : State) (v : CollEnv) (c : Coll) : Nat :=
  if c.op = 3 && v.others.any (fun r => !v.hasChunk c r) then Config.freeChoice s.freeCtr % 2 ^ v.head.d else 0

/-- What a read of the collective engine leaves in the caches (R21, R22). -/
def State.noteRead (s : State) (v : CollEnv) (ea n : Nat) : State :=
  match s.engAccess v.w ea n .read with
  | .ok ls => s.note v.w ea ls
  | .error _ => s

/-- What reading this chip's values of a chunk leaves in the caches. -/
def State.noteOwn (s : State) (v : CollEnv) (c : Coll) (ch : Nat) : State :=
  s.noteRead v (v.at c c.w1 ch) (v.size * v.len c ch)

/-- What reading the headers of a sketch sum leaves there. -/
def State.noteHeads (s : State) (v : CollEnv) (c : Coll) : State :=
  if c.op = 3 then (s.noteRead v c.w1.toNat 64).noteRead v c.w2.toNat 64 else s

/-- Sends this member's contributions (R363). -/
def State.collSend (s : State) (v : CollEnv) (c : Coll) : Except EFault State :=
  let chs := (List.range (v.chunks c)).filter fun ch => v.owner ch ≠ v.rank
  let step := fun (x : Except EFault State) ch =>
    match x with
    | .error f => .error f
    | .ok y =>
      match s.ownValues v c ch with
      | .error f => .error f
      | .ok vs => .ok ((y.noteOwn v c ch).sendValues v.ctx c (if c.op = 3 then 2 else 1) 0 (v.ms.getD (v.owner ch) 0) ch (v.partBits c) (2 ^ v.rank) vs)
  match chs.foldl step (.ok (s.noteHeads v c)) with
  | .error f => .error f
  | .ok s1 =>
    .ok (((v.wordOnly c).foldl (fun (x : State) r => x.sendWord v.ctx c (v.ms.getD r 0)) { s1 with freeCtr := s1.freeCtr + 1 }).setColl v
      { c with sent := true, satr := BitVec.ofNat 8 (v.head.satr ||| s1.strangeSatr v c) })

/-- Writes a chunk and its bitmap to DST (R368 to R370). -/
def State.collWrite (s : State) (v : CollEnv) (c : Coll) (ch : Nat) (vs : List Nat) (bitmap : Nat) : Except EFault State :=
  match s.engAccess v.w (v.at c c.w2 ch) (v.size * v.len c ch) .write v.size with
  | .error f => .error f
  | .ok ls =>
    match s.engAccess v.w (v.bitmapAt c ch) 8 .write with
    | .error f => .error f
    | .ok bs =>
      let s1 := (s.lineStore v.ctx ls (vs.foldr (fun x a => x + a * 2 ^ (8 * v.size)) 0)).lineStore v.ctx bs bitmap
      if c.op ≠ 3 then .ok s1
      else match s.engAccess v.w (c.w2.toNat + 7) 1 .write with
        | .error f => .error f
        | .ok hs => .ok (s1.lineStore v.ctx hs c.satr.toNat)

/-- A chunk that this member can write now: the state after its own values are read, where they are, the command's new fields,
values, and bitmap; own: it is the owner. Of a chunk whose owner has left and whose RESULT has not come, it holds its own contribution alone (R371; DEDUCED, log 92). -/
def State.collReady (s : State) (v : CollEnv) (c : Coll) (fs : List Flit) (ch : Nat) :
    Except EFault (Option (State × Coll × List Nat × Nat × Bool)) :=
  let o := v.owner ch
  let left := leftChips fs
  if o = v.rank then
    let got := fun r => gather fs (if c.op = 3 then 2 else 1) (v.ms.getD r 0) ch (v.partBits c) (v.len c ch)
    let others := (List.range v.ms.length).filter (· ≠ v.rank)
    if others.any fun r => !left.contains (v.ms.getD r 0) && (got r).isNone then .ok none
    else match s.ownValues v c ch with
      | .error f => .error f
      | .ok own =>
        let part := fun r => if r = v.rank then some own else got r
        let ranks := (List.range v.ms.length).filter fun r => (part r).isSome
        let z := collSum v c ch (ranks.map fun r => (part r).getD [])
        .ok (some (s.noteOwn v c ch, { c with xf := c.xf ||| z.2.1, satr := c.satr ||| BitVec.ofNat 8 z.2.2 }, z.1, (ranks.map (2 ^ ·)).sum, true))
  else
    match gather fs 3 (v.ms.getD o 0) ch (8 * v.size) (v.len c ch) with
    | none =>
      if !left.contains (v.ms.getD o 0) then .ok none
      else match s.ownValues v c ch with
        | .error f => .error f
        | .ok own => .ok (some (s.noteOwn v c ch, c, (collSum v c ch [own]).1, 2 ^ v.rank, false))
    | some vs =>
      let m := resultMarks fs (v.ms.getD o 0) ch
      .ok (some (s, { c with satr := c.satr ||| BitVec.ofNat 8 m.2 }, vs, m.1, false))

/-- Whether this member writes a chunk (R368). -/
def CollEnv.mine (v : CollEnv) (c : Coll) (ch : Nat) : Bool := c.op ≠ 2 || v.owner ch = v.rank

/-- Writes every chunk that can be written, from the lowest, and sends the owner's results (R363). -/
def State.collChunks (s : State) (v : CollEnv) (part : Bool) : List Nat → Coll → State × Option Coll
  | [], c => (s, some c)
  | ch :: r, c =>
    if !v.mine c ch || c.chunks.any (fun p => p.1 = ch) then s.collChunks v part r c
    else
      let fs := s.collFlits v.ctx c
      match s.collReady v c fs ch with
      | .error f => (s.collFault v c part f, none)
      | .ok none => s.collChunks v part r c
      | .ok (some (s0, c1, vs, bm, own)) =>
        match s0.collWrite v c1 ch vs bm with
        | .error f => (s.collFault v c part f, none)
        | .ok s1 =>
          let c2 := { c1 with chunks := c1.chunks ++ [(ch, BitVec.ofNat 64 bm)] }
          let s2 := if own && c.op ≠ 2 then
              ((List.range v.ms.length).filter (· ≠ v.rank)).foldl (fun x q =>
                x.sendValues v.ctx c2 3 (if c.op = 3 then c2.satr.toNat else 0) (v.ms.getD q 0) ch (8 * v.size) bm vs) s1
            else s1
          (s2.setColl v c2).collChunks v part r c2

/-- Whether the matched commands differ (R367). -/
def wordsDiffer (x y : Nat) : Bool := x % 2 ^ 10 ≠ y % 2 ^ 10 || fld x 23 18 ≠ fld y 23 18 || fld x 63 32 ≠ fld y 63 32

/-- The oldest collective without a status. -/
def Strand.nextColl (t : Strand) : Option (Nat × Coll) :=
  match (List.range t.colls.length).find? fun i => match t.colls[i]? with | some c => c.status.isNone | none => false with
  | none => none
  | some i => (t.colls[i]?).map fun c => (i, c)

/-- A step of the oldest collective of a slot's strand: ends announced by others, members out of reach, sending, once every
other member has a route, matching, chunks. -/
def State.stepColl (s : State) (k : Nat) : State :=
  let t := s.cmdStrand k Strand.hasColl
  match t.nextColl with
  | none => s
  | some (i, c) =>
    if !t.released c.seq c.ord then s
    else
      let fs := s.collFlits t.ctx c
      let left := leftChips fs
      let part := !left.isEmpty
      let v0 : CollEnv := { k := k, i := i, ctx := t.ctx, w := walkerOf k t.ctx, ms := [], rank := 0, total := 0, size := 4, base := 0,
                            head := .none }
      if left.contains s.link.chip.toNat then s.endColl v0 { c with xf := 0 } 0 0 true
      else match abortCause fs with
        | some cause => s.endColl v0 c c.chunks.length cause part
        | none =>
          match s.collEnv k i t c with
          | .error f => s.collFault v0 c part f
          | .ok none => s.abortColl v0 c 2 part
          | .ok (some v) =>
            let lost := s.collLost v left
            if !lost.isEmpty then s.collDepart v c lost
            else if !c.sent then
              if v.others.any fun r => !left.contains (v.ms.getD r 0) && (s.route? (BitVec.ofNat 12 (v.ms.getD r 0))).isNone then s
              else match s.collSend v c with
              | .error f => s.collFault v c part f
              | .ok s1 => s1
            else
              let others := v.ms.filter (· ≠ s.link.chip.toNat)
              if others.any fun m => match memberWord fs m with | some w => wordsDiffer w c.w0.toNat | none => false then
                s.abortColl v c 2 part
              else if others.any fun m => (memberWord fs m).isNone && !left.contains m then s
              else (s.collChunks v part (List.range (v.chunks c)) c).1

/-- Whether every chunk this member must write is written. -/
def State.collDone (s : State) (v : CollEnv) (c : Coll) : Bool :=
  let fs := s.collFlits v.ctx c
  let left := leftChips fs
  c.sent && (v.ms.all fun m => m = s.link.chip.toNat || (memberWord fs m).isSome || left.contains m) &&
    (List.range (v.chunks c)).all fun ch => !v.mine c ch || c.chunks.any fun p => p.1 = ch

/-- The end of a collective on this member: CNT, then the status (R370). -/
def State.completeColl (s : State) (k : Nat) : State :=
  let t := s.cmdStrand k Strand.hasColl
  match t.nextColl with
  | none => s
  | some (i, c) =>
    match s.collEnv k i t c with
    | .error _ => s
    | .ok none => s
    | .ok (some v) =>
      let part := !(leftChips (s.collFlits t.ctx c)).isEmpty
      if !t.released c.seq c.ord || !s.collDone v c then s
      else if part || c.w3 = 0 then s.endColl v c c.chunks.length 0 part
      else match s.engAccess v.w c.w3.toNat 8 .rw with
        | .ok ls => (s.lineStore v.ctx ls (s.get ls + 1)).endColl v c c.chunks.length 0 false
        | .error f =>
          if f.cause = 8 then
            match s.fixPage t.ctx f.byte with
            | .wait => s
            | .mapped s' => s'
            | .final => s.endColl v c c.chunks.length 8 false
          else if f.cause = 9 then
            if s.hamada.places = 0 then s
            else (s.endColl v c c.chunks.length 9 false).violation t.ctx k (BitVec.ofNat 64 f.ea) .rw 4
          else s.endColl v c c.chunks.length f.cause false

/-- A row of the table moves the oldest collective when its OP is the row's. -/
def State.collRow (s : State) (op k : Nat) : Res :=
  match (s.cmdStrand k Strand.hasColl).nextColl with
  | none => .next s
  | some (_, c) => if c.op = op then .next (s.stepColl k) else .next s

/-- ALLREDUCE (R368). -/
def execAllreduce (k : Nat) (s : State) : Res := s.collRow 1 k
/-- REDUCE_SCATTER (R368). -/
def execReduceScatter (k : Nat) (s : State) : Res := s.collRow 2 k
/-- SKETCH_SUM (R369). -/
def execSketchSum (k : Nat) (s : State) : Res := s.collRow 3 k
/-- COLLECTIVE_COMPLETE (R370). -/
def execCollectiveComplete (k : Nat) (s : State) : Res := .next (s.completeColl k)

end Sys2Proof.Machine
end

