-- ==== Sys2Proof/Machine/Streams.lean ====
section
/-! DEFINITION. The address-generator streams at work, and a strand's background work as a whole (12: R210 to R217). -/

namespace Sys2Proof.Machine

/-- Address of element j of a stream, computed exactly (R215). -/
def Stream.addr (t : Stream) (j : Nat) : Int := (t.base.toNat : Int) + j * t.stride.toInt

/-- Repeats a step of the machine. -/
def iterate (f : State → State) : Nat → State → State
  | 0, s => s
  | n + 1, s => iterate f n (f s)

/-- Performs the oldest word pushed to the write stream at port n of slot k (R215), once every store that precedes its PUSH has
performed (R210); words of one stream perform in their own order (R216). A fault stalls the stream and discards its words;
a violation waits while the log has no place (R384), unless force says that its entry does. The words of a strand that has ended go
on performing (R118). -/
def State.performWord (k n : Nat) (force : Bool) (s : State) : State :=
  let t := s.bgStrand k Strand.hasWord
  let x := t.streams[n % 16]
  let swap := fun (s : State) (y : Stream) => s.putBg k Strand.hasWord { t with streams := t.streams.set (n % 16) y }
  match x.fifo with
  | [] => s
  | (q, o, w) :: rest =>
    let b := 2 ^ x.width
    let ea := x.addr x.cur
    if !t.released q o then s
    else match s.check (engineOf k t.ctx) ea b b .any .write with
      | .ok ls =>
        let c := x.cur + 1
        swap ((s.note (engineOf k t.ctx) ea.toNat ls).put ls w.toNat)
          { x with fifo := rest, cur := c, st := if c = x.count then .ended else .running }
      | .error (c, _) =>
        let y := { x with fifo := [], st := .stalled, wfault := some (BitVec.ofNat 64 (ea64 ea)) }
        if c = 9 then
          if s.hamada.places = 0 && !force then s
          else swap (s.violation t.ctx k (BitVec.ofNat 64 (ea64 ea)) .write 4) y
        else swap s y

/-- Performs the words pushed to one port, as far as they may. -/
def State.pumpPort (s : State) (k n : Nat) : State :=
  iterate (State.performWord k n false) (s.bgStrand k Strand.hasWord).streams[n % 16].fifo.length s

/-- Performs the words pushed to every write stream of a strand, as far as they may: a round over the ports for each word. -/
def State.pumpStreams (s : State) (k : Nat) (force : Bool := false) : State :=
  iterate (fun y => (List.range 16).foldl (fun x n => State.performWord k n force x) y)
    ((s.bgStrand k Strand.hasWord).streams.toList.map fun x => x.fifo.length).sum s

/-- Whether no word waits in a write stream. -/
def Strand.wordsDone (t : Strand) : Bool := t.streams.toList.all fun x => x.fifo.isEmpty

/-- Fetches elements j, j + 1, … of a read stream that its buffer does not hold; it stops and stalls at the first fault
(R215). -/
def State.fetchFrom (s : State) (k n : Nat) : Nat → Nat → State
  | 0, _ => s
  | m + 1, j =>
    let t := s.strand k
    let x := t.streams[n % 16]
    let swap := fun (s : State) (y : Stream) => s.modStrand k fun z => { z with streams := z.streams.set (n % 16) y }
    if x.buf.any fun p => p.1 = j then s.fetchFrom k n m (j + 1)
    else
      let ea := x.addr j
      match s.check (engineOf k t.ctx) ea (2 ^ x.width) (2 ^ x.width) .any .read with
      | .ok ls =>
        (swap (s.note (engineOf k t.ctx) ea.toNat ls) { x with buf := x.buf ++ [(j, BitVec.ofNat 64 (s.get ls))] }).fetchFrom k n m (j + 1)
      | .error (c, _) =>
        if c = 9 then
          if s.hamada.places = 0 then s
          else swap (s.violation t.ctx k (BitVec.ofNat 64 (ea64 ea)) .read 4) { x with st := .stalled }
        else swap s { x with st := .stalled }

/-- STREAM_FETCH (R215): the stream at a port of a strand moves as far as it can. A read waits while an acquire has not
completed: an entry (R174, R175), or a POP that has not got its status (R211). -/
def execStreamFetch (k : Nat) (p : OSlot) (s : State) : Res :=
  let t := s.strand k
  let x := t.streams[p]
  if s.bgLive k Strand.hasWord && !(s.bgStrand k Strand.hasWord).streams[p].fifo.isEmpty then .next (s.pumpPort k p.val)
  else if t.stat = .absent ∨ t.stat = .halted ∨ t.strCnt ≤ p.val then .next s
  else if !x.write && x.st = .running && !t.queue.any (·.instr.acquires) && !t.popWaits then
    .next (s.fetchFrom k p.val (Nat.min (x.cur + (x.depth + 1) * x.slen) x.count - x.cur) x.cur)
  else .next s

/-! ### Background work -/

/-- Ends the copies of a strand and performs the words of its write streams. -/
def State.settleAccesses (s : State) (k : Nat) (force : Bool := false) : State :=
  (s.endCopies k (fun _ => true) force).pumpStreams k force

/-- The background work of a slot goes as far as it can: copies, write streams, Playa commands, collectives. -/
def State.work (s : State) (k : Nat) : State :=
  let s1 := s.settleAccesses k
  let s2 := iterate (fun x => x.runCmds k) (2 * (s1.cmdStrand k Strand.hasCmd).cmds.length) s1
  iterate (fun x => (x.stepColl k).completeColl k) (4 * (s2.cmdStrand k Strand.hasColl).colls.length) s2

/-- Whether every copy a strand has issued has ended. -/
def Strand.copiesDone (t : Strand) : Bool := t.copies.all (·.status.isSome)

/-- Whether every command a strand has pushed has ended. -/
def Strand.cmdsDone (t : Strand) : Bool := t.cmds.all (·.status.isSome) && t.colls.all (·.status.isSome)

end Sys2Proof.Machine
end

