-- ==== Sys2Proof/Machine/Context.lean ====
section
/-! DEFINITION. Requests of the host about contexts, pages and apertures, and the system context's forms over contexts
(24: R335 to R339; 25: R340 to R353; 26: R356 to R359). -/

namespace Sys2Proof.Machine

/-! ### Requests -/

/-- The argument of n bytes at a byte offset of a request (R359). -/
def Req.arg (q : Req) (o n : Nat) : Nat := q.args.toNat / 256 ^ (o - 8) % 256 ^ n

/-- Whether every argument byte outside the named (offset, length) ranges is zero (R359). -/
def Req.only (q : Req) (fs : List (Nat × Nat)) : Bool :=
  q.zero = 0 && q.args.toNat == (fs.map fun f => Req.arg q f.1 f.2 * 256 ^ (f.1 - 8)).sum

/-- The n bytes of the host block a request names, when the block's address is aligned and it can be read (R359). -/
def Req.bytes (q : Req) (addr n : Nat) : Option (List Byte) :=
  match q.block with
  | some b => if addr % 64 = 0 && n ≤ b.length then some (b.take n) else none
  | none => none

/-- The completion report of a request (R357). -/
def State.complete (s : State) (q : Req) (code status : Nat) (fs : List (Nat × Nat)) : State :=
  s.report (mkReport code q.tag q.ctx status fs)

/-- A write to the request window: served when the module is Ready, dropped and counted when it has not been Ready yet (R390);
it does not arrive over a link that has not trained, and nothing is served after a thermal shutdown (R388). -/
def State.request (s : State) (k : State → State) : Res :=
  if !s.host.trained then .next s
  else if s.pkg.state = 4 then .next (k s)
  else if s.pkg.readied then .next s
  else .next { s with pkg := { s.pkg with early := Nat.min (s.pkg.early + 1) 0xFFFF } }

/-- Serves a request that names an existing tenant context; otherwise status 6 (R358, R359). -/
def State.ctxRequest (s : State) (q : Req) (code : Nat) (fs : List (Nat × Nat)) (k : State → Context → State) : Res :=
  s.request fun s =>
    if !Req.only q fs then s.complete q code 1 []
    else match s.ctx? q.ctx with
      | none => s.complete q code 6 []
      | some x => if q.ctx = 0 then s.complete q code 6 [] else k s x

/-- UNASSIGNED_REQUEST (R357): codes absent from the table are answered with status 1. -/
def execUnassignedRequest (q : Req) (s : State) : Res :=
  s.request fun s => s.complete q q.code.toNat 1 []

/-! ### Places for a context -/

/-- Whether some unit of a list is out of service. -/
def State.badCluster (s : State) (clu : BitVec 32) : Bool :=
  s.pkg.badUnits.any fun u => match u with | .cluster n => clu.getLsbD n.val | _ => false

/-- Whether the plates of a context have been copied out and freed (R345). -/
def State.platesOut (s : State) (c : Nat) : Bool := s.spillGrants.any fun e => e.1 = c

/-- The grants of a creation on the four dies: the least free runs of plates (R340); none when a die has no room. -/
def State.findGrants (s : State) (c : BitVec 16) (sizes : List Nat) : Option (Vector (Nat × Nat) 4) :=
  let run := fun d => if sizes.getD d 0 = 0 then some (0, 0) else
    (freeRun ((s.ctxs.filter fun p => p.1 ≠ c.toNat && !s.platesOut p.1).map fun p =>
      (p.2.grants[d % 4].1, p.2.grants[d % 4].1 + p.2.grants[d % 4].2)) 16384 (sizes.getD d 0)).map fun a => (a, sizes.getD d 0)
  match run 0, run 1, run 2, run 3 with
  | some a, some b, some c, some d => some #v[a, b, c, d]
  | _, _, _, _ => none

/-- The masks of a context that stand in some slice now (R352, R353): those WAYSET has set, and the initial one unless every
slice has another. -/
def State.masksOf (s : State) (n : Nat) (x : Context) : List (BitVec 16) :=
  let mine := s.caches.wayMask.filter fun e => e.2.1.toNat = n
  (if (mine.map (·.1)).eraseDups.length < 512 then [x.ways] else []) ++ mine.map (·.2.2)

/-- Whether a new mask in every slice would meet one of another tenant context under strict mode (R353, R355). -/
def State.strictConflict (s : State) (strict excl : Bool) (ways : BitVec 16) : Bool :=
  (strict && !excl) || s.ctxs.any fun p =>
    p.1 ≠ 0 && (strict || p.2.strict) && (s.masksOf p.1 p.2).any fun m => m &&& ways ≠ 0

/-- Groups that another context keeps for itself, or that this one may not take for itself (R340 EXCL). -/
def State.pcgConflict (s : State) (excl : Bool) (pcg : BitVec 288) : Bool :=
  s.ctxs.any fun p => p.1 ≠ 0 && (excl || p.2.excl) && p.2.pcg &&& pcg ≠ 0

/-- The lowest identity no context holds (DESIGN CHOICE: the spec leaves the number open). -/
def State.freeIdentity (s : State) : Option Nat :=
  ((List.range 65535).map (· + 1)).find? fun n => s.ctxs.all fun p => p.1 ≠ n

/-- The identity fields of a context for the audit log (R381). -/
def Context.identity (x : Context) : List (Nat × Nat) :=
  [(0, x.clu.toNat), (4, x.ways.toNat), (6, bitN x.excl + 2 * bitN x.strict), (8, x.gseed.toNat),
   (16, x.grants[0].2), (18, x.grants[1].2), (20, x.grants[2].2), (22, x.grants[3].2), (24, x.pcg.toNat)]

/-- A context enters a state and the report of it goes out, once the audit log has taken the entries of the step (R384). -/
def State.enterLogged (s : State) (c : BitVec 16) (st : CtxSt) (r : Report) : State :=
  if s.hamada.waiting.isEmpty then (s.modCtx c fun y => { y with st := st }).report r
  else { s with held := s.held ++ [.enter c st r] }

/-! ### Halting, images and the swap -/

/-- Slots of the strands of a context that stand in the machine. -/
def State.slotsOf (s : State) (c : BitVec 16) : List Nat := s.liveSlots.filter fun k => (s.strand k).ctx = c

/-- A strand that CTXHALT stops in place, as a pre-emption stops it (R348, R291). -/
def Strand.halt (t : Strand) : Strand := { t.stopped with stat := .halted }

/-- Stops every strand of a context in place (R348). -/
def State.haltCtx (s : State) (c : BitVec 16) : State :=
  ((s.slotsOf c).foldl (fun x k => ((x.flushLate k).unparkPop k).modStrand k Strand.halt) s).modCtx c fun y =>
    { y with halted := true }

/-- Lets halted strands go on. -/
def State.unhaltCtx (s : State) (c : BitVec 16) : State :=
  ((s.slotsOf c).foldl (fun x k => x.modStrand k fun t =>
    { t with stat := match t.stat with | .halted => .running | y => y }) s).modCtx c fun y => { y with halted := false }

/-- Whether a location lies in the core scratchpads or the memory of a cluster. -/
def inCluster (n l : Nat) : Bool :=
  (decide (spadAt (8 * n) ≤ l) && decide (l < spadAt (8 * n + 8))) || (decide (clusterAt n ≤ l) && decide (l < clusterAt (n + 1)))

/-- Bytes of the vector registers of strands to their write extents (R47, R345). -/
def vecBytes (ts : List (Nat × Strand)) : Nat := (ts.map fun p => (p.2.vec.wext.toList.map fun n => 64 * n).sum).sum

/-- Bytes of the sections of an image behind its header, in order (R345). -/
def imageLengths (ts : List (Nat × Strand)) : List Nat :=
  [3 * 2 ^ 20, vecBytes ts, 3 * 2 ^ 19 + 2 ^ 14, 2 ^ 24, 12 * 2 ^ 20]

/-- The image of a cluster (R345). -/
def State.imageOf (s : State) (c : BitVec 16) (n : Nat) : Image :=
  let ts := ((s.slotsOf c).filter fun k => clusterOf k = n).map fun k => (k, s.strand k)
  let i : Image :=
    { mark := 0x4D494C43, ctx := c, cluster := n, lengths := imageLengths ts, seq := s.hamada.nextSeq, hash := 0,
      gseed := ((s.ctx? c).map (·.gseed)).getD 0, strands := ts,
      slots := s.oslots.filter (fun p => p.1 / 128 = n), acc := s.acc.filter (fun p => p.1 / 32768 = n),
      bars := (s.groups.filter fun g => g.2.cluster = n && g.2.ctx = c).map fun g => (g.1, g.2.bars),
      cells := s.mem.filter fun p => inCluster n p.1 }
  i.hashed

/-- Takes everything an image holds off its cluster, its barrier units among it, with the lines and translations of its cores'
caches. What a pre-empted group has saved of its units stays with it (R292). -/
def State.clearCluster (s : State) (n : Nat) : State :=
  let s1 := (s.liveSlots.filter fun k => clusterOf k = n).foldl (fun x k => x.putStrand k .empty) s
  { s1 with
    oslots := s1.oslots.filter fun p => p.1 / 128 ≠ n, acc := s1.acc.filter fun p => p.1 / 32768 ≠ n,
    groups := s1.groups.map (fun g => if g.2.cluster = n && g.2.saved.isEmpty then (g.1, { g.2 with bars := Vector.replicate 8 .idle }) else g),
    mem := s1.mem.filter (fun p => !inCluster n p.1), claims := s1.claims.filter fun k => clusterOf k ≠ n,
    caches := { s1.caches with
      l1i := s1.caches.l1i.filter (fun i => i.core / 8 ≠ n), l1d := s1.caches.l1d.filter (fun i => i.core / 8 ≠ n),
      tlb := s1.caches.tlb.filter fun t => t.cache / 8 ≠ n },
    admitted := s1.admitted.filter (fun a => a.1 / 8 ≠ n), soiled := s1.soiled.filter (· ≠ n) }

/-- Clusters of a partition, rising. -/
def clustersOf (clu : BitVec 32) : List Nat := (List.range 32).filter fun n => clu.getLsbD n

/-- A free shadow slot of a cluster's die (R345). -/
def State.freeShadow (s : State) (n : Nat) : Option (Fin 8) :=
  (List.finRange 8).find? fun i => i.val / 2 = n / 8 && (s.shadow[i] = none) &&
    !s.pkg.badUnits.contains (.shadow i)

/-- Writes one cluster's image out (R345): to a free shadow slot when toShadow, else to the spill region. -/
def State.writeImage (s : State) (c : BitVec 16) (toShadow : Bool) (n : Nat) : State :=
  let i := s.imageOf c n
  let s1 := s.clearCluster n
  match (if toShadow then s.freeShadow n else none) with
  | some k => { s1 with shadow := s1.shadow.set k (some i) }
  | none => { s1 with spill := i :: s1.spill }

/-- Images of a context in the shadow store. -/
def State.shadowImages (s : State) (c : BitVec 16) : List Image :=
  s.shadow.toList.filterMap fun o => match o with | some i => if i.ctx = c then some i else none | none => none

/-- Bytes of a saved image (R359, 0x04): its header and its sections. -/
def Image.bytes (i : Image) : Nat := 4096 + i.lengths.sum

/-- A context leaves its clusters (R345): its strands stop, what strands that have ended left to copy or to write is done, the audit
entry of a violation there waiting for its place (R384), and each cluster is written out. -/
def State.leaveClusters (s : State) (c : BitVec 16) (x : Context) (toShadow : Bool) : State :=
  let s1 := s.haltCtx c
  let s2 := (s1.ending.filter fun p => p.2.ctx = c).foldl (fun y p => y.settleAccesses p.1 true) s1
  (clustersOf x.clu).foldl (fun y n => y.writeImage c toShadow n) s2

/-- SWAP_OUT (R342, R345, R359). -/
def execSwapOut (q : Req) (s : State) : Res :=
  s.ctxRequest q 3 [] fun s x =>
    if x.st ≠ .running then s.complete q 3 7 []
    else
      let s1 := s.leaveClusters q.ctx x true
      let spilled := (s1.spill.filter fun i => i.ctx = q.ctx).length
      (s1.modCtx q.ctx fun y => { y with st := if spilled = 0 then .swapped else .saved }).complete q 3 0
        [(8, (s1.shadowImages q.ctx).length), (12, spilled)]

/-- Copies the die scratchpad grants of a context out and frees them (R345). -/
def State.spillGrants' (s : State) (c : BitVec 16) (x : Context) : State :=
  let keep := (List.range 4).filterMap fun d =>
    let g := x.grants[d % 4]
    if g.2 = 0 then none
    else some (c.toNat, d, Memory.readList s.mem (dieAt d + g.1 * 4096) (g.2 * 4096))
  let m := (List.range 4).foldl (fun m d => Memory.clear m (dieAt d + x.grants[d % 4].1 * 4096) (x.grants[d % 4].2 * 4096)) s.mem
  ({ s with spillGrants := keep ++ s.spillGrants, mem := m }).modCtx c fun y =>
    { y with grants := y.grants.map fun (g : Nat × Nat) => (0, g.2) }

/-- SAVE (R342, R345, R359): also the demotion of a swapped context. -/
def execSave (q : Req) (s : State) : Res :=
  s.ctxRequest q 4 [] fun s x =>
    if x.st ≠ .running && x.st ≠ .swapped then s.complete q 4 7 []
    else
      let s1 := if x.st = .running then s.leaveClusters q.ctx x false else s
      let s2 := { s1 with spill := s1.shadowImages q.ctx ++ s1.spill,
                          shadow := s1.shadow.map fun (o : Option Image) => match o with
                            | some i => if i.ctx = q.ctx then none else some i | none => none }
      let s3 := s2.spillGrants' q.ctx x
      let n := ((s3.spill.filter fun i => i.ctx = q.ctx).map Image.bytes).sum
        + (x.grants.toList.map fun g => g.2 * 4096).sum
      (s3.modCtx q.ctx fun y => { y with st := .saved }).complete q 4 0 [(8, n)]

/-- Puts an image back onto the cluster it left (R344, R345). -/
def State.readImage (s : State) (i : Image) : State :=
  let s1 := s.clearCluster i.cluster
  let s2 := i.strands.foldl (fun y p => y.putStrand p.1 p.2) s1
  { s2 with oslots := i.slots.foldl (fun l p => insertKey p.1 p.2 l) s2.oslots,
            acc := i.acc.foldl (fun l p => insertKey p.1 p.2 l) s2.acc,
            groups := s2.groups.map fun g => match i.bars.find? fun b => b.1 = g.1 with
              | some b => (g.1, { g.2 with bars := b.2 }) | none => g,
            mem := Memory.paste s2.mem i.cells }

/-- Puts saved grants back, offset for offset, into new plates (R345). -/
def State.readGrants (s : State) (c : BitVec 16) (gr : Vector (Nat × Nat) 4) : State :=
  let mine := s.spillGrants.filter fun e => e.1 = c.toNat
  let m := mine.foldl (fun m e => Memory.writeList m (dieAt e.2.1 + gr[e.2.1 % 4].1 * 4096) e.2.2) s.mem
  ({ s with mem := m, spillGrants := s.spillGrants.filter fun e => e.1 ≠ c.toNat }).modCtx c fun y => { y with grants := gr }

/-! ### Release -/

/-- Whether a unit passes its zero-check: all do but those out of service and those that the environment lets fail (R351). -/
def State.unitOk (s : State) (u : ScrubUnit) : Bool := !s.pkg.badUnits.contains u && !s.pkg.failing.contains u

/-- The audit entry of one scrubbed unit (R351, R381); a unit that fails is out of service until module reset. -/
def State.auditUnit (s : State) (c : BitVec 16) (u : ScrubUnit) : State :=
  let (kind, num, bytes) := match u with
    | .cluster n => (0, n.val, 33 * 2 ^ 20)
    | .l2 d => (1, d.val, 2 ^ 26)
    | .shadow n => (2, n.val, 40 * 2 ^ 20)
  let s1 := s.audit 0x0004 c [(0, kind), (4, num), (8, bitN (!s.unitOk u)), (16, bytes)]
  if s.unitOk u || s.pkg.badUnits.contains u then s1 else { s1 with pkg := { s1.pkg with badUnits := u :: s1.pkg.badUnits } }

/-- The units a release scrubs: the clusters that the context holds, the four dies' L2, and the shadow slots that held its
images. -/
def State.unitsOf (s : State) (c : BitVec 16) (x : Context) : List ScrubUnit :=
  ((List.finRange 32).filter fun n => x.st = .running && x.clu.getLsbD n.val).map .cluster ++ (List.finRange 4).map .l2
    ++ ((List.finRange 8).filter fun i => match s.shadow[i] with | some m => m.ctx = c | none => false).map .shadow

/-- Everything a context holds is scrubbed (R350). Only a running one stands on its clusters (R344). -/
def State.scrubCtx (s : State) (c : BitVec 16) (x : Context) : State :=
  let s1 := if x.st = .running then (clustersOf x.clu).foldl State.clearCluster s else s
  let plates := if s.platesOut c.toNat then s1.mem else (List.range 4).foldl (fun m d =>
    Memory.clear m (dieAt d + x.grants[d % 4].1 * 4096) (x.grants[d % 4].2 * 4096)) s1.mem
  { s1 with
    mem := plates,
    ending := s1.ending.filter (fun p => p.2.ctx ≠ c),
    groups := s1.groups.filter (fun g => g.2.ctx ≠ c), launches := s1.launches.filter (fun l => l.ctx ≠ c),
    queues := s1.queues.filter (fun y => y.ctx ≠ c), graves := s1.graves.filter (fun y => y.ctx ≠ c),
    holds := s1.holds.filter (fun h => h.ctx ≠ c),
    spill := s1.spill.filter (fun i => i.ctx ≠ c), spillGrants := s1.spillGrants.filter (fun e => e.1 ≠ c.toNat),
    shadow := s1.shadow.map (fun (o : Option Image) => match o with | some i => if i.ctx = c then none else some i | none => none),
    caches := { s1.caches with
      tlb := s1.caches.tlb.filter (fun t => t.ctx ≠ c), l1i := s1.caches.l1i.filter (fun i => i.ctx ≠ c),
      l2 := s1.caches.l2.filter (fun l => l.ctx ≠ c), wayMask := s1.caches.wayMask.filter (fun e => e.2.1 ≠ c) },
    host := { s1.host with apertures := s1.host.apertures.map fun (a : Option (BitVec 16 × Nat)) => match a with
      | some (y, b) => if y = c then none else some (y, b) | none => none },
    link := { s1.link with rx := s1.link.rx.filter fun f => flitCtx f ≠ c.toNat },
    admitted := s1.admitted.filter fun a => a.2.1 ≠ c }

/-- A released context's code objects: it is no longer attached; an object no context is attached to is unloaded. -/
def State.detachObjs (s : State) (c : BitVec 16) : State :=
  let s1 := { s with objs := s.objs.map fun (o : Obj) => { o with atts := o.atts.filter fun a => a ≠ c } }
  { s1 with objs := s1.objs.map fun (o : Obj) =>
      if o.atts.isEmpty then { o with st := .unloaded, latt := [], dicts := [], text := [], image := [] } else o }

/-- Collectives in progress that a context has a part in, as group and number: those its strands have pushed and not
completed, and those of which flits of other members are here. -/
def State.collsInProgress (s : State) (c : BitVec 16) : List (Nat × Nat) :=
  let own := (s.allStrands ++ s.ending).flatMap fun p =>
    if p.2.ctx = c then (p.2.colls.filter fun k => k.status = none).map fun k => (fld k.w0.toNat 17 10, k.num) else []
  let known := (s.link.rx.filter fun f => flitField f 0 2 = c.toNat).map fun f => (flitField f 2 1, flitField f 4 4)
  (own ++ known).dedup

/-- LEAVE flits for the collectives in progress of a context that is released, to every other member (R371). -/
def State.announceLeave (s : State) (c : BitVec 16) : State :=
  (s.collsInProgress c).foldl (fun x g => x.sendLeave c g.1 g.2 s.link.chip) s

/-- One bit for each number of a kind of unit that fails. -/
def State.failedBits (s : State) (units : List ScrubUnit) (num : ScrubUnit → Option Nat) : Nat :=
  ((units.filter fun u => !s.unitOk u).filterMap num).map (2 ^ ·) |>.sum

/-- Release of a context (R342, R350, R351): leave, scrub, one audit entry per unit and one for the context, report 0x84. It is
releasing until the log has taken them all; one that stood on no cluster holds none from then on. -/
def State.release (s : State) (c : BitVec 16) (x : Context) : State :=
  let units := s.unitsOf c x
  let s1 := (((s.announceLeave c).scrubCtx c x).detachObjs c).modCtx c fun y => { y with st := .releasing }
  let bad := s1.failedBits units
  let badC := bad fun u => match u with | .cluster n => some n.val | _ => none
  let badD := bad fun u => match u with | .l2 n => some n.val | _ => none
  let badS := bad fun u => match u with | .shadow n => some n.val | _ => none
  let s2 := (units.foldl (fun y u => y.auditUnit c u) s1).audit 0x0003 c x.identity
  ((s2.modCtx c fun y => { y with
      halted := false, clu := if x.st = .running then y.clu else 0, grants := Vector.replicate 4 (0, 0), pcg := 0, ways := 0,
      root := none, demand := [], cgroups := [], collNum := [] }).settleObjs).enterLogged c .released
    (mkReport 0x84 0 c 0 [(8, bitN (badC + badD + badS ≠ 0)), (12, badC), (16, badD), (17, badS)])

/-- Kills a context (R261, R345): an audit entry with the cause, and the release. -/
def State.endCtx (s : State) (c : BitVec 16) (cause : Nat) : State :=
  match s.ctx? c with
  | none => s
  | some x => (s.audit 0x0009 c [(0, cause)]).release c x

/-! ### Clusters that the Oasis kernel's own strands have used -/

/-- What strands that have ended left to copy or to write in a cluster is discarded (R349, R350). -/
def State.dropCopies (s : State) (n : Nat) : State :=
  { s with ending := (s.ending.map fun p => if clusterOf p.1 = n
      then (p.1, { p.2 with copies := [], streams := Vector.replicate 16 .idle }) else p).filter fun p => !p.2.bgDone }

/-- Clusters of a partition that a strand of the system context has used since their last scrub, and where none stands now, are
scrubbed and verified before a context comes there (R350, R351; DESIGN CHOICE, log 98). -/
def State.cleanClusters (s : State) (clu : BitVec 32) : State :=
  let dirty := (List.finRange 32).filter fun (n : Fin 32) =>
    clu.getLsbD n.val && s.soiled.contains n.val && !s.liveSlots.any fun k => clusterOf k = n.val
  dirty.foldl (fun (x : State) (n : Fin 32) => ((x.clearCluster n.val).dropCopies n.val).auditUnit 0 (.cluster n)) s

/-- CREATE_CONTEXT (R340, R342, R359): creating until the creation is logged, then loading. -/
def execCreateContext (q : Req) (s : State) : Res :=
  s.request fun s =>
    match (if Req.only q [(8, 8)] && q.ctx = 0 then Req.bytes q (Req.arg q 8 8) 64 else none) with
    | none => s.complete q 1 1 []
    | some b =>
      let clu := BitVec.ofNat 32 (numAt b 0 4)
      let flags := numAt b 6 1
      let excl := flags % 2 == 1
      let strict := flags / 2 % 2 == 1
      let dsg := (List.range 4).map fun d => numAt b (16 + 2 * d) 2
      let pcg : BitVec 288 := if flags / 8 % 2 = 1 then BitVec.allOnes 288 else BitVec.ofNat 288 (numAt b 24 36)
      let ways := BitVec.ofNat 16 (numAt b 4 2)
      if clu = 0 || 16 ≤ flags || numAt b 7 1 ≠ 0 || numAt b 60 4 ≠ 0
          || (List.range 4).any (fun d => 16384 < dsg.getD d 0 || (dsg.getD d 0 ≠ 0 && clu.toNat / 2 ^ (8 * d) % 256 = 0)) then
        s.complete q 1 1 []
      else if s.strictConflict strict excl ways then s.complete q 1 8 []
      else
      let s := s.cleanClusters clu
      if s.badCluster clu || s.pcgConflict excl pcg then s.complete q 1 4 []
      else match s.freeIdentity with
        | none => s.complete q 1 4 []
        | some n =>
          match s.findGrants 0 dsg with
          | none => s.complete q 1 4 []
          | some gr =>
            if (s.kplace 1048576 1048576).isNone then s.complete q 1 4 []
            else
            let draw := flags / 4 % 2 == 1
            let seed := if draw then Config.drawnSeed s.hamada.draws else BitVec.ofNat 64 (numAt b 8 8)
            let (s1, root) := s.kalloc 1048576 1048576
            let x : Context := { st := .creating, halted := false, root := some root, clu := clu, pcg := pcg, excl := excl,
                                 strict := strict, grants := gr, ways := ways, gseed := seed, demand := [],
                                 nextLid := 1, cgroups := [], collNum := [] }
            let s2 := { s1 with ctxs := s1.ctxs ++ [(n, x)],
                                hamada := { s1.hamada with draws := s1.hamada.draws + bitN draw } }
            (s2.audit 0x0002 (BitVec.ofNat 16 n) x.identity).enterLogged (BitVec.ofNat 16 n) .loading
              (mkReport 1 q.tag (BitVec.ofNat 16 n) 0 [])

/-! ### Admission -/

/-- GROUP_ADMISSION (R282 to R284): the Oasis kernel admits the first pending group of a context when it can be placed;
otherwise it and all after it wait. A halted context admits none (R348). One that is loading comes to clusters that have been scrubbed
(R350). -/
def execGroupAdmission (c : BitVec 16) (s : State) : Res :=
  match s.ctx? c with
  | none => .next s
  | some x =>
    if !((x.st = .loading || x.st = .running) && !x.halted && s.clustersFree c x.clu) then .next s
    else
      let s := if x.st = .loading then s.cleanClusters x.clu else s
      match s.nextPending c with
      | none => .next s
      | some p =>
        match (s.tryAdmit c p).orElse fun _ => s.admitOver c p [] (s.victims c p) with
        | none => .next s
        | some s' => .next (((s'.noteAdmission c p).modCtx c fun y => { y with st := .running }).settleObjs)

/-! ### Swap in and restore -/

/-- The images of a context. -/
def State.imagesOf (s : State) (c : BitVec 16) : List Image := s.shadowImages c ++ s.spill.filter fun i => i.ctx = c

/-- A context comes back to its clusters (R344, R345): its kernels' pinned lines are held again (R256), and the claims at the heads
of its strands' queues wait again (R192, R194; log 121). -/
def State.comeBack (s : State) (c : BitVec 16) (gr : Vector (Nat × Nat) 4) : State :=
  let s1 := if s.platesOut c.toNat then s.readGrants c gr else s
  let s2 := (s.imagesOf c).foldl State.readImage s1
  let s3 := { s2 with spill := s2.spill.filter (fun i => i.ctx ≠ c),
                      shadow := s2.shadow.map fun (o : Option Image) => match o with
                        | some i => if i.ctx = c then none else some i | none => none }
  let ks := (s.imagesOf c).flatMap fun i => i.strands.map (·.1)
  (((s3.modCtx c fun y => { y with st := .running }).unhaltCtx c).readmit c ks).enterClaims ks

/-- A context whose image fails Hamada's check is killed (R345, R381). The spec gives the kill no cause: a free value (log 100). -/
def State.badImage (s : State) (c : BitVec 16) (i : Image) : State :=
  let n := s.freeCtr
  (({ s with freeCtr := n + 1 }).audit 0x000D c [(0, i.cluster), (8, i.seq)]).endCtx c (Config.freeChoice n % 256)

/-- RESUME (R342, R344, R345): swap in, restore, or the end of a halt. Where an image fails its check, the request is answered
with status 7 (DESIGN CHOICE, log 100). -/
def execResume (q : Req) (s : State) : Res :=
  s.ctxRequest q 6 [] fun s x =>
    if x.st = .running then
      if x.halted then (s.unhaltCtx q.ctx).complete q 6 0 [] else s.complete q 6 7 []
    else if x.st ≠ .swapped && x.st ≠ .saved then s.complete q 6 7 []
    else if !s.clustersFree q.ctx x.clu then s.complete q 6 7 []
    else
    let s := s.cleanClusters x.clu
    if s.badCluster x.clu then s.complete q 6 4 []
    else match (if s.platesOut q.ctx.toNat then s.findGrants q.ctx (x.grants.toList.map (·.2)) else some x.grants) with
      | none => s.complete q 6 4 []
      | some gr =>
        match (s.imagesOf q.ctx).find? fun i => !i.good with
        | some i => (s.complete q 6 7 []).badImage q.ctx i
        | none => (s.comeBack q.ctx gr).complete q 6 0 []

/-- What is stored of an image is damaged: its hash no longer fits (R345). -/
def State.damageImage (s : State) (c : BitVec 16) (n : Nat) : State :=
  let f := fun (i : Image) => if i.ctx = c ∧ i.cluster = n ∧ i.good then { i with hash := ~~~i.hash } else i
  { s with shadow := s.shadow.map fun (o : Option Image) => o.map f, spill := s.spill.map f }

/-- RELEASE_CONTEXT (R342, R350, R351). -/
def execReleaseContext (q : Req) (s : State) : Res :=
  s.ctxRequest q 2 [] fun s x =>
    if x.st = .creating || x.st = .releasing || x.st = .released then s.complete q 2 7 []
    else (s.complete q 2 0 []).release q.ctx x

/-! ### Apertures and pages -/

/-- BIND_APERTURE (R356, R359). -/
def execBindAperture (q : Req) (s : State) : Res :=
  s.ctxRequest q 5 [(8, 1), (9, 1), (16, 8)] fun s _ =>
    let n := Req.arg q 8 1
    let base := Req.arg q 16 8
    if h : n < 16 then
      if Req.arg q 9 1 = 0 then
        if base % 2 ^ 36 ≠ 0 || 2 ^ 56 ≤ base then s.complete q 5 1 []
        else ({ s with host := { s.host with apertures := s.host.apertures.set n (some (q.ctx, base)) } }).complete q 5 0 []
      else if Req.arg q 9 1 = 1 && base = 0 then
        ({ s with host := { s.host with apertures := s.host.apertures.set n none } }).complete q 5 0 []
      else s.complete q 5 1 []
    else s.complete q 5 1 []

/-- The fields of a map or demand request within their limits: address, length, size code, permissions (R359). -/
def mapFieldsOk (q : Req) : Bool :=
  let va := Req.arg q 8 8
  let len := Req.arg q 16 8
  let size := pageBytes (Req.arg q 24 1)
  decide (Req.arg q 24 1 ≤ 2) && decide (Req.arg q 25 1 < 8) && va % size == 0 && len % size == 0 && decide (0 < len)
    && decide (va + len ≤ 2 ^ 56)

/-- Context states in which the host changes its memory: not while it goes (R342). -/
def Context.hostable (x : Context) : Bool := x.st != .releasing && x.st != .released

/-- The pages that a range covers whole, as (address, bytes): each mapped page that meets it, and each 64 KiB elsewhere. -/
def State.pagesIn (s : State) (c : BitVec 16) (va len : Nat) : List (Nat × Nat) :=
  (List.range ((len + 65535) / 65536)).map fun i =>
    let a := va + i * 65536
    match (s.walkIn c a).1 with
    | .leaf _ size => (a / size * size, size)
    | _ => (a, 65536)

/-- Whether a request takes away a page of some queue's counter array (R263). -/
def State.coversCounters (s : State) (c : BitVec 16) (va len : Nat) : Bool :=
  (s.queues.any fun k => k.ctx = c) && (s.pagesIn c va len).any fun p =>
    s.queues.any fun k => k.ctx = c && decide (k.depb / 65536 * 65536 < p.1 + p.2)
      && decide (p.1 < (k.depb + 8 * k.depn + 65535) / 65536 * 65536)

/-- Whether a parked QPOP holds a translation of a page that a request takes away (R269). -/
def State.rangeHeld (s : State) (c : BitVec 16) (va len : Nat) : Bool :=
  (s.queues.any fun k => k.ctx = c && !k.parked.isEmpty) && (s.pagesIn c va len).any fun p => s.translationHeld c p.1 p.2

/-- Whether a strand waits for the end of a migration (R335). -/
def State.waitsOnMove (s : State) (k : Nat) : Bool :=
  match (s.strand k).stat with
  | .waiting f => match (s.walkIn (s.strand k).ctx f.va.toNat).1 with
    | .leaf e _ => pteSt e == 1
    | _ => false
  | _ => false

/-- Strands of a context that waited for a migration go on once it has ended, whatever the page's state then (R335). old: the
state before. -/
def State.afterMove (s old : State) (c : BitVec 16) : State :=
  ((old.slotsOf c).filter fun k => old.waitsOnMove k).foldl (fun x k =>
    if x.waitsOnMove k then x
    else x.modStrand k fun t => { t with stat := match t.stat with | .waiting _ => .running | y => y }) s

/-- MAP (R337, R338, R358, R359). Pages already mapped get a new zeroed frame (log 22), so those of a counter array are refused as
an unmap of them is (R263). While a translation is held, the request is not taken (R269, see State.waitsTurn). -/
def execMap (q : Req) (s : State) : Res :=
  s.ctxRequest q 0x10 [(8, 8), (16, 8), (24, 1), (25, 1)] fun s x =>
    let va := Req.arg q 8 8
    let len := Req.arg q 16 8
    if !mapFieldsOk q then s.complete q 0x10 1 []
    else if !x.hostable || s.coversCounters q.ctx va len then s.complete q 0x10 7 []
    else if s.rangeHeld q.ctx va len then s
    else match (s.unmapPages q.ctx va (len / 65536)).mapPages q.ctx va (Req.arg q 24 1) (Req.arg q 25 1) false
        (len / pageBytes (Req.arg q 24 1)) with
      | none => s.complete q 0x10 4 []
      | some s' => (s'.afterMove s q.ctx).complete q 0x10 0 []

/-- The address and the length of an unmap request within their limits (R359). -/
def unmapFieldsOk (q : Req) : Bool :=
  let va := Req.arg q 8 8
  let len := Req.arg q 16 8
  va % 65536 == 0 && len % 65536 == 0 && len != 0 && decide (va + len ≤ 2 ^ 56)

/-- UNMAP (R263, R269, R337, R338, R359). While a translation is held, the request is not taken (see State.waitsTurn). -/
def execUnmap (q : Req) (s : State) : Res :=
  s.ctxRequest q 0x11 [(8, 8), (16, 8)] fun s x =>
    let va := Req.arg q 8 8
    let len := Req.arg q 16 8
    if !unmapFieldsOk q then s.complete q 0x11 1 []
    else if !x.hostable || s.coversCounters q.ctx va len then s.complete q 0x11 7 []
    else if s.rangeHeld q.ctx va len then s
    else ((s.unmapPages q.ctx va (len / 65536)).afterMove s q.ctx).complete q 0x11 0 []

/-- DEMAND_FILLED_RANGE (R335, R359). -/
def execDemandFilledRange (q : Req) (s : State) : Res :=
  s.ctxRequest q 0x12 [(8, 8), (16, 8), (24, 1), (25, 1)] fun s x =>
    if !mapFieldsOk q then s.complete q 0x12 1 []
    else if !x.hostable then s.complete q 0x12 7 []
    else
      (s.modCtx q.ctx fun y => { y with demand :=
        { va := Req.arg q 8 8, len := Req.arg q 16 8, perm := Req.arg q 25 1, size := Req.arg q 24 1 } :: y.demand }).complete q 0x12 0 []

/-- Whether some cache holds a translation of a page (R331). -/
def State.cached (s : State) (c : BitVec 16) (va size : Nat) : Bool :=
  s.caches.tlb.any fun t => t.ctx = c && decide (t.va / t.size * t.size < va / size * size + size)
    && decide (va / size * size < (t.va / t.size + 1) * t.size)

/-- Steps 3 and 4 of a migration: the page's contents are copied to another frame, which its leaf names as mapped; none where no
frame is free. -/
def State.endMove (s : State) (c : BitVec 16) (va : Nat) (e : Word) (size : Nat) : Option State :=
  (s.takeFrames c (size / 65536)).map fun p =>
    let cells := (Memory.cut s.mem (ptePa e) size).map fun x => (x.1 - ptePa e + p.2 * 65536, x.2)
    let s1 := { p.1 with mem := Memory.paste p.1.mem cells }
    ((s1.setEntry c va fun _ => mkLeaf (p.2 * 65536) (ptePerm e) (pteQ e) 0).freeFrames (ptePa e) size).afterMove s c

/-- PAGE_MIGRATION (R269, R337, R338): the next step of the migration of the page that holds va: it becomes migrating; then the
invalidation; then the copy and the leaf with the new frame. None of them is taken while a parked QPOP holds a translation of the
page, and it does not start while no frame is free. -/
def execPageMigration (c : BitVec 16) (va : BitVec 56) (s : State) : Res :=
  match (s.walkIn c va.toNat).1 with
  | .leaf e size =>
    let base := va.toNat / size * size
    .next (if s.translationHeld c base size then s
      else if pteSt e = 0 then
        if (s.takeFrames c (size / 65536)).isNone then s else s.startMove c va.toNat
      else if pteSt e ≠ 1 then s
      else if s.cached c va.toNat size then s.invalidate c va.toNat
      else (s.endMove c va.toNat e size).getD s)
  | _ => .next s

/-- The request that a row is (R357). -/
def Instr.req? : Instr → Option Req
  | .unassignedRequest q | .createContext q | .releaseContext q | .swapOut q | .save q | .bindAperture q | .resume q | .map q
  | .unmap q | .demandFilledRange q | .createQueue q | .sealQueue q | .destroyQueue q | .load q | .unload q | .forceUnload q
  | .attach q | .launch q | .defineCollectiveGroup q => some q
  | _ => none

/-- Rows before which every store that has been accepted performs: the Oasis kernel's steps that change what a store may reach
(R338). -/
def Instr.settlesAll (i : Instr) : Bool :=
  (Instr.req? i).isSome || match i with | .pageMigration _ _ | .lastingMemoryError _ => true | _ => false

/-- The handle that a request names, 0 for none (R250). -/
def Instr.objNamed : Instr → Nat
  | .unload q | .forceUnload q | .attach q => Req.arg q 8 4
  | .launch q => match Req.bytes q (Req.arg q 8 8) 144 with | some b => numAt b 0 4 | none => 0
  | _ => 0

/-- The context whose requests a step of the Oasis kernel that waits holds up (R343, R384). -/
def Held.ctx : Held → Option (BitVec 16)
  | .row i => (Instr.req? i).map (·.ctx)
  | .enter c _ _ => some c
  | .tell r _ => some (r.extractLsb' 32 16)

/-- The object whose requests it holds up, 0 for none (R250). -/
def Held.obj : Held → Nat
  | .row i => Instr.objNamed i
  | .enter _ _ _ => 0
  | .tell _ o => o

/-- Requests about code objects and launches (R359): the kernel requests of R250. -/
def Instr.kernelRequest : Instr → Bool
  | .load _ | .unload _ | .forceUnload _ | .attach _ | .launch _ => true
  | _ => false

/-- Whether it is a kernel request that has not been taken. -/
def Held.untaken : Held → Bool
  | .row i => Instr.kernelRequest i
  | _ => false

/-- Whether a step that waits comes before another (R250, R343, R384): one of the same context, one about the same object, and a
kernel request that has not been taken before the next kernel request. -/
def Held.before (h g : Held) : Bool := h.ctx == g.ctx || (g.obj != 0 && h.obj == g.obj) || (h.untaken && g.untaken)

/-- Whether a request takes away a page whose translation is held (R269). -/
def State.rowHeld (s : State) : Instr → Bool
  | .map q =>
    mapFieldsOk q && !s.coversCounters q.ctx (Req.arg q 8 8) (Req.arg q 16 8) && s.rangeHeld q.ctx (Req.arg q 8 8) (Req.arg q 16 8)
  | .unmap q => unmapFieldsOk q && !s.coversCounters q.ctx (Req.arg q 8 8) (Req.arg q 16 8) && s.rangeHeld q.ctx (Req.arg q 8 8) (Req.arg q 16 8)
  | _ => false

/-- Whether a request that arrives is not taken yet (R250, R269, R343, R384): an earlier one that comes before it
waits, or it takes away a page whose translation is held. -/
def State.waitsTurn (s : State) (i : Instr) : Bool :=
  match Instr.req? i with
  | none => false
  | some _ => s.pkg.state = 4 && s.host.trained && ((s.held.any fun h => h.before (.row i)) || s.rowHeld i)

/-- Whether a strand of the Oasis kernel's own is the next to move. -/
def State.systemMoves (s : State) : Bool :=
  match s.inputs with
  | .strand k :: _ | .passed k :: _ => decide ((s.strand k).stat = .running) && (s.strand k).ctx == 0
  | _ => false

/-- Whether a step that waits can go on. A release is over once the log has taken its entries, unless the Oasis kernel's own strand
moves first, which may scrub for it (R349, R350; DESIGN CHOICE, log 116). -/
def State.due (s : State) : Held → Bool
  | .row i => !s.rowHeld i
  | .enter _ st _ => s.hamada.waiting.isEmpty && !(st == .released && s.systemMoves)
  | .tell _ _ => s.hamada.waiting.isEmpty

/-- The first step that can go on and follows none that comes before it and cannot, with the others. seen: those before
it. -/
def State.nextHeld (s : State) (seen : List Held) : List Held → Option (Held × List Held)
  | [] => none
  | h :: r =>
    if s.due h && !seen.any (·.before h) then some (h, r)
    else (s.nextHeld (h :: seen) r).map fun p => (p.1, h :: p.2)

/-- The end of a step that waited for the audit log. -/
def State.finishHeld (s : State) : Held → State
  | .enter c st r => (s.modCtx c fun y => { y with st := st }).report r
  | .tell r _ => s.report r
  | .row _ => s

/-- A step of the system context's own forms that audit entries are written for stalls while the log has no place (R384). -/
def State.whenLogged (s : State) (k : State → Res) : Res := if s.hamada.places = 0 then .next s else k s

/-! ### Forms of major 0x3B over contexts -/

/-- A strand outside the system context raises cause 0x02 before any effect (R65, R347). -/
def State.privileged (s : State) (k : State → Res) : Res := if s.st.ctx ≠ 0 then s.raise 2 0 else k s

/-- CTXHALT (R348). -/
def execCtxhalt (d a : SReg) (s : State) : Res :=
  s.privileged fun s =>
    let c := (s.r a).setWidth 16
    if 65536 ≤ (s.r a).toNat || c = 0 then s.raise 2 0
    else match s.ctx? c with
      | none => s.raise 2 0
      | some x =>
        if x.st ≠ .running then s.raise 2 0
        else if x.halted then s.result d 0
        else (s.haltCtx c).result d (BitVec.ofNat 64 (s.slotsOf c).length)

/-- SCRUB (R349): KIND of sa chooses the unit; any other operand raises cause 0x02. -/
def State.scrubForm (s : State) (d a b : SReg) : Res :=
  s.privileged fun s =>
    let x := (s.r a).toNat
    let n := (s.r b).toNat
    let verdict := fun (u : ScrubUnit) (c : BitVec 16) (s' : State) =>
      s.whenLogged fun _ => (s'.auditUnit c u).result d (if s.unitOk u then 0 else 1)
    match x % 4 with
    | 0 =>
      if h : n < 32 then
        if x ≠ 0 || (s.liveSlots.any fun k => clusterOf k = n) then s.raise 2 0
        else verdict (.cluster ⟨n, h⟩) 0 ((s.clearCluster n).dropCopies n)
      else s.raise 2 0
    | 1 =>
      let c := BitVec.ofNat 16 (x / 65536)
      if h : n < 4 then
        if x / 4 % 16384 ≠ 0 || 2 ^ 32 ≤ x || (match s.ctx? c with | some y => y.st ≠ .releasing | none => true) then s.raise 2 0
        else verdict (.l2 ⟨n, h⟩) c { s with caches := { s.caches with
          l2 := s.caches.l2.filter (fun l => !(l.slice / 128 = n && l.ctx = c)),
          tlb := s.caches.tlb.filter fun t => !(t.ctx = c && (t.cache / 64 = n || (256 ≤ t.cache && (t.cache - 256) / 3 = n))) } }
      else s.raise 2 0
    | 2 =>
      if h : n < 8 then
        if x ≠ 2 || s.shadow[n].isSome then s.raise 2 0 else verdict (.shadow ⟨n, h⟩) 0 s
      else s.raise 2 0
    | _ => s.raise 2 0

/-- SCRUB_CLUSTER (R349, kind 0). -/
def execScrubCluster (d a b : SReg) (s : State) : Res := s.scrubForm d a b
/-- SCRUB_L2 (R349, kind 1). -/
def execScrubL2 (d a b : SReg) (s : State) : Res := s.scrubForm d a b
/-- SCRUB_SHADOW_SLOT (R349, kind 2). -/
def execScrubShadowSlot (d a b : SReg) (s : State) : Res := s.scrubForm d a b

/-- The slices a WAYSET writes (R353). -/
def waysetSlices (x : Nat) : List Nat :=
  if x / 256 % 2 = 1 then (List.range 128).map fun i => x / 512 % 4 * 128 + i else [x / 512 % 4 * 128 + x / 2 % 128]

/-- WAYSET (R353): OP of sa chooses SET or READ. The masks of a strict context stay exclusive whichever context's mask is set
(R355, log 97). -/
def State.waysetForm (s : State) (d a b : SReg) : Res :=
  s.privileged fun s =>
    let x := (s.r a).toNat
    let c := BitVec.ofNat 16 (x / 65536)
    let slice := x / 512 % 4 * 128 + (if x / 256 % 2 = 1 then 0 else x / 2 % 128)
    let m := BitVec.ofNat 16 (s.r b).toNat
    match s.ctx? c with
    | none => s.raise 2 0
    | some y =>
      if c = 0 || 2 ^ 32 ≤ x || x / 2048 % 32 ≠ 0 then s.raise 2 0
      else if x % 2 = 0 then
        let met := fun sl => s.ctxs.any fun p =>
          p.1 ≠ 0 && p.1 ≠ c.toNat && (y.strict || p.2.strict) && s.wayMask sl (BitVec.ofNat 16 p.1) &&& m ≠ 0
        if 65536 ≤ (s.r b).toNat || (waysetSlices x).any met then s.raise 2 0
        else
          let keep := s.caches.wayMask.filter fun e => !(e.2.1 = c && (waysetSlices x).contains e.1)
          ({ s with caches := { s.caches with wayMask := (waysetSlices x).map (fun sl => (sl, c, m)) ++ keep } }).result d
            ((s.wayMask slice c).setWidth 64)
      else if x / 256 % 2 = 1 || (s.r b) ≠ 0 then s.raise 2 0
      else
        let occ := (s.caches.l2.filter fun l => l.slice = slice && l.ctx = c).length
        s.result d (BitVec.ofNat 64 ((s.wayMask slice c).toNat + Nat.min occ 4096 * 65536))

/-- WAYSET_SET (R353). -/
def execWaysetSet (d a b : SReg) (s : State) : Res := s.waysetForm d a b
/-- WAYSET_READ (R353). -/
def execWaysetRead (d a b : SReg) (s : State) : Res := s.waysetForm d a b

/-- PTCTL (R339): OP of sa chooses SETROOT, INVVA, INVCTX or WALK. An invalidation completes once every access that used a
translation it drops has performed, a parked QPOP's among them (R269). -/
def State.ptctlForm (s : State) (d a b : SReg) : Res :=
  s.privileged fun s =>
    let x := (s.r a).toNat
    let v := (s.r b).toNat
    let c := BitVec.ofNat 16 (x / 65536)
    let size := pageBytes (x / 16 % 4)
    if 4 ≤ x % 16 || x / 16 % 4 = 3 || x / 64 % 1024 ≠ 0 || 2 ^ 32 ≤ x || (s.ctx? c).isNone then s.raise 2 0
    else match x % 16 with
      | 0 =>
        if v % 2 ^ 20 ≠ 0 || Config.hbmBytes ≤ v then s.raise 2 0
        else if s.translationHeld c 0 (2 ^ 56) then .next s
        else ({ (s.modCtx c fun y => { y with root := some v }) with caches := s.caches.dropCtx c }).result d 0
      | 1 =>
        if 2 ^ 56 ≤ v || v % size ≠ 0 then s.raise 2 0
        else if s.translationHeld c v size then .next s
        else ({ s with caches := s.caches.dropRange c v size }).result d 0
      | 2 =>
        if v ≠ 0 then s.raise 2 0
        else if s.translationHeld c 0 (2 ^ 56) then .next s
        else ({ s with caches := s.caches.dropCtx c }).result d 0
      | _ =>
        if 2 ^ 56 ≤ v then s.raise 2 0
        else
          let (_, e, level, _) := s.walkIn c v
          s.result d (BitVec.ofNat 64 (e.toNat % 2 ^ 48 + level * 2 ^ 48 + e.toNat / 2 ^ 50 * 2 ^ 50))

/-! ### Strands of the system context -/

/-- A strand that the Oasis kernel starts for its own services (R340): the system context has no kernel descriptor, so its limits
and the rest of its state are the model's choice, an eighth of the accumulator rows of its core for each slot among them (R203;
DESIGN CHOICE, log 98). -/
def serviceStrand (s : State) (slot : Nat) (entry : BitVec 56) : Strand :=
  { Strand.empty with
    stat := .running, lim := { tiles := 8, slots := 16, strands := 64 }, allow0 := 1, pc := entry,
    csr := { Csrs.reset with
      lanew := 1, lanea := 1, accbase := BitVec.ofNat 13 (512 * (slot % 8)), acclim := BitVec.ofNat 13 (512 * (slot % 8) + 512) },
    key := s.newKey 0 0 }

/-- The pages from va upward of the system context name memory of the Oasis kernel from pa upward. -/
def State.servicePages (s : State) (root va pa : Nat) : Nat → State
  | 0 => s
  | n + 1 => (s.setLeaf root va 0 (mkLeaf pa 7 false 0)).servicePages root (va + 65536) (pa + 65536) n

/-- Whether the Oasis kernel may use a slot for its own services: no tenant context is using its cluster (R340, R351), and
the module is Ready, so that no stack can fail any more that a page of the service lies in (R389). -/
def State.serviceFree (s : State) (slot : Nat) : Bool :=
  decide (slot < 2048) && s.pkg.state == 4 && !s.clusterOut (clusterOf slot)
    && s.clustersFree 0 (BitVec.ofNat 32 (2 ^ clusterOf slot)) && decide ((s.strand slot).stat = .absent)

/-- The Oasis kernel places code for a service and starts a strand there, where its own memory has room for both (R340). -/
def State.startService (s : State) (slot : Nat) (entry : BitVec 56) (text : List Byte) : State :=
  let n := (entry.toNat % 65536 + text.length + 65535) / 65536
  if !s.serviceFree slot || (s.kplace (n * 65536 + (n + 6) * 4096 + 3145728) 1048576).isNone then s
  else
    let (s1, root) := match (s.ctx? 0).bind (·.root) with
      | some r => (s, r)
      | none => s.kalloc 1048576 1048576
    let (s2, pa) := s1.kalloc (n * 65536) 65536
    let s3 := (s2.modCtx 0 fun y => { y with root := some root }).servicePages root (entry.toNat / 65536 * 65536) pa n
    ({ s3 with mem := Memory.writeList s3.mem (pa + entry.toNat % 65536) text,
               caches := s3.caches.dropCtx 0,
               soiled := clusterOf slot :: s3.soiled.filter (· ≠ clusterOf slot) }).putStrand slot (serviceStrand s slot entry)

/-- SETROOT (R339). -/
def execSetroot (d a b : SReg) (s : State) : Res := s.ptctlForm d a b
/-- INVVA (R339). -/
def execInvva (d a b : SReg) (s : State) : Res := s.ptctlForm d a b
/-- INVCTX (R339). -/
def execInvctx (d a b : SReg) (s : State) : Res := s.ptctlForm d a b
/-- WALK (R339). -/
def execWalk (d a b : SReg) (s : State) : Res := s.ptctlForm d a b

end Sys2Proof.Machine
end

