-- ==== Sys2Proof/Machine/Kernel.lean ====
section
/-! DEFINITION. Code objects: checks, finalization, loading, attaching, launching and unloading, and the requests about
queues (16: R245 to R261, R395; 17: R262 to R264). -/

namespace Sys2Proof.Machine

/-! ### The portable object -/

/-- A kernel descriptor (R246). -/
structure KDesc where
  entry : Nat
  trapw : Nat
  widf : Nat
  strands : Nat
  slots : Nat
  accrows : Nat
  tiles : Nat
  streams : Nat
  lo : Nat
  hi : Nat
  methI : Nat
  methN : Nat
  pinI : Nat
  pinN : Nat
  name : Nat
  zeroOk : Bool
  deriving DecidableEq, Repr

/-- The descriptor at an offset of an object. -/
def kdescAt (b : List Byte) (o : Nat) : KDesc :=
  let d := b.drop o
  { entry := numAt d 0 4, trapw := numAt d 4 4, widf := numAt d 8 8, strands := numAt d 16 1, slots := numAt d 17 1,
    accrows := numAt d 18 2, tiles := numAt d 20 1, streams := numAt d 21 1, lo := numAt d 24 4, hi := numAt d 28 4,
    methI := numAt d 32 4, methN := numAt d 36 2, pinI := numAt d 38 2, pinN := numAt d 40 2, name := numAt d 42 4,
    zeroOk := numAt d 22 2 == 0 && numAt d 46 18 == 0 }

/-- A portable object as its header lays it out (R245). meth: entries up to the last a descriptor names. -/
structure Portable where
  nk : Nat
  kernels : List KDesc
  text : List (BitVec 32)
  dmap : List Byte
  data : List Byte
  reloc : List Nat
  meth : List (List Byte)
  pins : List (Nat × Nat)
  bvlen : Nat
  lendep : Bool
  deriving DecidableEq, Repr

/-- Whether ranges (start, length) lie in [0, n) without overlap; an empty range overlaps nothing. -/
def disjointIn (n : Nat) : List (Nat × Nat) → Bool
  | [] => true
  | (a, l) :: r => decide (a + l ≤ n) && (r.all fun p => l = 0 || p.2 = 0 || a + l ≤ p.1 || p.1 + p.2 ≤ a) && disjointIn n r

/-- The checks of R247 whose failure gives status 1, and the tables of an object that passes them. -/
def parseObject (b : List Byte) : Option Portable :=
  let size := b.length
  let at4 := fun o => numAt b o 4
  let nk := numAt b 9 1
  let textw := at4 12
  let datab := numAt b 16 8
  let ks := (List.range nk).map fun i => kdescAt b (at4 24 + 64 * i)
  let nmeth := (ks.map fun k => if k.methN = 0 then 0 else k.methI + k.methN).foldl Nat.max 0
  let str := (ks.map fun k => k.name + 1 + numAt b (at4 52 + k.name) 1).foldl Nat.max 0
  let ranges := [(0, 128), (at4 24, 64 * nk), (at4 28, 4 * textw), (at4 32, (textw + 7) / 8), (at4 36, datab),
    (at4 40, 4 + 8 * numAt b (at4 40) 4), (at4 44, 16 * nmeth), (at4 48, 4 + 8 * numAt b (at4 48) 4), (at4 52, str),
    (at4 56, 4 + 144 * numAt b (at4 56) 4)]
  let lendep := numAt b 6 2 % 2 == 1
  let bvlen := numAt b 8 1
  let meth := (List.range nmeth).map fun i => (b.drop (at4 44 + 16 * i)).take 16
  if 128 ≤ size && at4 0 == 0x4F4C4B4B && numAt b 4 2 == 1 && decide (numAt b 6 2 < 2) && numAt b 10 2 == 0
      && numAt b 60 4 == 0 && numAt b 72 56 == 0 && decide (1 ≤ nk) && decide (nk ≤ 64) && decide (1 ≤ textw)
      && decide (textw ≤ 2 ^ 24) && decide (datab ≤ 2 ^ 36) && numAt b 64 8 == size
      && disjointIn size ranges && (ks.all fun k => k.zeroOk) && (meth.all fun m => numAt m 3 1 == 0 && numAt m 10 2 == 0)
      && (if lendep then decide (9 ≤ bvlen) && decide (bvlen ≤ 16) else bvlen == 0) then
    some { nk := nk, kernels := ks,
           text := (List.range textw).map fun i => BitVec.ofNat 32 (numAt b (at4 28 + 4 * i) 4),
           dmap := (b.drop (at4 32)).take ((textw + 7) / 8), data := (b.drop (at4 36)).take datab,
           reloc := (List.range (numAt b (at4 40) 4)).map fun i => numAt b (at4 40 + 4 + 8 * i) 8,
           meth := meth,
           pins := (List.range (numAt b (at4 48) 4)).map fun i =>
             (numAt b (at4 48 + 4 + 8 * i) 4, numAt b (at4 48 + 8 + 8 * i) 4),
           bvlen := bvlen, lendep := lendep }
  else none

/-- Whether word n of TEXT was placed by a data directive (R245 DMAP). -/
def Portable.isData (p : Portable) (n : Nat) : Bool := (p.dmap.getD (n / 8) 0).getLsbD (n % 8)

/-- Whether WIDF obeys R57 and R115: one to six fields of at least one bit and at most 64 in all, zeros elsewhere. -/
def widfOk (w : Nat) : Bool :=
  let nf := fld w 44 42
  let ws := (List.range 6).map fun n => fld w (7 * n + 6) (7 * n)
  w / 2 ^ 45 == 0 && decide (1 ≤ nf) && decide (nf ≤ 6) && (List.range 6).all (fun n => (ws.getD n 0 == 0) == decide (nf ≤ n))
    && decide (ws.sum ≤ 64)

/-- The checks of R247 whose failure gives status 2. Ranges of several kernels that all begin at word 0 are counted from the words
of their own kernels and not from those of TEXT: they are refused (DEDUCED, log 42). -/
def Portable.sound (p : Portable) : Bool :=
  let inK := fun (k : KDesc) n => decide (k.lo ≤ n) && decide (n < k.hi)
  (p.kernels.all fun k =>
    decide (k.lo < k.hi) && decide (k.hi ≤ p.text.length) && inK k k.entry
      && (k.trapw == 0xFFFFFFFF || inK k k.trapw)
      && widfOk k.widf && decide (1 ≤ k.strands) && decide (k.strands ≤ 64) && decide (k.slots ≤ 16)
      && decide (k.accrows ≤ 4096) && decide (k.tiles ≤ 8) && decide (k.streams ≤ 16)
      && decide (k.pinI + k.pinN ≤ p.pins.length)
      && (((p.pins.drop k.pinI).take k.pinN).all fun r => decide (k.lo ≤ r.1) && decide (r.1 ≤ r.2) && decide (r.2 ≤ k.hi))
      && (((p.meth.drop k.methI).take k.methN).all fun m =>
        inK k (numAt m 12 4) && decide (1 ≤ numAt m 2 1) && decide (numAt m 2 1 ≤ 6)))
    && disjointIn p.text.length (p.kernels.map fun k => (k.lo, k.hi - k.lo))
    && !(decide (2 ≤ p.kernels.length) && p.kernels.all fun k => k.lo == 0)
    && (p.text.zipIdx.all fun w => fld w.1.toNat 31 26 != 0x3F || p.isData w.2)
    && (p.reloc.all fun o => o % 8 == 0 && decide (o + 8 ≤ p.data.length))

/-! ### Finalization -/

/-- The width of the offset field of a branch or JAL (R105). A word of their majors that is a reserved encoding is none of them
and is kept (R247). -/
def relWidth (w : BitVec 32) : Option Nat :=
  if fld w.toNat 31 26 = 0x0C then (if fld w.toNat 15 13 < 6 then some 13 else none)
  else if fld w.toNat 31 26 = 0x0D then (if fld w.toNat 20 17 = 0 then some 17 else none)
  else none

/-- A number's low n bits as a signed integer. -/
def sextN (n v : Nat) : Int := (BitVec.ofNat n v).toInt

/-- The payload that governs word n of a kernel's text, when the word before it is a PFX that jelas placed (R66). -/
def Portable.pfxBefore (p : Portable) (k : KDesc) (n : Nat) : Option Nat :=
  if n ≤ k.lo || p.isData (n - 1) then none
  else
    let w := p.text.getD (n - 1) 0
    if fld w.toNat 31 26 = 0x3E then some (w.toNat % 2 ^ 26) else none

/-- The signed word offset of the relative branch at word n (R105). -/
def Portable.offset (p : Portable) (k : KDesc) (n width : Nat) : Int :=
  let f := (p.text.getD n 0).toNat % 2 ^ width
  match p.pfxBefore k n with
  | some q => sextN (26 + width) (q * 2 ^ width + f)
  | none => sextN width f

/-- Relative branches of a kernel, which the finalizer re-encodes: word numbers (R252). -/
def Portable.branches (p : Portable) (k : KDesc) : List Nat :=
  ((List.range (k.hi - k.lo)).map (· + k.lo)).filter fun n => !p.isData n && (relWidth (p.text.getD n 0)).isSome

/-- Whether word n, placed by jelas or by a data directive, is a PFX. -/
def Portable.isPfx (p : Portable) (n : Nat) : Bool := fld (p.text.getD n 0).toNat 31 26 == 0x3E

/-- The words of the instruction position that begins at word n of a kernel (R68); 0 where none can: a word of a data directive,
a PFX that governs no instruction, and a word behind data that would govern it. -/
def Portable.position (p : Portable) (k : KDesc) (n : Nat) : Nat :=
  if p.isData n || (decide (k.lo < n) && p.isData (n - 1) && p.isPfx (n - 1)) then 0
  else if !p.isPfx n then 1
  else if k.hi ≤ n + 1 || p.isData (n + 1) || p.isPfx (n + 1) then 0
  else 2

/-- The clauses of a kernel from word n on, as (first word, positions): seven positions each, while positions follow each other
(R68, R252). at_, len: the clause being filled. -/
def Portable.clausesFrom (p : Portable) (k : KDesc) : Nat → Nat → Nat → Nat → List (Nat × Nat)
  | 0, _, at_, len => if len = 0 then [] else [(at_, len)]
  | fuel + 1, n, at_, len =>
    if k.hi ≤ n then (if len = 0 then [] else [(at_, len)])
    else match p.position k n with
      | 0 => (if len = 0 then [] else [(at_, len)]) ++ p.clausesFrom k fuel (n + 1) n 0
      | w + 1 =>
        if len = 0 then p.clausesFrom k fuel (n + w + 1) n 1
        else if len < 7 then p.clausesFrom k fuel (n + w + 1) at_ (len + 1)
        else (at_, len) :: p.clausesFrom k fuel (n + w + 1) n 1

/-- The clauses of an object. -/
def Portable.clauses (p : Portable) : List (Nat × Nat) :=
  p.kernels.flatMap fun k => p.clausesFrom k (k.hi - k.lo + 1) k.lo k.lo 0

/-- A CLH word over n positions (R68). Every position but the first stands three cycles off the one before: D is then at least 4
for every pair, the greatest latency of R69, so that every hazard is covered (R71, R253; DESIGN CHOICE, log 40). -/
def clhWord (n : Nat) : BitVec 32 :=
  BitVec.ofNat 32 (0x3F * 2 ^ 26 + n + ((List.range (n - 1)).map fun i => 3 * 8 ^ (i + 2)).sum)

/-- The words that the finalizer adds to an object: a PFX before each word of a list, and a CLH at the start of each clause. -/
structure Added where
  pfx : List Nat
  heads : List (Nat × Nat)
  deriving DecidableEq, Repr

/-- Words of resident text before word n of a kernel; a CLH that opens a clause at word n stands before it. -/
def posIn (k : KDesc) (added : Added) (n : Nat) : Nat :=
  n - k.lo + (added.pfx.filter fun a => decide (k.lo ≤ a) && decide (a < n)).length
    + (added.heads.filter fun a => decide (k.lo ≤ a.1) && decide (a.1 ≤ n) && decide (a.1 < k.hi)).length

/-- Lines of a kernel. -/
def kernelLines (k : KDesc) (added : Added) : Nat := (posIn k added k.hi + 15) / 16

/-- The first resident word of each kernel, 16 words a line (R252). -/
def startsOf (ks : List KDesc) (added : Added) : List Nat :=
  (List.range ks.length).map fun i => 16 * ((ks.take i).map fun k => kernelLines k added).sum

/-- The resident word number of word t of TEXT, that of its added PFX where it has one; none outside every kernel. -/
def residentOf (ks : List KDesc) (added : Added) (t : Int) : Option Nat :=
  ((ks.zip (startsOf ks added)).find? fun p => decide ((p.1.lo : Int) ≤ t) && decide (t < p.1.hi)).map fun p =>
    p.2 + posIn p.1 added t.toNat

/-- The resident offset of the branch at word n of a kernel; the portable one where the target is in no kernel. -/
def Portable.newOffset (p : Portable) (added : Added) (k : KDesc) (start n width : Nat) : Int :=
  let off := p.offset k n width
  match residentOf p.kernels added (n + off) with
  | some t => t - ((start + posIn k added n + bitN (added.pfx.contains n) : Nat) : Int)
  | none => off

/-- Branches that need a PFX of their own and have none (R252): offsets that do not fit their field. -/
def Portable.needPfx (p : Portable) (added : Added) : List Nat :=
  (p.kernels.zip (startsOf p.kernels added)).flatMap fun q =>
    (p.branches q.1).filter fun n =>
      match relWidth (p.text.getD n 0) with
      | none => false
      | some w =>
        let o := p.newOffset added q.1 q.2 n w
        (p.pfxBefore q.1 n).isNone && !added.pfx.contains n && !(decide (-(2 ^ (w - 1)) ≤ o) && decide (o < 2 ^ (w - 1)))

/-- Adds PFX words until every offset fits. -/
def Portable.settle (p : Portable) : Nat → Added → Added
  | 0, added => added
  | n + 1, added => match p.needPfx added with | [] => added | more => p.settle n { added with pfx := more ++ added.pfx }

/-- A word with another payload. -/
def pfxWord (q : Nat) : BitVec 32 := BitVec.ofNat 32 (0x3E * 2 ^ 26 + q % 2 ^ 26)

/-- The resident words that one portable word becomes, behind the CLH of a clause that it begins (R252, R253). The PFX before a
re-encoded branch is written with it. -/
def Portable.resident (p : Portable) (added : Added) (k : KDesc) (start n : Nat) : List (BitVec 32) :=
  let w := p.text.getD n 0
  let encode := fun (m : Nat) (v : BitVec 32) => match relWidth v with
    | none => (0, v)
    | some width =>
      let o := (p.newOffset added k start m width % 2 ^ (26 + width)).toNat
      (o / 2 ^ width, BitVec.ofNat 32 (v.toNat / 2 ^ width * 2 ^ width + o % 2 ^ width))
  let br := p.branches k
  ((added.heads.filter fun a => a.1 = n).map fun a => clhWord a.2) ++
    if br.contains n then
      let e := encode n w
      if added.pfx.contains n then [pfxWord e.1, e.2] else [e.2]
    else if br.contains (n + 1) && p.isPfx n && !p.isData n then [pfxWord (encode (n + 1) (p.text.getD (n + 1) 0)).1]
    else [w]

/-- A finalized object: the resident words of each kernel in whole lines. -/
structure Final where
  added : Added
  starts : List Nat
  lines : List (List (List (BitVec 32)))
  deriving DecidableEq, Repr

/-- Cuts a list of words into lines of 16, the last padded with zero words (R252). -/
def cutLines : Nat → List (BitVec 32) → List (List (BitVec 32))
  | 0, _ => []
  | n + 1, ws => ((ws.take 16) ++ List.replicate (16 - (ws.take 16).length) 0) :: cutLines n (ws.drop 16)

/-- The finalizer (R251 to R253). -/
def Portable.finalize (p : Portable) : Final :=
  let added := p.settle (p.text.length + 1) { pfx := [], heads := p.clauses }
  let starts := startsOf p.kernels added
  { added := added, starts := starts,
    lines := (p.kernels.zip starts).map fun q =>
      cutLines (kernelLines q.1 added) (((List.range (q.1.hi - q.1.lo)).map fun i =>
        p.resident added q.1 q.2 (q.1.lo + i)).flatten) }

/-- A compressed line under a dictionary (R254). -/
def compressLine (dict : List (BitVec 32)) (ws : List (BitVec 32)) : List Byte :=
  let hit := (ws.map fun w => bitN (dict.contains w)).zipIdx.map (fun p => p.1 * 2 ^ p.2) |>.sum
  natToBytes 2 hit ++ ((ws.filter fun w => dict.contains w).map fun w => BitVec.ofNat 8 (dict.idxOf w))
    ++ ((ws.filter fun w => !dict.contains w).flatMap fun w => natToBytes 4 w.toNat)

/-- A LATT entry (R255). -/
def lattEntry (off kix : Nat) (pin : Bool) : Word := BitVec.ofNat 64 (off + kix * 2 ^ 40 + bitN pin * 2 ^ 46)

/-- The LATT and the compressed text of lines given with their kernel and pin (R255). -/
def packLines (dict : List (BitVec 32)) : Nat → List (Nat × Bool × List (BitVec 32)) → List Word × List Byte
  | _, [] => ([], [])
  | off, (kix, pin, ws) :: r =>
    let c := compressLine dict ws
    let q := packLines dict (off + c.length) r
    (lattEntry off kix pin :: q.1, c ++ q.2)

/-- Line numbers, counted in the object, that a `.pin` range of a kernel touches (R57, R256). The spec does not say whether a
CLH that the finalizer puts before a label belongs to the range: the one before the word at label1 does not, every later one up
to the word at label2 does (DESIGN CHOICE, log 119). -/
def pinnedLines (p : Portable) (f : Final) (k : KDesc) (start : Nat) : List Nat :=
  (((p.pins.drop k.pinI).take k.pinN).flatMap fun r =>
    if r.1 = r.2 then []
    else
      let a := (start + posIn k f.added r.1) / 16
      let b := (start + posIn k f.added r.2 - 1) / 16
      (List.range (b + 1 - a)).map (· + a)).dedup

/-- The bytes of a kernel's resident method table (R276). -/
def methodTable (p : Portable) (f : Final) (cbase : Nat) (k : KDesc) : List Byte :=
  if k.methN = 0 then []
  else
    natToBytes 16 (k.methN + cbase * 2 ^ 64) ++ ((p.meth.drop k.methI).take k.methN).flatMap fun m =>
      m.take 12 ++ natToBytes 4 (4 * (residentOf p.kernels f.added (numAt m 12 4)).getD 0)

/-- The initial image of .data with its relocations (R395): an offset that RELOC lists twice has DBASE added twice (DESIGN CHOICE,
log 113). -/
def relocated (data : List Byte) (reloc : List Nat) (dbase : Nat) : List Byte :=
  reloc.foldl (fun d o => d.take o ++ natToBytes 8 (numAt d o 8 + dbase) ++ d.drop (o + 8)) data

/-- The first range from an address upward that no object has had, unloaded ones among them (R248), and whose pages a context has not
mapped. -/
def State.baseFrom (s : State) (c : BitVec 16) (pages dpages : Nat) : Nat → Nat → Option Nat
  | 0, _ => none
  | n + 1, a =>
    if (s.objs.all fun o => o.cbase ≠ a) && s.allUnmapped c a pages && s.allUnmapped c (a + 2 ^ 36) dpages then some a
    else s.baseFrom c pages dpages n (a + 2 ^ 37)

/-- A choice of CBASE: of the ranges of 2^37 bytes from 2^55 upward, the lowest that no object has had and whose pages the context
has not mapped; text and method tables stand at its start, data 2^36 above (DESIGN CHOICE, log 41). -/
def State.findBase (s : State) (c : BitVec 16) (pages dpages : Nat) : Option Nat :=
  s.baseFrom c pages dpages 262144 (2 ^ 55)

/-- Pages of 64 KiB that n bytes take. -/
def pages64 (n : Nat) : Nat := (n + 65535) / 65536

/-- Writes bytes into mapped memory of a context, whatever the permissions: the Oasis kernel's own copy. -/
def State.fillBytes (s : State) (c : BitVec 16) (va : Nat) : List Byte → State
  | [] => s
  | b :: r =>
    match (s.walkIn c va).1 with
    | .leaf e size => ({ s with mem := Memory.set s.mem (ptePa e + va % size) b }).fillBytes c (va + 1) r
    | _ => s.fillBytes c (va + 1) r

/-- Method tables of an object at their place behind the text, and its data, mapped and filled in a context. -/
def State.mapObject (s : State) (c : BitVec 16) (o : Obj) (tables : List Byte) : Option State :=
  match s.mapPages c o.cbase 0 4 false o.textPages with
  | none => none
  | some s1 =>
    match s1.mapPages c (o.cbase + o.textPages * 65536) 0 1 false o.mpages with
    | none => none
    | some s2 =>
      match s2.mapPages c o.dbase 0 3 false (pages64 o.datab) with
      | none => none
      | some s3 =>
        some ((s3.fillBytes c (o.cbase + o.textPages * 65536) tables).fillBytes c o.dbase o.image)

/-- The object that a finalized portable object becomes at a base. -/
def Portable.object (p : Portable) (f : Final) (handle : Nat) (c : BitVec 16) (cbase : Nat) : Obj × List Byte :=
  let dict : List (BitVec 32) := [0]
  let ks := p.kernels.zip f.starts
  let pins := ks.map fun q => pinnedLines p f q.1 q.2
  let numbered := (f.lines.zipIdx.flatMap fun q => q.1.map fun l => (q.2, l)).zipIdx
  let packed := packLines dict 0 (numbered.map fun q => (q.1.1, pins.any fun l => l.contains q.2, q.1.2))
  let nl := numbered.length
  let dbase := if p.data.isEmpty then 0 else cbase + 2 ^ 36
  let at_ := cbase + (64 * nl + 65535) / 65536 * 65536
  let tabs := p.kernels.map fun k => methodTable p f cbase k
  let kernels := (ks.zip pins).zipIdx.map fun q =>
    let k := q.1.1.1
    let addr := fun n => BitVec.ofNat 64 (cbase + 4 * (residentOf p.kernels f.added n).getD 0)
    ({ entry := addr k.entry, tvec := if k.trapw = 0xFFFFFFFF then 0 else addr k.trapw, widf := BitVec.ofNat 45 k.widf,
       strands := k.strands, slots := k.slots, accrows := k.accrows, tiles := k.tiles, streams := k.streams,
       mtab := if k.methN = 0 then 0 else BitVec.ofNat 64 (at_ + ((tabs.take q.2).map List.length).sum),
       pins := q.1.2.map fun l => (l, 1) } : Kernel)
  ({ handle := handle, ctx := c, atts := [c], st := .resident, cbase := cbase, lines := nl, dbase := dbase,
     datab := p.data.length, mpages := pages64 (tabs.map List.length).sum,
     image := relocated p.data p.reloc dbase, kernels := kernels, latt := packed.1,
     dicts := p.kernels.map fun _ => dict, text := packed.2 }, tabs.flatten)

/-- The resident image whose hash is logged (R251): LATT, dictionaries in kernel order, compressed text. -/
def Obj.residentImage (o : Obj) : List Byte :=
  (o.latt.flatMap fun w => natToBytes 8 w.toNat) ++ (o.dicts.flatMap fun d => d.flatMap fun w => natToBytes 4 w.toNat) ++ o.text

/-! ### Kernel requests -/

/-- A kernel request: its record's bytes and its context; only the codes of R259 are returned (R358). -/
def State.kernelRequest (s : State) (q : Req) (code : Nat) (fs : List (Nat × Nat)) (k : State → Context → State) : Res :=
  s.request fun s =>
    if !Req.only q fs then s.complete q code 1 []
    else match s.ctx? q.ctx with
      | none => s.complete q code 6 []
      | some x => if q.ctx = 0 || !x.hostable then s.complete q code 6 [] else k s x

/-- The object of a handle that a context may name: not unloaded (R248). -/
def State.objOf (s : State) (c : BitVec 16) (h : Nat) : Option Obj :=
  s.objs.find? fun o => o.handle = h && o.st ≠ .unloaded && o.atts.contains c

/-- The bytes of a load request's object as the context's memory holds them. -/
def State.readObject (s : State) (c : BitVec 16) (va size : Nat) : Option (List Byte) :=
  if 2 ^ 56 < va + size then none
  else match s.placeEach (walkerOf 0 c) .read va size with
    | .ok ls => some (ls.map (Memory.get s.mem))
    | .error _ => none

/-- The status of a load whose object has passed the first checks (R247): 2, 5 or 4, and 0 where it loads. Where several apply,
2 comes before 5 and 5 before 4 (DESIGN CHOICE, log 122). -/
def loadStatus (p : Portable) (f : Final) : Nat :=
  if !p.sound then 2
  else if p.lendep && p.bvlen ≠ 13 then 5
  else if (p.kernels.zip f.starts).any fun q => 256 < (pinnedLines p f q.1 q.2).length then 4
  else 0

/-- The audit body of a hash: handle, status, hash (R381 types 6 and 7). -/
def hashBody (handle status : Nat) (h : BitVec 256) : List (Nat × Nat) := [(0, handle), (8, status), (16, h.toNat)]

/-- The completion report of a request whose hashes or kills are logged first (R384). -/
def State.completeLogged (s : State) (q : Req) (code status : Nat) (fs : List (Nat × Nat)) (obj : Nat := 0) : State :=
  s.reportLogged (mkReport code q.tag q.ctx status fs) obj

/-- LOAD (R247, R248, R251, R384, R395). A load whose bytes cannot be read has no hash and makes no audit entry; one that is
refused after its finalization, for want of a handle, a base or frames, makes no entry of type 7 (both DESIGN CHOICE, log 120). -/
def execLoad (q : Req) (s : State) : Res :=
  s.kernelRequest q 0x30 [(8, 8), (16, 8)] fun s _ =>
    match s.readObject q.ctx (Req.arg q 8 8) (Req.arg q 16 8) with
    | none => s.complete q 0x30 1 []
    | some b =>
      let hash := shake256 b
      let refuse := fun n => (s.audit 0x0006 q.ctx (hashBody 0 n hash)).completeLogged q 0x30 n []
      match parseObject b with
      | none => refuse 1
      | some p =>
        let f := p.finalize
        if loadStatus p f ≠ 0 then refuse (loadStatus p f)
        else if 2 ^ 32 ≤ s.nextHandle then refuse 4
        else
          let (o0, tabs0) := p.object f s.nextHandle q.ctx 0
          match s.findBase q.ctx (o0.textPages + pages64 tabs0.length) (pages64 o0.datab) with
          | none => refuse 4
          | some base =>
            let (o, tabs) := p.object f s.nextHandle q.ctx base
            match s.mapObject q.ctx o tabs with
            | none => refuse 4
            | some s1 =>
              let s2 := { s1 with objs := s1.objs ++ [o], nextHandle := s1.nextHandle + 1 }
              ((s2.audit 0x0006 q.ctx (hashBody o.handle 0 hash)).audit 0x0007 q.ctx
                (hashBody o.handle 0 (shake256 o.residentImage))).completeLogged q 0x30 0 [(8, o.handle), (16, o.dbase)]

/-- UNLOAD (R248, R261). -/
def execUnload (q : Req) (s : State) : Res :=
  s.kernelRequest q 0x31 [(8, 4)] fun s _ =>
    match s.objOf q.ctx (Req.arg q 8 4) with
    | none => s.complete q 0x31 6 []
    | some o =>
      if o.st = .retiring then s.complete q 0x31 3 []
      else if s.refs o then
        ({ s with objs := s.objs.map fun (x : Obj) => if x.handle = o.handle then { x with st := .retiring } else x }).complete q 0x31 0 []
      else (s.unloadObj o).complete q 0x31 0 []

/-- Contexts that hold a reference to an object (R249). -/
def State.holdersOf (s : State) (o : Obj) : List (BitVec 16) :=
  o.atts.filter fun c =>
    (s.allStrands.any fun p => p.2.stat ≠ .absent && p.2.ctx = c
      && (o.holds p.2.pc.toNat || (p.2.trap.inh && o.holds p.2.trap.tpc.toNat)))
    || s.launches.any fun l => l.ctx = c && l.obj = o.handle &&
      (decide (l.next < l.groups) || s.groups.any fun g => g.2.ctx = c && g.2.lid = l.lid && !g.2.saved.isEmpty)

/-- Kills a context with cause 0x31: a failure report, an audit entry and the release (R261). -/
def State.killCtx (s : State) (c : BitVec 16) (cause : Nat) : State :=
  (s.report (mkReport 0x81 0 c 0 [(8, cause), (10, 0xFFFF)])).endCtx c cause

/-- FORCE_UNLOAD (R261). -/
def execForceUnload (q : Req) (s : State) : Res :=
  s.kernelRequest q 0x32 [(8, 4)] fun s _ =>
    match s.objOf q.ctx (Req.arg q 8 4) with
    | none => s.complete q 0x32 6 []
    | some o =>
      let dead := s.holdersOf o
      let s1 := dead.foldl (fun y c => y.killCtx c 0x31) (s.audit 0x0008 q.ctx [(0, o.handle)])
      let s2 := match s1.objs.find? fun x => x.handle = o.handle with
        | some o' => s1.unloadObj o'
        | none => s1
      s2.completeLogged q 0x32 0 [(8, dead.length)] o.handle

/-- Method tables of a resident object as memory of its first context holds them. -/
def State.tablesOf (s : State) (o : Obj) : List Byte :=
  match o.atts with
  | [] => []
  | c :: _ =>
    match s.placeEach (walkerOf 0 c) .read (o.cbase + o.textPages * 65536) (o.mpages * 65536) with
    | .ok ls => ls.map (Memory.get s.mem)
    | .error _ => []

/-- ATTACH (R248, R395). -/
def execAttach (q : Req) (s : State) : Res :=
  s.kernelRequest q 0x33 [(8, 4), (12, 2)] fun s _ =>
    let c := BitVec.ofNat 16 (Req.arg q 12 2)
    match s.objOf q.ctx (Req.arg q 8 4), s.ctx? c with
    | some o, some x =>
      if c = 0 || !x.hostable then s.complete q 0x33 6 []
      else if o.st = .retiring then s.complete q 0x33 3 []
      else if !(s.allUnmapped c o.cbase (o.textPages + o.mpages) && s.allUnmapped c o.dbase (pages64 o.datab)) then
        s.complete q 0x33 4 []
      else match s.mapObject c o (s.tablesOf o) with
        | none => s.complete q 0x33 4 []
        | some s1 =>
          ({ s1 with objs := s1.objs.map fun (y : Obj) =>
              if y.handle = o.handle ∧ c ∉ y.atts then { y with atts := y.atts ++ [c] } else y }).complete q 0x33 0 []
    | _, _ => s.complete q 0x33 6 []

/-- Strands of a kernel that one empty cluster takes (R282): per core its slots, accumulator rows and streams. -/
def Kernel.perCluster (k : Kernel) : Nat :=
  8 * Nat.min 8 (Nat.min (if k.accrows = 0 then 8 else 4096 / k.accrows) (if k.streams = 0 then 8 else 32 / k.streams))

/-- LAUNCH (R250, R257, R258, R259). Where several statuses apply, the order is: 1 for the header, 6, 3, 1 for the kernel's number
and the widths, 4 (DESIGN CHOICE, log 122). -/
def execLaunch (q : Req) (s : State) : Res :=
  s.kernelRequest q 0x34 [(8, 8)] fun s x =>
    match Req.bytes q (Req.arg q 8 8) 144 with
    | none => s.complete q 0x34 1 []
    | some b =>
      let lane := numAt b 7 1
      let groups := numAt b 8 8
      if 8 ≤ numAt b 6 1 || lane % 16 = 0 || 64 ≤ lane || groups = 0 || 2 ^ 32 < groups || numAt b 136 8 ≠ 0 then
        s.complete q 0x34 1 []
      else match s.objOf q.ctx (numAt b 0 4) with
        | none => s.complete q 0x34 6 []
        | some o =>
          if o.st = .retiring then s.complete q 0x34 3 []
          else match o.kernels[numAt b 4 2]? with
            | none => s.complete q 0x34 1 []
            | some k =>
              let w0 := widW k.widf 0
              if 2 ^ w0 < k.strands || 2 ^ (64 - w0) < groups then s.complete q 0x34 1 []
              else if k.perCluster < k.strands then s.complete q 0x34 4 []
              else
                let l : Launch := { ctx := q.ctx, lid := x.nextLid, obj := o.handle, kix := numAt b 4 2,
                                    prio := numAt b 6 1, lane := BitVec.ofNat 8 lane, groups := groups,
                                    s := Vector.ofFn fun n => BitVec.ofNat 64 (numAt b (16 + 8 * n.val) 8),
                                    next := 0, ended := 0, failed := none }
                (({ s with launches := s.launches ++ [l] }).modCtx q.ctx fun y => { y with nextLid := y.nextLid + 1 }).complete
                  q 0x34 0 [(8, x.nextLid)]

/-! ### Queue requests -/

/-- A window of BAR0 no queue holds (R268). -/
def State.freeWindow (s : State) : Option Nat :=
  ((List.range (63 * 2 ^ 14)).map fun i => 2 ^ 20 + 64 * i).find? fun w => s.queues.all fun k => k.window ≠ w

/-- Whether every page of the counter array is mapped readable and writable (R263). -/
def State.countersMapped (s : State) (c : BitVec 16) (depb depn : Nat) : Bool :=
  (List.range (pages64 (depb % 65536 + 8 * depn))).all fun i =>
    match (s.walkIn c (depb / 65536 * 65536 + i * 65536)).1 with
    | .leaf e _ => pteSt e == 0 && permits e .rw
    | _ => false

/-- CREATE_QUEUE (R262, R263, R268, R359). -/
def execCreateQueue (q : Req) (s : State) : Res :=
  s.ctxRequest q 0x20 [(8, 1), (9, 1), (12, 4), (16, 8), (24, 4), (28, 4), (32, 8)] fun s x =>
    let kind := Req.arg q 8 1
    let capl := Req.arg q 9 1
    let depn := Req.arg q 12 4
    let depb := Req.arg q 16 8
    let cvb := Req.arg q 24 4
    let cvn := Req.arg q 28 4
    let va := Req.arg q 32 8
    let npages := pages64 (va % 65536 + queueBytes capl)
    if 2 ≤ kind || capl < 3 || 20 < capl || depn = 0 || 65536 < depn || 4096 < cvn || depn < cvb + cvn || depb % 8 ≠ 0
        || 2 ^ 56 < depb + 8 * depn || va % 128 ≠ 0 || 2 ^ 56 < va + queueBytes capl then s.complete q 0x20 1 []
    else if !x.hostable then s.complete q 0x20 7 []
    else if !s.countersMapped q.ctx depb depn || !s.allUnmapped q.ctx (va / 65536 * 65536) npages then s.complete q 0x20 1 []
    else match s.freeWindow, s.mapPages q.ctx (va / 65536 * 65536) 0 0 true npages with
      | some w, some s1 =>
        let k : Queue := { ctx := q.ctx, va := va, deque := kind == 1, capl := capl, depb := depb, depn := depn,
                           cvb := cvb, cvn := cvn, cvnext := 0, isSealed := false, levels := Vector.replicate 8 [],
                           parked := [], drop := 0, owner := none, nextSeq := 1, window := w }
        let s2 := (List.range cvn).foldl (fun y n =>
          match y.counterAt k (cvb + n) with | some ls => y.put ls (2 ^ 63) | none => y) s1
        ({ s2 with queues := s2.queues ++ [k],
                   graves := s2.graves.filter fun y => !(y.ctx = k.ctx && y.va = k.va) }).complete q 0x20 0 [(8, va), (16, w)]
      | _, _ => s.complete q 0x20 4 []

/-- SEAL_QUEUE (R264). -/
def execSealQueue (q : Req) (s : State) : Res :=
  s.ctxRequest q 0x21 [(8, 8)] fun s _ =>
    match s.queue? q.ctx (Req.arg q 8 8) with
    | none => s.complete q 0x21 6 []
    | some k =>
      if k.isSealed then s.complete q 0x21 7 []
      else ((s.setQueue { k with isSealed := true }).serve q.ctx k.va).complete q 0x21 0 []

/-- DESTROY_QUEUE (R264): records are discarded and parked QPOPs complete EMPTY and SEALED. Its pages stay queue pages until the
host unmaps them (R337), so a form that names the address raises cause 0x02. -/
def execDestroyQueue (q : Req) (s : State) : Res :=
  s.ctxRequest q 0x22 [(8, 8)] fun s _ =>
    match s.queue? q.ctx (Req.arg q 8 8) with
    | none => s.complete q 0x22 6 []
    | some k =>
      let s1 := k.parked.foldl (fun y p => y.finishPop p.slot p.dst (emptyWord true)) s
      let here := fun (y : Queue) => y.ctx = k.ctx && y.va = k.va
      ({ s1 with queues := s1.queues.filter (fun y => !here y), graves := k.grave :: s1.graves.filter fun y => !here y }).complete
        q 0x22 0 []

end Sys2Proof.Machine
end

