-- ==== Sys2Proof/Machine/Forms.lean ====
section
/-! DEFINITION. What the scalar pipeline must know of a form before it executes: the side it belongs to (R27), the scalar
registers it reads and writes (R28, R29, R31, R70), the accesses it makes (R28) and the tile it names (R181). -/

namespace Sys2Proof

/-- Whether a form is a vector-stream form (R27, R63). -/
def Instr.isVector : Instr → Bool
  | .setvlf _ _ _ _ _ | .setshape _ _ _ | .vadd _ _ _ _ _ | .vsub _ _ _ _ _ | .vrsub _ _ _ _ _ | .vmul _ _ _ _ _
  | .vmulh _ _ _ _ _ | .vmacc _ _ _ _ _ _ | .vwmacc _ _ _ _ _ | .vmerge _ _ _ _ _ | .vand _ _ _ _ _ | .vor _ _ _ _ _
  | .vxor _ _ _ _ _ | .vsll _ _ _ _ _ | .vsrl _ _ _ _ _ | .vsra _ _ _ _ _ | .vnsra _ _ _ _ _ _ | .vmin _ _ _ _ _
  | .vmax _ _ _ _ _ | .vminn _ _ _ _ _ | .vmaxn _ _ _ _ _ | .vsadd _ _ _ _ _ _ | .vssub _ _ _ _ _ _
  | .vdiv _ _ _ _ _ _ | .vrem _ _ _ _ _ _ | .vcmpEq _ _ _ _ _ | .vcmpNe _ _ _ _ _ | .vcmpLt _ _ _ _ _
  | .vcmpLe _ _ _ _ _ | .vcmpLtn _ _ _ _ _ | .vcmpLen _ _ _ _ _ | .vaddVx _ _ _ _ _ | .vsubVx _ _ _ _ _
  | .vrsubVx _ _ _ _ _ | .vmulVx _ _ _ _ _ | .vmulhVx _ _ _ _ _ | .vmaccVx _ _ _ _ _ _ | .vwmaccVx _ _ _ _ _
  | .vmergeVx _ _ _ _ _ | .vandVx _ _ _ _ _ | .vorVx _ _ _ _ _ | .vxorVx _ _ _ _ _ | .vsllVx _ _ _ _ _
  | .vsrlVx _ _ _ _ _ | .vsraVx _ _ _ _ _ | .vnsraVx _ _ _ _ _ _ | .vminVx _ _ _ _ _ | .vmaxVx _ _ _ _ _
  | .vminnVx _ _ _ _ _ | .vmaxnVx _ _ _ _ _ | .vsaddVx _ _ _ _ _ _ | .vssubVx _ _ _ _ _ _ | .vdivVx _ _ _ _ _ _
  | .vremVx _ _ _ _ _ _ | .vcmpEqVx _ _ _ _ _ | .vcmpNeVx _ _ _ _ _ | .vcmpLtVx _ _ _ _ _ | .vcmpLeVx _ _ _ _ _
  | .vcmpLtnVx _ _ _ _ _ | .vcmpLenVx _ _ _ _ _ | .vfadd _ _ _ _ _ _ | .vfsub _ _ _ _ _ _ | .vfmul _ _ _ _ _ _
  | .vfdiv _ _ _ _ _ _ | .vfmin _ _ _ _ _ _ | .vfmax _ _ _ _ _ _ | .vfsqrt _ _ _ _ _ | .vfclass _ _ _ _
  | .vfaddVx _ _ _ _ _ _ | .vfsubVx _ _ _ _ _ _ | .vfmulVx _ _ _ _ _ _ | .vfdivVx _ _ _ _ _ _ | .vfminVx _ _ _ _ _ _
  | .vfmaxVx _ _ _ _ _ _ | .vfma _ _ _ _ _ _ | .vfnma _ _ _ _ _ _ | .vfmaVx _ _ _ _ _ _ | .vfnmaVx _ _ _ _ _ _
  | .vfcmpEq _ _ _ _ _ _ | .vfcmpLt _ _ _ _ _ _ | .vfcmpLe _ _ _ _ _ _ | .vfcmpUn _ _ _ _ _ _ | .vfrece _ _ _ _ _
  | .vfrsqe _ _ _ _ _ | .vfexp2 _ _ _ _ _ | .vflog2 _ _ _ _ _ | .vftanh _ _ _ _ _ | .vfsigm _ _ _ _ _
  | .vcvt _ _ _ _ _ _ | .vbq _ _ _ _ _ _ | .vbdq _ _ _ _ _ | .vhad _ _ _ _ _ _ _ _ | .vpack _ _ _ _ | .vunpk _ _ _ _
  | .vrng _ _ _ | .vgather _ _ _ _ | .vcompress _ _ _ | .vexpand _ _ _ | .viota _ _ _ | .vid _ _ | .vbcast _ _ _
  | .vmvx _ _ | .vrds _ _ _ | .vredsum _ _ _ _ _ _ | .vredmax _ _ _ _ _ | .vredmin _ _ _ _ _ | .vscan _ _ _ _ _ _
  | .vfredsum _ _ _ _ _ _ | .vfredosum _ _ _ _ _ _ | .vfredmax _ _ _ _ _ _ | .vfscan _ _ _ _ _ _ | .mand _ _ _
  | .mor _ _ _ | .mxor _ _ _ | .mnot _ _ | .mpopc _ _ | .mfirst _ _ | .vslideup _ _ _ _ _ | .vslidedn _ _ _ _ _
  | .vld _ _ _ _ _ _ | .vst _ _ _ _ _ | .vlds _ _ _ _ _ _ | .vsts _ _ _ _ _ | .vldx _ _ _ _ _ _ | .vstx _ _ _ _ _
  | .vldg _ _ _ _ _ _ | .vstg _ _ _ _ _ | .vldt _ _ _ _ _ _ | .vstt _ _ _ _ _ _ | .vamoSwap _ _ _ _ _ _ _
  | .vamoAdd _ _ _ _ _ _ _ | .vamoAnd _ _ _ _ _ _ _ | .vamoOr _ _ _ _ _ _ _ | .vamoXor _ _ _ _ _ _ _
  | .vamoMin _ _ _ _ _ _ _ | .vamoMax _ _ _ _ _ _ _ | .vwait _ _ _ _ _ _ | .vscadd _ _ _ _ _ | .tdef _ _ _
  | .ttag _ _ | .tgtag _ _ | .tstat _ _ | .twait _ | .mclaim _ | .mrels _ | .mlds _ _ _ | .mrow _ _ _ _ _ _
  | .mtile _ _ _ _ _ _ | .macr _ _ _ _ | .macw _ _ _ | .macz _ _ | .cpyv _ _ _ _ | .cpyx _ _ _ | .cpyt _ _ _
  | .barv _ _ | .skinit _ _ _ | .skupd _ _ _ _ | .skqry _ _ _ _ | .skadd _ _ | .skscl _ _ | .setls _ => true
  | _ => false

/-- The scalar registers a form reads, by field. -/
structure Names where
  d : Option SReg := none
  a : Option SReg := none
  b : Option SReg := none
  c : Option SReg := none
  deriving DecidableEq, Repr

/-- The scalar registers a form reads (R29, R97 to R121). PUSH reads more than these. -/
def Instr.reads : Instr → Names
  | .add _ a b | .sub _ a b | .and _ a b | .or _ a b | .xor _ a b | .sll _ a b | .srl _ a b | .sra _ a b | .slt _ a b
  | .sltn _ a b | .min _ a b | .max _ a b | .minn _ a b | .maxn _ a b | .mul _ a b | .mulh _ a b | .mulhn _ a b
  | .div _ a b | .divn _ a b | .rem _ a b | .remn _ a b | .amoSwap _ a b _ _ | .amoAdd _ a b _ _ | .amoAnd _ a b _ _
  | .amoOr _ a b _ _ | .amoXor _ a b _ _ | .amoMin _ a b _ _ | .amoMax _ a b _ _ | .fadd _ a b | .fsub _ a b
  | .fmul _ a b | .fdiv _ a b | .fmin _ a b | .fmax _ a b | .fcmpEq _ a b | .fcmpLt _ a b | .fcmpLe _ a b
  | .setvlf _ a b _ _ | .setshape _ a b | .vlds _ a b _ _ _ | .vsts _ a b _ _ | .tdef _ a b | .macr _ a b _
  | .macz a b | .qpush _ a b | .qpop _ a b | .qpushb _ a b | .qpopb _ a b | .qsteal _ a b | .dispatch _ a b
  | .dret _ a b | .forkl _ a b | .binit a b | .bwait a b | .scrubCluster _ a b | .scrubL2 _ a b
  | .scrubShadowSlot _ a b | .auditAppend _ a b | .auditSeal _ a b | .auditFree _ a b | .auditExtend _ a b
  | .waysetSet _ a b | .waysetRead _ a b | .setroot _ a b | .invva _ a b | .invctx _ a b | .walk _ a b =>
    { a := some a, b := some b }
  | .clz _ a | .ctz _ a | .popc _ a | .addImm _ a _ | .andImm _ a _ | .orImm _ a _ | .xorImm _ a _ | .sltImm _ a _
  | .sltnImm _ a _ | .sllImm _ a _ | .srlImm _ a _ | .sraImm _ a _ | .minImm _ a _ | .maxImm _ a _ | .minnImm _ a _
  | .maxnImm _ a _ | .ld _ a _ _ | .ldn _ a _ _ | .jalr _ a _ | .fsqrt _ a | .fclass _ a | .fcvt _ a _ _ | .csrw a _
  | .csrs a _ | .csrc a _ | .vstartWrite a | .xflagsWrite a | .probe _ a _ | .setvl _ a _ _ | .vbcast _ a _
  | .vmvx _ a | .vld _ a _ _ _ _ | .vst _ a _ _ _ | .vldx _ a _ _ _ _ | .vstx _ a _ _ _ | .vldg _ a _ _ _ _
  | .vstg _ a _ _ _ | .vamoSwap _ a _ _ _ _ _ | .vamoAdd _ a _ _ _ _ _ | .vamoAnd _ a _ _ _ _ _
  | .vamoOr _ a _ _ _ _ _ | .vamoXor _ a _ _ _ _ _ | .vamoMin _ a _ _ _ _ _ | .vamoMax _ a _ _ _ _ _
  | .vwait _ a _ _ _ _ | .vscadd _ a _ _ _ | .ttag _ a | .mclaim a | .mrels a | .push _ a _ | .strcfg _ a
  | .cpyv _ a _ _ | .cpyx _ a _ | .cpyt _ a _ | .qlen _ a | .joinl _ a | .barv _ a | .barw _ a | .skupd _ a _ _
  | .skqry _ a _ _ | .setls a | .rngck a | .rngrs a | .ctxhalt _ a => { a := some a }
  | .sel _ a b c | .fma _ a b c => { a := some a, b := some b, c := some c }
  | .st d a _ _ | .beq d a _ | .bne d a _ | .blt d a _ | .bge d a _ | .bltn d a _ | .bgen d a _
  | .skadd d a | .skscl d a =>
    { d := some d, a := some a }
  | .cas d a b _ _ | .skinit d a b => { d := some d, a := some a, b := some b }
  | .vaddVx _ _ b _ _ | .vsubVx _ _ b _ _ | .vrsubVx _ _ b _ _ | .vmulVx _ _ b _ _ | .vmulhVx _ _ b _ _
  | .vmaccVx _ _ b _ _ _ | .vwmaccVx _ _ b _ _ | .vmergeVx _ _ b _ _ | .vandVx _ _ b _ _ | .vorVx _ _ b _ _
  | .vxorVx _ _ b _ _ | .vsllVx _ _ b _ _ | .vsrlVx _ _ b _ _ | .vsraVx _ _ b _ _ | .vnsraVx _ _ b _ _ _
  | .vminVx _ _ b _ _ | .vmaxVx _ _ b _ _ | .vminnVx _ _ b _ _ | .vmaxnVx _ _ b _ _ | .vsaddVx _ _ b _ _ _
  | .vssubVx _ _ b _ _ _ | .vdivVx _ _ b _ _ _ | .vremVx _ _ b _ _ _ | .vcmpEqVx _ _ b _ _ | .vcmpNeVx _ _ b _ _
  | .vcmpLtVx _ _ b _ _ | .vcmpLeVx _ _ b _ _ | .vcmpLtnVx _ _ b _ _ | .vcmpLenVx _ _ b _ _ | .vfaddVx _ _ b _ _ _
  | .vfsubVx _ _ b _ _ _ | .vfmulVx _ _ b _ _ _ | .vfdivVx _ _ b _ _ _ | .vfminVx _ _ b _ _ _ | .vfmaxVx _ _ b _ _ _
  | .vfmaVx _ _ b _ _ _ | .vfnmaVx _ _ b _ _ _ | .vrds _ _ b | .vldt _ _ b _ _ _ | .vstt _ _ b _ _ _
  | .mrow _ _ b _ _ _ | .mtile _ _ b _ _ _ | .macw _ b _ => { b := some b }
  | .vslideup _ _ b _ c | .vslidedn _ _ b _ c => { b := some b, c := some c }
  | _ => {}

/-- The scalar register a form writes. DRET names one that it reads (R280). -/
def Instr.dest : Instr → Option SReg
  | .add d _ _ | .sub d _ _ | .and d _ _ | .or d _ _ | .xor d _ _ | .sll d _ _ | .srl d _ _ | .sra d _ _ | .slt d _ _
  | .sltn d _ _ | .min d _ _ | .max d _ _ | .minn d _ _ | .maxn d _ _ | .clz d _ | .ctz d _ | .popc d _ | .mul d _ _
  | .mulh d _ _ | .mulhn d _ _ | .div d _ _ | .divn d _ _ | .rem d _ _ | .remn d _ _ | .sel d _ _ _ | .addImm d _ _
  | .andImm d _ _ | .orImm d _ _ | .xorImm d _ _ | .sltImm d _ _ | .sltnImm d _ _ | .sllImm d _ _ | .srlImm d _ _
  | .sraImm d _ _ | .minImm d _ _ | .maxImm d _ _ | .minnImm d _ _ | .maxnImm d _ _ | .lih d _ | .ld d _ _ _
  | .ldn d _ _ _ | .amoSwap d _ _ _ _ | .amoAdd d _ _ _ _ | .amoAnd d _ _ _ _ | .amoOr d _ _ _ _ | .amoXor d _ _ _ _
  | .amoMin d _ _ _ _ | .amoMax d _ _ _ _ | .cas d _ _ _ _ | .jal d _ | .jalr d _ _ | .fadd d _ _ | .fsub d _ _
  | .fmul d _ _ | .fdiv d _ _ | .fsqrt d _ | .fmin d _ _ | .fmax d _ _ | .fclass d _ | .fcmpEq d _ _ | .fcmpLt d _ _
  | .fcmpLe d _ _ | .fma d _ _ _ | .fcvt d _ _ _ | .csrr d _ | .wid d _ | .syscChipNumber d | .syscSend d
  | .syscMembership d | .probe d _ _ | .setvl d _ _ _ | .vrds d _ _ | .mpopc d _ | .mfirst d _ | .tgtag d _
  | .tstat d _ | .pop d _ | .qpush d _ _ | .qpop d _ _ | .qpushb d _ _ | .qpopb d _ _ | .qsteal d _ _ | .qlen d _
  | .dispatch d _ _ | .forkl d _ _ | .joinl d _ | .grpid d | .barv d _ | .barw d _
  | .unofferedSyscService d _ | .ctxhalt d _ | .scrubCluster d _ _ | .scrubL2 d _ _ | .scrubShadowSlot d _ _
  | .auditAppend d _ _ | .auditSeal d _ _ | .auditFree d _ _ | .auditExtend d _ _ | .waysetSet d _ _
  | .waysetRead d _ _ | .setroot d _ _ | .invva d _ _ | .invctx d _ _ | .walk d _ _ => some d
  | _ => none

/-- Scalar forms that make a memory access, or whose pushed command makes one (R28). -/
def Instr.touchesMemory : Instr → Bool
  | .ld _ _ _ _ | .ldn _ _ _ _ | .st _ _ _ _ | .amoSwap _ _ _ _ _ | .amoAdd _ _ _ _ _ | .amoAnd _ _ _ _ _
  | .amoOr _ _ _ _ _ | .amoXor _ _ _ _ _ | .amoMin _ _ _ _ _ | .amoMax _ _ _ _ _ | .cas _ _ _ _ _ | .qpush _ _ _
  | .qpop _ _ _ | .qpushb _ _ _ | .qpopb _ _ _ | .qsteal _ _ _ | .qlen _ _ | .push _ _ _ | .pop _ _ | .strcfg _ _
  | .dispatch _ _ _ | .dret _ _ _ => true
  | _ => false

/-- The tile a form names. -/
def Instr.tile? : Instr → Option TReg
  | .setshape d _ _ | .tdef d _ _ | .ttag d _ | .twait d | .cpyt d _ _ => some d
  | .vldt _ a _ _ _ _ | .vstt _ a _ _ _ _ | .tgtag _ a | .mlds _ a _ | .mtile _ a _ _ _ _ => some a
  | _ => none

end Sys2Proof
end

