-- ==== Sys2Proof/Machine/Csr.lean ====
section
/-! DEFINITION. Control registers: what each reads and what a write leaves in it (R32, R41, R70, R72, R82, R114 to R116,
R122, R180, R203, R212, R276, R286, R313). -/

namespace Sys2Proof.Machine

/-- TCAUSE as it reads (R41). -/
def TrapRegs.causeWord (t : TrapRegs) : Nat := t.code.toNat + bitN t.vec * 2 ^ 8 + bitN t.inh * 2 ^ 9

/-- VCP as it reads (R32): the oldest entry not completed and the occupancy. -/
def Strand.vcpWord (t : Strand) : Nat := t.vcpSeq.toNat + t.queue.length * 2 ^ 48

/-- CYCLE of the core of a slot (R116): 0 at reset, and it counts from when the core leaves reset. -/
def State.cycle (s : State) : Word := BitVec.ofNat 64 (s.elapsed - Config.coreStart (coreOf s.slot))

/-- The value of a control register at this moment (R112 to R114). -/
def State.csrVal (s : State) (c : Csr) : Word :=
  let t := s.st
  let x := t.csr
  match c with
  | .vl => BitVec.ofNat 64 t.vlNow
  | .vtype => t.grant.vtype.setWidth 64
  | .vstart => x.vstart.setWidth 64
  | .al => x.al.setWidth 64
  | .alrow => x.alrow.setWidth 64
  | .alcol => x.alcol.setWidth 64
  | .vcp => BitVec.ofNat 64 t.vcpWord
  | .shape n => t.tiles[n].shape
  | .xflags => x.xflags.setWidth 64
  | .xact => x.xact.setWidth 64
  | .frm => x.frm.setWidth 64
  | .fxrm => x.fxrm.setWidth 64
  | .chkstall => BitVec.ofNat 64 (bitN x.chkstall)
  | .lscale => x.lscale.setWidth 64
  | .accbase => x.accbase.setWidth 64
  | .acclim => x.acclim.setWidth 64
  | .widf => x.widf.setWidth 64
  | .lanew => x.lanew.setWidth 64
  | .lanea => x.lanea.setWidth 64
  | .strmap => x.strmap.setWidth 64
  | .mtab => x.mtab
  | .tvec => t.trap.tvec.setWidth 64
  | .tpc => t.trap.tpc.setWidth 64
  | .tcause => BitVec.ofNat 64 t.trap.causeWord
  | .tval => t.trap.tval
  | .tstat => t.trap.tstat.setWidth 64
  | .tinst => t.trap.tinst.setWidth 64
  | .tqa => t.trap.tqa
  | .tqb => t.trap.tqb
  | .tqc => t.trap.tqc
  | .tqd => t.trap.tqd
  | .cycle => s.cycle

/-- Registers whose CSRR is a synchronising read (R31, R114). -/
def csrSync : Csr → Bool
  | .vl | .al | .alrow | .alcol | .shape _ | .xflags | .lscale => true
  | _ => false

/-- Registers with a writable field (R114). -/
def csrWritable : Csr → Bool
  | .vstart | .xflags | .xact | .frm | .fxrm | .chkstall | .lanew | .tvec | .tpc | .tstat => true
  | _ => false

/-- XACT after a write: 0b11 leaves a field unchanged (R32). -/
def xactPut (old new : Nat) : BitVec 12 :=
  BitVec.ofNat 12 (((List.range 6).map fun i =>
    let f := new / 4 ^ i % 4
    (if f = 3 then old / 4 ^ i % 4 else f) * 4 ^ i).sum)

/-- A control register after the write of a value (R112). -/
def State.csrPut (s : State) (c : Csr) (v : Word) : State :=
  match c with
  | .vstart => s.modCsr fun x => { x with vstart := v.setWidth 20 }
  | .xflags => s.modCsr fun x => { x with xflags := v.setWidth 6 }
  | .xact => s.modCsr fun x => { x with xact := xactPut x.xact.toNat v.toNat }
  | .frm => s.modCsr fun x => { x with frm := if v.toNat % 8 ≤ 4 then v.setWidth 3 else x.frm }
  | .fxrm => s.modCsr fun x => { x with fxrm := BitVec.ofNat 3 (v.toNat % 4) }
  | .chkstall => s.modCsr fun x => { x with chkstall := v.getLsbD 0 }
  | .lanew => s.modCsr fun x => { x with lanew := if v.setWidth 4 = (0 : BitVec 4) then x.lanew else v.setWidth 4 }
  | .tvec => s.modTrap fun x => { x with tvec := BitVec.ofNat 56 (v.toNat / 4 * 4) }
  | .tpc => s.modTrap fun x => { x with tpc := v.setWidth 56 }
  | .tstat => s.modTrap fun x => { x with tstat := v.setWidth 54 }
  | _ => s

end Sys2Proof.Machine
end

