-- ==== Sys2Proof/Machine/VPerm.lean ====
section
/-! DEFINITION. Permutations, moves, slides, reductions, scans and mask logic (08: R143 to R159). -/

namespace Sys2Proof.Machine

/-- Element width of a form of majors 0x26 and 0x28: that of the captured VTYPE (R145). -/
def Entry.w (e : Entry) : Nat := grantWidth e.vtype

/-- A form that writes element i of d from its sources and raises nothing. -/
def State.vmove (s : State) (e : Entry) (d : VReg) (srcs : List VReg) (exact : Bool) (m : MReg) (f : VecFile → Nat → Nat) : VRes :=
  s.elementwise e d e.w (srcs.map fun a => e.group a e.w) exact m 0 fun v i => (f v i, 0)

/-- 1 bits of a mask register below bit n (R37: m0 is all ones). -/
def VecFile.ones (f : VecFile) (m : MReg) (n : Nat) : Nat := ((List.range n).filter fun i => f.mbit m i).length

/-! ### Permutations and moves -/

/-- VGATHER (R146). One that has been stopped at a boundary, which its entry keeps, runs from element 0 when it begins again,
whatever VSTART holds below the effective length (R144). -/
def effVgather (d a b : VReg) (m : MReg) (e : Entry) (s : State) : VRes :=
  let g := e.group d e.w
  let ok := g.ok && [a, b].all fun r => (e.group r e.w).ok && (e.group r e.w).overlapOk g false
  let again := ok && e.done != 0 && s.st.prog == 0 && decide (s.vstart < s.st.effLen e)
  match (if again then s.setVstart 0 else s).vmove e d [a, b] false m (fun v i =>
      let x := v.elem b.val i e.w
      if x < vlmax e.vtype then v.elem a.val x e.w else 0) with
  | .stop s1 => .stop (if s1.st.prog = 0 then s1 else s1.setHead { e with done := 1 })
  | r => r

/-- VCOMPRESS (R144, R147): selected elements packed from element 0, zeros to the end of the group. Stopped at a boundary, it has
packed those below it, and begins again from element 0. -/
def effVcompress (d a : VReg) (m : MReg) (e : Entry) (s : State) : VRes :=
  let vl := s.st.effLen e
  let g := e.group d e.w
  let src := e.group a e.w
  if s.vstart ≠ 0 && decide (vl ≤ s.vstart) then .done (s.complete1 vl) none
  else if !(g.ok && src.ok && src.overlapOk g false) then s.vIllegal
  else
    let sel := ((List.range vl).filter fun i => s.st.vec.mbit m i).map fun i => s.st.vec.elem a.val i e.w
    let part := s.st.goal ≠ 0 && decide (s.st.goal < vl)
    let all := if part then (((List.range s.st.goal).filter fun i => s.st.vec.mbit m i).map fun i => s.st.vec.elem a.val i e.w)
      else sel ++ List.replicate (g.n * perReg e.w - sel.length) 0
    let s1 := s.modVec fun v => all.zipIdx.foldl (fun v p => v.setElem d.val p.2 e.w p.1) v
    if part then .stop (s1.mod fun t => { t with prog := t.goal }) else .done (s1.complete1 vl) none

/-- VEXPAND (R148). -/
def effVexpand (d a : VReg) (m : MReg) (e : Entry) (s : State) : VRes :=
  s.vmove e d [a] false m fun v i => v.elem a.val (v.ones m i) e.w

/-- VIOTA (R148). -/
def effViota (d : VReg) (a m : MReg) (e : Entry) (s : State) : VRes :=
  s.vmove e d [] true m fun v i => v.ones a i

/-- VID (R148). -/
def effVid (d : VReg) (m : MReg) (e : Entry) (s : State) : VRes := s.vmove e d [] true m fun _ i => i

/-- VBCAST (R149). -/
def effVbcast (d : VReg) (_a : SReg) (m : MReg) (e : Entry) (s : State) : VRes :=
  s.vmove e d [] true m fun _ _ => e.opd.a.toNat

/-- VMVX (R149): element 0 alone, when VSTART = 0. -/
def effVmvx (d : VReg) (_a : SReg) (e : Entry) (s : State) : VRes :=
  s.ventry e (e.group d e.w).ok 0 (fun _ i => i == 0)
    fun s i => .ok (s.modVec fun v => v.setElem d.val i e.w e.opd.a.toNat) 0

/-- VRDS (R150): it depends on neither vl nor VSTART. -/
def effVrds (_d : SReg) (a : VReg) (_b : SReg) (e : Entry) (s : State) : VRes :=
  if !(e.group a e.w).ok then s.vIllegal
  else
    let x := e.opd.b.toNat
    let v : Word := if x < vlmax e.vtype then BitVec.ofInt 64 (sx e.w (s.st.vec.elem a.val x e.w)) else 0
    .done (s.setVstart 0) (some v)

/-- VSLIDEUP (R151). -/
def effVslideup (d a : VReg) (_b : SReg) (m : MReg) (_c : SReg) (e : Entry) (s : State) : VRes :=
  s.vmove e d [a] false m fun v i =>
    if i < e.opd.b.toNat then e.opd.c.toNat else v.elem a.val (i - e.opd.b.toNat) e.w

/-- VSLIDEDN (R151). -/
def effVslidedn (d a : VReg) (_b : SReg) (m : MReg) (_c : SReg) (e : Entry) (s : State) : VRes :=
  s.vmove e d [a] true m fun v i =>
    if i + e.opd.b.toNat < s.st.effLen e then v.elem a.val (i + e.opd.b.toNat) e.w else e.opd.c.toNat

/-! ### Reductions and scans -/

/-- A combining step with its identity (R153). -/
structure Step where
  w : Nat
  op : Nat → Nat → Nat × Cls
  id : Nat

/-- sat(x + y, iW). -/
def stepSum (w : IW) : Step := { w := w.bits, op := fun x y => satW w.bits (sx w.bits x + sx w.bits y), id := 0 }
/-- Signed maximum. -/
def stepMax (w : IW) : Step :=
  { w := w.bits, op := fun x y => (if sx w.bits x < sx w.bits y then y else x, 0), id := 2 ^ (w.bits - 1) }
/-- Signed minimum. -/
def stepMin (w : IW) : Step :=
  { w := w.bits, op := fun x y => (if sx w.bits y < sx w.bits x then y else x, 0), id := 2 ^ (w.bits - 1) - 1 }
/-- round(x + y). The identity of R153 takes part as any element does: under rdn, −0 and a sum of +0 give −0 by the step, though
R153 says that it leaves such a sum as it is (DESIGN CHOICE, log 94). -/
def stepFsum (f : FF) (rm : RM) : Step := { w := f.bits, op := fun x y => fAddE f.fp rm x y 0, id := f.fp.signBit }
/-- FMAX. -/
def stepFmax (f : FF) : Step := { w := f.bits, op := fun x y => f.fp.fmax x y, id := f.fp.infEnc + f.fp.signBit }

/-- Whether element i opens a segment (R152). -/
def VecFile.head (f : VecFile) (m : MReg) (i : Nat) : Bool := i == 0 || f.mbit m i

/-- The segment of element i: heads in [1, i]. -/
def VecFile.segment (f : VecFile) (m : MReg) (i : Nat) : Nat := ((List.range i).filter fun k => f.mbit m (k + 1)).length

/-- The checks of a reduction or scan: groups, no overlap at all, `.xmN` (R143, R157). -/
def redOk (e : Entry) (d a : VReg) (w : Nat) (m x : MReg) : Bool :=
  let g := e.group d w
  let src := e.group a w
  g.ok && src.ok && src.overlapOk g false && xmOk x m

/-- Whether element i takes part: under `.seg` all do. -/
def redActive (g : Bool) (m : MReg) (f : VecFile) (i : Nat) : Bool := g || f.mbit m i

/-- Ordered reductions (R154). -/
def State.vreduce (s : State) (e : Entry) (d a : VReg) (m x : MReg) (g : Bool) (p : Step) : VRes :=
  s.ventry e (redOk e d a p.w m x) x (redActive g m)
    fun s i =>
      let v := s.st.vec
      let j := if g then v.segment m i else 0
      let acc := if g && v.head m i then p.id else v.elem d.val j p.w
      let y := p.op acc (v.elem a.val i p.w)
      .ok (s.modVec fun v => v.setElem d.val j p.w y.1) y.2

/-- VREDSUM (R154). -/
def effVredsum (d a : VReg) (w : IW) (m x : MReg) (g : Bool) (e : Entry) (s : State) : VRes := s.vreduce e d a m x g (stepSum w)
/-- VREDMAX (R154). -/
def effVredmax (d a : VReg) (w : IW) (m : MReg) (g : Bool) (e : Entry) (s : State) : VRes := s.vreduce e d a m 0 g (stepMax w)
/-- VREDMIN (R154). -/
def effVredmin (d a : VReg) (w : IW) (m : MReg) (g : Bool) (e : Entry) (s : State) : VRes := s.vreduce e d a m 0 g (stepMin w)
/-- VFREDOSUM (R154). -/
def effVfredosum (d a : VReg) (w : FF) (m x : MReg) (g : Bool) (e : Entry) (s : State) : VRes :=
  s.vreduce e d a m x g (stepFsum w e.rm)

/-- The running value before element i of a scan (R156), read back from d: the element before it under `.seg`; else the
greatest active element below i, or element 0. -/
def scanAcc (g : Bool) (m : MReg) (d : VReg) (p : Step) (v : VecFile) (i : Nat) : Nat :=
  if g then (if v.head m i then p.id else v.elem d.val (i - 1) p.w)
  else match (List.range i).reverse.find? fun k => v.mbit m k with
    | some k => v.elem d.val k p.w
    | none => v.elem d.val 0 p.w

/-- Scans (R156). -/
def State.vscanForm (s : State) (e : Entry) (d a : VReg) (m x : MReg) (g : Bool) (p : Step) : VRes :=
  s.ventry e (redOk e d a p.w m x) x (redActive g m)
    fun s i =>
      let v := s.st.vec
      let y := p.op (scanAcc g m d p v i) (v.elem a.val i p.w)
      .ok (s.modVec fun v => v.setElem d.val i p.w y.1) y.2

/-- VSCAN (R156). -/
def effVscan (d a : VReg) (w : IW) (m x : MReg) (g : Bool) (e : Entry) (s : State) : VRes := s.vscanForm e d a m x g (stepSum w)
/-- VFSCAN (R156). -/
def effVfscan (d a : VReg) (w : FF) (m x : MReg) (g : Bool) (e : Entry) (s : State) : VRes :=
  s.vscanForm e d a m x g (stepFsum w e.rm)

/-- comb of R89 on values that may be empty. -/
def combine (op : Nat → Nat → Nat × Cls) (x y : Option Nat) : Option Nat × Cls :=
  match x, y with
  | none, y => (y, 0)
  | x, none => (x, 0)
  | some a, some b => let r := op a b; (some r.1, r.2)

/-- One level of the tree. -/
def treeLevel (op : Nat → Nat → Nat × Cls) : List (Option Nat) → List (Option Nat) × Cls
  | [] => ([], 0)
  | [x] => ([x], 0)
  | x :: y :: r =>
    let c := combine op x y
    let q := treeLevel op r
    (c.1 :: q.1, c.2 ||| q.2)

/-- Levels until one node is left; a tree of 16,384 nodes has 14. -/
def treeFold (op : Nat → Nat → Nat × Cls) : Nat → List (Option Nat) → Option Nat × Cls
  | 0, l => (l.headD none, 0)
  | n + 1, l =>
    match l with
    | [] => (none, 0)
    | [x] => (x, 0)
    | l =>
      let q := treeLevel op l
      let r := treeFold op n q.1
      (r.1, q.2 ||| r.2)

/-- treesum(lo, hi, init) (R89). -/
def treeSum (op : Nat → Nat → Nat × Cls) (elem : Nat → Option Nat) (lo hi init : Nat) : Nat × Cls :=
  let r := treeFold op 20 ((List.range hi).map fun j => if lo ≤ j then elem j else none)
  let q := combine op (some init) r.1
  (q.1.getD init, r.2 ||| q.2)

/-- The segments that meet [vs, vl): number, first element, one past the last (R152, R155). -/
def segments (f : VecFile) (m : MReg) (g : Bool) (vs vl : Nat) : List (Nat × Nat × Nat) :=
  if !g then [(0, 0, vl)]
  else
    let hs := (List.range vl).filter fun i => f.head m i
    ((List.range hs.length).map fun j => (j, hs.getD j 0, hs.getD (j + 1) vl)).filter fun p => vs < p.2.2

/-- The segments of a tree reduction in order (R155, R157). With `.xmN` the classes of the trees that are written reach XFLAGS, and
the prefix trees of single elements only set mask bits (DESIGN CHOICE, log 111). -/
def treeSegments (e : Entry) (d a : VReg) (m x : MReg) (g : Bool) (p : Step) (vs vl : Nat) :
    List (Nat × Nat × Nat) → State → VRes
  | [], s => .done (s.complete1 vl) none
  | (j, b, n) :: r, s =>
    let v := s.st.vec
    let lo := Nat.max b vs
    let elem := fun i => if redActive g m v i then some (v.elem a.val i p.w) else none
    let init := if g && lo == b then p.id else v.elem d.val j p.w
    let tree := fun hi => treeSum p.op elem lo hi init
    let write := fun (t : Nat × Cls) (s : State) => (s.raiseFlags t.2).modVec fun v => v.setElem d.val j p.w t.1
    let idx := (List.range (n - lo)).map (· + lo)
    if x ≠ 0 then
      let bits := idx.filter fun i => redActive g m v i
      treeSegments e d a m x g p vs vl r
        (bits.foldl (fun s i => s.modVec fun v => v.setMbit x i ((tree (i + 1)).2.acts e.xact)) (write (tree n) s))
    else
      match (if e.xact = 0 then none else idx.find? fun i => (tree (i + 1)).2.acts e.xact) with
      | none => treeSegments e d a m x g p vs vl r (write (tree n) s)
      | some i =>
        let s1 := if i = lo then s else write (tree i) s
        match fpx s1 s1 e 0 vs i (tree (i + 1)).2 (fun _ s => s) with
        | (some q, _) => q
        | (none, s2) => .done (s2.complete1 vl) none

/-- Tree reductions (R155). One that stops before its end has written nothing (R144). -/
def State.vtree (s : State) (e : Entry) (d a : VReg) (m x : MReg) (g : Bool) (p : Step) : VRes :=
  let vl := s.st.effLen e
  let vs := s.vstart
  if vl ≤ vs then .done (s.complete1 vl) none
  else if !redOk e d a p.w m x then s.vIllegal
  else if s.st.goal ≠ 0 then .stop s
  else treeSegments e d a m x g p vs vl (segments s.st.vec m g vs vl) s

/-- VFREDSUM (R155). -/
def effVfredsum (d a : VReg) (w : FF) (m x : MReg) (g : Bool) (e : Entry) (s : State) : VRes := s.vtree e d a m x g (stepFsum w e.rm)
/-- VFREDMAX (R155). -/
def effVfredmax (d a : VReg) (w : FF) (m x : MReg) (g : Bool) (e : Entry) (s : State) : VRes := s.vtree e d a m x g (stepFmax w)

/-! ### Mask logic -/

/-- A logical form over masks (R158). -/
def State.maskLogic (s : State) (e : Entry) (d : MReg) (f : VecFile → Nat → Bool) : VRes :=
  s.maskwise e d [] 0 0 fun v i => (f v i, 0)

/-- MAND (R158). -/
def effMand (d a b : MReg) (e : Entry) (s : State) : VRes := s.maskLogic e d fun v i => v.mbit a i && v.mbit b i
/-- MOR (R158). -/
def effMor (d a b : MReg) (e : Entry) (s : State) : VRes := s.maskLogic e d fun v i => v.mbit a i || v.mbit b i
/-- MXOR (R158). -/
def effMxor (d a b : MReg) (e : Entry) (s : State) : VRes := s.maskLogic e d fun v i => v.mbit a i != v.mbit b i
/-- MNOT (R158). -/
def effMnot (d a : MReg) (e : Entry) (s : State) : VRes := s.maskLogic e d fun v i => !v.mbit a i

/-- MPOPC (R159): it ignores VSTART. -/
def effMpopc (_d : SReg) (a : MReg) (e : Entry) (s : State) : VRes :=
  .done (s.setVstart 0) (some (BitVec.ofNat 64 (s.st.vec.ones a (s.st.effLen e))))

/-- MFIRST (R159). -/
def effMfirst (_d : SReg) (a : MReg) (e : Entry) (s : State) : VRes :=
  .done (s.setVstart 0) (some (match (List.range (s.st.effLen e)).find? fun i => s.st.vec.mbit a i with
    | some i => BitVec.ofNat 64 i
    | none => BitVec.allOnes 64))

end Sys2Proof.Machine
end

