-- ==== Sys2Proof/Machine/VQueue.lean ====
section
/-! DEFINITION. The vector instruction queue: commit, the execution of head entries in order, the synchronising reads, and
the arbiter of a core (02: R27 to R31; 12: R222; 18: R287; 19: R295). -/

namespace Sys2Proof.Machine

/-- BARV (R295): it arrives once every access of the strand before it in program order has performed, its copies, pushed
words and port commands among them. -/
def effBarv (_d _a : SReg) (e : Entry) (s : State) : VRes :=
  let s := s.work s.slot
  if !(s.st.released e.seq e.ord && s.st.cmdsBefore e.ord) then .stop s
  else match s.bar? e.opd.a with
    | none => s.vTrap0 2 0
    | some x =>
      if x.n = 0 then s.vTrap0 2 0
      else .done ((s.arriveAt e.opd.a.toNat x).setVstart 0) (some (x.ph.setWidth 64))

/-- The meaning of an entry at the head of the queue, by its form. -/
def issue (i : Instr) (ent : Entry) (st : State) : VRes :=
  match i with
  | .setvlf d a b g w => effSetvlf d a b g w ent st
  | .setshape d a b => effSetshape d a b ent st
  | .vadd d a b m w => effVadd d a b m w ent st
  | .vsub d a b m w => effVsub d a b m w ent st
  | .vrsub d a b m w => effVrsub d a b m w ent st
  | .vmul d a b m w => effVmul d a b m w ent st
  | .vmulh d a b m w => effVmulh d a b m w ent st
  | .vmacc d a b m x w => effVmacc d a b m x w ent st
  | .vwmacc d a b m w => effVwmacc d a b m w ent st
  | .vmerge d a b m w => effVmerge d a b m w ent st
  | .vand d a b m w => effVand d a b m w ent st
  | .vor d a b m w => effVor d a b m w ent st
  | .vxor d a b m w => effVxor d a b m w ent st
  | .vsll d a b m w => effVsll d a b m w ent st
  | .vsrl d a b m w => effVsrl d a b m w ent st
  | .vsra d a b m w => effVsra d a b m w ent st
  | .vnsra d a b m x w => effVnsra d a b m x w ent st
  | .vmin d a b m w => effVmin d a b m w ent st
  | .vmax d a b m w => effVmax d a b m w ent st
  | .vminn d a b m w => effVminn d a b m w ent st
  | .vmaxn d a b m w => effVmaxn d a b m w ent st
  | .vsadd d a b m x w => effVsadd d a b m x w ent st
  | .vssub d a b m x w => effVssub d a b m x w ent st
  | .vdiv d a b m x w => effVdiv d a b m x w ent st
  | .vrem d a b m x w => effVrem d a b m x w ent st
  | .vcmpEq d a b m w => effVcmpEq d a b m w ent st
  | .vcmpNe d a b m w => effVcmpNe d a b m w ent st
  | .vcmpLt d a b m w => effVcmpLt d a b m w ent st
  | .vcmpLe d a b m w => effVcmpLe d a b m w ent st
  | .vcmpLtn d a b m w => effVcmpLtn d a b m w ent st
  | .vcmpLen d a b m w => effVcmpLen d a b m w ent st
  | .vaddVx d a b m w => effVaddVx d a b m w ent st
  | .vsubVx d a b m w => effVsubVx d a b m w ent st
  | .vrsubVx d a b m w => effVrsubVx d a b m w ent st
  | .vmulVx d a b m w => effVmulVx d a b m w ent st
  | .vmulhVx d a b m w => effVmulhVx d a b m w ent st
  | .vmaccVx d a b m x w => effVmaccVx d a b m x w ent st
  | .vwmaccVx d a b m w => effVwmaccVx d a b m w ent st
  | .vmergeVx d a b m w => effVmergeVx d a b m w ent st
  | .vandVx d a b m w => effVandVx d a b m w ent st
  | .vorVx d a b m w => effVorVx d a b m w ent st
  | .vxorVx d a b m w => effVxorVx d a b m w ent st
  | .vsllVx d a b m w => effVsllVx d a b m w ent st
  | .vsrlVx d a b m w => effVsrlVx d a b m w ent st
  | .vsraVx d a b m w => effVsraVx d a b m w ent st
  | .vnsraVx d a b m x w => effVnsraVx d a b m x w ent st
  | .vminVx d a b m w => effVminVx d a b m w ent st
  | .vmaxVx d a b m w => effVmaxVx d a b m w ent st
  | .vminnVx d a b m w => effVminnVx d a b m w ent st
  | .vmaxnVx d a b m w => effVmaxnVx d a b m w ent st
  | .vsaddVx d a b m x w => effVsaddVx d a b m x w ent st
  | .vssubVx d a b m x w => effVssubVx d a b m x w ent st
  | .vdivVx d a b m x w => effVdivVx d a b m x w ent st
  | .vremVx d a b m x w => effVremVx d a b m x w ent st
  | .vcmpEqVx d a b m w => effVcmpEqVx d a b m w ent st
  | .vcmpNeVx d a b m w => effVcmpNeVx d a b m w ent st
  | .vcmpLtVx d a b m w => effVcmpLtVx d a b m w ent st
  | .vcmpLeVx d a b m w => effVcmpLeVx d a b m w ent st
  | .vcmpLtnVx d a b m w => effVcmpLtnVx d a b m w ent st
  | .vcmpLenVx d a b m w => effVcmpLenVx d a b m w ent st
  | .vfadd d a b m x f => effVfadd d a b m x f ent st
  | .vfsub d a b m x f => effVfsub d a b m x f ent st
  | .vfmul d a b m x f => effVfmul d a b m x f ent st
  | .vfdiv d a b m x f => effVfdiv d a b m x f ent st
  | .vfmin d a b m x f => effVfmin d a b m x f ent st
  | .vfmax d a b m x f => effVfmax d a b m x f ent st
  | .vfsqrt d a m x f => effVfsqrt d a m x f ent st
  | .vfclass d a m f => effVfclass d a m f ent st
  | .vfaddVx d a b m x f => effVfaddVx d a b m x f ent st
  | .vfsubVx d a b m x f => effVfsubVx d a b m x f ent st
  | .vfmulVx d a b m x f => effVfmulVx d a b m x f ent st
  | .vfdivVx d a b m x f => effVfdivVx d a b m x f ent st
  | .vfminVx d a b m x f => effVfminVx d a b m x f ent st
  | .vfmaxVx d a b m x f => effVfmaxVx d a b m x f ent st
  | .vfma d a b m x f => effVfma d a b m x f ent st
  | .vfnma d a b m x f => effVfnma d a b m x f ent st
  | .vfmaVx d a b m x f => effVfmaVx d a b m x f ent st
  | .vfnmaVx d a b m x f => effVfnmaVx d a b m x f ent st
  | .vfcmpEq d a b m x f => effVfcmpEq d a b m x f ent st
  | .vfcmpLt d a b m x f => effVfcmpLt d a b m x f ent st
  | .vfcmpLe d a b m x f => effVfcmpLe d a b m x f ent st
  | .vfcmpUn d a b m x f => effVfcmpUn d a b m x f ent st
  | .vfrece d a m x f => effVfrece d a m x f ent st
  | .vfrsqe d a m x f => effVfrsqe d a m x f ent st
  | .vfexp2 d a m x f => effVfexp2 d a m x f ent st
  | .vflog2 d a m x f => effVflog2 d a m x f ent st
  | .vftanh d a m x f => effVftanh d a m x f ent st
  | .vfsigm d a m x f => effVfsigm d a m x f ent st
  | .vcvt d a s m x t => effVcvt d a s m x t ent st
  | .vbq d a t q x c => effVbq d a t q x c ent st
  | .vbdq d a s q x => effVbdq d a s q x ent st
  | .vhad d a k y z h x f => effVhad d a k y z h x f ent st
  | .vpack d a c m => effVpack d a c m ent st
  | .vunpk d a c m => effVunpk d a c m ent st
  | .vrng d t m => effVrng d t m ent st
  | .vgather d a b m => effVgather d a b m ent st
  | .vcompress d a m => effVcompress d a m ent st
  | .vexpand d a m => effVexpand d a m ent st
  | .viota d a m => effViota d a m ent st
  | .vid d m => effVid d m ent st
  | .vbcast d a m => effVbcast d a m ent st
  | .vmvx d a => effVmvx d a ent st
  | .vrds d a b => effVrds d a b ent st
  | .vredsum d a w m x g => effVredsum d a w m x g ent st
  | .vredmax d a w m g => effVredmax d a w m g ent st
  | .vredmin d a w m g => effVredmin d a w m g ent st
  | .vscan d a w m x g => effVscan d a w m x g ent st
  | .vfredsum d a w m x g => effVfredsum d a w m x g ent st
  | .vfredosum d a w m x g => effVfredosum d a w m x g ent st
  | .vfredmax d a w m x g => effVfredmax d a w m x g ent st
  | .vfscan d a w m x g => effVfscan d a w m x g ent st
  | .mand d a b => effMand d a b ent st
  | .mor d a b => effMor d a b ent st
  | .mxor d a b => effMxor d a b ent st
  | .mnot d a => effMnot d a ent st
  | .mpopc d a => effMpopc d a ent st
  | .mfirst d a => effMfirst d a ent st
  | .vslideup d a b m c => effVslideup d a b m c ent st
  | .vslidedn d a b m c => effVslidedn d a b m c ent st
  | .vld d a m c w s => effVld d a m c w s ent st
  | .vst d a m c w => effVst d a m c w ent st
  | .vlds d a b m w s => effVlds d a b m w s ent st
  | .vsts d a b m w => effVsts d a b m w ent st
  | .vldx d a b m w s => effVldx d a b m w s ent st
  | .vstx d a b m w => effVstx d a b m w ent st
  | .vldg d a b m w s => effVldg d a b m w s ent st
  | .vstg d a b m w => effVstg d a b m w ent st
  | .vldt d a b m c w => effVldt d a b m c w ent st
  | .vstt d a b m c w => effVstt d a b m c w ent st
  | .vamoSwap d a b m e r w => effVamoSwap d a b m e r w ent st
  | .vamoAdd d a b m e r w => effVamoAdd d a b m e r w ent st
  | .vamoAnd d a b m e r w => effVamoAnd d a b m e r w ent st
  | .vamoOr d a b m e r w => effVamoOr d a b m e r w ent st
  | .vamoXor d a b m e r w => effVamoXor d a b m e r w ent st
  | .vamoMin d a b m e r w => effVamoMin d a b m e r w ent st
  | .vamoMax d a b m e r w => effVamoMax d a b m e r w ent st
  | .vwait d a b m c w => effVwait d a b m c w ent st
  | .vscadd d a b m t => effVscadd d a b m t ent st
  | .tdef d a b => effTdef d a b ent st
  | .ttag d a => effTtag d a ent st
  | .tgtag d a => effTgtag d a ent st
  | .tstat d a => effTstat d a ent st
  | .twait d => effTwait d ent st
  | .mclaim a => effMclaim a ent st
  | .mrels a => effMrels a ent st
  | .mlds d a c => effMlds d a c ent st
  | .mrow d a b m k c => effMrow d a b m k c ent st
  | .mtile d a b m o c => effMtile d a b m o c ent st
  | .macr d a b r => effMacr d a b r ent st
  | .macw a b r => effMacw a b r ent st
  | .macz a b => effMacz a b ent st
  | .cpyv d a g r => effCpyv d a g r ent st
  | .cpyx d a r => effCpyx d a r ent st
  | .cpyt d a r => effCpyt d a r ent st
  | .barv d a => effBarv d a ent st
  | .skinit d a b => effSkinit d a b ent st
  | .skupd d a b m => effSkupd d a b m ent st
  | .skqry d a b m => effSkqry d a b m ent st
  | .skadd d a => effSkadd d a ent st
  | .skscl d a => effSkscl d a ent st
  | .setls a => effSetls a ent st
  | _ => .stop st

/-! ### Interlocks with copies (R222) -/

/-- Bits of a register group from its start to the end of its first n elements of width w (R80, R81). -/
def bitsTo (w n : Nat) : Nat := if n = 0 then 0 else (n - 1) / perReg w * 8192 + ((n - 1) % perReg w + 1) * w

/-- What an entry does with vector registers: whether it writes them, the first, and the bits from its start on. -/
structure VUse where
  write : Bool
  reg : Nat
  bits : Nat
  deriving DecidableEq, Repr

/-- The groups of an elementwise form of n elements: d of width wd, sources of width ws. -/
def elemUses (n : Nat) (d : VReg) (wd : Nat) (srcs : List VReg) (ws : Nat) : List VUse :=
  { write := true, reg := d.val, bits := bitsTo wd n } :: srcs.map fun a => { write := false, reg := a.val, bits := bitsTo ws n }

/-- Sources of n elements of width w. -/
def readUses (n : Nat) (srcs : List VReg) (w : Nat) : List VUse :=
  srcs.map fun a => { write := false, reg := a.val, bits := bitsTo w n }

/-- Bits that the largest group spans: what an operand counts for whose elements do not follow the element number. -/
def wholeGroup : Nat := 8 * 8192

/-- The vector registers that an entry of n elements reads and writes: of each operand the elements below the effective length,
whatever VSTART and the masks leave out; of an operand whose elements are chosen otherwise, 8 registers (DESIGN CHOICE, log 26). -/
def Entry.uses (e : Entry) (n : Nat) : List VUse :=
  match e.instr with
  | .vadd d a b _ w | .vsub d a b _ w | .vrsub d a b _ w | .vmul d a b _ w | .vmulh d a b _ w | .vmacc d a b _ _ w
  | .vmerge d a b _ w | .vand d a b _ w | .vor d a b _ w | .vxor d a b _ w | .vsll d a b _ w | .vsrl d a b _ w | .vsra d a b _ w
  | .vmin d a b _ w | .vmax d a b _ w | .vminn d a b _ w | .vmaxn d a b _ w | .vsadd d a b _ _ w | .vssub d a b _ _ w
  | .vdiv d a b _ _ w | .vrem d a b _ _ w => elemUses n d w.bits [a, b] w.bits
  | .vwmacc d a b _ w => elemUses n d (2 * w.bits) [a, b] w.bits
  | .vnsra d a b _ _ w => elemUses n d w.bits [b] w.bits ++ readUses n [a] (2 * w.bits)
  | .vcmpEq _ a b _ w | .vcmpNe _ a b _ w | .vcmpLt _ a b _ w | .vcmpLe _ a b _ w | .vcmpLtn _ a b _ w | .vcmpLen _ a b _ w =>
    readUses n [a, b] w.bits
  | .vaddVx d a _ _ w | .vsubVx d a _ _ w | .vrsubVx d a _ _ w | .vmulVx d a _ _ w | .vmulhVx d a _ _ w | .vmaccVx d a _ _ _ w
  | .vmergeVx d a _ _ w | .vandVx d a _ _ w | .vorVx d a _ _ w | .vxorVx d a _ _ w | .vsllVx d a _ _ w | .vsrlVx d a _ _ w
  | .vsraVx d a _ _ w | .vminVx d a _ _ w | .vmaxVx d a _ _ w | .vminnVx d a _ _ w | .vmaxnVx d a _ _ w | .vsaddVx d a _ _ _ w
  | .vssubVx d a _ _ _ w | .vdivVx d a _ _ _ w | .vremVx d a _ _ _ w | .vredsum d a w _ _ _ | .vredmax d a w _ _
  | .vredmin d a w _ _ | .vscan d a w _ _ _ => elemUses n d w.bits [a] w.bits
  | .vwmaccVx d a _ _ w => elemUses n d (2 * w.bits) [a] w.bits
  | .vnsraVx d a _ _ _ w => elemUses n d w.bits [a] (2 * w.bits)
  | .vcmpEqVx _ a _ _ w | .vcmpNeVx _ a _ _ w | .vcmpLtVx _ a _ _ w | .vcmpLeVx _ a _ _ w | .vcmpLtnVx _ a _ _ w
  | .vcmpLenVx _ a _ _ w => readUses n [a] w.bits
  | .vfadd d a b _ _ f | .vfsub d a b _ _ f | .vfmul d a b _ _ f | .vfdiv d a b _ _ f | .vfmin d a b _ _ f | .vfmax d a b _ _ f
  | .vfma d a b _ _ f | .vfnma d a b _ _ f => elemUses n d f.bits [a, b] f.bits
  | .vfcmpEq _ a b _ _ f | .vfcmpLt _ a b _ _ f | .vfcmpLe _ a b _ _ f | .vfcmpUn _ a b _ _ f => readUses n [a, b] f.bits
  | .vfaddVx d a _ _ _ f | .vfsubVx d a _ _ _ f | .vfmulVx d a _ _ _ f | .vfdivVx d a _ _ _ f | .vfminVx d a _ _ _ f
  | .vfmaxVx d a _ _ _ f | .vfmaVx d a _ _ _ f | .vfnmaVx d a _ _ _ f | .vfsqrt d a _ _ f | .vfclass d a _ f | .vfrece d a _ _ f
  | .vfrsqe d a _ _ f | .vfexp2 d a _ _ f | .vflog2 d a _ _ f | .vftanh d a _ _ f | .vfsigm d a _ _ f | .vfredsum d a f _ _ _
  | .vfredosum d a f _ _ _ | .vfredmax d a f _ _ _ | .vfscan d a f _ _ _ => elemUses n d f.bits [a] f.bits
  | .vcvt d a src _ _ dst => elemUses n d dst.bits [a] src.bits
  | .vbq d a t _ _ c => elemUses n d t.bits (if c then [] else [a]) 32
  | .vbdq d a t _ _ => elemUses n d 32 [a] t.bits
  | .vhad d a _ y z _ _ f => (if z then [] else elemUses n d f.bits [] 0) ++ readUses n (if y then [] else [a]) f.bits
  | .vpack d a c _ => elemUses n d c.bits [a] 8
  | .vunpk d a c _ => elemUses n d 8 [a] c.bits
  | .vrng d t _ => elemUses n d t.bits [] 0
  | .vgather d a b _ => { write := false, reg := a.val, bits := wholeGroup } :: elemUses n d e.w [b] e.w
  | .vcompress d a _ => { write := true, reg := d.val, bits := wholeGroup } :: readUses n [a] e.w
  | .vexpand d a _ | .vslideup d a _ _ _ | .vslidedn d a _ _ _ => elemUses n d e.w [a] e.w
  | .viota d _ _ | .vid d _ | .vbcast d _ _ | .vmvx d _ => elemUses n d e.w [] 0
  | .vrds _ a _ | .mrow _ a _ _ _ _ => [{ write := false, reg := a.val, bits := wholeGroup }]
  | .vld d _ _ _ w _ | .vlds d _ _ _ w _ | .vldt d _ _ _ _ w => elemUses n d w.bits [] 0
  | .vst d _ _ _ w | .vsts d _ _ _ w | .vstt d _ _ _ _ w => readUses n [d] w.bits
  | .vldx d _ b _ w _ => elemUses n d w.bits [b] (indexBits w.bits)
  | .vstx d _ b _ w => readUses n [d] w.bits ++ readUses n [b] (indexBits w.bits)
  | .vldg d _ b _ w _ => (List.range (b.val + 1)).map fun f => { write := true, reg := segReg e d w f, bits := bitsTo w.bits n }
  | .vstg d _ b _ w => (List.range (b.val + 1)).map fun f => { write := false, reg := segReg e d w f, bits := bitsTo w.bits n }
  | .vamoSwap d _ b _ _ _ w | .vamoAdd d _ b _ _ _ w | .vamoAnd d _ b _ _ _ w | .vamoOr d _ b _ _ _ w | .vamoXor d _ b _ _ _ w
  | .vamoMin d _ b _ _ _ w | .vamoMax d _ b _ _ _ w => elemUses n d w.bits [b] (indexBits w.bits)
  | .vwait d _ b _ _ w => readUses n [d] w.bits ++ readUses n [b] (indexBits w.bits)
  | .vscadd d _ b _ t => readUses n [d] (sctBits t) ++ readUses n [b] (indexBits (sctBits t))
  | .macr d _ _ r => elemUses (Nat.min n 128) d (rcodeElem r).bits [] 0
  | .macw a _ r => readUses (Nat.min n 128) [a] (rcodeElem r).bits
  | .cpyv d _ g r => [{ write := !r, reg := d.val, bits := (g.val + 1) * 8192 }]
  | .cpyx d _ r => [{ write := !r, reg := d.val, bits := wholeGroup }]
  | .skupd d _ b _ => readUses n [d] 32 ++ readUses n [b] 64
  | .skqry d _ b _ => elemUses n d 32 [b] 64
  | _ => []

/-- Registers of the issuing strand that a copy in flight holds: how many from the first on. -/
def Copy.held (c : Copy) : Nat :=
  if c.kind = 0 then c.regs else if c.kind = 1 then fld (copyCtl c.desc) 55 53 + 1 else 0

/-- Elements of a copy that must be transferred before an entry uses registers (R222). Of an `.in` copy a writer of any register of
its group needs all, and a reader those of the element groups it reads; of an `.out` copy a writer needs those of the element
groups it writes, and a reader none. -/
def Copy.needed (c : Copy) (u : VUse) : Nat :=
  let lo := 16 * c.reg
  let first := 16 * u.reg
  let last := first + (u.bits - 1) / 512
  if c.held = 0 || u.bits = 0 || last < lo || lo + 16 * c.held ≤ first then 0
  else if !c.out && u.write then c.total
  else if c.out != u.write then 0
  else if lo + (c.total - 1) * copyWidth c.desc / 512 < first then 0
  else Nat.min c.total ((last + 1 - lo) * 512 / copyWidth c.desc)

/-- Elements of a copy that must be transferred before an entry of n elements executes. -/
def Copy.before (c : Copy) (e : Entry) (n : Nat) : Nat := ((e.uses n).map c.needed).foldl Nat.max 0

/-- Whether an entry waits for a copy in flight (R222). -/
def Copy.holds (c : Copy) (e : Entry) (n : Nat) : Bool := c.status.isNone && decide (c.done < c.before e n)

/-- Forms that wait for a draining tile to be ready (R181). -/
def needsReady : Instr → Bool
  | .vstt _ _ _ _ _ _ | .twait _ => true
  | .cpyt _ _ r => !r
  | _ => false

/-- Whether an entry waits for a copy of its tile (R181). -/
def Strand.tileWaits (t : Strand) (e : Entry) : Option TReg :=
  match e.instr.tile? with
  | none => none
  | some n =>
    let x := t.tiles[n]
    match x.st with
    | .filling => some n
    | .draining => if x.pending.isSome || needsReady e.instr then some n else none
    | _ => none

/-- The copies that the head entry must wait for go on first: those that hold registers of it as far as it needs (R222), those of
its tile to their end (R181). -/
def State.interlock (s : State) (e : Entry) : State :=
  let n := s.st.effLen e
  let s1 := (s.st.openCopies fun c => c.holds e n).foldl (fun x i => match s.st.copies[i]? with
    | some c => x.moveCopy s.slot i (c.before e n)
    | none => x) s
  match s1.st.tileWaits e with
  | none => s1
  | some n => s1.endCopies s.slot fun c => c.kind == 2 && c.reg == n.val

/-- Whether an entry waits for older work of its strand outside the queue: a copy that holds its registers (R222); all
accesses before it, where it is a release (R231); a POP before it that has not got its status, where it accesses memory
(R211). -/
def Strand.headHeld (t : Strand) (e : Entry) : Bool :=
  t.copies.any (fun c => c.holds e (t.effLen e))
    || (e.instr.releases && !(t.released e.seq e.ord && t.cmdsBefore e.ord))
    || (e.instr.accessKinds != 0 && t.sync.any fun p => p.src.isPort && !seqBefore e.seq p.seq)

/-! ### Completion and delivery (R31, R211) -/

/-- Whether every entry below a number has completed. -/
def Strand.reached (t : Strand) (seq : BitVec 48) : Bool := !seqBefore t.vcpSeq seq

/-- Gives a register the value it waits for; its pending bit goes with the last producer. A value for the register from before that
place, which has still to come, is discarded when it does: the register ends with the later write in program order (R70). -/
def Strand.receive (t : Strand) (p : SyncRead) (v : Word) : Strand :=
  let older := t.sync.takeWhile (· ≠ p)
  let rest := (older.map fun q => if q.reg = p.reg then { q with reg := 0 } else q) ++ t.sync.drop (older.length + 1)
  let u := t.setR p.reg v
  { u with sync := rest, pend := if rest.any (fun q => q.reg = p.reg) then u.pend else putField u.pend p.reg.val 1 0 }

/-- Statuses at port 16, 17 or 18, oldest first, those still to come among them. -/
def Strand.statuses (t : Strand) (p : Nat) : List (Option Word) :=
  if p = 16 then t.cmds.map (·.status) else if p = 17 then t.colls.map (·.status) else t.copies.map (·.status)

/-- Takes the oldest status from a port. -/
def Strand.dropStatus (t : Strand) (p : Nat) : Strand :=
  if p = 16 then { t with cmds := t.cmds.tail }
  else if p = 17 then { t with colls := t.colls.tail }
  else { t with copies := t.copies.tail }

/-- Whether a waiting read can be delivered (R31, R211): every older entry has completed, outside a handler; a read of SHAPEn
also waits for the change held back on its tile (R180); the oldest status of a port has come. -/
def Strand.deliverable (t : Strand) (p : SyncRead) : Bool :=
  match p.src with
  | .entry => false
  | .csr (.shape k) => !t.trap.inh && t.reached p.seq && t.tiles[k].pending.isNone
  | .csr _ => !t.trap.inh && t.reached p.seq
  | .port n => ((t.statuses n).head?.bind id).isSome

/-- What a read of a control register delivers: its value at its place in program order (R31). -/
def State.readValue (s : State) (p : SyncRead) : Csr → Word
  | .vl => BitVec.ofNat 64 { s.st with grant := p.grant }.vlNow
  | .xflags => p.flags.setWidth 64
  | c => s.csrVal c

/-- Delivers the reads that can be delivered. -/
def State.deliverReads : Nat → State → State
  | 0, s => s
  | n + 1, s =>
    match s.st.sync.find? s.st.deliverable with
    | none => s
    | some p =>
      match p.src with
      | .entry => s
      | .csr c => State.deliverReads n (s.mod fun t => t.receive p (s.readValue p c))
      | .port k => State.deliverReads n (s.mod fun t => (t.dropStatus k).receive p (((t.statuses k).head?.bind id).getD 0))

/-- The head entry has completed: it leaves the queue, and its scalar result goes to the register that waits for it. -/
def Strand.finishEntry (t : Strand) (e : Entry) (v : Option Word) : Strand :=
  let u := { t with queue := t.queue.tail, prog := 0 }
  match u.sync.find? fun p => p.seq = e.seq && p.src = .entry with
  | none => u
  | some p => u.receive p (v.getD 0)

/-- Whether the vector side of the strand may move: inside a handler it stays stopped (R43). It goes on while the strand is
parked in QPOP or JOINL (R272, R289). Parked at a barrier the strand issues nothing, but a VWAIT or MCLAIM at its head whose
condition holds completes (R175, R194, R291). -/
def Strand.vectorMoves (t : Strand) : Bool :=
  t.stat == .running && !t.trap.inh && !t.queue.isEmpty && (!t.park.atBarrier || t.vectorPark != .none)

/-- One attempt at the head entry (R30), and whether it completed. Reads that stand before it and can be delivered are
delivered first (R31, R180). -/
def State.headStep (s : State) : State × Bool :=
  if !s.st.vectorMoves then (s, false)
  else match s.st.queue with
    | [] => (s, false)
    | e :: _ =>
      let s1 := State.deliverReads 8 ((if e.instr.releases then s.work s.slot else s).interlock e)
      if s1.st.headHeld e then (s1, false)
      else match issue e.instr e s1 with
        | .stop s2 => (s2, false)
        | .done s2 v => ((State.deliverReads 8 (s2.mod fun t => t.finishEntry e v)).enterClaim, true)

/-- Head entries in order, while they complete. -/
def State.drainN : Nat → State → State
  | 0, s => s
  | n + 1, s =>
    match s.headStep with
    | (s1, true) => s1.drainN n
    | (s1, false) => s1

/-- The vector side goes as far as it can now. Where the environment has taken its pace over, only the head of a strand that is
parked, which holds no lane group (R291), tries again. -/
def State.drain (s : State) : State :=
  let s1 := if !s.st.runAhead then s.drainN s.st.queue.length
    else if s.st.park ≠ .none then s.headStep.1
    else s
  s1.deliverReads 8

/-- First element of element group n of a register group of width w (R81). -/
def groupStart (w n : Nat) : Nat := if w = 6 then n / 16 * 1364 + 4 * ((512 * (n % 16) + 23) / 24) else 512 * n / w

/-- The head entry goes on to the boundary of element group n, or of row n for MTILE, and stops there if it is not at its end
(R45, R144). The width of the grant places the boundary (DESIGN CHOICE, log 79). -/
def State.partHead (s : State) (n : Nat) : State :=
  match s.st.queue with
  | [] => s
  | e :: _ =>
    let g := match e.instr with | .mtile _ _ _ _ _ _ => n | _ => groupStart (grantWidth e.vtype) n
    if g = 0 then s
    else (((s.mod fun t => { t with goal := g }).headStep).1).mod fun t => { t with goal := 0 }

/-! ### Commit (R28, R29) -/

/-- The value of a captured operand. -/
def State.capture (s : State) (r : Option SReg) : Word := match r with | some x => s.r x | none => 0

/-- What an instruction captures from the scalar registers (R29). -/
def State.opds (s : State) (i : Instr) : Opds :=
  let n := i.reads
  { d := s.capture n.d, a := s.capture n.a, b := s.capture n.b, c := s.capture n.c }

/-- The queue entry of an instruction (R29). -/
def State.entry (s : State) (i : Instr) : Entry :=
  let t := s.st
  { seq := t.nextSeq, ord := t.pushes, instr := i, word := t.ir, pay := t.pfx, opd := s.opds i, grant := t.grant.id, len := t.grant.len,
    vtype := t.grant.vtype, frm := t.csr.frm, fxrm := t.csr.fxrm, xact := t.csr.xact, done := 0 }

/-- SETVLF starts its grant when it commits (R126). -/
def Strand.newGrant (t : Strand) (len : Nat) (vt : BitVec 5) : Strand :=
  { t with grant := { id := t.nextGrant, len := len, vtype := vt }, nextGrant := t.nextGrant + 1,
           trims := t.trims.filter fun p => p.1 ≠ t.nextGrant }

/-- The grant that a form starts at commit. -/
def Strand.commitGrant (t : Strand) (i : Instr) : Strand :=
  match i with
  | .setvlf _ _ _ g w => let vt := BitVec.ofNat 5 (w.code + g.code * 8); t.newGrant (vlmax vt) vt
  | _ => t

/-- Waits in a scalar register for a value that comes later (R31, R211). -/
def Strand.await (t : Strand) (r : SReg) (src : ReadSrc) : Strand :=
  { t with sync := t.sync ++ [{ reg := r, seq := t.nextSeq, src := src, grant := t.grant, flags := t.csr.xflags }],
           pend := putField t.pend r.val 1 1 }

/-- COMMIT of a vector-stream instruction (R28, R29): the entry is captured and the scalar side moves on. What BARV and a
release stand behind is performed by then, as far as scalar stores go (R231, R295). -/
def State.commit (s : State) (i : Instr) : State :=
  let s0 := if i.releases || i.isBarv then s.flushLate s.slot else s
  let s1 := s0.mod fun t => t.commitGrant i
  let e := s1.entry i
  (s1.mod fun t =>
    let u := match i.dest with | some d => t.await d .entry | none => t
    { u with queue := u.queue ++ [e], nextSeq := u.nextSeq + 1 }.advance).enterClaim

/-- Whether the queues have room for an instruction (R28, R31). -/
def Strand.hasRoom (t : Strand) (i : Instr) : Bool :=
  decide (t.queue.length < 64) && (i.dest.isNone || decide (t.sync.length < 8))

/-- A vector-stream instruction (R28, R43): inside a handler its commit is a double trap; with no room it stalls; else
it commits and the vector side goes on. -/
def State.vectorStream (s : State) (i : Instr) : Res :=
  if s.st.trap.inh then .next (s.trap 0 0 false)
  else if !s.st.hasRoom i then .next s.drain
  else .next (s.commit i).drain

/-- VFENCE and the waits like it: once the vector side is empty, k runs; until then the scalar side stalls (R120). -/
def State.afterEntries (s : State) (k : State → Res) : Res :=
  let s1 := s.drain
  if s1.st.queue.isEmpty && s1.slot = s.slot && s1.st.stat = .running then k s1 else .next s1

/-! ### The arbiter (R287) -/

/-- Whether a strand's head entry can issue (R287): a parked strand is not ready, nor one whose head waits for a copy, for
older accesses or for a tile (R30, R181, R222). -/
def Strand.laneReady (t : Strand) : Bool :=
  t.vectorMoves && t.park == .none && match t.queue with
    | e :: _ => !t.headHeld e && (t.tileWaits e).isNone && (!e.instr.isBarv || (t.released e.seq e.ord && t.cmdsBefore e.ord))
    | [] => false

/-- One lane group goes to the ready strand with the greatest credit, ties to the lowest slot (R287). -/
def bindOne (allow : Nat → Nat) (w : Int) (ready : List Nat) (x : List (Nat × Int × Nat)) : List (Nat × Int × Nat) :=
  let c := x.filter fun p => ready.contains p.1 && decide (p.2.2 < allow p.1)
  match c.foldl (fun b p => match b with | none => some p | some q => if q.2.1 < p.2.1 then some p else b) none with
  | none => x
  | some (k, _, _) => x.map fun p => if p.1 = k then (p.1, p.2.1 - w, p.2.2 + 1) else p

/-- LANE_GROUP_BIND (R287): one cycle of the arbiter of a core. The eight lane groups are free, since an entry executes in
one step; every strand that holds one after the binding issues its head entry. -/
def execLaneGroupBind (core : Nat) (s : State) : Res :=
  let ks := (List.range 8).map (8 * core + ·)
  let ready := ks.filter fun k => (s.strand k).laneReady
  let weight := fun k => ((s.strand k).csr.lanew.toNat : Int)
  let w := (ready.map weight).sum
  let start := ks.map fun k => (k, (s.strand k).credit, 0)
  let bound := (List.range 8).foldl (fun x _ => bindOne (fun k => (s.strand k).csr.lanea.toNat) w ready x) start
  let s1 := bound.foldl (fun x p => if (x.strand p.1).stat = .absent then x else x.modStrand p.1 fun t =>
    { t with credit := if ready.contains p.1 then min (p.2.1 + weight p.1) w else p.2.1 }) s
  let s2 := (bound.filter fun p => 0 < p.2.2).foldl (fun x p => ((x.focus p.1).headStep).1) s1
  .next (s2.focus s.slot)

/-- MONITOR_WAKE (R175): a write to a watched line has performed, and the strand reads again. -/
def execMonitorWake (k : Nat) (s : State) : Res :=
  let t := s.strand k
  match t.queue with
  | { instr := .vwait _ _ _ _ _ _, .. } :: _ => .next (((s.focus k).headStep).1.focus s.slot)
  | _ => .next s

end Sys2Proof.Machine
end

