-- ==== Sys2Proof/Machine/Scalar.lean ====
section
/-! DEFINITION. Integer scalar instructions, immediates and constants (06: R96 to R100), with the latencies of R69. -/

namespace Sys2Proof.Machine

/-! ### Functions of 64-bit values (R97) -/

/-- Number of leading zero bits. -/
def clz64 (x : Word) : Nat := 64 - bitLen x.toNat
/-- Number of trailing zero bits; 64 for 0. -/
def ctz64 (x : Word) : Nat := ((List.range 64).find? fun i => x.getLsbD i).getD 64
/-- Number of one bits. -/
def popc64 (x : Word) : Nat := ((List.range 64).filter fun i => x.getLsbD i).length
/-- 1 for true. -/
def flag64 (b : Bool) : Word := BitVec.ofNat 64 (bitN b)
/-- Signed lesser. -/
def smin (x y : Word) : Word := if y.toInt < x.toInt then y else x
/-- Signed greater. -/
def smax (x y : Word) : Word := if x.toInt < y.toInt then y else x
/-- Unsigned lesser. -/
def umin (x y : Word) : Word := if y.toNat < x.toNat then y else x
/-- Unsigned greater. -/
def umax (x y : Word) : Word := if x.toNat < y.toNat then y else x
/-- Signed quotient toward zero; all ones for a division by zero; the wrap of −2^63 by −1 is −2^63. -/
def sdiv64 (x y : Word) : Word := if y = 0 then BitVec.allOnes 64 else BitVec.ofInt 64 (x.toInt.tdiv y.toInt)
/-- Unsigned quotient. -/
def udiv64 (x y : Word) : Word := if y = 0 then BitVec.allOnes 64 else BitVec.ofNat 64 (x.toNat / y.toNat)
/-- Signed remainder, with the sign of x. -/
def srem64 (x y : Word) : Word := if y = 0 then x else BitVec.ofInt 64 (x.toInt.tmod y.toInt)
/-- Unsigned remainder. -/
def urem64 (x y : Word) : Word := if y = 0 then x else BitVec.ofNat 64 (x.toNat % y.toNat)

/-- `op sd, sa, sb` with its latency. -/
def State.alu (s : State) (d a b : SReg) (lat : Nat) (f : Word → Word → Word) : Res := s.result d (f (s.r a) (s.r b)) lat

/-- `op sd, sa, imm` over an n-bit immediate field (R66, R99). -/
def State.aluImm (s : State) (d a : SReg) (n v : Nat) (f : Word → Word → Word) : Res :=
  s.result d (f (s.r a) (s.st.imm n v)) 1

/-- ADD (R97). -/
def execAdd (d a b : SReg) (s : State) : Res := s.alu d a b 1 fun x y => x + y
/-- SUB (R97). -/
def execSub (d a b : SReg) (s : State) : Res := s.alu d a b 1 fun x y => x - y
/-- AND (R97). -/
def execAnd (d a b : SReg) (s : State) : Res := s.alu d a b 1 fun x y => x &&& y
/-- OR (R97). -/
def execOr (d a b : SReg) (s : State) : Res := s.alu d a b 1 fun x y => x ||| y
/-- XOR (R97). -/
def execXor (d a b : SReg) (s : State) : Res := s.alu d a b 1 fun x y => x ^^^ y
/-- SLL (R97). -/
def execSll (d a b : SReg) (s : State) : Res := s.alu d a b 1 fun x y => x <<< (y.toNat % 64)
/-- SRL (R97). -/
def execSrl (d a b : SReg) (s : State) : Res := s.alu d a b 1 fun x y => x >>> (y.toNat % 64)
/-- SRA (R97). -/
def execSra (d a b : SReg) (s : State) : Res := s.alu d a b 1 fun x y => x.sshiftRight (y.toNat % 64)
/-- SLT (R97). -/
def execSlt (d a b : SReg) (s : State) : Res := s.alu d a b 1 fun x y => flag64 (decide (x.toInt < y.toInt))
/-- SLTN (R97). -/
def execSltn (d a b : SReg) (s : State) : Res := s.alu d a b 1 fun x y => flag64 (decide (x.toNat < y.toNat))
/-- MIN (R97). -/
def execMin (d a b : SReg) (s : State) : Res := s.alu d a b 1 fun x y => smin x y
/-- MAX (R97). -/
def execMax (d a b : SReg) (s : State) : Res := s.alu d a b 1 fun x y => smax x y
/-- MINN (R97). -/
def execMinn (d a b : SReg) (s : State) : Res := s.alu d a b 1 fun x y => umin x y
/-- MAXN (R97). -/
def execMaxn (d a b : SReg) (s : State) : Res := s.alu d a b 1 fun x y => umax x y
/-- CLZ (R97). -/
def execClz (d a : SReg) (s : State) : Res := s.result d (BitVec.ofNat 64 (clz64 (s.r a))) 1
/-- CTZ (R97). -/
def execCtz (d a : SReg) (s : State) : Res := s.result d (BitVec.ofNat 64 (ctz64 (s.r a))) 1
/-- POPC (R97). -/
def execPopc (d a : SReg) (s : State) : Res := s.result d (BitVec.ofNat 64 (popc64 (s.r a))) 1
/-- MUL (R97). -/
def execMul (d a b : SReg) (s : State) : Res := s.alu d a b 3 fun x y => x * y
/-- MULH (R97). -/
def execMulh (d a b : SReg) (s : State) : Res := s.alu d a b 3 fun x y => BitVec.ofInt 64 (x.toInt * y.toInt / 2 ^ 64)
/-- MULHN (R97). -/
def execMulhn (d a b : SReg) (s : State) : Res := s.alu d a b 3 fun x y => BitVec.ofNat 64 (x.toNat * y.toNat / 2 ^ 64)
/-- DIV (R97). -/
def execDiv (d a b : SReg) (s : State) : Res := s.alu d a b 0 fun x y => sdiv64 x y
/-- DIVN (R97). -/
def execDivn (d a b : SReg) (s : State) : Res := s.alu d a b 0 fun x y => udiv64 x y
/-- REM (R97). -/
def execRem (d a b : SReg) (s : State) : Res := s.alu d a b 0 fun x y => srem64 x y
/-- REMN (R97). -/
def execRemn (d a b : SReg) (s : State) : Res := s.alu d a b 0 fun x y => urem64 x y
/-- SEL (R98). -/
def execSel (d a b c : SReg) (s : State) : Res := s.result d (if s.r c ≠ 0 then s.r a else s.r b) 1

/-! ### Immediates (R99, R100) -/

/-- ADD with an immediate (R99). -/
def execAddImm (d a : SReg) (i : BitVec 16) (s : State) : Res :=
  s.aluImm d a 16 i.toNat fun x y => x + y
/-- AND with an immediate (R99). -/
def execAndImm (d a : SReg) (i : BitVec 13) (s : State) : Res :=
  s.aluImm d a 13 i.toNat fun x y => x &&& y
/-- OR with an immediate (R99). -/
def execOrImm (d a : SReg) (i : BitVec 13) (s : State) : Res :=
  s.aluImm d a 13 i.toNat fun x y => x ||| y
/-- XOR with an immediate (R99). -/
def execXorImm (d a : SReg) (i : BitVec 13) (s : State) : Res :=
  s.aluImm d a 13 i.toNat fun x y => x ^^^ y
/-- SLT with an immediate (R99). -/
def execSltImm (d a : SReg) (i : BitVec 13) (s : State) : Res :=
  s.aluImm d a 13 i.toNat fun x y => flag64 (decide (x.toInt < y.toInt))
/-- SLTN with an immediate (R99). -/
def execSltnImm (d a : SReg) (i : BitVec 13) (s : State) : Res :=
  s.aluImm d a 13 i.toNat fun x y => flag64 (decide (x.toNat < y.toNat))
/-- MIN with an immediate (R99). -/
def execMinImm (d a : SReg) (i : BitVec 12) (s : State) : Res :=
  s.aluImm d a 12 i.toNat fun x y => smin x y
/-- MAX with an immediate (R99). -/
def execMaxImm (d a : SReg) (i : BitVec 12) (s : State) : Res :=
  s.aluImm d a 12 i.toNat fun x y => smax x y
/-- MINN with an immediate (R99). -/
def execMinnImm (d a : SReg) (i : BitVec 12) (s : State) : Res :=
  s.aluImm d a 12 i.toNat fun x y => umin x y
/-- MAXN with an immediate (R99). -/
def execMaxnImm (d a : SReg) (i : BitVec 12) (s : State) : Res :=
  s.aluImm d a 12 i.toNat fun x y => umax x y
/-- SLL with an immediate, unsigned and without a payload (R99). -/
def execSllImm (d a : SReg) (i : BitVec 6) (s : State) : Res := s.result d (s.r a <<< i.toNat) 1
/-- SRL with an immediate, unsigned and without a payload (R99). -/
def execSrlImm (d a : SReg) (i : BitVec 6) (s : State) : Res := s.result d (s.r a >>> i.toNat) 1
/-- SRA with an immediate, unsigned and without a payload (R99). -/
def execSraImm (d a : SReg) (i : BitVec 6) (s : State) : Res := s.result d ((s.r a).sshiftRight i.toNat) 1
/-- LIH (R100). -/
def execLih (d : SReg) (i : BitVec 17) (s : State) : Res := s.result d (i.signExtend 64 <<< 16) 1

end Sys2Proof.Machine
end

