-- ==== Sys2Proof/Machine/ScalarMem.lean ====
section
/-! DEFINITION. Scalar loads, stores and atomics; branches and jumps (06: R101 to R106). -/

namespace Sys2Proof

/-- Bytes of a scalar access. -/
def LW.bytes : LW → Nat
  | .b8 => 1 | .h16 => 2 | .w32 => 4 | .d64 => 8

end Sys2Proof

namespace Sys2Proof.Machine

/-! ### Loads and stores (R101, R102) -/

/-- Effective address of a scalar access: sa + sext(off), modulo 2^64. -/
def State.ea (s : State) (a : SReg) (n v : Nat) : Word := s.r a + s.st.imm n v

/-- Whether two lists of locations share a byte. -/
def meet (a b : List Nat) : Bool := a.any b.contains

/-- Before an access to locations that an accepted store writes, the strand's stores perform: accesses of one stream to a
common byte perform in program order (R230). -/
def State.settled (s : State) (ls : List Nat) : State := if s.st.late.any fun p => meet p.1 ls then s.flushLate s.slot else s

/-- A scalar store: it performs, or is accepted to perform later (R227, R230). -/
def State.accept (s : State) (ls : List Nat) (v : Nat) : State :=
  if s.st.lateOn then s.mod fun t => { t with late := t.late ++ [(ls, v)] } else (s.settled ls).storeNow s.me ls v

/-- LD: sign-extends (R101). -/
def execLd (d a : SReg) (w : LW) (i : BitVec 14) (s : State) : Res :=
  s.scalarAccess (s.ea a 14 i.toNat).toNat w.bytes .read fun s ls =>
    (s.settled ls).result d ((BitVec.ofNat (8 * w.bytes) ((s.settled ls).get ls)).signExtend 64)

/-- LDN: zero-extends (R101). -/
def execLdn (d a : SReg) (w : LW) (i : BitVec 14) (s : State) : Res :=
  s.scalarAccess (s.ea a 14 i.toNat).toNat w.bytes .read fun s ls =>
    (s.settled ls).result d (BitVec.ofNat 64 ((s.settled ls).get ls))

/-- ST: the low bytes of sd (R101). -/
def execSt (d a : SReg) (w : LW) (i : BitVec 14) (s : State) : Res :=
  s.scalarAccess (s.ea a 14 i.toNat).toNat w.bytes .write fun s ls => .next (s.accept ls (s.r d).toNat).advance

/-! ### Atomics (R103, R104) -/

/-- An atomic of a width at sb + off: the new memory value comes from the old one, none for no write; sd takes the old
value, sign-extended. -/
def State.atomic (s : State) (d b : SReg) (w : MW) (f : Nat → Option Nat) : Res :=
  s.scalarAccess (s.ea b 0 0).toNat (w.bits / 8) .rw fun s ls =>
    let old := s.get ls
    (match f old with | some v => s.storeNow s.me ls v | none => s.l2Lines s.st.ctx (globalLines ls)).result d ((BitVec.ofNat w.bits old).signExtend 64)

/-- An AMO. -/
def State.amo (s : State) (d a b : SReg) (w : MW) (o : AmoOp) : Res :=
  s.atomic d b w fun old => some (o.apply w.bits old ((s.r a).toNat % 2 ^ w.bits))

/-- AMO_SWAP (R103). -/
def execAmoSwap (d a b : SReg) (_r : Ordr) (w : MW) (s : State) : Res := s.amo d a b w .swap
/-- AMO_ADD (R103). -/
def execAmoAdd (d a b : SReg) (_r : Ordr) (w : MW) (s : State) : Res := s.amo d a b w .add
/-- AMO_AND (R103). -/
def execAmoAnd (d a b : SReg) (_r : Ordr) (w : MW) (s : State) : Res := s.amo d a b w .and
/-- AMO_OR (R103). -/
def execAmoOr (d a b : SReg) (_r : Ordr) (w : MW) (s : State) : Res := s.amo d a b w .or
/-- AMO_XOR (R103). -/
def execAmoXor (d a b : SReg) (_r : Ordr) (w : MW) (s : State) : Res := s.amo d a b w .xor
/-- AMO_MIN, signed (R103). -/
def execAmoMin (d a b : SReg) (_r : Ordr) (w : MW) (s : State) : Res := s.amo d a b w .min
/-- AMO_MAX, signed (R103). -/
def execAmoMax (d a b : SReg) (_r : Ordr) (w : MW) (s : State) : Res := s.amo d a b w .max

/-- CAS: it compares with sd and writes sa (R103, R104). -/
def execCas (d a b : SReg) (_r : Ordr) (w : MW) (s : State) : Res :=
  s.atomic d b w fun old =>
    if old = (s.r d).toNat % 2 ^ w.bits then some ((s.r a).toNat % 2 ^ w.bits) else none

/-! ### Branches and jumps (R105, R106) -/

/-- The address of the word at pc plus 4 times an immediate of n bits. Outside [0, 2^56) it wraps, as pc + 4 and link values do:
the spec gives the check of JALR alone (DESIGN CHOICE, log 95). -/
def State.target (s : State) (n v : Nat) : BitVec 56 := s.st.pc + ((s.st.imm n v).setWidth 56) * 4

/-- A branch: taken, it ends a clause; not taken, it uses up its position (R71). -/
def State.branch (s : State) (c : Bool) (i : BitVec 13) : Res :=
  .next (if c then s.jump (s.target 13 i.toNat) else s.advance)

/-- BEQ (R105). -/
def execBeq (d a : SReg) (i : BitVec 13) (s : State) : Res := s.branch (s.r d == s.r a) i
/-- BNE (R105). -/
def execBne (d a : SReg) (i : BitVec 13) (s : State) : Res := s.branch (s.r d != s.r a) i
/-- BLT (R105). -/
def execBlt (d a : SReg) (i : BitVec 13) (s : State) : Res := s.branch (decide ((s.r d).toInt < (s.r a).toInt)) i
/-- BGE (R105). -/
def execBge (d a : SReg) (i : BitVec 13) (s : State) : Res := s.branch (decide ((s.r a).toInt ≤ (s.r d).toInt)) i
/-- BLTN (R105). -/
def execBltn (d a : SReg) (i : BitVec 13) (s : State) : Res := s.branch (decide ((s.r d).toNat < (s.r a).toNat)) i
/-- BGEN (R105). -/
def execBgen (d a : SReg) (i : BitVec 13) (s : State) : Res := s.branch (decide ((s.r a).toNat ≤ (s.r d).toNat)) i

/-- The address of the word after pc, as a link register holds it. -/
def State.link64 (s : State) : Word := (s.st.pc + 4).setWidth 64

/-- JAL (R105). -/
def execJal (d : SReg) (i : BitVec 17) (s : State) : Res := .next ((s.setR d s.link64 1).jump (s.target 17 i.toNat))

/-- JALR (R105, R106): the target comes from sa before sd is written. -/
def execJalr (d a : SReg) (i : BitVec 16) (s : State) : Res :=
  let t := s.ea a 16 i.toNat
  match jumpFault t with
  | some c => s.raise c t
  | none => .next ((s.setR d s.link64 1).jump (t.setWidth 56))

end Sys2Proof.Machine
end

