-- ==== Sys2Proof/Machine/ScalarFloat.lean ====
section
/-! DEFINITION. Scalar floating point (06: R107 to R111). -/

namespace Sys2Proof

/-- The element code of a scalar FP type. -/
def SFT.elem : SFT → Elem
  | .f32 => .f32 | .bf16 => .bf16 | .f16 => .f16 | .i32 => .i32 | .n32 => .n32 | .i64 => .i64 | .n64 => .n64

end Sys2Proof

namespace Sys2Proof.Machine

/-- The rounding of a scalar form: that of its payload, else FRM (R108). -/
def Strand.frmNow (t : Strand) : RM :=
  let fr := match t.pfx with | some p => p.toNat % 8 | none => 0
  RM.ofCode (if 1 ≤ fr ∧ fr ≤ 5 then fr - 1 else t.csr.frm.toNat)

/-- An encoding of n bits with every bit above set (R107). -/
def boxed (n x : Nat) : Word := BitVec.ofNat 64 (2 ^ 64 - 2 ^ n + x % 2 ^ n)

/-- An f32 operand: bits [31:0] of a register. -/
def State.f32 (s : State) (a : SReg) : Nat := (s.r a).toNat % 2 ^ 32

/-- An f32 result with its classes and latency (R107, R110). -/
def State.floatResult (s : State) (d : SReg) (x : Nat × Cls) (lat : Nat) : Res := s.scalarResult d (boxed 32 x.1) x.2 lat

/-- FADD (R108). -/
def execFadd (d a b : SReg) (s : State) : Res := s.floatResult d (fAddE .f32 s.st.frmNow (s.f32 a) (s.f32 b) 0) 4
/-- FSUB (R108). -/
def execFsub (d a b : SReg) (s : State) : Res := s.floatResult d (fSubE .f32 s.st.frmNow (s.f32 a) (s.f32 b) 0) 4
/-- FMUL (R108). -/
def execFmul (d a b : SReg) (s : State) : Res := s.floatResult d (fMulE .f32 s.st.frmNow (s.f32 a) (s.f32 b) 0) 4
/-- FDIV (R108). -/
def execFdiv (d a b : SReg) (s : State) : Res := s.floatResult d (fDivE .f32 s.st.frmNow (s.f32 a) (s.f32 b) 0) 0
/-- FSQRT (R108). -/
def execFsqrt (d a : SReg) (s : State) : Res :=
  s.floatResult d (finish .f32 s.st.frmNow (FP.f32.val (s.f32 a)).sqrt) 0
/-- FMA: sa · sb + sc, rounded once (R108). -/
def execFma (d a b c : SReg) (s : State) : Res :=
  s.floatResult d (fMaE .f32 s.st.frmNow (s.f32 a) (s.f32 b) (s.f32 c)) 4
/-- FMIN (R109). -/
def execFmin (d a b : SReg) (s : State) : Res := s.floatResult d (FP.f32.fmin (s.f32 a) (s.f32 b)) 4
/-- FMAX (R109). -/
def execFmax (d a b : SReg) (s : State) : Res := s.floatResult d (FP.f32.fmax (s.f32 a) (s.f32 b)) 4
/-- FCLASS (R109): one bit of sd; no class is raised. -/
def execFclass (d a : SReg) (s : State) : Res := s.scalarResult d (BitVec.ofNat 64 (FP.f32.fclass (s.f32 a))) 0 4

/-- A comparison: 1 or 0 in sd (R109). -/
def State.fcmp (s : State) (d a b : SReg) (r : FRel) : Res :=
  let x := FP.f32.cmp r (s.f32 a) (s.f32 b)
  s.scalarResult d (flag64 x.1) x.2 4

/-- FCMP_EQ (R109). -/
def execFcmpEq (d a b : SReg) (s : State) : Res := s.fcmp d a b .eq
/-- FCMP_LT (R109). -/
def execFcmpLt (d a b : SReg) (s : State) : Res := s.fcmp d a b .lt
/-- FCMP_LE (R109). -/
def execFcmpLe (d a b : SReg) (s : State) : Res := s.fcmp d a b .le

/-- A result of a scalar FP type as a register holds it (R107, R111). -/
def SFT.place (t : SFT) (x : Nat) : Word :=
  match t with
  | .f32 => boxed 32 x
  | .bf16 | .f16 => boxed 16 x
  | .i32 => (BitVec.ofNat 32 x).signExtend 64
  | .n32 => BitVec.ofNat 64 (x % 2 ^ 32)
  | .i64 | .n64 => BitVec.ofNat 64 x

/-- FCVT from type u to type t (R111). -/
def execFcvt (d a : SReg) (u t : SFT) (s : State) : Res :=
  let x := cvtElem u.elem t.elem s.st.frmNow (XM.ofCode s.st.csr.fxrm.toNat) ((s.r a).toNat % 2 ^ u.elem.bits)
  s.scalarResult d (SFT.place t x.1) x.2 4

end Sys2Proof.Machine
end

