-- ==== Sys2Proof/Machine/System.lean ====
section
/-! DEFINITION. Control registers, system forms, fences, probes, grants, the words that govern others, barrier waits and
generator records (04: R65 to R68; 06: R112 to R121; 07: R124; 19: R295, R296; 21: R316; 26: R361). -/

namespace Sys2Proof.Machine

/-! ### Control registers (R112, R113) -/

/-- CSRR: a synchronising read delivers once every older entry has completed, at once inside a handler; any other read
returns the value now (R31, R43, R112). -/
def execCsrr (d : SReg) (n : Csr) (s : State) : Res :=
  let held := match n with | .shape k => s.st.tiles[k].pending.isSome | _ => false
  if csrSync n && !s.st.trap.inh && (!s.st.queue.isEmpty || held) then
    if s.st.sync.length < 8 then .next (s.mod fun t => (t.await d (.csr n)).advance).drain else .next s.drain
  else s.result d (s.csrVal n)

/-- A write form: f gives the new value from the old one and sa. Writes of VSTART and XFLAGS wait for every older entry,
but for a handler's (R31, R39, R43). -/
def State.csrWrite (s : State) (a : SReg) (n : Csr) (f : Word → Word → Word) : Res :=
  let k := fun (s : State) => Host.Outcome.next (s.csrPut n (f (s.csrVal n) (s.r a))).advance
  if !csrWritable n then s.raise 2 0
  else if (n == .vstart || n == .xflags) && !s.st.trap.inh then s.afterEntries k
  else k s

/-- CSRW (R112). -/
def execCsrw (a : SReg) (n : Csr) (s : State) : Res := s.csrWrite a n fun _ x => x
/-- CSRS (R112). -/
def execCsrs (a : SReg) (n : Csr) (s : State) : Res := s.csrWrite a n fun old x => old ||| x
/-- CSRC (R112). -/
def execCsrc (a : SReg) (n : Csr) (s : State) : Res := s.csrWrite a n fun old x => old &&& ~~~x
/-- VSTART_WRITE: CSRW of VSTART (R39). -/
def execVstartWrite (a : SReg) (s : State) : Res := s.csrWrite a .vstart fun _ x => x
/-- XFLAGS_WRITE: CSRW of XFLAGS (R31). -/
def execXflagsWrite (a : SReg) (s : State) : Res := s.csrWrite a .xflags fun _ x => x

/-- WID (R115). -/
def execWid (d : SReg) (n : BitVec 3) (s : State) : Res :=
  s.result d (BitVec.ofNat 64 (widField s.st.csr.widf s.st.wid n.toNat))

/-! ### System calls (R117, R361) -/

/-- The wait of EXIT: every older entry has completed, and every scalar, vector, stream and copy access has performed
(R118). A status that a POP has taken has come as well: only results that nothing has popped are discarded. -/
def State.afterAccesses (s : State) (k : State → Res) : Res :=
  s.afterEntries fun s1 =>
    let popped := s1.st.popWaits
    let s2 := if popped then s1.work s1.slot else s1.settleAccesses s1.slot
    if s2.st.copiesDone && s2.st.wordsDone && !popped then k s2 else .next s2

/-- The wait of SYSC and BARW: every access of the strand has performed, those of its port commands among them (R117, R231,
R295). -/
def State.afterAll (s : State) (k : State → Res) : Res :=
  s.afterEntries fun s1 =>
    let s2 := s1.work s1.slot
    if s2.st.copiesDone && s2.st.cmdsDone && s2.st.wordsDone then k s2 else .next s2

/-- SYSC 0 (R361): this chip's number. -/
def execSyscChipNumber (d : SReg) (s : State) : Res :=
  s.afterAll fun s => s.result d (s.link.chip.setWidth 64)

/-- SYSC 1 (R361): s1 to s4 go to the host as report 0x86; −2 while the ring is full. -/
def execSyscSend (d : SReg) (s : State) : Res :=
  s.afterAll fun s =>
    if s.host.ringOpen then
      (s.report (mkReport 0x86 0 s.st.ctx 0 [(8, (s.r 1).toNat), (16, (s.r 2).toNat), (24, (s.r 3).toNat),
        (32, (s.r 4).toNat), (40, s.slot)])).result d 0
    else s.result d (BitVec.ofInt 64 (-2))

/-- SYSC 2 (R361): members and rank in a collective group; −1 for an unknown one. -/
def execSyscMembership (d : SReg) (s : State) : Res :=
  s.afterAll fun s =>
    match s.cgroup? s.st.ctx (s.r 1).toNat with
    | some ms => s.result d (BitVec.ofNat 64 (ms.length * 2 ^ 16 + ms.findIdx (· = s.link.chip.toNat)))
    | none => s.result d (BitVec.ofInt 64 (-1))

/-- A service that the Oasis kernel does not offer: sd = −1 (R117). -/
def execUnofferedSyscService (d : SReg) (_i : BitVec 17) (s : State) : Res :=
  s.afterAll fun s => s.result d (BitVec.ofInt 64 (-1))

/-- TRAP: cause 0x20 with the immediate, unsigned (R117). -/
def execTrap (i : BitVec 17) (s : State) : Res := s.raise 0x20 (i.setWidth 64)

/-- RETT (R44): illegal outside a handler. -/
def execRett (s : State) : Res := if s.st.trap.inh then .next (s.mod Strand.returnFromTrap) else s.raise 2 0

/-- YIELD (R117): no state changes. -/
def execYield (s : State) : Res := .next s.advance

/-- The end of a strand by EXIT, and of its group with its last strand (R118, R281). -/
def State.endStrand (s : State) : State :=
  ((s.removeStrand s.slot true).finishGroup s.st.gkey none).settleObjs

/-- EXIT (R118): inside a handler it discards the queue and ends at once; else it waits for the strand's work. -/
def execExit (s : State) : Res :=
  if s.st.trap.inh then .next s.endStrand else s.afterAccesses fun s => .next s.endStrand

/-! ### Fences and probes (R119 to R121) -/

/-- FENCE (R119): it stalls until the selected accesses have performed. An access of this machine performs for every party at
once, so the scopes differ in one point: under .sys every earlier p17 command has ended as well (R232). k holds kinds 1 to 8
in bits 0 to 7. -/
def execFence (c : Scope) (k : BitVec 8) (s : State) : Res :=
  let on := fun n => k.getLsbD (n - 1)
  let s1 := s.drain
  let s2 := if on 8 || c = .sys then s1.work s1.slot else if on 6 || on 7 then s1.settleAccesses s1.slot else s1
  let t := s2.st
  let queued := t.queue.any fun e => 2 * k.toNat &&& e.instr.accessKinds ≠ 0
  if s2.slot ≠ s.slot || t.stat ≠ .running || queued || (on 6 && !t.wordsDone) || (on 7 && !t.copiesDone)
      || (on 8 && !(t.cmdsDone && t.copiesDone)) || (c = .sys && t.colls.any (·.status.isNone)) then .next s2
  else if t.trap.inh && !s.st.trap.inh then .next s2
  else .next s2.advance

/-- PROBE (R121): 0, or the cause an access would raise; of an address in a window, 0 or 4 by R16 whatever the kind (R18).
It tests what the tables say now. -/
def execProbe (d a : SReg) (k : PKind) (s : State) : Res :=
  let ea := (s.r a).toNat
  let acc : Acc := match k with | .r => .read | .w => .write | .x => .fetch
  let c := match s.place (walkerOf s.slot s.st.ctx) ea acc with | .ok _ => 0 | .error c => c
  s.result d (BitVec.ofNat 64 c)

/-- VFENCE (R120). -/
def execVfence (s : State) : Res := s.afterEntries fun s => .next s.advance

/-! ### Grants (R124) -/

/-- The length that SETVL grants (R124, R125). -/
def grantLen (w : EW) (vt : BitVec 5) (avl : Nat) : Nat :=
  let g := Nat.min avl (vlmax vt)
  if w = .e6 && 4 ≤ g then g - g % 4 else g

/-- SETVL (R124). -/
def execSetvl (d a : SReg) (g : Grp) (w : EW) (s : State) : Res :=
  let vt := BitVec.ofNat 5 (w.code + g.code * 8)
  let n := grantLen w vt (s.r a).toNat
  (s.mod fun t => t.newGrant n vt).result d (BitVec.ofNat 64 n)

/-! ### Governing words and reserved encodings (R65 to R68) -/

/-- A word that is a reserved encoding (R65). -/
def execReservedEncoding (w : BitVec 32) (s : State) : Res := s.raise 1 (w.setWidth 64)

/-- PFX (R66): its payload waits for the next word, which judges it (R67). -/
def execPfx (p : BitVec 26) (s : State) : Res :=
  .next (s.mod fun t => { t with pc := t.pc + 4, pfx := some p, pfxLive := true })

/-- CLH (R68): a clause of N positions; a reserved encoding while a clause has positions left. -/
def execClh (c : BitVec 26) (s : State) : Res :=
  if s.st.clause.isSome || !clauseOk c then s.raise 1 (s.st.ir.setWidth 64)
  else
    .next (s.mod fun t => { t with
      pc := t.pc + 4, pfx := none, pfxLive := false,
      clause := some { pos := 1, len := c.toNat % 8, cnt := c.extractLsb' 3 21, log := [] } })

/-! ### Barrier waits (R295, R296) -/

/-- BARW (R295, R296): it waits as VFENCE does and for the strand's other accesses, arrives once, gives its register the phase it
arrived in, and waits for that phase. -/
def execBarw (d a : SReg) (s : State) : Res :=
  match s.st.park with
  | .barw b _ =>
    match s.bar? (BitVec.ofNat 64 b) with
    | none => s.raise 2 0
    | some x => .next (s.mod fun t => t.pastBar b x)
  | _ =>
    s.afterAll fun s2 =>
      match s2.bar? (s2.r a) with
      | none => s2.raise 2 0
      | some x =>
        if x.n = 0 then s2.raise 2 0
        else
          let s3 := (s2.arriveAt (s2.r a).toNat x).setR d (x.ph.setWidth 64)
          if x.arrive.passed x.ph then .next s3.advance
          else .next (s3.mod fun t => { t with park := .barw (s2.r a).toNat x.ph })

/-! ### Generator records (R316) -/

/-- The address of the strand's record. -/
def State.rngAddr (s : State) (a : SReg) : Word :=
  s.r a + BitVec.ofNat 64 (32 * widField s.st.csr.widf s.st.wid 0)

/-- RNGCK (R316): K and C go to the record. -/
def execRngck (a : SReg) (s : State) : Res :=
  s.afterEntries fun s =>
    s.scalarAccess (s.rngAddr a).toNat 32 .write fun s ls =>
      .next (s.storeNow s.me ls (s.st.key.toNat + s.st.ctr.toNat * 2 ^ 64)).advance

/-- RNGRS (R316): K and C come from the record. -/
def execRngrs (a : SReg) (s : State) : Res :=
  s.afterEntries fun s =>
    s.scalarAccess (s.rngAddr a).toNat 32 .read fun s ls =>
      let x := s.get ls
      if x / 2 ^ 192 ≠ 0 then s.raise 2 0
      else .next (s.mod fun t => { t with key := BitVec.ofNat 64 x, ctr := BitVec.ofNat 128 (x / 2 ^ 64) }).advance

end Sys2Proof.Machine
end

