-- ==== Sys2Proof/Machine/Ports.lean ====
section
/-! DEFINITION. Ports: PUSH, POP, STRCFG and STRBAR (12: R209 to R217). -/

namespace Sys2Proof.Machine

/-- The first port whose write stream has met a fault that nothing has taken up, among those a test admits (R215). -/
def Strand.wfaultAt (t : Strand) (p : Nat → Bool) : Option (Nat × Word) :=
  (List.range 16).findSome? fun n =>
    if p n then (t.streams.toList.getD n .idle).wfault.map fun a => (n, a) else none

/-- Takes up the fault of a write stream: cause 0x02 with the faulting address (R41, R215). -/
def State.raiseWfault (s : State) (n : Nat) (a : Word) : Res :=
  (s.modStream n fun x => { x with wfault := none }).raise 2 a

/-- The words of a PUSH: n + 1 registers from a (R210). -/
def State.pushed (s : State) (a : SReg) (n : Nat) : List Word :=
  (List.range (n + 1)).map fun i => s.r (Fin.ofNat 32 (a.val + i))

/-- PUSH to a stream port (R209, R210, R214). Words beyond COUNT are refused. -/
def State.pushStream (s : State) (p : Nat) (ws : List Word) : Res :=
  let x := s.streamAt p
  if s.st.strCnt ≤ p || x.st = .idle || x.st = .ended || !x.write || x.count < x.cur + x.fifo.length + ws.length then
    s.raise 2 0
  else if 32 < x.fifo.length + ws.length then .next (s.drain.settleAccesses s.slot)
  else
    .next (((s.modStream p fun y => { y with fifo := y.fifo ++ ws.map fun w => (s.st.nextSeq, s.st.pushes, w) }).mod fun t =>
      { t with pushes := t.pushes + 1 }).advance)

/-- PUSH (R209, R210). A full FIFO stalls the scalar pipeline; the engines go on meanwhile. -/
def execPush (d : Port) (a : SReg) (n : Fin 8) (s : State) : Res :=
  let ws := s.pushed a n.val
  if d.val < 16 then s.pushStream d.val ws
  else match d.val, ws with
    | 16, [w0, w1, w2, w3] =>
      if 16 ≤ (s.st.cmds.filter (·.status.isNone)).length then .next (s.drain.work s.slot)
      else
        .next (s.mod fun t => { t with
          cmds := t.cmds ++ [{ w0 := w0, w1 := w1, w2 := w2, w3 := w3, seq := t.nextSeq, ord := t.pushes, trans := 0, status := none }],
          pushes := t.pushes + 1 }).advance
    | 17, [w0, w1, w2, w3] =>
      if 8 ≤ (s.st.colls.filter (·.status.isNone)).length then .next (s.drain.work s.slot)
      else .next ((s.newColl w0 w1 w2 w3).mod fun t => { t with pushes := t.pushes + 1 }).advance
    | _, _ => s.raise 2 0

/-- POP from a stream port: element C, buffered or read as a scalar load (R211, R215). -/
def State.popStream (s : State) (d : SReg) (p : Nat) : Res :=
  let x := s.streamAt p
  if s.st.strCnt ≤ p || x.st = .idle || x.st = .ended || x.write then s.raise 2 0
  else match x.buf.find? fun e => e.1 = x.cur with
    | some e => (s.modStream p fun y => y.advance 1).result d e.2
    | none =>
      let ea := x.addr x.cur
      let b : Nat := 2 ^ x.width
      if ea % b ≠ 0 then s.raise 7 (BitVec.ofNat 64 (ea64 ea))
      else if ea < 0 || 2 ^ 64 ≤ ea then s.raise 5 (BitVec.ofNat 64 (ea64 ea))
      else s.scalarAccess ea.toNat b .read fun s ls =>
        (s.modStream p fun y => y.advance 1).result d (BitVec.ofNat 64 (s.get ls))

/-- POP of a status at port 16, 17 or 18 (R211): the oldest that no POP waits for, as a pending write while it has not come;
cause 0x02 where no command or copy is outstanding. -/
def State.popStatus (s : State) (d : SReg) (p : Nat) : Res :=
  let taken := (s.st.sync.filter fun r => r.src = .port p).length
  match (s.st.statuses p)[taken]? with
  | none => s.raise 2 0
  | some v =>
    match (if taken = 0 then v else none) with
    | some v => (s.mod fun t => t.dropStatus p).result d v
    | none => if s.st.sync.length < 8 then .next (s.mod fun t => (t.await d (.port p)).advance) else .next (s.drain.work s.slot)

/-- POP (R211). A fault of another port's write stream comes first (R215). -/
def execPop (d : SReg) (a : Port) (s : State) : Res :=
  match s.st.wfaultAt fun n => n ≠ a.val with
  | some (n, x) => s.raiseWfault n x
  | none =>
    if a.val < 16 then s.popStream d a.val
    else s.popStatus d a.val

/-- A stream as its descriptor starts it (R213, R214). -/
def streamOf (base count stride ctl : Nat) (old : Stream) : Stream :=
  { st := if count = 0 then .ended else .running, base := BitVec.ofNat 64 base, count := count,
    stride := BitVec.ofNat 64 stride, width := ctl % 4, write := ctl / 8 % 2 == 1, depth := ctl / 16 % 4,
    slen := ctl / 2 ^ 16 % 2 ^ 16, cur := 0, buf := [], fifo := [], wfault := old.wfault }

/-- Whether a field of a stream descriptor lies outside its limits (R213). -/
def streamBad (count ctl : Nat) : Bool :=
  decide (2 ^ 32 < count) || decide (3 < ctl % 8) || ctl / 2 ^ 6 % 2 ^ 10 != 0 || ctl / 2 ^ 32 != 0
    || ctl / 2 ^ 16 % 2 ^ 16 == 0
    || decide (8192 < (ctl / 16 % 4 + 1) * (ctl / 2 ^ 16 % 2 ^ 16) * 2 ^ (ctl % 4))

/-- STRCFG (R213). -/
def execStrcfg (d : OSlot) (a : SReg) (s : State) : Res :=
  if s.st.strCnt ≤ d.val then s.raise 2 0
  else
    s.scalarAccess (s.r a).toNat 32 .read fun s ls =>
      let x := s.get ls
      let count := x / 2 ^ 64 % 2 ^ 64
      let ctl := x / 2 ^ 192
      if streamBad count ctl then s.raise 2 0
      else if (s.streamAt d.val).fifo.isEmpty then
        .next (s.modStream d.val fun y => streamOf (x % 2 ^ 64) count (x / 2 ^ 128 % 2 ^ 64) ctl y).advance
      else .next (s.drain.settleAccesses s.slot)

/-- Discards the buffers of named read streams (R217). -/
def Strand.dropBuffers (t : Strand) (i : BitVec 17) : Strand :=
  { t with streams := Vector.ofFn fun n => if i.getLsbD n.val && !t.streams[n].write then { t.streams[n] with buf := [] } else t.streams[n] }

/-- STRBAR (R215, R217): it waits for the named write streams, and under bit 16 for every older entry and copy. -/
def execStrbar (i : BitVec 17) (s : State) : Res :=
  let named := fun n => i.getLsbD n
  if (List.range 16).any fun n => named n && decide (s.st.strCnt ≤ n) then s.raise 2 0
  else
    match s.st.wfaultAt named with
    | some (n, a) => s.raiseWfault n a
    | none =>
      let k := fun (s : State) =>
        let words := (List.range 16).all fun n => !named n || (s.streamAt n).fifo.isEmpty
        match s.st.wfaultAt named with
        | some (n, a) => s.raiseWfault n a
        | none =>
          if words && (!named 16 || s.st.copiesDone) then Host.Outcome.next (s.mod fun t => t.dropBuffers i).advance
          else .next (s.drain.settleAccesses s.slot)
      if named 16 then s.afterEntries fun s1 => k (s1.settleAccesses s1.slot) else k s

end Sys2Proof.Machine
end

