-- ==== Sys2Proof/Machine/Fetch.lean ====
section
/-! DEFINITION. Fetching the next instruction of the strand that moves, and everything that can happen before it executes:
fetch faults, the judgement of a governing payload, clause hazards and interlocks (04: R65 to R71; 02: R28, R31, R43; 16:
R252 to R256; 18: R288). -/

namespace Sys2Proof.Machine

/-! ### Fetching a word (R254 to R256) -/

/-- L1I_LINE_FILL (R255): a core fills a line of resident text of a context. -/
def execL1iLineFill (core : Nat) (c : BitVec 16) (va : BitVec 56) (s : State) : Res :=
  .next (s.fillLine core c va.toNat)

/-- The word at pc, with the line it came from in the cache; or the cause of its fetch fault: 0x08 in the former text of an
unloaded object, whatever is mapped there (R248). Outside every object's text the word is the four bytes in memory (DESIGN CHOICE,
log 15). -/
def State.fetchWord (s : State) : Except Nat (BitVec 32 × State) :=
  let a := s.st.pc.toNat
  if a % 4 ≠ 0 then .error 7
  else if s.formerText s.st.ctx a then .error 8
  else match s.place s.me a .fetch with
    | .error c => .error c
    | .ok l =>
      let ls := (List.range 4).map fun i => l + i
      let s1 := (s.keep s.me a).fillLine (coreOf s.slot) s.st.ctx a
      match s1.caches.l1i.find? fun x => x.core = coreOf s.slot && x.ctx = s.st.ctx && x.line = a / 64 * 64 with
      | some x => .ok (x.words[a % 64 / 4]'(by omega), s1)
      | none => .ok (BitVec.ofNat 32 (s1.get ls), s1.l2Lines s.st.ctx (globalLines ls))

/-! ### Before an instruction executes -/

/-- What comes of a fetch: the step is over, or an instruction executes. -/
inductive Fetched where
  | done (s : State)
  | run (i : Instr) (s : State)

/-- Whether a forked child may start: every access of its parent before the FORKL has performed, those of pushed commands among
them, though the parent may have ended (R288). -/
def State.mayStart (s : State) : Bool :=
  match s.st.startAfter with
  | none => true
  | some p =>
    let gone := fun (t : Strand) => t.gkey ≠ s.st.gkey || (t.released p.seq p.ord && t.cmdsBefore p.ord)
    (s.st.parent.isNone || gone (s.strand p.slot)) && s.ending.all fun x => x.1 ≠ p.slot || gone x.2

/-- Whether the record of a DRET counts a conversion (R280). -/
def State.retCounts (s : State) (b : SReg) : Bool :=
  match s.locs s.me (s.r b).toNat 64 .read with
  | .ok ls => s.get ls / 2 ^ 24 % 2 = 1
  | .error _ => false

/-- Every scalar register a form reads: PUSH its words, FORKL the registers it names (R288), SYSC the arguments of its service
(R361), DRET the queue where it counts (R280). -/
def State.readList (s : State) (i : Instr) : List SReg :=
  let fields := [i.reads.d, i.reads.a, i.reads.b, i.reads.c].filterMap id
  match i with
  | .push _ a n => (List.range (n.val + 1)).map fun i => Fin.ofNat 32 (a.val + i)
  | .forkl _ _ b => fields ++ (List.finRange 32).filter fun n => (s.r b).getLsbD n.val
  | .syscSend _ => [1, 2, 3, 4]
  | .syscMembership _ => [1]
  | .dret d _ b => if s.retCounts b then d :: fields else fields
  | _ => fields

/-- Whether a register other than s0 waits for a value. -/
def Strand.waitsFor (t : Strand) (r : SReg) : Bool := decide (r ≠ 0) && t.pend.getLsbD r.val

/-- Whether an instruction stalls on registers that wait for values: what it reads, and for a scalar form what it writes
(R28, R31); never inside a handler (R43). -/
def State.stalls (s : State) (i : Instr) : Bool :=
  !s.st.trap.inh && ((s.readList i).any s.st.waitsFor
    || (!i.isVector && match i.dest with | some d => s.st.waitsFor d | none => false))

/-- Whether a scalar form makes an access that follows a POP in program order (R211). -/
def Instr.afterPop : Instr → Bool
  | .pop _ a => a.val < 16
  | .rngck _ | .rngrs _ => true
  | i => i.touchesMemory

/-- Whether a scalar memory access waits for an older acquire: an entry (R28), or a POP that has not got its status (R211). -/
def Strand.behindAcquire (t : Strand) (i : Instr) : Bool :=
  (i.touchesMemory && t.queue.any fun e => e.instr.acquires) || (Instr.afterPop i && t.popWaits)

/-- Whether a clause and CHKSTALL stop an instruction at an uncovered hazard (R70). -/
def State.undersized (s : State) (i : Instr) : Bool :=
  s.st.csr.chkstall && match s.st.clause with | some c => (s.readList i).any c.hazard | none => false

/-! ### Releases (R231, R232) -/

/-- Whether a CAS finds the value it compares with: only then is it a release (R104). -/
def State.casHits (s : State) (d b : SReg) (w : MW) : Bool :=
  let ea := (s.ea b 0 0).toNat
  match s.locs s.me ea (w.bits / 8) .rw with
  | .ok ls => ea % (w.bits / 8) = 0 && s.get ls = (s.r d).toNat % 2 ^ w.bits
  | .error _ => false

/-- Forms of the system context, each a release at .sys (R339, R347, R383). -/
def Instr.isSystem : Instr → Bool
  | .ctxhalt .. | .scrubCluster .. | .scrubL2 .. | .scrubShadowSlot .. | .auditAppend .. | .auditSeal .. | .auditFree ..
  | .auditExtend .. | .waysetSet .. | .waysetRead .. | .setroot .. | .invva .. | .invctx .. | .walk .. => true
  | _ => false

/-- Whether a scalar instruction is about to be a release (R104, R231, R271, R279, R280). -/
def State.releasing (s : State) (i : Instr) : Bool :=
  match i with
  | .amoSwap _ _ _ r _ | .amoAdd _ _ _ r _ | .amoAnd _ _ _ r _ | .amoOr _ _ _ r _ | .amoXor _ _ _ r _ | .amoMin _ _ _ r _
  | .amoMax _ _ _ r _ => r == .rel || r == .acqrel
  | .cas d _ b r w => (r == .rel || r == .acqrel) && s.casHits d b w
  | .qpush .. | .qpushb .. => true
  | .dispatch _ a b => s.dispatchInserts a b
  | .dret _ _ b => s.retCounts b
  | i => Instr.isSystem i

/-- Whether every access of a strand so far has performed. -/
def Strand.accessesDone (t : Strand) : Bool :=
  t.queue.all (fun e => e.instr.accessKinds = 0) && t.copiesDone && t.wordsDone && t.cmdsDone

/-- Scalar forms by which the strand's accepted stores have performed: every form that makes a memory access of its own other
than a load or store, every ordering point, and FORKL and the ends of a strand. -/
def Instr.settles : Instr → Bool
  | .ld .. | .ldn .. | .st .. => false
  | .fence .. | .syscChipNumber .. | .syscSend .. | .syscMembership .. | .unofferedSyscService .. | .exit | .barw ..
  | .rngck .. | .rngrs .. | .forkl .. | .strbar _ => true
  | i => i.touchesMemory

/-- The strand's accepted stores perform before a form that orders them; those of all strands before a form of the system
context. -/
def State.settleStores (s : State) (i : Instr) : State :=
  if Instr.isSystem i then s.flushAll else if Instr.settles i then s.flushLate s.slot else s

/-- The instruction a word stands for (R65). -/
noncomputable def instrOf (w : BitVec 32) : Instr :=
  match decode w.toNat with
  | .ok i => i
  | .error _ => .reservedEncoding w

/-- The payload rule (R66, R67): whether the pending payload may govern an instruction. -/
def Strand.payFits (t : Strand) (i : Instr) : Bool :=
  match t.pfx with | none => true | some p => payOk i.pay p.toNat

/-- A payload that may not govern the next word raises cause 0x01 at its own word (R67); one that RETT restored makes the
governed word the reserved encoding (R65, R73). -/
noncomputable def State.refusePay (s : State) (w : BitVec 32) : Fetched :=
  match s.st.pfx with
  | none => .run (.reservedEncoding w) s
  | some p =>
    if s.st.pfxLive then
      let word := pfxWord p.toNat
      .done ((s.mod fun t => { t with pc := t.pc - 4, pfx := none, pfxLive := false, ir := word }).trap 1 (word.setWidth 64) false)
    else .run (.reservedEncoding w) s

/-- The tests on a fetched word, in order: its payload, clause hazards, registers that wait, older acquires; a release waits for
every earlier access, inside a handler, whose vector side is stopped, as elsewhere (R231). Accepted stores that the instruction
orders perform before any test that reads memory. -/
noncomputable def State.gate (s : State) (w : BitVec 32) : Fetched :=
  let i := instrOf w
  if !s.st.payFits i then s.refusePay w
  else
    let s1 := s.settleStores i
    if s1.undersized i then .done (s1.trap 3 0 false)
    else if s1.stalls i || s1.st.behindAcquire i then .done (s1.drain.work s1.slot)
    else if !s1.releasing i || s1.st.accessesDone then .run i s1
    else .done (s1.drain.work s1.slot)

/-- The vector side of the strand that moves goes on with entries that had to wait, and reads are delivered (R27, R30, R31). -/
def State.vectorGoesOn (s : State) : State := if s.st.queue.isEmpty && s.st.sync.isEmpty then s else s.drain

/-- The next instruction of the strand that moves, once its vector side has gone on. A strand that is absent, halted or
waits for the Oasis kernel does nothing; one whose scalar side is parked tests its condition again without another fetch. -/
noncomputable def State.fetchNext (s : State) : Fetched :=
  if s.st.stat ≠ .running || !s.mayStart then .done s
  else
    let s0 := (s.mod fun t => { t with startAfter := none }).vectorGoesOn
    if s0.st.stat ≠ .running then .done s0
    else if s0.st.park.scalar then .run (instrOf s0.st.ir) s0
    else match s0.fetchWord with
      | .error c =>
        .done ((s0.mod fun t => { t with ir := 0 }).trapAccess c s0.st.pc.toNat s0.st.pc.toNat .fetch false)
      | .ok (w, s1) => (s1.mod fun t => { t with ir := w }).gate w

/-! ### Around a step -/

/-- Time passes (R116): at least one cycle a step. An object that retires is unloaded once no reference to it is left (R248). -/
def State.tick (s : State) : State :=
  { s with elapsed := s.elapsed + 1 + Config.stepCycles s.ticks, ticks := s.ticks + 1, passed := false }.settleObjs

/-- A row of the table without a word: a step that the environment chooses. The reserved encoding is met by a fetch. -/
def isEvent (i : Instr) : Bool :=
  match i with
  | .reservedEncoding _ => false
  | _ => (encode i).isNone

/-- A line of the L1 instruction cache with one word. -/
def lineWith (core : Nat) (c : BitVec 16) (a : Nat) (w : BitVec 32) : ILine :=
  { core := core, ctx := c, line := a / 64 * 64, words := Vector.ofFn fun i => if i.val = a % 64 / 4 then w else 0, pin := false }

/-- A translation that lets a core of a context fetch at an address, from frame 0. -/
def fetchLeaf (core : Nat) (c : BitVec 16) (a : Nat) : Tlb :=
  { cache := core, ctx := c, va := a / 65536 * 65536, size := 65536, leaf := mkLeaf 0 4 false 0 }

/-- A word stands where the strand that moves fetches next, and nothing keeps it from being fetched and executed. -/
def State.placeWord (s : State) (w : BitVec 32) : State :=
  let pc : BitVec 56 := BitVec.ofNat 56 (s.st.pc.toNat / 4 * 4)
  let t := s.st
  { s with
    inputs := [], held := [],
    st := { t with
      stat := .running, startAfter := none, park := .none, pfx := none, pfxLive := false, clause := none, pend := 0, sync := [],
      queue := [], pc := pc, late := [], prog := 0, goal := 0 },
    caches := { s.caches with
      tlb := fetchLeaf (coreOf s.slot) t.ctx pc.toNat :: s.caches.tlb,
      l1i := lineWith (coreOf s.slot) t.ctx pc.toNat w :: s.caches.l1i } }

end Sys2Proof.Machine
end

