-- ==== Sys2Proof/Machine/HostIf.lean ====
section
/-! DEFINITION. What the host does over its link outside requests, the report ring, and the Oasis kernel's service of faults
and pre-emption (26: R356, R357, R360; 17: R268; 24: R335; 02: R45; 18: R284). -/

namespace Sys2Proof.Machine

/-! ### Accesses through the apertures -/

/-- Report 0x82 of a host access that fails (R356, R360). how: 2 a write dropped, 3 a read completed with all ones. -/
def State.hostFault (s : State) (c : BitVec 16) (va : Nat) (k : Acc) (how : Nat) : State :=
  s.report (mkReport 0x82 0 c 0 [(8, va), (16, 0xFFFF), (18, k.code), (19, how)])

/-- A host access of n bytes at an offset of an aperture (R356): its context, virtual address and locations; or the context
and address that its report names. An aperture that is not bound gives no virtual address: the value is free (DESIGN
CHOICE, log 60). -/
def State.hostAccess (s : State) (ap : OSlot) (off n : Nat) (k : Acc) : Except (BitVec 16 × Nat) (BitVec 16 × Nat × List Nat) :=
  match s.host.apertures[ap] with
  | none => .error (0, Config.freeChoice s.freeCtr % 2 ^ 64)
  | some (c, base) =>
    if 2 ^ 36 < off + n then .error (c, base + off)
    else match s.locs (walkerOf 0 c) (base + off) n k with
      | .ok ls => .ok (c, base + off, ls)
      | .error _ => .error (c, base + off)

/-- HOST_MEMORY_WRITE (R235, R356): performed in the order of receipt, or dropped whole and reported. -/
def execHostMemoryWrite (ap : OSlot) (off : Nat) (data : List Byte) (s : State) : Res :=
  if !s.host.trained then .next s
  else match s.hostAccess ap off data.length .write with
    | .ok (c, _, ls) => .next (s.lineStore c ls (bytesToNat data))
    | .error (c, va) => .next ({ s with freeCtr := s.freeCtr + 1 }.hostFault c va .write 2)

/-- HOST_MEMORY_READ (R356): its data, or all ones and a report. -/
def execHostMemoryRead (ap : OSlot) (off : Nat) (n : Nat) (s : State) : Res :=
  let answer := fun (s : State) (l : List Byte) => { s with host := { s.host with hostRead := l } }
  if !s.host.trained then .next s
  else match s.hostAccess ap off n .read with
    | .ok (c, _, ls) => .next (answer (s.l2Lines c (globalLines ls)) (natToBytes n (s.get ls)))
    | .error (c, va) => .next (answer ({ s with freeCtr := s.freeCtr + 1 }.hostFault c va .read 3) (List.replicate n 0xFF))

/-- Whether a write of a queue's window appends: one aligned record of 64 bytes that is valid, to a level with room of a
queue that is not sealed (R268). -/
def Queue.takes (q : Queue) (off : Nat) (data : List Byte) : Bool :=
  let r := bytesToNat data
  off % 64 == 0 && data.length == 64 && recValid q r && q.room (recPrio r) 1 && !q.isSealed

/-- TASK_RECORD_APPEND (R268): an append at the tail of its level or at the top of a deque; a write that is dropped adds 1
to the drop count. A write to a window that no queue holds is dropped and counted nowhere. -/
def execTaskRecordAppend (off : Nat) (data : List Byte) (s : State) : Res :=
  if !s.host.trained then .next s
  else match s.queues.find? fun q => q.window = off / 64 * 64 with
    | none => .next s
    | some q =>
      if q.takes off data then
        .next ((s.setQueue (q.add true (BitVec.ofNat 512 (bytesToNat data)))).serve q.ctx q.va)
      else .next (s.setQueue { q with drop := Nat.min (q.drop + 1) 0xFFFF })

/-! ### The report ring -/

/-- CODE and CTX of a report (R357). -/
def reportCode (r : Report) : Nat := fld r.toNat 15 0
/-- CTX. -/
def reportCtx (r : Report) : BitVec 16 := BitVec.ofNat 16 (fld r.toNat 47 32)

/-- The host has read a report: a context whose release it tells is free (R342). -/
def State.reportRead (s : State) (r : Report) : State :=
  if reportCode r = 0x84 then
    { s with ctxs := s.ctxs.filter fun p => !(p.1 = (reportCtx r).toNat && p.2.st = .released) }
  else s

/-- A write of HEAD: the records before it that TAIL has passed have been consumed (R357). -/
def State.writeHead (s : State) (v : BitVec 32) : State :=
  let n := (v - s.host.head).toNat
  let s1 := { s with host := { s.host with head := v } }
  if (s.host.tail - s.host.head).toNat < n then s1
  else
    ((s.host.sent.drop s.host.consumed).take n).foldl (fun x p => x.reportRead p.2)
      { s1 with host := { s1.host with consumed := s.host.consumed + n } }

/-- HOST_REGISTER_WRITE (R357): the register at an offset from BAR0 + 4 KiB; TAIL and every other offset ignore writes.
Offset 32 stands for the host's enable of MSI-X vector 0 (DESIGN CHOICE, log 61). -/
def execHostRegisterWrite (off : Nat) (v : Word) (s : State) : Res :=
  if !s.host.trained then .next s
  else .next (match off with
    | 0 => { s with host := { s.host with base := v, based := true } }
    | 8 => { s with host := { s.host with sizel := v.setWidth 32 } }
    | 12 => s.writeHead (v.setWidth 32)
    | 32 => { s with host := { s.host with msix := v.getLsbD 0 } }
    | _ => s)

/-- REPORT_RING_WRITE (R357, R390): the record, then TAIL, then the interrupt; reports wait while the ring is full, and until the
host has written its registers. -/
def execReportRingWrite (s : State) : Res :=
  match s.host.waiting with
  | [] => .next s
  | r :: rest =>
    if !(s.host.trained && s.host.ringOpen) then .next s
    else
      let a := s.host.base + BitVec.ofNat 64 (64 * (s.host.tail.toNat % 2 ^ s.host.sizel.toNat))
      .next { s with host := { s.host with
        waiting := rest, sent := s.host.sent ++ [(a, r)], tail := s.host.tail + 1,
        msi := s.host.msi + bitN s.host.msix } }

/-! ### Faults and pre-emption -/

/-- What a failure report tells of an Oasis-routed fault that is not resolved (R335, R360). -/
def Strand.faultInfo (t : Strand) (f : OFault) : FailInfo :=
  { cause := f.cause, inner := 0, handled := 0, vec := f.vec, tval := f.va, tpc := t.pc, tinst := (t.tinstNow f.vec).setWidth 32 }

/-- The strand of a slot goes on when the page of its faulting byte is mapped (R335). -/
def State.resumeFault (s : State) (k : Nat) : State :=
  let t := s.strand k
  match t.stat with
  | .waiting f =>
    match (s.walkIn t.ctx f.va.toNat).1 with
    | .leaf e _ => if pteSt e = 0 then s.putStrand k { t with stat := .running } else s
    | _ => s
  | _ => s

/-- OASIS_FAULT_SERVICE (R335): the page of a strand's faulting byte is served, and every strand of the context that faults
on a page found mapped goes on; a fault that is not resolved ends the strand, one of a fetch from the former text of an unloaded
object among them (R248). -/
def execOasisFaultService (k : Nat) (s : State) : Res :=
  let t := s.strand k
  match t.stat with
  | .waiting f =>
    match (if !f.vec && f.va = t.pc.setWidth 64 && s.formerText t.ctx f.va.toNat then .final else s.fixPage t.ctx f.va.toNat) with
    | .mapped s1 => .next ((s1.slotsOf t.ctx).foldl State.resumeFault s1)
    | .wait => .next s
    | .final => .next (s.failStrand k (t.faultInfo f))
  | _ => .next s

/-- Whether a strand stands at a YIELD: that is the last instruction it executed (R117, R291). -/
def Strand.atYield (t : Strand) : Bool := decide (t.ir = 0x50080000) && decide (t.stat = .running) && decide (t.park = .none)

/-- PREEMPTION (R45, R117, R284, R291): at a YIELD of a slot's strand the Oasis kernel stops its group, which is saved;
GROUP_ADMISSION resumes it. The pre-emption by a launch of higher priority is part of GROUP_ADMISSION. -/
def execPreemption (k : Nat) (s : State) : Res :=
  let t := s.strand k
  match s.group? t.gkey with
  | some g => if t.atYield && g.live.contains k && g.saved.isEmpty then .next (s.preemptGroup t.gkey) else .next s
  | none => .next s

end Sys2Proof.Machine
end

