-- ==== Sys2Proof/Machine/Link.lean ====
section
/-! DEFINITION. Barchan ports: receipt of flits, errors, training, link control and collective groups (26: R359, R362 to
R366, R371). -/

namespace Sys2Proof.Machine

/-! ### Receipt -/

/-- Code of a port state (R364). -/
def PortSt.code : PortSt → Nat
  | .down => 0 | .training => 1 | .up => 2 | .degraded => 3 | .quarantined => 4

/-- Whether some command of this chip for a collective is not complete. -/
def State.collOpen (s : State) (c : BitVec 16) (gid num : Nat) : Bool :=
  (s.allStrands ++ s.ending).any fun p => p.2.ctx = c && p.2.colls.any fun k => k.status.isNone && k.grp = gid && k.num = num

/-- Keeps a flit of a collective, unless that collective has ended here already. A member whose context is released has
left (R371), and its sender is told so; a context that is not created yet makes the others wait. A member that leaves is absent from
every other collective of the group that this chip knows to be in progress, and the others are told so. A LEAVE from a chip outside
the group, which need not know its members, goes on to all of them (DESIGN CHOICE, log 99). -/
def State.keepFlit (s : State) (f : Flit) : State :=
  let c := BitVec.ofNat 16 (flitField f 0 2)
  let gid := flitField f 2 1
  let num := flitField f 4 4
  match s.ctx? c with
  | none => { s with link := { s.link with rx := s.link.rx ++ [f] } }
  | some x =>
    if x.st = .releasing ∨ x.st = .released then
      if 1 ≤ f.type.toNat ∧ f.type.toNat ≤ 3 then
        s.sendFlit (s.mkFlit 6 f.src (collPrefix c gid num ++ [(8, s.link.chip.toNat)]))
      else s
    else if num < lookup 0 gid x.collNum && !s.collOpen c gid num then s
    else
      let s1 : State := { s with link := { s.link with rx := s.link.rx ++ [f] } }
      let ms := (s.cgroup? c gid).getD []
      let gone := flitField f 8 2
      if f.type ≠ 6 then s1
      else
        let s2 := if !ms.isEmpty && !ms.contains f.src.toNat then s1.sendLeave c gid num (BitVec.ofNat 12 gone) else s1
        if (leftChips (s.link.rx.filter (flitOf c gid num))).contains gone then s2
        else ((s.openNums c gid).filter (· ≠ num)).foldl (fun x n => x.leaveOne c gid gone n true) s2

/-- Delivery of a flit (R363): for this chip, forwarded to another, or discarded and counted. -/
def State.deliverFlit (s : State) (p : Nat) (f : Flit) : State :=
  if 8 ≤ f.type.toNat then s.modPort p fun x => { x with malformed := x.malformed + 1 }
  else if f.dst ≠ s.link.chip then s.sendFlit f
  else s.keepFlit f

/-- An ACK or a NACK with a sequence number leaves for the other end of a port, whose chip is the peer, else the sender of the
flit it answers (R363). It takes no number of its own (DESIGN CHOICE, log 91). -/
def BPort.reply (x : BPort) (type : Nat) (me toChip : BitVec 12) (seq : BitVec 16) : BPort :=
  { x with
    sent := x.sent + 1,
    replies := { seq := 0, dst := x.peer.getD toChip, src := me, type := BitVec.ofNat 8 type, payload := seq.setWidth 1920 } :: x.replies }

/-- Takes the flit whose sequence number is next; a second attempt that arrives was a transient error (R362). It is
acknowledged (R363). -/
def State.acceptFlit (s : State) (p : Nat) (f : Flit) : State :=
  (s.modPort p fun x => { x.reply 4 s.link.chip f.src f.seq with
    recv := x.recv + 1, rxSeq := x.rxSeq + 1, trans := x.trans + bitN (x.retry.contains f.seq),
    retry := x.retry.filter (· ≠ f.seq), held := x.held.filter fun g => g.seq ≠ f.seq }).deliverFlit p f

/-- Takes flits that were held back for a missing one. -/
def State.acceptHeld (p : Nat) : Nat → State → State
  | 0, s => s
  | n + 1, s =>
    let x := s.link.ports[p % 16]
    match x.held.find? fun f => f.seq = x.rxSeq with
    | none => s
    | some f => State.acceptHeld p n (s.acceptFlit p f)

/-- Asks for a flit again: a NACK leaves (R362, R363). -/
def BPort.askAgain (x : BPort) (me toChip : BitVec 12) (seq : BitVec 16) : BPort :=
  { x.reply 5 me toChip seq with retry := x.retry ++ [seq] }

/-- Arrival of an intact flit with a sequence number (R362): in order, ahead of a missing one, or a second time; one that was
taken before is acknowledged again and not delivered (R365). -/
def State.receiveFlit (s : State) (p : Nat) (f : Flit) : State :=
  let x := s.link.ports[p % 16]
  let d := (f.seq - x.rxSeq).toNat
  if !x.isOpen then s
  else if d = 0 then
    State.acceptHeld p x.held.length (s.acceptFlit p f)
  else if 2 ^ 15 ≤ d then s.modPort p fun x => x.reply 4 s.link.chip f.src (x.rxSeq - 1)
  else if x.held.any (fun g => g.seq = f.seq) then s
  else s.modPort p fun x =>
    let y := { x with held := x.held ++ [f] }
    if y.retry.contains y.rxSeq then y else y.askAgain s.link.chip f.src y.rxSeq

/-- Arrival under a row of the table: the flit has the row's type. -/
def State.flitRow (s : State) (types : Nat → Bool) (p : OSlot) (f : Flit) : Res :=
  .next (if types f.type.toNat then s.receiveFlit p.val f else s)

/-- CONTRIB (R363). -/
def execContrib (p : OSlot) (f : Flit) (s : State) : Res := s.flitRow (· == 1) p f
/-- PSUM (R363). -/
def execPsum (p : OSlot) (f : Flit) (s : State) : Res := s.flitRow (· == 2) p f
/-- RESULT (R363). -/
def execResult (p : OSlot) (f : Flit) (s : State) : Res := s.flitRow (· == 3) p f
/-- LEAVE (R371). -/
def execLeave (p : OSlot) (f : Flit) (s : State) : Res := s.flitRow (· == 6) p f
/-- ABORT (R394). -/
def execAbort (p : OSlot) (f : Flit) (s : State) : Res := s.flitRow (· == 7) p f
/-- MALFORMED_FLIT (R363). -/
def execMalformedFlit (p : OSlot) (f : Flit) (s : State) : Res := s.flitRow (8 ≤ ·) p f

/-- An ACK arrives (R363): flits up to its number have been received. -/
def State.ackArrives (s : State) (p : Nat) (f : Flit) : State :=
  if s.link.ports[p % 16].isOpen then
    s.modPort p fun x => { x with
      recv := x.recv + 1, peer := some f.src,
      unacked := x.unacked.filter fun g => 2 ^ 15 ≤ (BitVec.ofNat 16 (flitField f 0 2) - g.seq).toNat }
  else s

/-- A NACK arrives (R362): the flit it names is sent again. -/
def State.nackArrives (s : State) (p : Nat) (f : Flit) : State :=
  if s.link.ports[p % 16].isOpen then
    s.modPort p fun x => { x with
      recv := x.recv + 1, peer := some f.src,
      sent := x.sent + bitN (x.unacked.any fun g => g.seq = BitVec.ofNat 16 (flitField f 0 2)) }
  else s

/-- ACK (R363). -/
def execAck (p : OSlot) (f : Flit) (s : State) : Res := .next (if f.type = 4 then s.ackArrives p.val f else s)

/-- NACK (R362). -/
def execNack (p : OSlot) (f : Flit) (s : State) : Res := .next (if f.type = 5 then s.nackArrives p.val f else s)

/-- IDLE (R363): it is never delivered. -/
def execIdle (_p : OSlot) (s : State) : Res := .next s

/-! ### Port states -/

/-- Report 0x83 of a port (R360, R364). -/
def State.reportPort (s : State) (p : Nat) : State :=
  let x := s.link.ports[p % 16]
  s.report (mkReport 0x83 0 0 0 [(8, p % 16), (9, x.st.code), (10, x.lanes)])

/-- A port enters a state. -/
def State.portTo (s : State) (p : Nat) (st : PortSt) (lanes : Nat) : State :=
  (s.modPort p fun x => ({ x with st := st, lanes := lanes }).flush).reportPort p

/-- PORT_TRAINING_DONE (R364). Sequence numbers go on, and flits not acknowledged are sent again under theirs, so that none is
delivered twice (DESIGN CHOICE, log 32). -/
def execPortTrainingDone (p : OSlot) (good : Nat) (s : State) : Res :=
  if s.link.ports[p].st ≠ .training then .next s
  else
    let s1 := s.modPort p.val fun x => { x with sent := x.sent + x.unacked.length }
    .next (if 8 ≤ good then s1.portTo p.val .up 8 else if 4 ≤ good then s1.portTo p.val .degraded 4 else s.portTo p.val .down 0)

/-- The chip at the other end of a port: the one that has acknowledged, else the lowest destination routed over it. -/
def State.peerOf (s : State) (p : Nat) : Option Nat :=
  match s.link.ports[p % 16].peer with
  | some c => some c.toNat
  | none => (s.link.routes.find? fun r => r.2 = p).map (·.1)

/-- A collective that had flits on a port at a lasting error (R365): of the members at the ends of the port the one of higher rank
leaves, with the group's other collectives in progress (R371). Where an end is no member of the group, the member that sent
the lost flit leaves, or the one that a lost LEAVE names, so that the collective completes with PARTIAL on each (DESIGN CHOICE,
log 99): a chip outside the group tells the members it knows. -/
def State.loseColl (s : State) (p : Nat) (f : Flit) : State :=
  let c := BitVec.ofNat 16 (flitField f 0 2)
  let gid := flitField f 2 1
  let num := flitField f 4 4
  let ms := (s.cgroup? c gid).getD []
  let me := s.link.chip.toNat
  let gone := if f.type = 6 then flitField f 8 2 else f.src.toNat
  match ms.findIdx? (· = me), (s.peerOf p).bind fun q => (ms.findIdx? (· = q)).map fun r => (q, r) with
  | some mine, some (q, theirs) => s.leaveGroup c gid (if theirs < mine then me else q) [num]
  | some _, none => s.leaveGroup c gid gone [num]
  | none, _ =>
    (ms ++ [f.dst.toNat, f.src.toNat]).eraseDups.foldl (fun (x : State) m =>
      x.sendFlit (x.mkFlit 6 (BitVec.ofNat 12 m) (collPrefix c gid num ++ [(8, gone)]))) s

/-- Members that no port reaches any longer leave every collective of their groups in progress (R371). -/
def State.departCutOff (s : State) : State :=
  s.ctxs.foldl (fun x p => p.2.cgroups.foldl (fun (y : State) g =>
    let c := BitVec.ofNat 16 p.1
    (y.cutMembers g.2).foldl (fun z m => z.leaveGroup c g.1 m []) y) x) s

/-- The collective a flit belongs to: CTX, GID and number (R363). -/
def flitColl (f : Flit) : Nat × Nat × Nat := (flitField f 0 2, flitField f 2 1, flitField f 4 4)

/-- One flit of each collective among flits; a LEAVE or an ABORT is one of its collective. -/
def collsOf : List Flit → List Flit
  | [] => []
  | f :: r =>
    let l := collsOf r
    if [0, 4, 5].contains f.type.toNat || 8 ≤ f.type.toNat || l.any (fun g => flitColl f = flitColl g) then l else f :: l

/-- A lasting error (R362, R364, R365): the port is quarantined and its flits are lost; numbers start again at 0 (DESIGN CHOICE,
log 32). -/
def State.lastingLink (s : State) (p : Nat) : State :=
  let x := s.link.ports[p % 16]
  if !x.isOpen then s
  else
    let s1 := (s.modPort p fun y => { y with tx := [], unacked := [], held := [], retry := [], txSeq := 0, rxSeq := 0 }).portTo p .quarantined 0
    ((collsOf (x.unacked ++ x.tx ++ x.held)).foldl (fun y f => y.loseColl p f) s1).departCutOff

/-- LASTING_LINK_ERROR (R364, R365). -/
def execLastingLinkError (p : OSlot) (s : State) : Res := .next (s.lastingLink p.val)

/-- A flit whose CRC fails, or that is missing, is asked for once; a second failure of the same flit is lasting (R362). -/
def State.flitFails (s : State) (p : Nat) (seq : BitVec 16) : State :=
  let x := s.link.ports[p % 16]
  if !x.isOpen then s
  else if x.retry.contains seq then s.lastingLink p
  else s.modPort p fun x => x.askAgain s.link.chip 0 seq

/-- FLIT_CRC_FAILURE (R362). -/
def execFlitCrcFailure (p : OSlot) (seq : BitVec 16) (s : State) : Res := .next (s.flitFails p.val seq)

/-- The 256 bytes of a flit arrive at a port (R362): with a CRC that fails they are the failure of the flit whose number they
bear (DESIGN CHOICE, log 91); an IDLE is never delivered. -/
def State.wireArrives (s : State) (p : Nat) (x : BitVec 2048) : State :=
  match flitOfImage x with
  | none => s.flitFails p (x.extractLsb' 0 16)
  | some f =>
    if f.type = 0 then s
    else if f.type = 4 then s.ackArrives p f
    else if f.type = 5 then s.nackArrives p f
    else s.receiveFlit p f

/-! ### Requests -/

/-- DEFINE_COLLECTIVE_GROUP (R366, R359). -/
def execDefineCollectiveGroup (q : Req) (s : State) : Res :=
  s.ctxRequest q 0x40 [(8, 1), (9, 1), (16, 8)] fun s x =>
    let gid := Req.arg q 8 1
    let n := Req.arg q 9 1
    match (if 2 ≤ n && n ≤ 64 then Req.bytes q (Req.arg q 16 8) (2 * n) else none) with
    | none => s.complete q 0x40 1 []
    | some b =>
      let chips := (List.range n).map fun i => numAt b (2 * i) 2
      if chips.any (fun c => 4096 ≤ c) || !decide chips.Nodup then s.complete q 0x40 1 []
      else if !x.hostable then s.complete q 0x40 7 []
      else (s.modCtx q.ctx fun y => { y with cgroups := (gid, chips) :: y.cgroups.filter fun g => g.1 ≠ gid }).complete q 0x40 0 []

/-- Link control (R359): OP, port and for OP 0 and 5 a chip number; other bytes zero. -/
def State.linkRequest (s : State) (q : Req) (op : Nat) (k : State → Nat → State) : Res :=
  s.request fun s =>
    let chip := op = 0 || op = 5
    if !Req.only q ([(8, 1), (9, 1)] ++ if chip then [(10, 2)] else []) || Req.arg q 8 1 ≠ op || 16 ≤ Req.arg q 9 1
        || (chip && 4096 ≤ Req.arg q 10 2) then s.complete q 0x41 1 []
    else k s (Req.arg q 9 1)

/-- SET_CHIP_NUMBER (R359). -/
def execSetChipNumber (q : Req) (s : State) : Res :=
  s.linkRequest q 0 fun s _ => { s with link := { s.link with chip := BitVec.ofNat 12 (Req.arg q 10 2) } }.complete q 0x41 0 []

/-- ENABLE_PORT (R364). -/
def execEnablePort (q : Req) (s : State) : Res :=
  s.linkRequest q 1 fun s p =>
    if s.link.ports[p % 16].st = .down then (s.complete q 0x41 0 []).portTo p .training 0 else s.complete q 0x41 7 []

/-- DISABLE_PORT (R364): flits that wait and flits not acknowledged stay. -/
def execDisablePort (q : Req) (s : State) : Res :=
  s.linkRequest q 2 fun s p =>
    let x := s.link.ports[p % 16]
    if x.isOpen || x.st = .quarantined then
      ((s.complete q 0x41 0 []).portTo p .down 0)
    else s.complete q 0x41 7 []

/-- RETRAIN_PORT (R364). -/
def execRetrainPort (q : Req) (s : State) : Res :=
  s.linkRequest q 3 fun s p =>
    if s.link.ports[p % 16].st = .quarantined then (s.complete q 0x41 0 []).portTo p .training 0 else s.complete q 0x41 7 []

/-- READ_PORT_COUNTERS (R359). -/
def execReadPortCounters (q : Req) (s : State) : Res :=
  s.linkRequest q 4 fun s p =>
    let x := s.link.ports[p % 16]
    s.complete q 0x41 0 [(8, x.st.code), (9, x.lanes), (16, x.trans % 2 ^ 64), (24, x.sent % 2 ^ 64), (32, x.recv % 2 ^ 64),
      (40, x.malformed % 2 ^ 64)]

/-- SET_ROUTE (R363). -/
def execSetRoute (q : Req) (s : State) : Res :=
  s.linkRequest q 5 fun s p =>
    { s with link := { s.link with routes := insertKey (Req.arg q 10 2) p (eraseKey (Req.arg q 10 2) s.link.routes) } }.complete q 0x41 0 []

end Sys2Proof.Machine
end

