-- ==== Sys2Proof/Machine/Xmss.lean ====
section
/-! DEFINITION. The check of an XMSS-SHAKE256_20_256 signature (R377): n = 32, height 20, WOTS+ with w = 16. The spec names the
scheme of NIST SP 800-208 and its parameters; its functions are PRESUMED to be those of that document and of RFC 8391
(log 126). -/

namespace Sys2Proof.Machine

/-- A number as n bytes, most significant first. -/
def bigBytes (n v : Nat) : List Byte := (natToBytes n v).reverse

/-- The keyed hashes: F for number 0, H for 1, the message hash for 2, the pseudorandom function for 3. -/
def keyedHash (number : Nat) (key m : List Byte) : List Byte := bvBytes 32 (shake256 (bigBytes 32 number ++ key ++ m))

/-- The exclusive or of two byte strings. -/
def xorBytes (a b : List Byte) : List Byte := List.zipWith (· ^^^ ·) a b

/-- An address: layer 0 and tree 0, the type (0: a chain, 1: an L-tree, 2: the hash tree), and three words by the type. -/
structure HashAdr where
  type : Nat
  a : Nat
  b : Nat
  c : Nat
  deriving DecidableEq, Repr

/-- The value of the pseudorandom function at an address: number 0 is a key, 1 and 2 are masks. -/
def HashAdr.derive (seed : List Byte) (x : HashAdr) (number : Nat) : List Byte :=
  keyedHash 3 seed (List.replicate 12 0 ++ [x.type, x.a, x.b, x.c, number].flatMap (bigBytes 4))

/-- One step of a chain. -/
def chainStep (seed : List Byte) (x : HashAdr) (v : List Byte) : List Byte :=
  keyedHash 0 (x.derive seed 0) (xorBytes v (x.derive seed 1))

/-- Two nodes made one. -/
def joinNodes (seed : List Byte) (x : HashAdr) (l r : List Byte) : List Byte :=
  keyedHash 1 (x.derive seed 0) (xorBytes l (x.derive seed 1) ++ xorBytes r (x.derive seed 2))

/-- The 67 digits that a 32-byte message signs: its 64 half bytes, high half first, then the three of the checksum. -/
def wotsDigits (m : List Byte) : List Nat :=
  let d := m.flatMap fun b => [b.toNat / 16, b.toNat % 16]
  let c := (d.map (15 - ·)).sum
  d ++ [c / 256 % 16, c / 16 % 16, c % 16]

/-- The end of chain i from the signature's value: the steps from digit d to 15. -/
def chainEnd (seed : List Byte) (leaf i d : Nat) (v : List Byte) : List Byte :=
  (List.range (15 - d)).foldl (fun v k => chainStep seed ⟨0, leaf, i, d + k⟩ v) v

/-- One level of an L-tree: neighbours are joined, and a last node without one moves up. -/
def ltreeLevel (seed : List Byte) (leaf height : Nat) : Nat → List (List Byte) → List (List Byte)
  | i, l :: r :: rest => joinNodes seed ⟨1, leaf, height, i⟩ l r :: ltreeLevel seed leaf height (i + 1) rest
  | _, rest => rest

/-- The leaf of a one-time key: its 67 chain ends through seven levels. -/
def ltreeRoot (seed : List Byte) (leaf : Nat) (ends : List (List Byte)) : List Byte :=
  ((List.range 7).foldl (fun v h => ltreeLevel seed leaf h 0 v) ends).headD []

/-- The root above a leaf, from the 20 nodes of its path. -/
def treeRoot (seed : List Byte) (idx : Nat) (path : List (List Byte)) (leaf : List Byte) : List Byte :=
  path.zipIdx.foldl (fun v (node, k) =>
    let x : HashAdr := ⟨2, 0, k, idx / 2 ^ (k + 1)⟩
    if idx / 2 ^ k % 2 = 0 then joinNodes seed x v node else joinNodes seed x node v) leaf

/-- n values of 32 bytes. -/
def nodesOf (n : Nat) (b : List Byte) : List (List Byte) := (List.range n).map fun k => (b.drop (32 * k)).take 32

/-- Whether a 2,820-byte signature of the 64-byte key (root, then seed) over a 32-byte message verifies (R377): the leaf's index,
the random value, the 67 values of the one-time signature, the 20 nodes of the path. Byte 0 of each is least significant. -/
def xmssVerifies (pk : BitVec 512) (sig : BitVec 22560) (m : BitVec 256) : Bool :=
  let root := (bvBytes 64 pk).take 32
  let seed := (bvBytes 64 pk).drop 32
  let s := bvBytes 2820 sig
  let idx := bytesToNat (s.take 4).reverse
  let digits := wotsDigits (keyedHash 2 ((s.drop 4).take 32 ++ root ++ bigBytes 32 idx) (bvBytes 32 m))
  let ends := List.zipWith (fun (v : List Byte) (i, d) => chainEnd seed idx i d v) (nodesOf 67 (s.drop 36)) (digits.zipIdx.map Prod.swap)
  treeRoot seed idx (nodesOf 20 (s.drop 2180)) (ltreeRoot seed idx ends) == root

end Sys2Proof.Machine
end

