-- ==== Sys2Proof/Machine/Trust.lean ====
section
/-! DEFINITION. Measured boot and the AUDIT form (28: R376 to R386). -/

namespace Sys2Proof.Machine

/-! ### Measured boot -/

/-- The value of a measurement register after it is extended with data (R379). -/
def extended (m : BitVec 256) (d : List Byte) : BitVec 256 := shake256 (bvBytes 32 m ++ d)

/-- Extends measurement register n. -/
def Hamada.extend (h : Hamada) (n : Fin 8) (d : List Byte) : Hamada := { h with m := h.m.set n (extended h.m[n] d) }

/-- The signed header bytes [0, 80) of an image (R377). -/
def signedHead (i : BootImage) : List Byte :=
  bvBytes 4 i.magic ++ bvBytes 4 i.svn ++ natToBytes 8 i.body.length ++ bvBytes 64 i.pk

/-- The whole image: its header with 44 zero bytes, then its body (R377). -/
def imageBytes (i : BootImage) : List Byte := signedHead i ++ bvBytes 2820 i.sig ++ List.replicate 44 0 ++ i.body

/-- Whether Hamada accepts an image (R377, R378). -/
def accepted (i : BootImage) : Bool :=
  i.magic == 0x5349414F && i.zerosOk && decide (i.body.length ≤ 2 ^ 28) && shake256 (bvBytes 64 i.pk) == Config.fuseSigner
    && xmssVerifies i.pk i.sig (shake256 (signedHead i ++ i.body)) && decide (Config.fuseMinsvn.toNat ≤ i.svn.toNat)

/-- The image that boots, with its port: port 0 before port 1 (R378). -/
def bootChoice (img0 img1 : Option BootImage) : Option (Nat × BootImage) :=
  match img0.bind fun i => if accepted i then some i else none with
  | some i => some (0, i)
  | none => (img1.bind fun i => if accepted i then some i else none).map fun i => (1, i)

/-- Hamada as its reset leaves it (R378 step 1, R385): empty buffers, the chain and the numbers from its storage. -/
def Hamada.restart (h : Hamada) : Hamada :=
  let h1 := { h with m := Vector.replicate 8 0, nextSeq := h.seqf, chain := h.head, segs := Vector.replicate 2 .free, active := 0,
                     waiting := [] }
  (h1.extend 0 (bvBytes 32 Config.romHash)).extend 0 (bvBytes 32 Config.fuseHash)

/-- The entries of a boot (R378, R381, R385, R386): lost numbers where entries after the last seal were lost, the boot
entry, the device key. Where nothing was lost, the next loss can start no lower than this boot's first number. old: Hamada
before the reset. -/
def Hamada.bootEntries (h old : Hamada) : Hamada :=
  let h1 := if old.sealedUpTo < old.nextSeq then
      h.append 0x000E 0 0 (BitVec.ofNat 512 (old.sealedUpTo + (old.nextSeq - 1) * 2 ^ 64))
    else { h with sealedUpTo := h.nextSeq }
  let h2 := h1.append 0x0001 0 0 (BitVec.ofNat 512 (h1.m[0].toNat + h1.m[1].toNat * 2 ^ 256))
  h2.append 0x000F 0 0 (Config.deviceKey Config.fuseDkseed)

/-- Hamada starts (R389): state 0 becomes 1. -/
def State.startHamada (s : State) : State :=
  if s.pkg.powered && s.pkg.state = 0 then { s with pkg := { s.pkg with state := 1 } } else s

/-- MEASURED_BOOT (R378, R389): state 1 goes to 3, or to 2 where neither port yields an accepted image; in state 0 Hamada starts
first. The accepted body goes into Oasis memory. What was not sealed before the reset stays to be recorded as lost until
something is sealed (R385). -/
def execMeasuredBoot (img0 img1 : Option BootImage) (s : State) : Res :=
  if !s.pkg.powered || 1 < s.pkg.state then .next s
  else
    let h := s.hamada.restart
    match bootChoice img0 img1 with
    | none => .next { s with hamada := { h with nextSeq := s.hamada.nextSeq },
                             pkg := { s.pkg with state := 2 } }
    | some (port, i) =>
      let h1 := (h.extend 1 (bvBytes 32 (shake256 (imageBytes i)))).bootEntries s.hamada
      .next { s with
        hamada := h1,
        pkg := { s.pkg with state := 3, bootport := port, svn := i.svn, oasis := i.body, dpk := Config.deviceKey Config.fuseDkseed } }

/-! ### AUDIT -/

/-- The answer of an AUDIT that finds no place, or of a seal with nothing to seal (R383). -/
def auditNone : Word := BitVec.ofNat 64 (2 ^ 63 + 1)

/-- Whether the fields of sb are within their limits (R383). -/
def auditFieldsOk (b : Nat) : Bool :=
  let op := fld b 17 16
  let ty := fld b 15 0
  let reg := fld b 20 18
  b / 2 ^ 21 == 0 && (if op = 0 || op = 3 then decide (0x8000 ≤ ty) else ty == 0)
    && (if op = 3 then decide (2 ≤ reg) else reg == 0)

/-- Number of the sealed buffer whose last entry has a sequence number (R383). -/
def Hamada.sealedAt (h : Hamada) (last : Nat) : Option (Fin 2) :=
  (List.finRange 2).find? fun n => h.segs[n].isSealed && h.segs[n].first + h.segs[n].entries.length = last + 1

/-- EXTEND: the register, the firmware entry, then the entry of type 0x000C (R379, R381, R383). -/
def Hamada.extendForm (h : Hamada) (ty reg pay : Nat) : Hamada × Nat :=
  let h1 := (h.extend (Fin.ofNat 8 reg) (natToBytes 64 pay)).append ty 1 0 (BitVec.ofNat 512 pay)
  (h1.append 0x000C 0 0 (BitVec.ofNat 512 (reg + h1.m[reg % 8].toNat * 2 ^ 64)), h1.nextSeq)

/-- AUDIT (R383): OP of sb chooses APPEND, SEAL, FREE or EXTEND. sd is the number of the last entry the form itself
appends. -/
def State.auditForm (s : State) (d a b : SReg) : Res :=
  s.privileged fun s =>
    let x := (s.r b).toNat
    let p := (s.r a).toNat
    let h := s.hamada
    let answer := fun (g : Hamada) (v : Nat) => ({ s with hamada := g }).result d (BitVec.ofNat 64 v)
    if !auditFieldsOk x then s.raise 2 0
    else match fld x 17 16 with
      | 0 => s.scalarAccess p 64 .read fun s ls =>
          if h.places = 0 then s.result d auditNone
          else ({ s with hamada := h.append (fld x 15 0) 1 0 (BitVec.ofNat 512 (s.get ls)) }).result d (BitVec.ofNat 64 h.nextSeq)
      | 1 =>
        if p ≠ 0 then s.raise 2 0
        else if h.seg.isSealed || h.seg.entries.isEmpty then s.result d auditNone
        else answer (h.seal) h.nextSeq
      | 2 =>
        match h.sealedAt p with
        | none => s.raise 2 0
        | some n => answer (Hamada.flush h.waiting.length { h with segs := h.segs.set n .free }) p
      | _ => s.scalarAccess p 64 .read fun s ls =>
          if h.places < 2 then s.result d auditNone
          else
            let r := h.extendForm (fld x 15 0) (fld x 20 18) (s.get ls)
            ({ s with hamada := r.1 }).result d (BitVec.ofNat 64 r.2)

/-- AUDIT_APPEND (R383). -/
def execAuditAppend (d a b : SReg) (s : State) : Res := s.auditForm d a b
/-- AUDIT_SEAL (R382, R383). -/
def execAuditSeal (d a b : SReg) (s : State) : Res := s.auditForm d a b
/-- AUDIT_FREE (R383, R384). -/
def execAuditFree (d a b : SReg) (s : State) : Res := s.auditForm d a b
/-- AUDIT_EXTEND (R379, R383). -/
def execAuditExtend (d a b : SReg) (s : State) : Res := s.auditForm d a b

end Sys2Proof.Machine
end

