-- ==== Sys2Proof/Machine/Package.lean ====
section
/-! DEFINITION. The package: reset, bring-up, power, temperature and memory errors (29: R387 to R392; 22: R324). -/

namespace Sys2Proof.Machine

/-! ### Reset and bring-up -/

/-- The machine without its volatile state: the anti-rollback storage keeps its values, and what the next boot must record
as lost is known from the entries issued (R376, R382, R385). What the environment does next and the counters of the model
are no state of the module. -/
def State.cold (s : State) (powered : Bool) : State :=
  { State.reset with
    hamada := { Hamada.reset with idx := s.hamada.idx, seqf := s.hamada.seqf, head := s.hamada.head,
                                  nextSeq := s.hamada.nextSeq, sealedUpTo := s.hamada.sealedUpTo, draws := s.hamada.draws },
    pkg := { Package.reset with powered := powered }, inputs := s.inputs, ticks := s.ticks, freeCtr := s.freeCtr }

/-- MODULE_RESET (R389): power good or module reset. -/
def execModuleReset (s : State) : Res := .next (s.cold true)

/-- Where a loss of power finds Hamada (R382): with no seal in progress, behind step 1 of one, or behind step 2. What has been
written to its storage stays; the segment is not sealed. -/
def Hamada.cutShort (h : Hamada) (n : Nat) : Hamada :=
  if h.seg.isSealed || h.seg.entries.isEmpty || h.spent then h
  else match n % 3 with
    | 0 => h
    | 1 => h.sealIndex
    | _ => { h.sealIndex.sealEntry h.idx with sealedUpTo := h.sealedUpTo }

/-- LOSS_OF_POWER (R376, R382): all volatile state and work in flight are gone. A seal may be in progress, which is a free
choice (log 101). -/
def execLossOfPower (s : State) : Res :=
  let n := s.freeCtr
  .next (({ s with freeCtr := n + 1, hamada := s.hamada.cutShort (Config.freeChoice n) }).cold false)

/-- HOST_LINK_TRAINED (R390). -/
def execHostLinkTrained (s : State) : Res :=
  .next (if s.pkg.powered then { s with host := { s.host with trained := true } } else s)

/-- Units that bring-up scrubs: every cluster and every shadow slot (R389). -/
def bringUpUnits : List ScrubUnit := (List.finRange 32).map .cluster ++ (List.finRange 8).map .shadow

/-- A unit as bring-up scrubs it (R349, R389). -/
def State.bringUpUnit (s : State) (u : ScrubUnit) : State :=
  (match u with
    | .cluster n => (s.clearCluster n.val).dropCopies n.val
    | .shadow n => { s with shadow := s.shadow.set n none }
    | .l2 _ => s).auditUnit 0 u

/-- BRING_UP (R351, R389): the environment says which stacks and which units fail; a unit that fails is out of service. -/
def execBringUp (badStacks : List (Fin 12)) (badUnits : List ScrubUnit) (s : State) : Res :=
  if s.pkg.state ≠ 3 then .next s
  else
    let gone := (List.range 12).filter fun n => badStacks.any fun x => x.val = n
    let s1 := { s with
      pkg := { s.pkg with state := 4, readied := true, badstk := gone.length, badStacks := gone,
                          failing := bringUpUnits.filter badUnits.contains ++ s.pkg.failing },
      link := { s.link with ports := s.link.ports.map fun (p : BPort) => { p with st := .down, lanes := 0 } } }
    .next (bringUpUnits.foldl State.bringUpUnit s1)

/-! ### Power and temperature -/

/-- HKPWR follows the module's power. watts: what it would draw at full clocks; above the budget the clocks are lowered, which
keeps it at the budget and changes only timing (R387). -/
def State.power (s : State) (watts : BitVec 16) : State :=
  { s with pkg := { s.pkg with watts := BitVec.ofNat 16 (Nat.min watts.toNat 2800), capped := decide (2800 < watts.toNat) } }

/-- POWER_CAP (R387). -/
def execPowerCap (watts : BitVec 16) (s : State) : Res := .next (s.power watts)
/-- POWER_CAP_END (R387). -/
def execPowerCapEnd (watts : BitVec 16) (s : State) : Res := .next (s.power watts)

/-- Thermal shutdown (R388): every strand stops and all work in flight is discarded. -/
def State.shutDown (s : State) : State :=
  { s with
    st := .empty, others := [], ending := [], claims := [], groups := [], launches := [], spill := [], held := [],
    shadow := Vector.replicate 8 none,
    oslots := s.oslots.map (fun (p : Nat × OpSlot) => (p.1, { p.2 with owner := none })) |>.filter fun p => p.2 ≠ OpSlot.empty,
    queues := s.queues.map fun (q : Queue) => { q with parked := [], owner := none },
    link := { s.link with rx := [], ports := s.link.ports.map fun (p : BPort) =>
      { p with tx := [], unacked := [], retry := [], held := [] } },
    pkg := { s.pkg with state := 5 } }

/-- The hottest junctions change (R388): 105 °C lowers the clocks, which changes only timing, and 115 °C shuts down. -/
def State.temperature (s : State) (tdie tstk : Byte) : State :=
  let hot := Nat.max tdie.toNat tstk.toNat
  let s1 := { s with pkg := { s.pkg with tdie := tdie, tstk := tstk, thr := decide (105 ≤ hot) } }
  if 115 ≤ hot then s1.shutDown else s1

/-- THERMAL_THROTTLE (R388). -/
def execThermalThrottle (tdie tstk : Byte) (s : State) : Res := .next (s.temperature tdie tstk)
/-- THERMAL_SHUTDOWN (R388). -/
def execThermalShutdown (tdie tstk : Byte) (s : State) : Res := .next (s.temperature tdie tstk)
/-- THERMAL_THROTTLE_END (R388). -/
def execThermalThrottleEnd (tdie tstk : Byte) (s : State) : Res := .next (s.temperature tdie tstk)

/-! ### What a host reads -/

/-- The housekeeping registers (R392). The spec puts HKERR8 to HKERR11 and HKDPK0 to HKDPK3 at the same offsets, so they are
named here and not numbered (log 64). -/
inductive HkReg where
  | hkid | hkstat | hkpwr | hktemp | hkerr (n : Fin 12) | hkdpk (n : Fin 8)
  deriving DecidableEq, Repr

/-- The value that a host reads in a housekeeping register (R392). -/
def State.hkReg (s : State) (x : HkReg) : Word :=
  let p := s.pkg
  match x with
  | .hkid => Config.fuseDevid
  | .hkstat =>
    BitVec.ofNat 64 (p.state + p.bootport * 2 ^ 4 + bitN p.thr * 2 ^ 8 + p.badstk * 2 ^ 12 + p.svn.toNat * 2 ^ 16
      + p.early * 2 ^ 48)
  | .hkpwr => BitVec.ofNat 64 (p.watts.toNat + bitN p.capped * 2 ^ 32)
  | .hktemp => BitVec.ofNat 64 (p.tdie.toNat + p.tstk.toNat * 2 ^ 8)
  | .hkerr n => BitVec.ofNat 64 (p.trans[n] + p.retd[n] * 2 ^ 32)
  | .hkdpk n => BitVec.ofNat 64 (p.dpk.toNat / 2 ^ (64 * n.val))

/-- The housekeeping registers at an offset from BAR0 + 8 KiB (R392): two at the offsets the spec gives twice, none at one that is
not listed. -/
def hkAt (off : Nat) : List HkReg :=
  let n := off / 8
  if off % 8 ≠ 0 then []
  else if n < 4 then [[HkReg.hkid, .hkstat, .hkpwr, .hktemp].getD n .hkid]
  else (if h : 8 ≤ n ∧ n < 20 then [.hkerr ⟨n - 8, by omega⟩] else []) ++ if h : 16 ≤ n ∧ n < 24 then [.hkdpk ⟨n - 16, by omega⟩] else []

/-- The bytes of the ring registers, from BAR0 + 4 KiB (R357). -/
def HostLink.ringBytes (h : HostLink) : List Byte :=
  bvBytes 8 h.base ++ bvBytes 4 h.sizel ++ bvBytes 4 h.head ++ bvBytes 4 h.tail ++ List.replicate 12 0

/-- The host reads 8 bytes at an offset of BAR0 (R357, R390, R392). At an offset that the spec gives two registers either answers,
a free choice (log 64). -/
def State.hostReadsBar (s : State) (off : Nat) : State :=
  let answer := fun (s : State) (l : List Byte) => { s with host := { s.host with hostRead := l } }
  if !s.host.trained then s
  else if 4096 ≤ off && off + 8 ≤ 4128 then answer s ((s.host.ringBytes.drop (off - 4096)).take 8)
  else if 8192 ≤ off && off + 8 ≤ 8448 then
    match hkAt (off - 8192) with
    | [] => answer s (List.replicate 8 0)
    | [x] => answer s (bvBytes 8 (s.hkReg x))
    | l => answer { s with freeCtr := s.freeCtr + 1 } (bvBytes 8 (s.hkReg (l.getD (Config.freeChoice s.freeCtr % l.length) .hkid)))
  else s

/-- The Oasis kernel writes a sealed segment to its NVMe namespace (R382, R391). -/
def State.writeNvme (s : State) (n : Fin 2) : State :=
  let g := s.hamada.segs[n]
  if 3 ≤ s.pkg.state && s.pkg.state ≠ 5 && g.isSealed && !s.pkg.nvme.contains g then
    { s with pkg := { s.pkg with nvme := s.pkg.nvme ++ [g] } }
  else s

/-! ### Memory errors (R324) -/

/-- The stack of a physical address. -/
def stackOf (pa : Nat) : Fin 12 := Fin.ofNat 12 (pa / Config.stackBytes)

/-- Whether a command reads the 128-byte line of a physical address (R21): for elements below the first that faults (R320), or for
the pair of that one, which SCADD reads to find its target. -/
def State.cmdReads (s : State) (w : Who) (c : Cmd) (pa : Nat) : Bool :=
  let n := (s.cmdFault w c c.n 0).elim c.n (·.1)
  let hit := fun (l : List Nat) => l.any fun a => a / 128 = pa / 128
  c.bad.isNone && (((List.range n).any fun i => match s.cmdElem w c i with
      | .ok (as, bs, ms) => [as, bs, ms].any hit
      | .error _ => false)
    || (c.op = 5 && decide (n < c.n) && match s.engAccess w (c.w2.toNat + 8 * n) 8 .read with | .ok ps => hit ps | .error _ => false))

/-- Commands in progress, as slot and number, that read the line of a physical address: any that may act (R321). -/
def State.readersOf (s : State) (pa : Nat) : List (Nat × Nat) :=
  (List.range 2048).flatMap fun k => ((s.cmdChoices k).filter fun p =>
    s.cmdReads (playaOf k (s.cmdStrand k Strand.hasCmd).ctx) p.2 pa).map fun p => (k, p.1)

/-- TRANS of the command that a read served rises (R324). -/
def State.addTrans (s : State) (r : Nat × Nat) : State :=
  let t := s.cmdStrand r.1 Strand.hasCmd
  s.putCmd r.1 Strand.hasCmd { t with cmds := t.cmds.modify r.2 fun c => { c with trans := c.trans + 1 } }

/-- TRANSIENT_MEMORY_ERROR (R324): the stack's count rises, and TRANS of the command that the read served. The event names an
address only: of several commands that read the line, which was served is a free choice (log 62). -/
def execTransientMemoryError (pa : Nat) (s : State) : Res :=
  if Config.hbmBytes ≤ pa then .fault .noSuchPhysicalAddress
  else
    let n := stackOf pa
    let s1 := { s with pkg := { s.pkg with trans := s.pkg.trans.set n (Nat.min (s.pkg.trans[n] + 1) (2 ^ 32 - 1)) } }
    match s1.readersOf pa with
    | [] => .next s1
    | k :: [] => .next (s1.addTrans k)
    | l => .next ({ s1 with freeCtr := s1.freeCtr + 1 }.addTrans (l.getD (Config.freeChoice s1.freeCtr % l.length) (0, 0)))

/-- The page that a physical address lies in, by its leaf in a tree of tables: virtual address and size. -/
def findVa (m : List Host.Cell) (pa : Nat) : Nat → Nat → Nat → Nat → Option (Nat × Nat)
  | 0, _, _, _ => none
  | fuel + 1, level, base, va =>
    (List.range (if level = 0 then 2 ^ 17 else 512)).findSome? fun i =>
      let e := BitVec.ofNat 64 (Memory.read m (base + 8 * i) 8)
      let size := if level = 0 then 2 ^ 39 else levelBytes level
      let v := va + i * size
      if !pteV e then none
      else if pteLeaf e then
        if level ≠ 0 && leafOk e size && ptePa e ≤ pa && pa < ptePa e + size then some (v, size) else none
      else if level = 3 || !tableOk e then none
      else findVa m pa fuel (level + 1) (ptePa e) v

/-- The context that holds the frame of a physical address, with the page that is mapped there; a frame that no context holds may
hold a page of the system context (R340). -/
def State.pageAt (s : State) (pa : Nat) : Option (BitVec 16 × Nat × Nat) :=
  let c := match s.holds.find? fun h => decide (h.frame ≤ pa / 65536) && decide (pa / 65536 < h.frame + h.n) with
    | none => 0
    | some h => h.ctx
  match (s.ctx? c).bind (·.root) with
  | none => none
  | some root => (findVa s.mem pa 4 0 root 0).map fun p => (c, p.1, p.2)

/-- The n 64 KiB frames from frame f are never mapped again until module reset (R337), and are counted (R392). -/
def State.retireFrames (s : State) (f n : Nat) : State :=
  let k := stackOf (f * 65536)
  let new := ((List.range n).map (f + ·)).filter fun x => !s.retired.contains x
  { s with retired := new ++ s.retired,
           pkg := { s.pkg with retd := s.pkg.retd.set k (Nat.min (s.pkg.retd[k] + new.length) 0xFFFF) } }

/-- Ends a group of a context as R285 does, whether it runs, is saved or stands in an image. -/
def State.stopGroup (s : State) (c : BitVec 16) (why : Nat × Nat × Word) (g : Nat) : State :=
  match s.group? g with
  | none => s
  | some x =>
    let s1 := x.live.foldl (fun y k =>
      if (y.strand k).stat ≠ .absent && (y.strand k).ctx = c && (y.strand k).gkey = g then y.removeStrand k false else y) s
    let freed := s1.oslots.map fun (p : Nat × OpSlot) =>
      if x.saved.any (fun q => p.2.owner = some (savedOwner g q.1)) then (p.1, { p.2 with owner := none }) else p
    let s2 := { s1 with oslots := freed.filter fun p => p.2 ≠ OpSlot.empty }
    (s2.modGroup g fun y => { y with live := [], saved := [] }).finishGroup g (some why)

/-- An image without its strands, whose operand slots are released (R118, R285); its hash stays right if it was. -/
def Image.bare (i : Image) : Image :=
  let j := { i with strands := [], slots := (i.slots.map fun (p : Nat × OpSlot) => (p.1, { p.2 with owner := none })).filter fun p =>
    p.2 ≠ OpSlot.empty }
  if i.good then j.hashed else j

/-- The Oasis kernel stops every strand of a context (R324), those of the system context, which stand in no group, among them:
entries and commands not performed are discarded, those of both engines. -/
def State.stopCtx (s : State) (c : BitVec 16) (why : Nat × Nat × Word) : State :=
  let bare := fun (i : Image) => if i.ctx = c then i.bare else i
  let s1 := ((s.groups.filter fun g => g.2.ctx = c).map (·.1)).foldl (fun y g => y.stopGroup c why g)
    { s with shadow := s.shadow.map fun (o : Option Image) => o.map bare, spill := s.spill.map bare }
  let s2 := (s1.slotsOf c).foldl (fun y k => y.removeStrand k false) s1
  let left := s2.ending.map fun (p : Nat × Strand) =>
    if p.2.ctx = c then (p.1, { p.2 with cmds := p.2.cmds.filter (fun k => k.status.isSome),
                                         colls := p.2.colls.filter fun k => k.status.isSome }) else p
  { s2 with ending := left.filter (fun p => !p.2.bgDone),
            queues := s2.queues.map fun (q : Queue) => if q.ctx = c then { q with owner := none } else q }

/-- A leaf made retired (R337). -/
def retiredLeaf (e : Word) : Word := putField e 6 2 2

/-- A page is retired (R337, R338): it is migrating first, then come the invalidation and the leaf's new state. -/
def State.retirePage (s : State) (c : BitVec 16) (va : Nat) : State :=
  (((s.startMove c va).invalidate c va).setEntry c va retiredLeaf).afterMove s c

/-- LASTING_MEMORY_ERROR (R324): the page becomes retired, its context's strands stop, Hamada logs it and the host is told.
A frame that holds no page of a context is retired and counted; it has no virtual address to report (log 63). The launch
end report's failure has no cause: its fields are free values (log 63). -/
def execLastingMemoryError (pa : Nat) (s : State) : Res :=
  if Config.hbmBytes ≤ pa then .fault .noSuchPhysicalAddress
  else
    let n := s.freeCtr
    let s0 := { s with freeCtr := n + 4 }
    let tell := fun (s : State) (c : BitVec 16) (f va : Nat) =>
      (s.audit 0x000A c [(0, f)]).reportLogged (mkReport 0x85 0 c 0 [(8, f), (16, va), (24, (stackOf pa).val)])
    match s.pageAt pa with
    | none => .next (tell (s0.retireFrames (pa / 65536) 1) 0 (pa / 65536) (Config.freeChoice (n + 3) % 2 ^ 64))
    | some (c, va, size) =>
      let first := pa / size * size / 65536
      let s1 := (s0.retirePage c va).retireFrames first (size / 65536)
      let why := (Config.freeChoice n % 256, Config.freeChoice (n + 1) % 65536, BitVec.ofNat 64 (Config.freeChoice (n + 2)))
      .next (tell (s1.stopCtx c why) c (pa / 65536) va)

end Sys2Proof.Machine
end

