-- ==== Sys2Proof/Machine/VStream.lean ====
section
/-! DEFINITION. The vector-stream instructions as the scalar pipeline meets them (R27, R28): each commits its entry. What
an entry does when it executes stands in eff… of its family, and issue names it. -/

namespace Sys2Proof.Machine

/-- SETVLF (R127). -/
def execSetvlf (d : MReg) (a b : SReg) (g : Grp) (w : EW) (st : State) : Res := st.vectorStream (.setvlf d a b g w)
/-- SETSHAPE (R129). -/
def execSetshape (d : TReg) (a b : SReg) (st : State) : Res := st.vectorStream (.setshape d a b)
/-- VADD (R132). -/
def execVadd (d a b : VReg) (m : MReg) (w : IW) (st : State) : Res := st.vectorStream (.vadd d a b m w)
/-- VSUB (R132). -/
def execVsub (d a b : VReg) (m : MReg) (w : IW) (st : State) : Res := st.vectorStream (.vsub d a b m w)
/-- VRSUB (R132). -/
def execVrsub (d a b : VReg) (m : MReg) (w : IW) (st : State) : Res := st.vectorStream (.vrsub d a b m w)
/-- VMUL (R132). -/
def execVmul (d a b : VReg) (m : MReg) (w : IW) (st : State) : Res := st.vectorStream (.vmul d a b m w)
/-- VMULH (R132). -/
def execVmulh (d a b : VReg) (m : MReg) (w : IW) (st : State) : Res := st.vectorStream (.vmulh d a b m w)
/-- VMACC (R132). -/
def execVmacc (d a b : VReg) (m x : MReg) (w : IW) (st : State) : Res := st.vectorStream (.vmacc d a b m x w)
/-- VWMACC (R132). -/
def execVwmacc (d a b : VReg) (m : MReg) (w : IW) (st : State) : Res := st.vectorStream (.vwmacc d a b m w)
/-- VMERGE (R132). -/
def execVmerge (d a b : VReg) (m : MReg) (w : IW) (st : State) : Res := st.vectorStream (.vmerge d a b m w)
/-- VAND (R132). -/
def execVand (d a b : VReg) (m : MReg) (w : IW) (st : State) : Res := st.vectorStream (.vand d a b m w)
/-- VOR (R132). -/
def execVor (d a b : VReg) (m : MReg) (w : IW) (st : State) : Res := st.vectorStream (.vor d a b m w)
/-- VXOR (R132). -/
def execVxor (d a b : VReg) (m : MReg) (w : IW) (st : State) : Res := st.vectorStream (.vxor d a b m w)
/-- VSLL (R132). -/
def execVsll (d a b : VReg) (m : MReg) (w : IW) (st : State) : Res := st.vectorStream (.vsll d a b m w)
/-- VSRL (R132). -/
def execVsrl (d a b : VReg) (m : MReg) (w : IW) (st : State) : Res := st.vectorStream (.vsrl d a b m w)
/-- VSRA (R132). -/
def execVsra (d a b : VReg) (m : MReg) (w : IW) (st : State) : Res := st.vectorStream (.vsra d a b m w)
/-- VNSRA (R132). -/
def execVnsra (d a b : VReg) (m x : MReg) (w : IW) (st : State) : Res := st.vectorStream (.vnsra d a b m x w)
/-- VMIN (R132). -/
def execVmin (d a b : VReg) (m : MReg) (w : IW) (st : State) : Res := st.vectorStream (.vmin d a b m w)
/-- VMAX (R132). -/
def execVmax (d a b : VReg) (m : MReg) (w : IW) (st : State) : Res := st.vectorStream (.vmax d a b m w)
/-- VMINN (R132). -/
def execVminn (d a b : VReg) (m : MReg) (w : IW) (st : State) : Res := st.vectorStream (.vminn d a b m w)
/-- VMAXN (R132). -/
def execVmaxn (d a b : VReg) (m : MReg) (w : IW) (st : State) : Res := st.vectorStream (.vmaxn d a b m w)
/-- VSADD (R132). -/
def execVsadd (d a b : VReg) (m x : MReg) (w : IW) (st : State) : Res := st.vectorStream (.vsadd d a b m x w)
/-- VSSUB (R132). -/
def execVssub (d a b : VReg) (m x : MReg) (w : IW) (st : State) : Res := st.vectorStream (.vssub d a b m x w)
/-- VDIV (R132). -/
def execVdiv (d a b : VReg) (m x : MReg) (w : IW) (st : State) : Res := st.vectorStream (.vdiv d a b m x w)
/-- VREM (R132). -/
def execVrem (d a b : VReg) (m x : MReg) (w : IW) (st : State) : Res := st.vectorStream (.vrem d a b m x w)
/-- VCMP_EQ (R132). -/
def execVcmpEq (d : MReg) (a b : VReg) (m : MReg) (w : IW) (st : State) : Res := st.vectorStream (.vcmpEq d a b m w)
/-- VCMP_NE (R132). -/
def execVcmpNe (d : MReg) (a b : VReg) (m : MReg) (w : IW) (st : State) : Res := st.vectorStream (.vcmpNe d a b m w)
/-- VCMP_LT (R132). -/
def execVcmpLt (d : MReg) (a b : VReg) (m : MReg) (w : IW) (st : State) : Res := st.vectorStream (.vcmpLt d a b m w)
/-- VCMP_LE (R132). -/
def execVcmpLe (d : MReg) (a b : VReg) (m : MReg) (w : IW) (st : State) : Res := st.vectorStream (.vcmpLe d a b m w)
/-- VCMP_LTN (R132). -/
def execVcmpLtn (d : MReg) (a b : VReg) (m : MReg) (w : IW) (st : State) : Res := st.vectorStream (.vcmpLtn d a b m w)
/-- VCMP_LEN (R132). -/
def execVcmpLen (d : MReg) (a b : VReg) (m : MReg) (w : IW) (st : State) : Res := st.vectorStream (.vcmpLen d a b m w)
/-- VADD_VX (R132). -/
def execVaddVx (d a : VReg) (b : SReg) (m : MReg) (w : IW) (st : State) : Res := st.vectorStream (.vaddVx d a b m w)
/-- VSUB_VX (R132). -/
def execVsubVx (d a : VReg) (b : SReg) (m : MReg) (w : IW) (st : State) : Res := st.vectorStream (.vsubVx d a b m w)
/-- VRSUB_VX (R132). -/
def execVrsubVx (d a : VReg) (b : SReg) (m : MReg) (w : IW) (st : State) : Res := st.vectorStream (.vrsubVx d a b m w)
/-- VMUL_VX (R132). -/
def execVmulVx (d a : VReg) (b : SReg) (m : MReg) (w : IW) (st : State) : Res := st.vectorStream (.vmulVx d a b m w)
/-- VMULH_VX (R132). -/
def execVmulhVx (d a : VReg) (b : SReg) (m : MReg) (w : IW) (st : State) : Res := st.vectorStream (.vmulhVx d a b m w)
/-- VMACC_VX (R132). -/
def execVmaccVx (d a : VReg) (b : SReg) (m x : MReg) (w : IW) (st : State) : Res :=
  st.vectorStream (.vmaccVx d a b m x w)
/-- VWMACC_VX (R132). -/
def execVwmaccVx (d a : VReg) (b : SReg) (m : MReg) (w : IW) (st : State) : Res := st.vectorStream (.vwmaccVx d a b m w)
/-- VMERGE_VX (R132). -/
def execVmergeVx (d a : VReg) (b : SReg) (m : MReg) (w : IW) (st : State) : Res := st.vectorStream (.vmergeVx d a b m w)
/-- VAND_VX (R132). -/
def execVandVx (d a : VReg) (b : SReg) (m : MReg) (w : IW) (st : State) : Res := st.vectorStream (.vandVx d a b m w)
/-- VOR_VX (R132). -/
def execVorVx (d a : VReg) (b : SReg) (m : MReg) (w : IW) (st : State) : Res := st.vectorStream (.vorVx d a b m w)
/-- VXOR_VX (R132). -/
def execVxorVx (d a : VReg) (b : SReg) (m : MReg) (w : IW) (st : State) : Res := st.vectorStream (.vxorVx d a b m w)
/-- VSLL_VX (R132). -/
def execVsllVx (d a : VReg) (b : SReg) (m : MReg) (w : IW) (st : State) : Res := st.vectorStream (.vsllVx d a b m w)
/-- VSRL_VX (R132). -/
def execVsrlVx (d a : VReg) (b : SReg) (m : MReg) (w : IW) (st : State) : Res := st.vectorStream (.vsrlVx d a b m w)
/-- VSRA_VX (R132). -/
def execVsraVx (d a : VReg) (b : SReg) (m : MReg) (w : IW) (st : State) : Res := st.vectorStream (.vsraVx d a b m w)
/-- VNSRA_VX (R132). -/
def execVnsraVx (d a : VReg) (b : SReg) (m x : MReg) (w : IW) (st : State) : Res :=
  st.vectorStream (.vnsraVx d a b m x w)
/-- VMIN_VX (R132). -/
def execVminVx (d a : VReg) (b : SReg) (m : MReg) (w : IW) (st : State) : Res := st.vectorStream (.vminVx d a b m w)
/-- VMAX_VX (R132). -/
def execVmaxVx (d a : VReg) (b : SReg) (m : MReg) (w : IW) (st : State) : Res := st.vectorStream (.vmaxVx d a b m w)
/-- VMINN_VX (R132). -/
def execVminnVx (d a : VReg) (b : SReg) (m : MReg) (w : IW) (st : State) : Res := st.vectorStream (.vminnVx d a b m w)
/-- VMAXN_VX (R132). -/
def execVmaxnVx (d a : VReg) (b : SReg) (m : MReg) (w : IW) (st : State) : Res := st.vectorStream (.vmaxnVx d a b m w)
/-- VSADD_VX (R132). -/
def execVsaddVx (d a : VReg) (b : SReg) (m x : MReg) (w : IW) (st : State) : Res :=
  st.vectorStream (.vsaddVx d a b m x w)
/-- VSSUB_VX (R132). -/
def execVssubVx (d a : VReg) (b : SReg) (m x : MReg) (w : IW) (st : State) : Res :=
  st.vectorStream (.vssubVx d a b m x w)
/-- VDIV_VX (R132). -/
def execVdivVx (d a : VReg) (b : SReg) (m x : MReg) (w : IW) (st : State) : Res := st.vectorStream (.vdivVx d a b m x w)
/-- VREM_VX (R132). -/
def execVremVx (d a : VReg) (b : SReg) (m x : MReg) (w : IW) (st : State) : Res := st.vectorStream (.vremVx d a b m x w)
/-- VCMP_EQ_VX (R132). -/
def execVcmpEqVx (d : MReg) (a : VReg) (b : SReg) (m : MReg) (w : IW) (st : State) : Res :=
  st.vectorStream (.vcmpEqVx d a b m w)
/-- VCMP_NE_VX (R132). -/
def execVcmpNeVx (d : MReg) (a : VReg) (b : SReg) (m : MReg) (w : IW) (st : State) : Res :=
  st.vectorStream (.vcmpNeVx d a b m w)
/-- VCMP_LT_VX (R132). -/
def execVcmpLtVx (d : MReg) (a : VReg) (b : SReg) (m : MReg) (w : IW) (st : State) : Res :=
  st.vectorStream (.vcmpLtVx d a b m w)
/-- VCMP_LE_VX (R132). -/
def execVcmpLeVx (d : MReg) (a : VReg) (b : SReg) (m : MReg) (w : IW) (st : State) : Res :=
  st.vectorStream (.vcmpLeVx d a b m w)
/-- VCMP_LTN_VX (R132). -/
def execVcmpLtnVx (d : MReg) (a : VReg) (b : SReg) (m : MReg) (w : IW) (st : State) : Res :=
  st.vectorStream (.vcmpLtnVx d a b m w)
/-- VCMP_LEN_VX (R132). -/
def execVcmpLenVx (d : MReg) (a : VReg) (b : SReg) (m : MReg) (w : IW) (st : State) : Res :=
  st.vectorStream (.vcmpLenVx d a b m w)
/-- VFADD (R133). -/
def execVfadd (d a b : VReg) (m x : MReg) (f : FF) (st : State) : Res := st.vectorStream (.vfadd d a b m x f)
/-- VFSUB (R133). -/
def execVfsub (d a b : VReg) (m x : MReg) (f : FF) (st : State) : Res := st.vectorStream (.vfsub d a b m x f)
/-- VFMUL (R133). -/
def execVfmul (d a b : VReg) (m x : MReg) (f : FF) (st : State) : Res := st.vectorStream (.vfmul d a b m x f)
/-- VFDIV (R133). -/
def execVfdiv (d a b : VReg) (m x : MReg) (f : FF) (st : State) : Res := st.vectorStream (.vfdiv d a b m x f)
/-- VFMIN (R133). -/
def execVfmin (d a b : VReg) (m x : MReg) (f : FF) (st : State) : Res := st.vectorStream (.vfmin d a b m x f)
/-- VFMAX (R133). -/
def execVfmax (d a b : VReg) (m x : MReg) (f : FF) (st : State) : Res := st.vectorStream (.vfmax d a b m x f)
/-- VFSQRT (R133). -/
def execVfsqrt (d a : VReg) (m x : MReg) (f : FF) (st : State) : Res := st.vectorStream (.vfsqrt d a m x f)
/-- VFCLASS (R133). -/
def execVfclass (d a : VReg) (m : MReg) (f : FF) (st : State) : Res := st.vectorStream (.vfclass d a m f)
/-- VFADD_VX (R133). -/
def execVfaddVx (d a : VReg) (b : SReg) (m x : MReg) (f : FF) (st : State) : Res :=
  st.vectorStream (.vfaddVx d a b m x f)
/-- VFSUB_VX (R133). -/
def execVfsubVx (d a : VReg) (b : SReg) (m x : MReg) (f : FF) (st : State) : Res :=
  st.vectorStream (.vfsubVx d a b m x f)
/-- VFMUL_VX (R133). -/
def execVfmulVx (d a : VReg) (b : SReg) (m x : MReg) (f : FF) (st : State) : Res :=
  st.vectorStream (.vfmulVx d a b m x f)
/-- VFDIV_VX (R133). -/
def execVfdivVx (d a : VReg) (b : SReg) (m x : MReg) (f : FF) (st : State) : Res :=
  st.vectorStream (.vfdivVx d a b m x f)
/-- VFMIN_VX (R133). -/
def execVfminVx (d a : VReg) (b : SReg) (m x : MReg) (f : FF) (st : State) : Res :=
  st.vectorStream (.vfminVx d a b m x f)
/-- VFMAX_VX (R133). -/
def execVfmaxVx (d a : VReg) (b : SReg) (m x : MReg) (f : FF) (st : State) : Res :=
  st.vectorStream (.vfmaxVx d a b m x f)
/-- VFMA (R133). -/
def execVfma (d a b : VReg) (m x : MReg) (f : FF) (st : State) : Res := st.vectorStream (.vfma d a b m x f)
/-- VFNMA (R133). -/
def execVfnma (d a b : VReg) (m x : MReg) (f : FF) (st : State) : Res := st.vectorStream (.vfnma d a b m x f)
/-- VFMA_VX (R133). -/
def execVfmaVx (d a : VReg) (b : SReg) (m x : MReg) (f : FF) (st : State) : Res := st.vectorStream (.vfmaVx d a b m x f)
/-- VFNMA_VX (R133). -/
def execVfnmaVx (d a : VReg) (b : SReg) (m x : MReg) (f : FF) (st : State) : Res :=
  st.vectorStream (.vfnmaVx d a b m x f)
/-- VFCMP_EQ (R133). -/
def execVfcmpEq (d : MReg) (a b : VReg) (m x : MReg) (f : FF) (st : State) : Res :=
  st.vectorStream (.vfcmpEq d a b m x f)
/-- VFCMP_LT (R133). -/
def execVfcmpLt (d : MReg) (a b : VReg) (m x : MReg) (f : FF) (st : State) : Res :=
  st.vectorStream (.vfcmpLt d a b m x f)
/-- VFCMP_LE (R133). -/
def execVfcmpLe (d : MReg) (a b : VReg) (m x : MReg) (f : FF) (st : State) : Res :=
  st.vectorStream (.vfcmpLe d a b m x f)
/-- VFCMP_UN (R133). -/
def execVfcmpUn (d : MReg) (a b : VReg) (m x : MReg) (f : FF) (st : State) : Res :=
  st.vectorStream (.vfcmpUn d a b m x f)
/-- VFRECE (R134). -/
def execVfrece (d a : VReg) (m x : MReg) (f : FF) (st : State) : Res := st.vectorStream (.vfrece d a m x f)
/-- VFRSQE (R134). -/
def execVfrsqe (d a : VReg) (m x : MReg) (f : FF) (st : State) : Res := st.vectorStream (.vfrsqe d a m x f)
/-- VFEXP2 (R134). -/
def execVfexp2 (d a : VReg) (m x : MReg) (f : FF) (st : State) : Res := st.vectorStream (.vfexp2 d a m x f)
/-- VFLOG2 (R134). -/
def execVflog2 (d a : VReg) (m x : MReg) (f : FF) (st : State) : Res := st.vectorStream (.vflog2 d a m x f)
/-- VFTANH (R134). -/
def execVftanh (d a : VReg) (m x : MReg) (f : FF) (st : State) : Res := st.vectorStream (.vftanh d a m x f)
/-- VFSIGM (R134). -/
def execVfsigm (d a : VReg) (m x : MReg) (f : FF) (st : State) : Res := st.vectorStream (.vfsigm d a m x f)
/-- VCVT (R135). -/
def execVcvt (d a : VReg) (s : Elem) (m x : MReg) (t : Elem) (st : State) : Res := st.vectorStream (.vcvt d a s m x t)
/-- VBQ (R138). -/
def execVbq (d a : VReg) (t : Elem) (q : QReg) (x : MReg) (c : Bool) (st : State) : Res :=
  st.vectorStream (.vbq d a t q x c)
/-- VBDQ (R139). -/
def execVbdq (d a : VReg) (s : Elem) (q : QReg) (x : MReg) (st : State) : Res := st.vectorStream (.vbdq d a s q x)
/-- VHAD (R140). -/
def execVhad (d a : VReg) (k : Fin 32) (y z h : Bool) (x : MReg) (f : FF) (st : State) : Res :=
  st.vectorStream (.vhad d a k y z h x f)
/-- VPACK (R136). -/
def execVpack (d a : VReg) (c : Elem) (m : MReg) (st : State) : Res := st.vectorStream (.vpack d a c m)
/-- VUNPK (R136). -/
def execVunpk (d a : VReg) (c : Elem) (m : MReg) (st : State) : Res := st.vectorStream (.vunpk d a c m)
/-- VRNG (R141). -/
def execVrng (d : VReg) (t : Elem) (m : MReg) (st : State) : Res := st.vectorStream (.vrng d t m)
/-- VGATHER (R146). -/
def execVgather (d a b : VReg) (m : MReg) (st : State) : Res := st.vectorStream (.vgather d a b m)
/-- VCOMPRESS (R147). -/
def execVcompress (d a : VReg) (m : MReg) (st : State) : Res := st.vectorStream (.vcompress d a m)
/-- VEXPAND (R148). -/
def execVexpand (d a : VReg) (m : MReg) (st : State) : Res := st.vectorStream (.vexpand d a m)
/-- VIOTA (R148). -/
def execViota (d : VReg) (a m : MReg) (st : State) : Res := st.vectorStream (.viota d a m)
/-- VID (R148). -/
def execVid (d : VReg) (m : MReg) (st : State) : Res := st.vectorStream (.vid d m)
/-- VBCAST (R149). -/
def execVbcast (d : VReg) (a : SReg) (m : MReg) (st : State) : Res := st.vectorStream (.vbcast d a m)
/-- VMVX (R149). -/
def execVmvx (d : VReg) (a : SReg) (st : State) : Res := st.vectorStream (.vmvx d a)
/-- VRDS (R150). -/
def execVrds (d : SReg) (a : VReg) (b : SReg) (st : State) : Res := st.vectorStream (.vrds d a b)
/-- VREDSUM (R154). -/
def execVredsum (d a : VReg) (w : IW) (m x : MReg) (g : Bool) (st : State) : Res :=
  st.vectorStream (.vredsum d a w m x g)
/-- VREDMAX (R154). -/
def execVredmax (d a : VReg) (w : IW) (m : MReg) (g : Bool) (st : State) : Res := st.vectorStream (.vredmax d a w m g)
/-- VREDMIN (R154). -/
def execVredmin (d a : VReg) (w : IW) (m : MReg) (g : Bool) (st : State) : Res := st.vectorStream (.vredmin d a w m g)
/-- VSCAN (R156). -/
def execVscan (d a : VReg) (w : IW) (m x : MReg) (g : Bool) (st : State) : Res := st.vectorStream (.vscan d a w m x g)
/-- VFREDSUM (R155). -/
def execVfredsum (d a : VReg) (w : FF) (m x : MReg) (g : Bool) (st : State) : Res :=
  st.vectorStream (.vfredsum d a w m x g)
/-- VFREDOSUM (R154). -/
def execVfredosum (d a : VReg) (w : FF) (m x : MReg) (g : Bool) (st : State) : Res :=
  st.vectorStream (.vfredosum d a w m x g)
/-- VFREDMAX (R155). -/
def execVfredmax (d a : VReg) (w : FF) (m x : MReg) (g : Bool) (st : State) : Res :=
  st.vectorStream (.vfredmax d a w m x g)
/-- VFSCAN (R156). -/
def execVfscan (d a : VReg) (w : FF) (m x : MReg) (g : Bool) (st : State) : Res := st.vectorStream (.vfscan d a w m x g)
/-- MAND (R158). -/
def execMand (d a b : MReg) (st : State) : Res := st.vectorStream (.mand d a b)
/-- MOR (R158). -/
def execMor (d a b : MReg) (st : State) : Res := st.vectorStream (.mor d a b)
/-- MXOR (R158). -/
def execMxor (d a b : MReg) (st : State) : Res := st.vectorStream (.mxor d a b)
/-- MNOT (R158). -/
def execMnot (d a : MReg) (st : State) : Res := st.vectorStream (.mnot d a)
/-- MPOPC (R159). -/
def execMpopc (d : SReg) (a : MReg) (st : State) : Res := st.vectorStream (.mpopc d a)
/-- MFIRST (R159). -/
def execMfirst (d : SReg) (a : MReg) (st : State) : Res := st.vectorStream (.mfirst d a)
/-- VSLIDEUP (R151). -/
def execVslideup (d a : VReg) (b : SReg) (m : MReg) (c : SReg) (st : State) : Res :=
  st.vectorStream (.vslideup d a b m c)
/-- VSLIDEDN (R151). -/
def execVslidedn (d a : VReg) (b : SReg) (m : MReg) (c : SReg) (st : State) : Res :=
  st.vectorStream (.vslidedn d a b m c)
/-- VLD (R165). -/
def execVld (d : VReg) (a : SReg) (m : MReg) (c : Bool) (w : EW) (s : Src) (st : State) : Res :=
  st.vectorStream (.vld d a m c w s)
/-- VST (R165). -/
def execVst (d : VReg) (a : SReg) (m : MReg) (c : Bool) (w : EW) (st : State) : Res := st.vectorStream (.vst d a m c w)
/-- VLDS (R165). -/
def execVlds (d : VReg) (a b : SReg) (m : MReg) (w : EW) (s : Src) (st : State) : Res :=
  st.vectorStream (.vlds d a b m w s)
/-- VSTS (R165). -/
def execVsts (d : VReg) (a b : SReg) (m : MReg) (w : EW) (st : State) : Res := st.vectorStream (.vsts d a b m w)
/-- VLDX (R165). -/
def execVldx (d : VReg) (a : SReg) (b : VReg) (m : MReg) (w : EW) (s : Src) (st : State) : Res :=
  st.vectorStream (.vldx d a b m w s)
/-- VSTX (R165). -/
def execVstx (d : VReg) (a : SReg) (b : VReg) (m : MReg) (w : EW) (st : State) : Res :=
  st.vectorStream (.vstx d a b m w)
/-- VLDG (R165). -/
def execVldg (d : VReg) (a : SReg) (b : Fin 32) (m : MReg) (w : EW) (s : Src) (st : State) : Res :=
  st.vectorStream (.vldg d a b m w s)
/-- VSTG (R165). -/
def execVstg (d : VReg) (a : SReg) (b : Fin 32) (m : MReg) (w : EW) (st : State) : Res :=
  st.vectorStream (.vstg d a b m w)
/-- VLDT (R170). -/
def execVldt (d : VReg) (a : TReg) (b : SReg) (m : MReg) (c : Bool) (w : EW) (st : State) : Res :=
  st.vectorStream (.vldt d a b m c w)
/-- VSTT (R170). -/
def execVstt (d : VReg) (a : TReg) (b : SReg) (m : MReg) (c : Bool) (w : EW) (st : State) : Res :=
  st.vectorStream (.vstt d a b m c w)
/-- VAMO_SWAP (R173). -/
def execVamoSwap (d : VReg) (a : SReg) (b : VReg) (m : MReg) (e : Bool) (r : Ordr) (w : MW) (st : State) : Res :=
  st.vectorStream (.vamoSwap d a b m e r w)
/-- VAMO_ADD (R173). -/
def execVamoAdd (d : VReg) (a : SReg) (b : VReg) (m : MReg) (e : Bool) (r : Ordr) (w : MW) (st : State) : Res :=
  st.vectorStream (.vamoAdd d a b m e r w)
/-- VAMO_AND (R173). -/
def execVamoAnd (d : VReg) (a : SReg) (b : VReg) (m : MReg) (e : Bool) (r : Ordr) (w : MW) (st : State) : Res :=
  st.vectorStream (.vamoAnd d a b m e r w)
/-- VAMO_OR (R173). -/
def execVamoOr (d : VReg) (a : SReg) (b : VReg) (m : MReg) (e : Bool) (r : Ordr) (w : MW) (st : State) : Res :=
  st.vectorStream (.vamoOr d a b m e r w)
/-- VAMO_XOR (R173). -/
def execVamoXor (d : VReg) (a : SReg) (b : VReg) (m : MReg) (e : Bool) (r : Ordr) (w : MW) (st : State) : Res :=
  st.vectorStream (.vamoXor d a b m e r w)
/-- VAMO_MIN (R173). -/
def execVamoMin (d : VReg) (a : SReg) (b : VReg) (m : MReg) (e : Bool) (r : Ordr) (w : MW) (st : State) : Res :=
  st.vectorStream (.vamoMin d a b m e r w)
/-- VAMO_MAX (R173). -/
def execVamoMax (d : VReg) (a : SReg) (b : VReg) (m : MReg) (e : Bool) (r : Ordr) (w : MW) (st : State) : Res :=
  st.vectorStream (.vamoMax d a b m e r w)
/-- VWAIT (R175). -/
def execVwait (d : VReg) (a : SReg) (b : VReg) (m : MReg) (c : VCond) (w : MW) (st : State) : Res :=
  st.vectorStream (.vwait d a b m c w)
/-- VSCADD (R176). -/
def execVscadd (d : VReg) (a : SReg) (b : VReg) (m : MReg) (t : SctT) (st : State) : Res :=
  st.vectorStream (.vscadd d a b m t)
/-- TDEF (R179). -/
def execTdef (d : TReg) (a b : SReg) (st : State) : Res := st.vectorStream (.tdef d a b)
/-- TTAG (R187). -/
def execTtag (d : TReg) (a : SReg) (st : State) : Res := st.vectorStream (.ttag d a)
/-- TGTAG (R188). -/
def execTgtag (d : SReg) (a : TReg) (st : State) : Res := st.vectorStream (.tgtag d a)
/-- TSTAT (R188). -/
def execTstat (d : SReg) (a : TReg) (st : State) : Res := st.vectorStream (.tstat d a)
/-- TWAIT (R189). -/
def execTwait (d : TReg) (st : State) : Res := st.vectorStream (.twait d)
/-- MCLAIM (R193). -/
def execMclaim (a : SReg) (st : State) : Res := st.vectorStream (.mclaim a)
/-- MRELS (R193). -/
def execMrels (a : SReg) (st : State) : Res := st.vectorStream (.mrels a)
/-- MLDS (R195). -/
def execMlds (d : OSlot) (a : TReg) (c : Bool) (st : State) : Res := st.vectorStream (.mlds d a c)
/-- MROW (R200). -/
def execMrow (d : OSlot) (a : VReg) (b : SReg) (m : MMode) (k : Fin 16) (c : AccM) (st : State) : Res :=
  st.vectorStream (.mrow d a b m k c)
/-- MTILE (R201). -/
def execMtile (d : OSlot) (a : TReg) (b : SReg) (m : MMode) (o : Bool) (c : AccM) (st : State) : Res :=
  st.vectorStream (.mtile d a b m o c)
/-- MACR (R204). -/
def execMacr (d : VReg) (a b : SReg) (r : RCode) (st : State) : Res := st.vectorStream (.macr d a b r)
/-- MACW (R205). -/
def execMacw (a : VReg) (b : SReg) (r : RCode) (st : State) : Res := st.vectorStream (.macw a b r)
/-- MACZ (R206). -/
def execMacz (a b : SReg) (st : State) : Res := st.vectorStream (.macz a b)
/-- CPYV (R222). -/
def execCpyv (d : VReg) (a : SReg) (g : Fin 8) (r : Bool) (st : State) : Res :=
  st.vectorStream (.cpyv d a g r)
/-- CPYX (R223). -/
def execCpyx (d : VReg) (a : SReg) (r : Bool) (st : State) : Res := st.vectorStream (.cpyx d a r)
/-- CPYT (R224). -/
def execCpyt (d : TReg) (a : SReg) (r : Bool) (st : State) : Res := st.vectorStream (.cpyt d a r)
/-- BARV (R295). -/
def execBarv (d a : SReg) (st : State) : Res := st.vectorStream (.barv d a)
/-- SKINIT (R307). -/
def execSkinit (d a b : SReg) (st : State) : Res := st.vectorStream (.skinit d a b)
/-- SKUPD (R308). -/
def execSkupd (d : VReg) (a : SReg) (b : VReg) (m : MReg) (st : State) : Res :=
  st.vectorStream (.skupd d a b m)
/-- SKQRY (R309). -/
def execSkqry (d : VReg) (a : SReg) (b : VReg) (m : MReg) (st : State) : Res :=
  st.vectorStream (.skqry d a b m)
/-- SKADD (R310). -/
def execSkadd (d a : SReg) (st : State) : Res := st.vectorStream (.skadd d a)
/-- SKSCL (R311). -/
def execSkscl (d a : SReg) (st : State) : Res := st.vectorStream (.skscl d a)
/-- SETLS (R314). -/
def execSetls (a : SReg) (st : State) : Res := st.vectorStream (.setls a)

end Sys2Proof.Machine
end

