-- ==== Sys2Proof/Machine/Dispatch.lean ====
section
/-! DEFINITION. The meaning of every row of the opcode table: one arm per constructor of Instr. -/

namespace Sys2Proof.Machine

-- One arm per row.
def exec (ins : Instr) (s : State) : Host.Outcome State Fault Refusal :=
  match ins with
  | .setvlf d a b g w => Sys2Proof.Machine.execSetvlf d a b g w s
  | .setshape d a b => Sys2Proof.Machine.execSetshape d a b s
  | .vadd d a b m w => Sys2Proof.Machine.execVadd d a b m w s
  | .vsub d a b m w => Sys2Proof.Machine.execVsub d a b m w s
  | .vrsub d a b m w => Sys2Proof.Machine.execVrsub d a b m w s
  | .vmul d a b m w => Sys2Proof.Machine.execVmul d a b m w s
  | .vmulh d a b m w => Sys2Proof.Machine.execVmulh d a b m w s
  | .vmacc d a b m x w => Sys2Proof.Machine.execVmacc d a b m x w s
  | .vwmacc d a b m w => Sys2Proof.Machine.execVwmacc d a b m w s
  | .vmerge d a b m w => Sys2Proof.Machine.execVmerge d a b m w s
  | .vand d a b m w => Sys2Proof.Machine.execVand d a b m w s
  | .vor d a b m w => Sys2Proof.Machine.execVor d a b m w s
  | .vxor d a b m w => Sys2Proof.Machine.execVxor d a b m w s
  | .vsll d a b m w => Sys2Proof.Machine.execVsll d a b m w s
  | .vsrl d a b m w => Sys2Proof.Machine.execVsrl d a b m w s
  | .vsra d a b m w => Sys2Proof.Machine.execVsra d a b m w s
  | .vnsra d a b m x w => Sys2Proof.Machine.execVnsra d a b m x w s
  | .vmin d a b m w => Sys2Proof.Machine.execVmin d a b m w s
  | .vmax d a b m w => Sys2Proof.Machine.execVmax d a b m w s
  | .vminn d a b m w => Sys2Proof.Machine.execVminn d a b m w s
  | .vmaxn d a b m w => Sys2Proof.Machine.execVmaxn d a b m w s
  | .vsadd d a b m x w => Sys2Proof.Machine.execVsadd d a b m x w s
  | .vssub d a b m x w => Sys2Proof.Machine.execVssub d a b m x w s
  | .vdiv d a b m x w => Sys2Proof.Machine.execVdiv d a b m x w s
  | .vrem d a b m x w => Sys2Proof.Machine.execVrem d a b m x w s
  | .vcmpEq d a b m w => Sys2Proof.Machine.execVcmpEq d a b m w s
  | .vcmpNe d a b m w => Sys2Proof.Machine.execVcmpNe d a b m w s
  | .vcmpLt d a b m w => Sys2Proof.Machine.execVcmpLt d a b m w s
  | .vcmpLe d a b m w => Sys2Proof.Machine.execVcmpLe d a b m w s
  | .vcmpLtn d a b m w => Sys2Proof.Machine.execVcmpLtn d a b m w s
  | .vcmpLen d a b m w => Sys2Proof.Machine.execVcmpLen d a b m w s
  | .vaddVx d a b m w => Sys2Proof.Machine.execVaddVx d a b m w s
  | .vsubVx d a b m w => Sys2Proof.Machine.execVsubVx d a b m w s
  | .vrsubVx d a b m w => Sys2Proof.Machine.execVrsubVx d a b m w s
  | .vmulVx d a b m w => Sys2Proof.Machine.execVmulVx d a b m w s
  | .vmulhVx d a b m w => Sys2Proof.Machine.execVmulhVx d a b m w s
  | .vmaccVx d a b m x w => Sys2Proof.Machine.execVmaccVx d a b m x w s
  | .vwmaccVx d a b m w => Sys2Proof.Machine.execVwmaccVx d a b m w s
  | .vmergeVx d a b m w => Sys2Proof.Machine.execVmergeVx d a b m w s
  | .vandVx d a b m w => Sys2Proof.Machine.execVandVx d a b m w s
  | .vorVx d a b m w => Sys2Proof.Machine.execVorVx d a b m w s
  | .vxorVx d a b m w => Sys2Proof.Machine.execVxorVx d a b m w s
  | .vsllVx d a b m w => Sys2Proof.Machine.execVsllVx d a b m w s
  | .vsrlVx d a b m w => Sys2Proof.Machine.execVsrlVx d a b m w s
  | .vsraVx d a b m w => Sys2Proof.Machine.execVsraVx d a b m w s
  | .vnsraVx d a b m x w => Sys2Proof.Machine.execVnsraVx d a b m x w s
  | .vminVx d a b m w => Sys2Proof.Machine.execVminVx d a b m w s
  | .vmaxVx d a b m w => Sys2Proof.Machine.execVmaxVx d a b m w s
  | .vminnVx d a b m w => Sys2Proof.Machine.execVminnVx d a b m w s
  | .vmaxnVx d a b m w => Sys2Proof.Machine.execVmaxnVx d a b m w s
  | .vsaddVx d a b m x w => Sys2Proof.Machine.execVsaddVx d a b m x w s
  | .vssubVx d a b m x w => Sys2Proof.Machine.execVssubVx d a b m x w s
  | .vdivVx d a b m x w => Sys2Proof.Machine.execVdivVx d a b m x w s
  | .vremVx d a b m x w => Sys2Proof.Machine.execVremVx d a b m x w s
  | .vcmpEqVx d a b m w => Sys2Proof.Machine.execVcmpEqVx d a b m w s
  | .vcmpNeVx d a b m w => Sys2Proof.Machine.execVcmpNeVx d a b m w s
  | .vcmpLtVx d a b m w => Sys2Proof.Machine.execVcmpLtVx d a b m w s
  | .vcmpLeVx d a b m w => Sys2Proof.Machine.execVcmpLeVx d a b m w s
  | .vcmpLtnVx d a b m w => Sys2Proof.Machine.execVcmpLtnVx d a b m w s
  | .vcmpLenVx d a b m w => Sys2Proof.Machine.execVcmpLenVx d a b m w s
  | .vfadd d a b m x f => Sys2Proof.Machine.execVfadd d a b m x f s
  | .vfsub d a b m x f => Sys2Proof.Machine.execVfsub d a b m x f s
  | .vfmul d a b m x f => Sys2Proof.Machine.execVfmul d a b m x f s
  | .vfdiv d a b m x f => Sys2Proof.Machine.execVfdiv d a b m x f s
  | .vfmin d a b m x f => Sys2Proof.Machine.execVfmin d a b m x f s
  | .vfmax d a b m x f => Sys2Proof.Machine.execVfmax d a b m x f s
  | .vfsqrt d a m x f => Sys2Proof.Machine.execVfsqrt d a m x f s
  | .vfclass d a m f => Sys2Proof.Machine.execVfclass d a m f s
  | .vfaddVx d a b m x f => Sys2Proof.Machine.execVfaddVx d a b m x f s
  | .vfsubVx d a b m x f => Sys2Proof.Machine.execVfsubVx d a b m x f s
  | .vfmulVx d a b m x f => Sys2Proof.Machine.execVfmulVx d a b m x f s
  | .vfdivVx d a b m x f => Sys2Proof.Machine.execVfdivVx d a b m x f s
  | .vfminVx d a b m x f => Sys2Proof.Machine.execVfminVx d a b m x f s
  | .vfmaxVx d a b m x f => Sys2Proof.Machine.execVfmaxVx d a b m x f s
  | .vfma d a b m x f => Sys2Proof.Machine.execVfma d a b m x f s
  | .vfnma d a b m x f => Sys2Proof.Machine.execVfnma d a b m x f s
  | .vfmaVx d a b m x f => Sys2Proof.Machine.execVfmaVx d a b m x f s
  | .vfnmaVx d a b m x f => Sys2Proof.Machine.execVfnmaVx d a b m x f s
  | .vfcmpEq d a b m x f => Sys2Proof.Machine.execVfcmpEq d a b m x f s
  | .vfcmpLt d a b m x f => Sys2Proof.Machine.execVfcmpLt d a b m x f s
  | .vfcmpLe d a b m x f => Sys2Proof.Machine.execVfcmpLe d a b m x f s
  | .vfcmpUn d a b m x f => Sys2Proof.Machine.execVfcmpUn d a b m x f s
  | .vfrece d a m x f => Sys2Proof.Machine.execVfrece d a m x f s
  | .vfrsqe d a m x f => Sys2Proof.Machine.execVfrsqe d a m x f s
  | .vfexp2 d a m x f => Sys2Proof.Machine.execVfexp2 d a m x f s
  | .vflog2 d a m x f => Sys2Proof.Machine.execVflog2 d a m x f s
  | .vftanh d a m x f => Sys2Proof.Machine.execVftanh d a m x f s
  | .vfsigm d a m x f => Sys2Proof.Machine.execVfsigm d a m x f s
  | .vcvt d a sg m x t => Sys2Proof.Machine.execVcvt d a sg m x t s
  | .vbq d a t q x c => Sys2Proof.Machine.execVbq d a t q x c s
  | .vbdq d a sg q x => Sys2Proof.Machine.execVbdq d a sg q x s
  | .vhad d a k y z h x f => Sys2Proof.Machine.execVhad d a k y z h x f s
  | .vpack d a c m => Sys2Proof.Machine.execVpack d a c m s
  | .vunpk d a c m => Sys2Proof.Machine.execVunpk d a c m s
  | .vrng d t m => Sys2Proof.Machine.execVrng d t m s
  | .vgather d a b m => Sys2Proof.Machine.execVgather d a b m s
  | .vcompress d a m => Sys2Proof.Machine.execVcompress d a m s
  | .vexpand d a m => Sys2Proof.Machine.execVexpand d a m s
  | .viota d a m => Sys2Proof.Machine.execViota d a m s
  | .vid d m => Sys2Proof.Machine.execVid d m s
  | .vbcast d a m => Sys2Proof.Machine.execVbcast d a m s
  | .vmvx d a => Sys2Proof.Machine.execVmvx d a s
  | .vrds d a b => Sys2Proof.Machine.execVrds d a b s
  | .vredsum d a w m x g => Sys2Proof.Machine.execVredsum d a w m x g s
  | .vredmax d a w m g => Sys2Proof.Machine.execVredmax d a w m g s
  | .vredmin d a w m g => Sys2Proof.Machine.execVredmin d a w m g s
  | .vscan d a w m x g => Sys2Proof.Machine.execVscan d a w m x g s
  | .vfredsum d a w m x g => Sys2Proof.Machine.execVfredsum d a w m x g s
  | .vfredosum d a w m x g => Sys2Proof.Machine.execVfredosum d a w m x g s
  | .vfredmax d a w m x g => Sys2Proof.Machine.execVfredmax d a w m x g s
  | .vfscan d a w m x g => Sys2Proof.Machine.execVfscan d a w m x g s
  | .mand d a b => Sys2Proof.Machine.execMand d a b s
  | .mor d a b => Sys2Proof.Machine.execMor d a b s
  | .mxor d a b => Sys2Proof.Machine.execMxor d a b s
  | .mnot d a => Sys2Proof.Machine.execMnot d a s
  | .mpopc d a => Sys2Proof.Machine.execMpopc d a s
  | .mfirst d a => Sys2Proof.Machine.execMfirst d a s
  | .vslideup d a b m c => Sys2Proof.Machine.execVslideup d a b m c s
  | .vslidedn d a b m c => Sys2Proof.Machine.execVslidedn d a b m c s
  | .vld d a m c w sg => Sys2Proof.Machine.execVld d a m c w sg s
  | .vst d a m c w => Sys2Proof.Machine.execVst d a m c w s
  | .vlds d a b m w sg => Sys2Proof.Machine.execVlds d a b m w sg s
  | .vsts d a b m w => Sys2Proof.Machine.execVsts d a b m w s
  | .vldx d a b m w sg => Sys2Proof.Machine.execVldx d a b m w sg s
  | .vstx d a b m w => Sys2Proof.Machine.execVstx d a b m w s
  | .vldg d a b m w sg => Sys2Proof.Machine.execVldg d a b m w sg s
  | .vstg d a b m w => Sys2Proof.Machine.execVstg d a b m w s
  | .vldt d a b m c w => Sys2Proof.Machine.execVldt d a b m c w s
  | .vstt d a b m c w => Sys2Proof.Machine.execVstt d a b m c w s
  | .vamoSwap d a b m e r w => Sys2Proof.Machine.execVamoSwap d a b m e r w s
  | .vamoAdd d a b m e r w => Sys2Proof.Machine.execVamoAdd d a b m e r w s
  | .vamoAnd d a b m e r w => Sys2Proof.Machine.execVamoAnd d a b m e r w s
  | .vamoOr d a b m e r w => Sys2Proof.Machine.execVamoOr d a b m e r w s
  | .vamoXor d a b m e r w => Sys2Proof.Machine.execVamoXor d a b m e r w s
  | .vamoMin d a b m e r w => Sys2Proof.Machine.execVamoMin d a b m e r w s
  | .vamoMax d a b m e r w => Sys2Proof.Machine.execVamoMax d a b m e r w s
  | .vwait d a b m c w => Sys2Proof.Machine.execVwait d a b m c w s
  | .vscadd d a b m t => Sys2Proof.Machine.execVscadd d a b m t s
  | .tdef d a b => Sys2Proof.Machine.execTdef d a b s
  | .ttag d a => Sys2Proof.Machine.execTtag d a s
  | .tgtag d a => Sys2Proof.Machine.execTgtag d a s
  | .tstat d a => Sys2Proof.Machine.execTstat d a s
  | .twait d => Sys2Proof.Machine.execTwait d s
  | .mclaim a => Sys2Proof.Machine.execMclaim a s
  | .mrels a => Sys2Proof.Machine.execMrels a s
  | .mlds d a c => Sys2Proof.Machine.execMlds d a c s
  | .mrow d a b m k c => Sys2Proof.Machine.execMrow d a b m k c s
  | .mtile d a b m o c => Sys2Proof.Machine.execMtile d a b m o c s
  | .macr d a b r => Sys2Proof.Machine.execMacr d a b r s
  | .macw a b r => Sys2Proof.Machine.execMacw a b r s
  | .macz a b => Sys2Proof.Machine.execMacz a b s
  | .cpyv d a g r => Sys2Proof.Machine.execCpyv d a g r s
  | .cpyx d a r => Sys2Proof.Machine.execCpyx d a r s
  | .cpyt d a r => Sys2Proof.Machine.execCpyt d a r s
  | .barv d a => Sys2Proof.Machine.execBarv d a s
  | .skinit d a b => Sys2Proof.Machine.execSkinit d a b s
  | .skupd d a b m => Sys2Proof.Machine.execSkupd d a b m s
  | .skqry d a b m => Sys2Proof.Machine.execSkqry d a b m s
  | .skadd d a => Sys2Proof.Machine.execSkadd d a s
  | .skscl d a => Sys2Proof.Machine.execSkscl d a s
  | .setls a => Sys2Proof.Machine.execSetls a s
  | .add d a b => Sys2Proof.Machine.execAdd d a b s
  | .sub d a b => Sys2Proof.Machine.execSub d a b s
  | .and d a b => Sys2Proof.Machine.execAnd d a b s
  | .or d a b => Sys2Proof.Machine.execOr d a b s
  | .xor d a b => Sys2Proof.Machine.execXor d a b s
  | .sll d a b => Sys2Proof.Machine.execSll d a b s
  | .srl d a b => Sys2Proof.Machine.execSrl d a b s
  | .sra d a b => Sys2Proof.Machine.execSra d a b s
  | .slt d a b => Sys2Proof.Machine.execSlt d a b s
  | .sltn d a b => Sys2Proof.Machine.execSltn d a b s
  | .min d a b => Sys2Proof.Machine.execMin d a b s
  | .max d a b => Sys2Proof.Machine.execMax d a b s
  | .minn d a b => Sys2Proof.Machine.execMinn d a b s
  | .maxn d a b => Sys2Proof.Machine.execMaxn d a b s
  | .clz d a => Sys2Proof.Machine.execClz d a s
  | .ctz d a => Sys2Proof.Machine.execCtz d a s
  | .popc d a => Sys2Proof.Machine.execPopc d a s
  | .mul d a b => Sys2Proof.Machine.execMul d a b s
  | .mulh d a b => Sys2Proof.Machine.execMulh d a b s
  | .mulhn d a b => Sys2Proof.Machine.execMulhn d a b s
  | .div d a b => Sys2Proof.Machine.execDiv d a b s
  | .divn d a b => Sys2Proof.Machine.execDivn d a b s
  | .rem d a b => Sys2Proof.Machine.execRem d a b s
  | .remn d a b => Sys2Proof.Machine.execRemn d a b s
  | .sel d a b c => Sys2Proof.Machine.execSel d a b c s
  | .addImm d a i => Sys2Proof.Machine.execAddImm d a i s
  | .andImm d a i => Sys2Proof.Machine.execAndImm d a i s
  | .orImm d a i => Sys2Proof.Machine.execOrImm d a i s
  | .xorImm d a i => Sys2Proof.Machine.execXorImm d a i s
  | .sltImm d a i => Sys2Proof.Machine.execSltImm d a i s
  | .sltnImm d a i => Sys2Proof.Machine.execSltnImm d a i s
  | .sllImm d a i => Sys2Proof.Machine.execSllImm d a i s
  | .srlImm d a i => Sys2Proof.Machine.execSrlImm d a i s
  | .sraImm d a i => Sys2Proof.Machine.execSraImm d a i s
  | .minImm d a i => Sys2Proof.Machine.execMinImm d a i s
  | .maxImm d a i => Sys2Proof.Machine.execMaxImm d a i s
  | .minnImm d a i => Sys2Proof.Machine.execMinnImm d a i s
  | .maxnImm d a i => Sys2Proof.Machine.execMaxnImm d a i s
  | .lih d i => Sys2Proof.Machine.execLih d i s
  | .ld d a w i => Sys2Proof.Machine.execLd d a w i s
  | .ldn d a w i => Sys2Proof.Machine.execLdn d a w i s
  | .st d a w i => Sys2Proof.Machine.execSt d a w i s
  | .amoSwap d a b r w => Sys2Proof.Machine.execAmoSwap d a b r w s
  | .amoAdd d a b r w => Sys2Proof.Machine.execAmoAdd d a b r w s
  | .amoAnd d a b r w => Sys2Proof.Machine.execAmoAnd d a b r w s
  | .amoOr d a b r w => Sys2Proof.Machine.execAmoOr d a b r w s
  | .amoXor d a b r w => Sys2Proof.Machine.execAmoXor d a b r w s
  | .amoMin d a b r w => Sys2Proof.Machine.execAmoMin d a b r w s
  | .amoMax d a b r w => Sys2Proof.Machine.execAmoMax d a b r w s
  | .cas d a b r w => Sys2Proof.Machine.execCas d a b r w s
  | .beq d a i => Sys2Proof.Machine.execBeq d a i s
  | .bne d a i => Sys2Proof.Machine.execBne d a i s
  | .blt d a i => Sys2Proof.Machine.execBlt d a i s
  | .bge d a i => Sys2Proof.Machine.execBge d a i s
  | .bltn d a i => Sys2Proof.Machine.execBltn d a i s
  | .bgen d a i => Sys2Proof.Machine.execBgen d a i s
  | .jal d i => Sys2Proof.Machine.execJal d i s
  | .jalr d a i => Sys2Proof.Machine.execJalr d a i s
  | .fadd d a b => Sys2Proof.Machine.execFadd d a b s
  | .fsub d a b => Sys2Proof.Machine.execFsub d a b s
  | .fmul d a b => Sys2Proof.Machine.execFmul d a b s
  | .fdiv d a b => Sys2Proof.Machine.execFdiv d a b s
  | .fsqrt d a => Sys2Proof.Machine.execFsqrt d a s
  | .fmin d a b => Sys2Proof.Machine.execFmin d a b s
  | .fmax d a b => Sys2Proof.Machine.execFmax d a b s
  | .fclass d a => Sys2Proof.Machine.execFclass d a s
  | .fcmpEq d a b => Sys2Proof.Machine.execFcmpEq d a b s
  | .fcmpLt d a b => Sys2Proof.Machine.execFcmpLt d a b s
  | .fcmpLe d a b => Sys2Proof.Machine.execFcmpLe d a b s
  | .fma d a b c => Sys2Proof.Machine.execFma d a b c s
  | .fcvt d a sg t => Sys2Proof.Machine.execFcvt d a sg t s
  | .csrr d n => Sys2Proof.Machine.execCsrr d n s
  | .csrw a n => Sys2Proof.Machine.execCsrw a n s
  | .csrs a n => Sys2Proof.Machine.execCsrs a n s
  | .csrc a n => Sys2Proof.Machine.execCsrc a n s
  | .vstartWrite a => Sys2Proof.Machine.execVstartWrite a s
  | .xflagsWrite a => Sys2Proof.Machine.execXflagsWrite a s
  | .wid d n => Sys2Proof.Machine.execWid d n s
  | .syscChipNumber d => Sys2Proof.Machine.execSyscChipNumber d s
  | .syscSend d => Sys2Proof.Machine.execSyscSend d s
  | .syscMembership d => Sys2Proof.Machine.execSyscMembership d s
  | .trap i => Sys2Proof.Machine.execTrap i s
  | .rett => Sys2Proof.Machine.execRett s
  | .yield => Sys2Proof.Machine.execYield s
  | .exit => Sys2Proof.Machine.execExit s
  | .fence sg k => Sys2Proof.Machine.execFence sg k s
  | .probe d a k => Sys2Proof.Machine.execProbe d a k s
  | .vfence => Sys2Proof.Machine.execVfence s
  | .setvl d a g w => Sys2Proof.Machine.execSetvl d a g w s
  | .push d a n => Sys2Proof.Machine.execPush d a n s
  | .pop d a => Sys2Proof.Machine.execPop d a s
  | .strcfg d a => Sys2Proof.Machine.execStrcfg d a s
  | .strbar i => Sys2Proof.Machine.execStrbar i s
  | .qpush d a b => Sys2Proof.Machine.execQpush d a b s
  | .qpop d a b => Sys2Proof.Machine.execQpop d a b s
  | .qpushb d a b => Sys2Proof.Machine.execQpushb d a b s
  | .qpopb d a b => Sys2Proof.Machine.execQpopb d a b s
  | .qsteal d a b => Sys2Proof.Machine.execQsteal d a b s
  | .qlen d a => Sys2Proof.Machine.execQlen d a s
  | .dispatch d a b => Sys2Proof.Machine.execDispatch d a b s
  | .dret d a b => Sys2Proof.Machine.execDret d a b s
  | .forkl d a b => Sys2Proof.Machine.execForkl d a b s
  | .joinl d a => Sys2Proof.Machine.execJoinl d a s
  | .grpid d => Sys2Proof.Machine.execGrpid d s
  | .binit a b => Sys2Proof.Machine.execBinit a b s
  | .bwait a b => Sys2Proof.Machine.execBwait a b s
  | .barw d a => Sys2Proof.Machine.execBarw d a s
  | .rngck a => Sys2Proof.Machine.execRngck a s
  | .rngrs a => Sys2Proof.Machine.execRngrs a s
  | .ctxhalt d a => Sys2Proof.Machine.execCtxhalt d a s
  | .scrubCluster d a b => Sys2Proof.Machine.execScrubCluster d a b s
  | .scrubL2 d a b => Sys2Proof.Machine.execScrubL2 d a b s
  | .scrubShadowSlot d a b => Sys2Proof.Machine.execScrubShadowSlot d a b s
  | .auditAppend d a b => Sys2Proof.Machine.execAuditAppend d a b s
  | .auditSeal d a b => Sys2Proof.Machine.execAuditSeal d a b s
  | .auditFree d a b => Sys2Proof.Machine.execAuditFree d a b s
  | .auditExtend d a b => Sys2Proof.Machine.execAuditExtend d a b s
  | .waysetSet d a b => Sys2Proof.Machine.execWaysetSet d a b s
  | .waysetRead d a b => Sys2Proof.Machine.execWaysetRead d a b s
  | .setroot d a b => Sys2Proof.Machine.execSetroot d a b s
  | .invva d a b => Sys2Proof.Machine.execInvva d a b s
  | .invctx d a b => Sys2Proof.Machine.execInvctx d a b s
  | .walk d a b => Sys2Proof.Machine.execWalk d a b s
  | .pfx p => Sys2Proof.Machine.execPfx p s
  | .clh c => Sys2Proof.Machine.execClh c s
  | .reservedEncoding w => Sys2Proof.Machine.execReservedEncoding w s
  | .laneGroupBind core => Sys2Proof.Machine.execLaneGroupBind core s
  | .l1iLineFill core ctx va => Sys2Proof.Machine.execL1iLineFill core ctx va s
  | .streamFetch slot p => Sys2Proof.Machine.execStreamFetch slot p s
  | .copyEnd slot => Sys2Proof.Machine.execCopyEnd slot s
  | .monitorWake slot => Sys2Proof.Machine.execMonitorWake slot s
  | .dependenceReady ctx q => Sys2Proof.Machine.execDependenceReady ctx q s
  | .axpy slot => Sys2Proof.Machine.execAxpy slot s
  | .fade slot => Sys2Proof.Machine.execFade slot s
  | .fill slot => Sys2Proof.Machine.execFill slot s
  | .copy slot => Sys2Proof.Machine.execCopy slot s
  | .scadd slot => Sys2Proof.Machine.execScadd slot s
  | .allreduce slot => Sys2Proof.Machine.execAllreduce slot s
  | .reduceScatter slot => Sys2Proof.Machine.execReduceScatter slot s
  | .sketchSum slot => Sys2Proof.Machine.execSketchSum slot s
  | .collectiveComplete slot => Sys2Proof.Machine.execCollectiveComplete slot s
  | .contrib p f => Sys2Proof.Machine.execContrib p f s
  | .psum p f => Sys2Proof.Machine.execPsum p f s
  | .result p f => Sys2Proof.Machine.execResult p f s
  | .ack p f => Sys2Proof.Machine.execAck p f s
  | .nack p f => Sys2Proof.Machine.execNack p f s
  | .leave p f => Sys2Proof.Machine.execLeave p f s
  | .abort p f => Sys2Proof.Machine.execAbort p f s
  | .idle p => Sys2Proof.Machine.execIdle p s
  | .malformedFlit p f => Sys2Proof.Machine.execMalformedFlit p f s
  | .portTrainingDone p good => Sys2Proof.Machine.execPortTrainingDone p good s
  | .lastingLinkError p => Sys2Proof.Machine.execLastingLinkError p s
  | .transientMemoryError pa => Sys2Proof.Machine.execTransientMemoryError pa s
  | .lastingMemoryError pa => Sys2Proof.Machine.execLastingMemoryError pa s
  | .oasisFaultService slot => Sys2Proof.Machine.execOasisFaultService slot s
  | .pageMigration ctx va => Sys2Proof.Machine.execPageMigration ctx va s
  | .preemption slot => Sys2Proof.Machine.execPreemption slot s
  | .groupAdmission ctx => Sys2Proof.Machine.execGroupAdmission ctx s
  | .hostMemoryWrite ap off data => Sys2Proof.Machine.execHostMemoryWrite ap off data s
  | .hostMemoryRead ap off n => Sys2Proof.Machine.execHostMemoryRead ap off n s
  | .taskRecordAppend off data => Sys2Proof.Machine.execTaskRecordAppend off data s
  | .hostRegisterWrite off v => Sys2Proof.Machine.execHostRegisterWrite off v s
  | .reportRingWrite => Sys2Proof.Machine.execReportRingWrite s
  | .createContext q => Sys2Proof.Machine.execCreateContext q s
  | .releaseContext q => Sys2Proof.Machine.execReleaseContext q s
  | .swapOut q => Sys2Proof.Machine.execSwapOut q s
  | .save q => Sys2Proof.Machine.execSave q s
  | .bindAperture q => Sys2Proof.Machine.execBindAperture q s
  | .resume q => Sys2Proof.Machine.execResume q s
  | .map q => Sys2Proof.Machine.execMap q s
  | .unmap q => Sys2Proof.Machine.execUnmap q s
  | .demandFilledRange q => Sys2Proof.Machine.execDemandFilledRange q s
  | .createQueue q => Sys2Proof.Machine.execCreateQueue q s
  | .sealQueue q => Sys2Proof.Machine.execSealQueue q s
  | .destroyQueue q => Sys2Proof.Machine.execDestroyQueue q s
  | .load q => Sys2Proof.Machine.execLoad q s
  | .unload q => Sys2Proof.Machine.execUnload q s
  | .forceUnload q => Sys2Proof.Machine.execForceUnload q s
  | .attach q => Sys2Proof.Machine.execAttach q s
  | .launch q => Sys2Proof.Machine.execLaunch q s
  | .defineCollectiveGroup q => Sys2Proof.Machine.execDefineCollectiveGroup q s
  | .setChipNumber q => Sys2Proof.Machine.execSetChipNumber q s
  | .enablePort q => Sys2Proof.Machine.execEnablePort q s
  | .disablePort q => Sys2Proof.Machine.execDisablePort q s
  | .retrainPort q => Sys2Proof.Machine.execRetrainPort q s
  | .readPortCounters q => Sys2Proof.Machine.execReadPortCounters q s
  | .setRoute q => Sys2Proof.Machine.execSetRoute q s
  | .unassignedRequest q => Sys2Proof.Machine.execUnassignedRequest q s
  | .moduleReset => Sys2Proof.Machine.execModuleReset s
  | .measuredBoot img0 img1 => Sys2Proof.Machine.execMeasuredBoot img0 img1 s
  | .bringUp badStacks badUnits => Sys2Proof.Machine.execBringUp badStacks badUnits s
  | .powerCap watts => Sys2Proof.Machine.execPowerCap watts s
  | .powerCapEnd watts => Sys2Proof.Machine.execPowerCapEnd watts s
  | .thermalThrottle tdie tstk => Sys2Proof.Machine.execThermalThrottle tdie tstk s
  | .thermalShutdown tdie tstk => Sys2Proof.Machine.execThermalShutdown tdie tstk s
  | .thermalThrottleEnd tdie tstk => Sys2Proof.Machine.execThermalThrottleEnd tdie tstk s
  | .lossOfPower => Sys2Proof.Machine.execLossOfPower s
  | .flitCrcFailure p seq => Sys2Proof.Machine.execFlitCrcFailure p seq s
  | .hostLinkTrained => Sys2Proof.Machine.execHostLinkTrained s
  | .unofferedSyscService d i => Sys2Proof.Machine.execUnofferedSyscService d i s

end Sys2Proof.Machine
end

