-- ==== Sys2Proof/Machine/Environment.lean ====
section
/-! DEFINITION. The choices of the environment that are no row of the table: the pace of a strand (02: R45; 08: R144; 12: R221; 13: R230),
and what the world outside a core does (25: R340, R351; 26: R357, R362; 29: R389 to R392). -/

namespace Sys2Proof.Machine

/-- From now on the environment sets the pace of a strand: of its vector side, and of the stores that it has accepted. -/
def State.setPace (s : State) (k : Nat) (behind late : Bool) : State :=
  if (s.strand k).stat = .absent then s else s.modStrand k fun t => { t with runAhead := behind, lateOn := late }

/-- Store number n of those a strand has accepted performs, unless an older one to a byte of it has not (R230). -/
def State.performLate (s : State) (k n : Nat) : State :=
  let t := s.strand k
  match t.late[n]? with
  | none => s
  | some p =>
    if (t.late.take n).any fun q => q.1.any p.1.contains then s
    else (s.modStrand k fun x => { x with late := x.late.eraseIdx n }).storeNow { slot := k, ctx := t.ctx, cache := coreOf k } p.1 p.2

/-- The head entry of a slot goes on to the boundary of an element group (R45, R144). -/
def State.partOf (s : State) (k n : Nat) : State := ((s.focus k).partHead n).focus s.slot

/-- A copy goes on and stays in flight (R221); the copies of a halted strand wait (R348). -/
def State.transfer (s : State) (k n m : Nat) : State := if s.bgLive k Strand.hasCopy then s.moveCopy k n m else s

/-- A unit will fail its next zero-check (R351). -/
def State.unitFails (s : State) (u : ScrubUnit) : State := { s with pkg := { s.pkg with failing := u :: s.pkg.failing } }

/-- What the environment does, rows of the table and the moves of strands left out: these stand in the step. -/
def State.act (s : State) (i : Input) : State :=
  match i with
  | .pace k behind late => s.setPace k behind late
  | .perform k n => s.performLate k n
  | .part k n => s.partOf k n
  | .transfer k n m => s.transfer k n m
  | .service k entry text => s.startService k entry text
  | .hamadaStart => s.startHamada
  | .nvmeWrite n => s.writeNvme n
  | .wire p x => s.wireArrives p.val x
  | .unitFails u => s.unitFails u
  | .hostRead off => s.hostReadsBar off
  | .imageDamaged c n => s.damageImage c n.val
  | .row _ | .strand _ | .passed _ => s

end Sys2Proof.Machine
end

