-- ==== Sys2Proof/Machine/Step.lean ====
section
/-! DEFINITION. One step of the machine, and where its next instruction is fetched from. -/

namespace Sys2Proof.Machine

/-- Runs what the fetch gives. -/
noncomputable def runFetched : Fetched → Host.Outcome State Fault Refusal
  | .done s => .next s
  | .run i s => exec i s

/-- A row of the table that the environment chooses. A row that has a word comes only through a fetch. A request that has to wait
is kept (R269, R343). -/
noncomputable def runRow (i : Instr) (s : State) : Host.Outcome State Fault Refusal :=
  if !isEvent i then .next s
  else
    let s1 := if Instr.settlesAll i then s.flushAll else s
    if s1.waitsTurn i then .next { s1 with held := s1.held ++ [.row i] } else exec i s1

/-- ONE STEP. Time passes; then a step of the Oasis kernel that has waited goes on, or the environment's next input acts, or the
strand that moves fetches and executes its next instruction. -/
noncomputable def step (s : State) : Host.Outcome State Fault Refusal :=
  let s0 := s.tick
  match s0.nextHeld [] s0.held with
  | some (.row i, rest) => exec i { s0 with held := rest }.flushAll
  | some (h, rest) => .next ({ s0 with held := rest }.finishHeld h)
  | none =>
    match s0.inputs with
    | [] => runFetched s0.fetchNext
    | .strand k :: rest => runFetched (({ s0 with inputs := rest }).focus k).fetchNext
    | .passed k :: rest => runFetched ({ ({ s0 with inputs := rest }).focus k with passed := true }).fetchNext
    | .row i :: rest => runRow i { s0 with inputs := rest }
    | i :: rest => .next ({ s0 with inputs := rest }.act i)

/-- A state whose next step fetches and executes the instruction with these bits: the environment supplies nothing first,
the strand that moves is running and waits for nothing, its context may execute the page of its pc, and the line of its pc
in the L1 instruction cache of its core holds the word. -/
def State.withFetchWord (s : State) (nbits w : Nat) : State := s.placeWord (BitVec.ofNat 32 (w % 2 ^ nbits))

end Sys2Proof.Machine
end

