-- ==== Sys2Proof/Safety.lean ====
section
/-! DEFINITION. What counts as a safe run, and the terms the statements are made of: frames, the values the rules of the
spec give, and the conditions under which a form runs. The values are written from the spec's tables with exact integers;
where an operation of the model says a table of the spec already (a walk, the fields of a descriptor, a rounding), the
statements use that operation. -/

namespace Sys2Proof.Safety

open Sys2Proof.Machine

/-- The machine never ends: every answer of a run of k steps is a next state. The one way to end is an event that names
no memory (Fault.noSuchPhysicalAddress). -/
def RunsOn (s : State) (k : Nat) : Prop := ∃ t, Host.Core.run Sys2Proof.core k s = .next t

/-! ### Frames -/

/-- Every byte of memory reads as before. -/
def SameMemory (s t : State) : Prop := ∀ a, Memory.get t.mem a = Memory.get s.mem a

/-- Every byte of memory outside the places ls reads as before. -/
def SameOutside (ls : List Nat) (s t : State) : Prop := ∀ a, a ∉ ls → Memory.get t.mem a = Memory.get s.mem a

/-- The strand has moved past one instruction: the next word, no payload waiting, the next clause position (R66, R68,
R71). -/
def Passed (s t : State) : Prop :=
  t.st.pc = s.st.pc + 4 ∧ t.st.pfx = none ∧ t.st.pfxLive = false ∧
  (t.st.clause.map fun c => (c.pos, c.len, c.cnt)) =
    s.st.clause.bind fun c => if c.len ≤ c.pos then none else some (c.pos + 1, c.len, c.cnt)

/-- The strand goes on at an address; a clause has ended (R71). -/
def WentTo (s t : State) (pc : BitVec 56) : Prop :=
  t.st.pc = pc ∧ t.st.pfx = none ∧ t.st.pfxLive = false ∧ t.st.clause = none ∧
  t = { s with st := { s.st with regs := t.st.regs, pc := pc, pfx := none, pfxLive := false, clause := none } }

/-- The scalar registers after a write of v to register d: s0 reads zero and discards the write (R96). -/
def Wrote (s t : State) (d : SReg) (v : Word) : Prop :=
  t.st.reg d = (if d = 0 then 0 else v) ∧ ∀ r, r ≠ d → t.st.reg r = s.st.reg r

/-- Nothing has changed but the scalar registers and the place of the strand in its program: no flag, no control register,
no memory, no other strand. -/
def OnlyRegs (s t : State) : Prop :=
  t = { s with st := { s.st with
    regs := t.st.regs, pc := t.st.pc, pfx := t.st.pfx, pfxLive := t.st.pfxLive, clause := t.st.clause } }

/-- A scalar instruction that writes v to d and nothing else. -/
def ScalarResult (s t : State) (d : SReg) (v : Word) : Prop :=
  Wrote s t d v ∧ Passed s t ∧ OnlyRegs s t ∧ SameMemory s t

/-- As OnlyRegs, but the flags c have been set in XFLAGS. -/
def OnlyRegsFlags (s t : State) (c : BitVec 6) : Prop :=
  t = { s with st := { s.st with
    regs := t.st.regs, pc := t.st.pc, pfx := t.st.pfx, pfxLive := t.st.pfxLive, clause := t.st.clause,
    csr := { s.st.csr with xflags := s.st.csr.xflags ||| c } } }

/-- A scalar instruction that writes v to d and sets the classes c in XFLAGS. -/
def FloatResult (s t : State) (d : SReg) (v : Word) (c : BitVec 6) : Prop :=
  Wrote s t d v ∧ Passed s t ∧ OnlyRegsFlags s t c ∧ SameMemory s t

/-- As OnlyRegs, but the caches (which no result depends on) and memory may differ too. -/
def OnlyRegsMem (s t : State) : Prop :=
  t = { s with mem := t.mem, caches := t.caches, st := { s.st with
    regs := t.st.regs, pc := t.st.pc, pfx := t.st.pfx, pfxLive := t.st.pfxLive, clause := t.st.clause } }

/-- The bytes of v, least significant first, stand at the places ls. -/
def Holds (t : State) (ls : List Nat) (v : Nat) : Prop :=
  ∀ i, i < ls.length → Memory.get t.mem (ls.getD i 0) = BitVec.ofNat 8 (v / 256 ^ i)

/-- VSTART of a strand whose scalar side traps: that of a head entry that has completed elements names the first that is not
complete (R45, R144). -/
def vstartStopped (t : Strand) : BitVec 20 :=
  if t.prog = 0 ∨ t.queue = [] then t.csr.vstart else BitVec.ofNat 20 t.prog

/-- The strand's trap has been delivered to its handler (R41, R42): nothing else of the machine changes, but that a QPOP
that was parked leaves the order of the parked ones, and that a head entry stops at its element group. -/
def Delivered (s t : State) (cause : Nat) (tval : Word) : Prop :=
  t.st.trap = { s.st.trap with
    tpc := s.st.pc, code := BitVec.ofNat 8 cause, vec := false, inh := true, tval := tval, tstat := s.st.tstatNow,
    tinst := s.st.ir.setWidth 59, tqa := 0, tqb := 0, tqc := 0, tqd := 0 } ∧
  t = { s with queues := t.queues, st := { s.st with
    trap := t.st.trap, pc := s.st.trap.tvec, pfx := none, pfxLive := false, clause := none, park := .none, prog := 0,
    csr := { s.st.csr with vstart := vstartStopped s.st } } } ∧
  (s.st.park ≠ .qpop → t.queues = s.queues) ∧ SameMemory s t

/-- The strand has a handler and is not inside it. -/
def HasHandler (s : State) : Prop := s.st.trap.inh = false ∧ s.st.trap.tvec ≠ 0

/-! ### Values of scalar forms -/

/-- The immediate of a field of n bits with its payload (R66): the payload gives the high bits, and the whole is
sign-extended. -/
def immOf (t : Strand) (n : Nat) (f : BitVec n) : Word :=
  match t.pfx with
  | none => f.signExtend 64
  | some p => (p ++ f).signExtend 64

/-- R97 with integers: the value of an operation on two registers. -/
def op2 (i : Instr) (x y : Word) : Option Word :=
  match i with
  | .add _ _ _ => some (BitVec.ofInt 64 (x.toInt + y.toInt))
  | .sub _ _ _ => some (BitVec.ofInt 64 (x.toInt - y.toInt))
  | .and _ _ _ => some (x &&& y)
  | .or _ _ _ => some (x ||| y)
  | .xor _ _ _ => some (x ^^^ y)
  | .sll _ _ _ => some (BitVec.ofNat 64 (x.toNat * 2 ^ (y.toNat % 64)))
  | .srl _ _ _ => some (BitVec.ofNat 64 (x.toNat / 2 ^ (y.toNat % 64)))
  | .sra _ _ _ => some (BitVec.ofInt 64 (x.toInt / 2 ^ (y.toNat % 64)))
  | .slt _ _ _ => some (if x.toInt < y.toInt then 1 else 0)
  | .sltn _ _ _ => some (if x.toNat < y.toNat then 1 else 0)
  | .min _ _ _ => some (if x.toInt ≤ y.toInt then x else y)
  | .max _ _ _ => some (if y.toInt ≤ x.toInt then x else y)
  | .minn _ _ _ => some (if x.toNat ≤ y.toNat then x else y)
  | .maxn _ _ _ => some (if y.toNat ≤ x.toNat then x else y)
  | .mul _ _ _ => some (BitVec.ofNat 64 (x.toNat * y.toNat))
  | .mulh _ _ _ => some (BitVec.ofInt 64 (x.toInt * y.toInt / 2 ^ 64))
  | .mulhn _ _ _ => some (BitVec.ofNat 64 (x.toNat * y.toNat / 2 ^ 64))
  | .div _ _ _ => some (if y = 0 then BitVec.allOnes 64 else BitVec.ofInt 64 (x.toInt.tdiv y.toInt))
  | .divn _ _ _ => some (if y = 0 then BitVec.allOnes 64 else BitVec.ofNat 64 (x.toNat / y.toNat))
  | .rem _ _ _ => some (if y = 0 then x else BitVec.ofInt 64 (x.toInt - y.toInt * x.toInt.tdiv y.toInt))
  | .remn _ _ _ => some (if y = 0 then x else BitVec.ofNat 64 (x.toNat - y.toNat * (x.toNat / y.toNat)))
  | _ => none

/-- The registers of the same forms: destination and the two sources. -/
def regs3 : Instr → Option (SReg × SReg × SReg)
  | .add d a b | .sub d a b | .and d a b | .or d a b | .xor d a b | .sll d a b | .srl d a b | .sra d a b | .slt d a b
  | .sltn d a b | .min d a b | .max d a b | .minn d a b | .maxn d a b | .mul d a b | .mulh d a b | .mulhn d a b
  | .div d a b | .divn d a b | .rem d a b | .remn d a b => some (d, a, b)
  | _ => none

/-- R99 and R100: destination and value of the immediate forms. -/
def immResult (i : Instr) (s : State) : Option (SReg × Word) :=
  match i with
  | .addImm d a f => some (d, BitVec.ofInt 64 ((s.r a).toInt + (immOf s.st 16 f).toInt))
  | .andImm d a f => some (d, s.r a &&& immOf s.st 13 f)
  | .orImm d a f => some (d, s.r a ||| immOf s.st 13 f)
  | .xorImm d a f => some (d, s.r a ^^^ immOf s.st 13 f)
  | .sltImm d a f => some (d, if (s.r a).toInt < (immOf s.st 13 f).toInt then 1 else 0)
  | .sltnImm d a f => some (d, if (s.r a).toNat < (immOf s.st 13 f).toNat then 1 else 0)
  | .sllImm d a f => some (d, BitVec.ofNat 64 ((s.r a).toNat * 2 ^ f.toNat))
  | .srlImm d a f => some (d, BitVec.ofNat 64 ((s.r a).toNat / 2 ^ f.toNat))
  | .sraImm d a f => some (d, BitVec.ofInt 64 ((s.r a).toInt / 2 ^ f.toNat))
  | .minImm d a f => some (d, if (s.r a).toInt ≤ (immOf s.st 12 f).toInt then s.r a else immOf s.st 12 f)
  | .maxImm d a f => some (d, if (immOf s.st 12 f).toInt ≤ (s.r a).toInt then s.r a else immOf s.st 12 f)
  | .minnImm d a f => some (d, if (s.r a).toNat ≤ (immOf s.st 12 f).toNat then s.r a else immOf s.st 12 f)
  | .maxnImm d a f => some (d, if (immOf s.st 12 f).toNat ≤ (s.r a).toNat then s.r a else immOf s.st 12 f)
  | .lih d f => some (d, BitVec.ofInt 64 (f.toInt * 2 ^ 16))
  | _ => none

/-- The condition of a branch, with the compared registers and the offset (R105). -/
def branchOf (i : Instr) (s : State) : Option (Prop × BitVec 13) :=
  match i with
  | .beq d a f => some (s.r d = s.r a, f)
  | .bne d a f => some (s.r d ≠ s.r a, f)
  | .blt d a f => some ((s.r d).toInt < (s.r a).toInt, f)
  | .bge d a f => some ((s.r a).toInt ≤ (s.r d).toInt, f)
  | .bltn d a f => some ((s.r d).toNat < (s.r a).toNat, f)
  | .bgen d a f => some ((s.r a).toNat ≤ (s.r d).toNat, f)
  | _ => none

/-- The address of the branch plus 4 times a word offset (R105), in the 56 bits of a program counter. -/
def targetOf (s : State) (off : Word) : BitVec 56 := BitVec.ofInt 56 ((s.st.pc.toNat : Int) + 4 * off.toInt)

/-- R103: the new value of memory under an AMO, from the old one and sa at width w. -/
def amoNew (i : Instr) (w : Nat) (old a : BitVec w) : Option (BitVec w) :=
  match i with
  | .amoSwap _ _ _ _ _ => some a
  | .amoAdd _ _ _ _ _ => some (old + a)
  | .amoAnd _ _ _ _ _ => some (old &&& a)
  | .amoOr _ _ _ _ _ => some (old ||| a)
  | .amoXor _ _ _ _ _ => some (old ^^^ a)
  | .amoMin _ _ _ _ _ => some (if a.toInt < old.toInt then a else old)
  | .amoMax _ _ _ _ _ => some (if old.toInt < a.toInt then a else old)
  | _ => none

/-- Registers and width of an AMO: sd, sa, sb, W. -/
def amoRegs : Instr → Option (SReg × SReg × SReg × MW)
  | .amoSwap d a b _ w | .amoAdd d a b _ w | .amoAnd d a b _ w | .amoOr d a b _ w | .amoXor d a b _ w
  | .amoMin d a b _ w | .amoMax d a b _ w => some (d, a, b, w)
  | _ => none

/-- R108, R109 and R111: destination, value and classes of a scalar floating form. -/
def floatOf (i : Instr) (s : State) : Option (SReg × Word × BitVec 6) :=
  let x := fun r => FP.f32.val (s.f32 r)
  let rnd := fun (p : Val × Cls) => (FP.f32.round s.st.frmNow p.1).1
  let cls := fun (p : Val × Cls) => p.2 ||| (FP.f32.round s.st.frmNow p.1).2
  let out := fun (d : SReg) (p : Val × Cls) => some (d, boxed 32 (rnd p), cls p)
  match i with
  | .fadd d a b => out d ((x a).add s.st.frmNow (x b))
  | .fsub d a b => out d ((x a).add s.st.frmNow (x b).negate)
  | .fmul d a b => out d ((x a).mul (x b))
  | .fdiv d a b => out d ((x a).div (x b))
  | .fsqrt d a => out d (x a).sqrt
  | .fma d a b c => out d (Val.fma s.st.frmNow (x a) (x b) (x c))
  | .fmin d a b => some (d, boxed 32 (FP.f32.fmin (s.f32 a) (s.f32 b)).1, (FP.f32.fmin (s.f32 a) (s.f32 b)).2)
  | .fmax d a b => some (d, boxed 32 (FP.f32.fmax (s.f32 a) (s.f32 b)).1, (FP.f32.fmax (s.f32 a) (s.f32 b)).2)
  | .fclass d a => some (d, BitVec.ofNat 64 (FP.f32.fclass (s.f32 a)), 0)
  | .fcmpEq d a b => some (d, if (FP.f32.cmp .eq (s.f32 a) (s.f32 b)).1 then 1 else 0, (FP.f32.cmp .eq (s.f32 a) (s.f32 b)).2)
  | .fcmpLt d a b => some (d, if (FP.f32.cmp .lt (s.f32 a) (s.f32 b)).1 then 1 else 0, (FP.f32.cmp .lt (s.f32 a) (s.f32 b)).2)
  | .fcmpLe d a b => some (d, if (FP.f32.cmp .le (s.f32 a) (s.f32 b)).1 then 1 else 0, (FP.f32.cmp .le (s.f32 a) (s.f32 b)).2)
  | .fcvt d a u t =>
    let y := cvtElem u.elem t.elem s.st.frmNow (XM.ofCode s.st.csr.fxrm.toNat) ((s.r a).toNat % 2 ^ u.elem.bits)
    some (d, SFT.place t y.1, y.2)
  | _ => none

/-- The mode of class i in XACT (R32): 0 flag, 1 trim, 2 trap. -/
def mode (s : State) (i : Nat) : Nat := s.st.csr.xact.toNat / 4 ^ i % 4

/-- No class of a set is in trap mode. -/
def NoTrap (s : State) (c : BitVec 6) : Prop := ∀ i, i < 6 → c.getLsbD i = true → mode s i ≠ 2

/-! ### Control registers -/

/-- What a write of v leaves in a control register that held old (R32, R41, R70, R72, R82, R286). -/
def csrAfter (c : Csr) (old v : Word) : Word :=
  match c with
  | .vstart => BitVec.ofNat 64 (v.toNat % 2 ^ 20)
  | .xflags => BitVec.ofNat 64 (v.toNat % 2 ^ 6)
  | .frm => if v.toNat % 8 ≤ 4 then BitVec.ofNat 64 (v.toNat % 8) else old
  | .fxrm => BitVec.ofNat 64 (v.toNat % 4)
  | .chkstall => BitVec.ofNat 64 (v.toNat % 2)
  | .lanew => if v.toNat % 16 = 0 then old else BitVec.ofNat 64 (v.toNat % 16)
  | .tvec => BitVec.ofNat 64 (v.toNat % 2 ^ 56 / 4 * 4)
  | .tpc => BitVec.ofNat 64 (v.toNat % 2 ^ 56)
  | .tstat => BitVec.ofNat 64 (v.toNat % 2 ^ 54)
  | _ => old

/-- R101, R103: effective address, size in bytes and kind of a scalar access. -/
def accessOf (i : Instr) (s : State) : Option (Word × Nat × Acc) :=
  let at14 := fun (a : SReg) (f : BitVec 14) => BitVec.ofInt 64 ((s.r a).toInt + (immOf s.st 14 f).toInt)
  let at0 := fun (b : SReg) => BitVec.ofInt 64 ((s.r b).toInt + (immOf s.st 0 (0 : BitVec 0)).toInt)
  match i with
  | .ld _ a w f => some (at14 a f, w.bytes, .read)
  | .ldn _ a w f => some (at14 a f, w.bytes, .read)
  | .st _ a w f => some (at14 a f, w.bytes, .write)
  | .amoSwap _ _ b _ w | .amoAdd _ _ b _ w | .amoAnd _ _ b _ w | .amoOr _ _ b _ w | .amoXor _ _ b _ w
  | .amoMin _ _ b _ w | .amoMax _ _ b _ w | .cas _ _ b _ w => some (at0 b, w.bits / 8, .rw)
  | _ => none

/-- R112: register and new value of a write form. -/
def csrWriteOf (i : Instr) (s : State) : Option (Csr × Word) :=
  match i with
  | .csrw a n => some (n, s.r a)
  | .csrs a n => some (n, s.csrVal n ||| s.r a)
  | .csrc a n => some (n, s.csrVal n &&& ~~~s.r a)
  | .vstartWrite a => some (.vstart, s.r a)
  | .xflagsWrite a => some (.xflags, s.r a)
  | _ => none

/-- R18, R121: 0, or the cause an access of a kind to a byte would raise by what the tables say; in a window its offset alone
decides. -/
def probeOf (s : State) (ea : Nat) (k : PKind) : Nat :=
  let perm := match k with | .r => ptePerm | .w => fun e => ptePerm e / 2 | .x => fun e => ptePerm e / 4
  let window := fun (size : Nat) => if ea % 2 ^ 56 < size then 0 else 4
  match ea / 2 ^ 56 with
  | 0xFE => window Config.spadBytes
  | 0xFD => window Config.clusterBytes
  | 0xFC => window (match s.ctx? s.st.ctx with | some c => c.grants[dieOf s.slot % 4].2 * Config.plateBytes | none => 0)
  | 0 => match (s.walkIn s.st.ctx ea).1 with
    | .leaf e _ => if pteSt e ≠ 0 then 8 else if perm e % 2 = 1 ∧ pteQ e = false then 0 else 9
    | _ => 8
  | _ => 5

/-- R124, R125: the length granted for an AVL. -/
def grantOf (vlm : Nat) (w : EW) (avl : Nat) : Nat :=
  if w = .e6 ∧ 4 ≤ min avl vlm then min avl vlm / 4 * 4 else min avl vlm

/-! ### When nothing is waited for -/

/-- Nothing of the strand that moves is under way besides the instruction: it runs, not in a handler and not parked, its queue
and its waiting reads are empty, no copy, command, pushed word or accepted store is left, and nothing else of its slot is left;
the environment lets the vector side go on at once. -/
def Quiet (s : State) : Prop :=
  s.st.stat = .running ∧ s.st.trap.inh = false ∧ s.st.park = .none ∧ s.st.queue = [] ∧ s.st.sync = [] ∧ s.st.copies = [] ∧
  s.st.cmds = [] ∧ s.st.colls = [] ∧ (∀ n : Fin 16, s.st.streams[n].fifo = []) ∧ (∀ p ∈ s.ending, p.1 ≠ s.slot) ∧
  s.st.late = [] ∧ s.st.prog = 0 ∧ s.st.goal = 0 ∧ s.st.runAhead = false

/-- No store that the strand has accepted and that has not performed writes a byte of these places (R230). -/
def NoneLate (s : State) (ls : List Nat) : Prop := ∀ p ∈ s.st.late, ∀ l ∈ p.1, l ∉ ls

/-! ### Vector-stream forms -/

/-- The length a new entry executes (R33): VL of the current grant under its trim limit. It never exceeds VLMAX (R124). -/
def Granted (s : State) : Prop := s.st.vlNow ≤ vlmax s.st.grant.vtype

/-- A number of w bits as a signed value. -/
def signedOf (w x : Nat) : Int := if x < 2 ^ (w - 1) then x else (x : Int) - 2 ^ w

/-- An integer modulo 2^w. -/
def modulo (w : Nat) (z : Int) : Nat := (z % 2 ^ w).toNat

/-- sat(z, iW) with the class SAT (R85). -/
def satTo (w : Nat) (z : Int) : Nat × BitVec 6 :=
  if z < -(2 ^ (w - 1)) then (modulo w (-(2 ^ (w - 1))), 32)
  else if 2 ^ (w - 1) - 1 < z then (modulo w (2 ^ (w - 1) - 1), 32)
  else (modulo w z, 0)

/-- R132: result element and classes from a, b and d of w bits. -/
def intOp (i : Instr) (w x y d : Nat) : Option (Nat × BitVec 6) :=
  match i with
  | .vadd .. | .vaddVx .. => some (modulo w (x + y), 0)
  | .vsub .. | .vsubVx .. => some (modulo w (x - y), 0)
  | .vrsub .. | .vrsubVx .. => some (modulo w (y - x), 0)
  | .vmul .. | .vmulVx .. => some (modulo w (x * y), 0)
  | .vmulh .. | .vmulhVx .. => some (modulo w (signedOf w x * signedOf w y / 2 ^ w), 0)
  | .vmacc .. | .vmaccVx .. => some (satTo w (signedOf w d + signedOf w x * signedOf w y))
  | .vmerge .. | .vmergeVx .. => some (if d ≠ 0 then x else y, 0)
  | .vand .. | .vandVx .. => some (x &&& y, 0)
  | .vor .. | .vorVx .. => some (x ||| y, 0)
  | .vxor .. | .vxorVx .. => some (x ^^^ y, 0)
  | .vsll .. | .vsllVx .. => some (modulo w (x * 2 ^ (y % w)), 0)
  | .vsrl .. | .vsrlVx .. => some (x / 2 ^ (y % w), 0)
  | .vsra .. | .vsraVx .. => some (modulo w (signedOf w x / 2 ^ (y % w)), 0)
  | .vmin .. | .vminVx .. => some (if signedOf w x ≤ signedOf w y then x else y, 0)
  | .vmax .. | .vmaxVx .. => some (if signedOf w y ≤ signedOf w x then x else y, 0)
  | .vminn .. | .vminnVx .. => some (min x y, 0)
  | .vmaxn .. | .vmaxnVx .. => some (max x y, 0)
  | .vsadd .. | .vsaddVx .. => some (satTo w (signedOf w x + signedOf w y))
  | .vssub .. | .vssubVx .. => some (satTo w (signedOf w x - signedOf w y))
  | .vdiv .. | .vdivVx .. =>
    some (if y = 0 then (2 ^ w - 1, 2)
      else if signedOf w x = -(2 ^ (w - 1)) ∧ signedOf w y = -1 then (2 ^ (w - 1) - 1, 32)
      else (modulo w ((signedOf w x).tdiv (signedOf w y)), 0))
  | .vrem .. | .vremVx .. =>
    some (if y = 0 then (x, 2)
      else (modulo w (signedOf w x - signedOf w y * (signedOf w x).tdiv (signedOf w y)), 0))
  | _ => none

/-- Fields of an integer form of one width: vd, va, the b operand (a register, or a scalar), mN, `.xmN` and W. -/
def intFields : Instr → Option (VReg × VReg × (VReg ⊕ SReg) × MReg × MReg × Nat)
  | .vadd d a b m w | .vsub d a b m w | .vrsub d a b m w | .vmul d a b m w | .vmulh d a b m w | .vmerge d a b m w
  | .vand d a b m w | .vor d a b m w | .vxor d a b m w | .vsll d a b m w | .vsrl d a b m w | .vsra d a b m w
  | .vmin d a b m w | .vmax d a b m w | .vminn d a b m w | .vmaxn d a b m w => some (d, a, .inl b, m, 0, w.bits)
  | .vmacc d a b m x w | .vsadd d a b m x w | .vssub d a b m x w | .vdiv d a b m x w | .vrem d a b m x w =>
    some (d, a, .inl b, m, x, w.bits)
  | .vaddVx d a b m w | .vsubVx d a b m w | .vrsubVx d a b m w | .vmulVx d a b m w | .vmulhVx d a b m w
  | .vmergeVx d a b m w | .vandVx d a b m w | .vorVx d a b m w | .vxorVx d a b m w | .vsllVx d a b m w
  | .vsrlVx d a b m w | .vsraVx d a b m w | .vminVx d a b m w | .vmaxVx d a b m w | .vminnVx d a b m w
  | .vmaxnVx d a b m w => some (d, a, .inr b, m, 0, w.bits)
  | .vmaccVx d a b m x w | .vsaddVx d a b m x w | .vssubVx d a b m x w | .vdivVx d a b m x w | .vremVx d a b m x w =>
    some (d, a, .inr b, m, x, w.bits)
  | _ => none

/-- An element-wise form at a state (R130): destination and its element width; whether its operand groups are legal and
overlap as R143 allows; its execution mask and `.xmN`; where it starts; value and classes of element k. -/
structure ElemForm where
  d : VReg
  w : Nat
  legal : Bool
  m : MReg
  xm : MReg
  start : Nat
  val : Nat → Nat × BitVec 6

/-- Element k of the group at v as the entry finds it. -/
def el (s : State) (v : VReg) (k w : Nat) : Nat := s.st.vec.elem v.val k w

/-- The b operand of an element-wise form: element k, or the low w bits of the captured scalar. -/
def bOf (s : State) (b : VReg ⊕ SReg) (k w : Nat) : Nat :=
  match b with
  | .inl v => el s v k w
  | .inr r => (s.r r).toNat % 2 ^ w

/-- The legality of a destination and its sources, each with its width (R123, R143, R37). -/
def legalOps (s : State) (i : Instr) (d : VReg) (w : Nat) (srcs : List (VReg × Nat)) (exact : Bool) (m xm : MReg) : Bool :=
  let e := s.entry i
  (e.group d w).ok && srcs.all (fun x => (e.group x.1 x.2).ok && (e.group x.1 x.2).overlapOk (e.group d w) exact)
    && (xm == 0 || xm != m)

/-- The register sources of a b operand. -/
def bSrc (b : VReg ⊕ SReg) (w : Nat) : List (VReg × Nat) := match b with | .inl v => [(v, w)] | .inr _ => []

/-- The integer forms (R132). -/
def intForm (i : Instr) (s : State) : Option ElemForm :=
  let plain := (intFields i).map fun f =>
    { d := f.1, w := f.2.2.2.2.2,
      legal := legalOps s i f.1 f.2.2.2.2.2 ((f.2.1, f.2.2.2.2.2) :: bSrc f.2.2.1 f.2.2.2.2.2) true f.2.2.2.1 f.2.2.2.2.1,
      m := f.2.2.2.1, xm := f.2.2.2.2.1, start := s.st.csr.vstart.toNat,
      val := fun k => (intOp i f.2.2.2.2.2 (el s f.2.1 k f.2.2.2.2.2) (bOf s f.2.2.1 k f.2.2.2.2.2)
        (el s f.1 k f.2.2.2.2.2)).getD (0, 0) }
  let wide := fun (d a : VReg) (b : VReg ⊕ SReg) (m : MReg) (w : Nat) => some
    { d := d, w := 2 * w, legal := legalOps s i d (2 * w) ((a, w) :: bSrc b w) true m 0, m := m, xm := 0,
      start := s.st.csr.vstart.toNat,
      val := fun k => (modulo (2 * w) (el s d k (2 * w) + signedOf w (el s a k w) * signedOf w (bOf s b k w)), 0) }
  let narrow := fun (d a : VReg) (b : VReg ⊕ SReg) (m x : MReg) (w : Nat) => some
    { d := d, w := w, legal := legalOps s i d w ((a, 2 * w) :: bSrc b w) true m x, m := m, xm := x,
      start := s.st.csr.vstart.toNat,
      val := fun k =>
        let r := fxRound (s.entry i).xm (signedOf (2 * w) (el s a k (2 * w))) (bOf s b k w % (2 * w))
        ((satTo w r.1).1, r.2 ||| (satTo w r.1).2) }
  match i with
  | .vwmacc d a b m w => wide d a (.inl b) m w.bits
  | .vwmaccVx d a b m w => wide d a (.inr b) m w.bits
  | .vnsra d a b m x w => narrow d a (.inl b) m x w.bits
  | .vnsraVx d a b m x w => narrow d a (.inr b) m x w.bits
  | _ => plain

/-- R133 and R134: result and classes from a, b and d in the format of a floating form. -/
def floatOp (i : Instr) (f : FP) (rm : RM) (x y d : Nat) : Option (Nat × BitVec 6) :=
  let rnd := fun (p : Val × Cls) => some ((f.round rm p.1).1, p.2 ||| (f.round rm p.1).2)
  match i with
  | .vfadd .. | .vfaddVx .. => rnd ((f.val x).add rm (f.val y))
  | .vfsub .. | .vfsubVx .. => rnd ((f.val x).add rm (f.val y).negate)
  | .vfmul .. | .vfmulVx .. => rnd ((f.val x).mul (f.val y))
  | .vfdiv .. | .vfdivVx .. => rnd ((f.val x).div (f.val y))
  | .vfmin .. | .vfminVx .. => some (f.fmin x y)
  | .vfmax .. | .vfmaxVx .. => some (f.fmax x y)
  | .vfma .. | .vfmaVx .. => rnd (Val.fma rm (f.val x) (f.val y) (f.val d))
  | .vfnma .. | .vfnmaVx .. => rnd (Val.fma rm (f.val x).negate (f.val y) (f.val d))
  | .vfsqrt .. => rnd (f.val x).sqrt
  | .vfclass .. => some (f.fclass x, 0)
  | .vfrece .. => some (f.special .rece x)
  | .vfrsqe .. => some (f.special .rsqe x)
  | .vfexp2 .. => some (f.special .exp2 x)
  | .vflog2 .. => some (f.special .log2 x)
  | .vftanh .. => some (f.special .tanh x)
  | .vfsigm .. => some (f.special .sigm x)
  | _ => none

/-- Fields of a floating form; the b operand of a form over a alone is a itself. -/
def floatFields : Instr → Option (VReg × VReg × (VReg ⊕ SReg) × MReg × MReg × FF)
  | .vfadd d a b m x f | .vfsub d a b m x f | .vfmul d a b m x f | .vfdiv d a b m x f | .vfmin d a b m x f
  | .vfmax d a b m x f | .vfma d a b m x f | .vfnma d a b m x f => some (d, a, .inl b, m, x, f)
  | .vfaddVx d a b m x f | .vfsubVx d a b m x f | .vfmulVx d a b m x f | .vfdivVx d a b m x f | .vfminVx d a b m x f
  | .vfmaxVx d a b m x f | .vfmaVx d a b m x f | .vfnmaVx d a b m x f => some (d, a, .inr b, m, x, f)
  | .vfsqrt d a m x f | .vfrece d a m x f | .vfrsqe d a m x f | .vfexp2 d a m x f | .vflog2 d a m x f
  | .vftanh d a m x f | .vfsigm d a m x f => some (d, a, .inl a, m, x, f)
  | .vfclass d a m f => some (d, a, .inl a, m, 0, f)
  | _ => none

/-- The floating forms (R133, R134). -/
def floatForm (i : Instr) (s : State) : Option ElemForm :=
  (floatFields i).map fun f =>
    let g := f.2.2.2.2.2
    { d := f.1, w := g.bits,
      legal := legalOps s i f.1 g.bits ((f.2.1, g.bits) :: bSrc f.2.2.1 g.bits) true f.2.2.2.1 f.2.2.2.2.1,
      m := f.2.2.2.1, xm := f.2.2.2.2.1, start := s.st.csr.vstart.toNat,
      val := fun k => (floatOp i g.fp (s.entry i).rm (el s f.2.1 k g.bits) (bOf s f.2.2.1 k g.bits)
        (el s f.1 k g.bits)).getD (0, 0) }

/-- Whether the mask lets element k execute; m0 lets every one (R37). -/
def allows (s : State) (m : MReg) (k : Nat) : Bool := m == 0 || s.st.vec.m[m].getLsbD k

/-- The elements below k of the mask that are set. -/
def setBelow (s : State) (m : MReg) (k : Nat) : Nat := (List.range k).countP fun j => allows s m j

/-- Conversions, packing and permutations (R135, R136, R139, R146, R148, R149, R151). The forms of majors 0x26 and 0x28
take the width of VTYPE. -/
def moveForm (i : Instr) (s : State) : Option ElemForm :=
  let vs := s.st.csr.vstart.toNat
  let e := s.entry i
  let gw := grantWidth s.st.grant.vtype
  let form := fun (d : VReg) (w : Nat) (srcs : List (VReg × Nat)) (exact : Bool) (m xm : MReg) (ok : Bool)
      (val : Nat → Nat × BitVec 6) => some
    { d := d, w := w, legal := legalOps s i d w srcs exact m xm && ok, m := m, xm := xm, start := vs, val := val }
  match i with
  | .vcvt d a u m x t => form d t.bits [(a, u.bits)] true m x true fun k => cvtElem u t e.rm e.xm (el s a k u.bits)
  | .vpack d a c m => form d c.bits [(a, 8)] true m 0 true fun k => packElem c (el s a k 8)
  | .vunpk d a c m => form d 8 [(a, c.bits)] true m 0 true fun k => unpackElem c (el s a k c.bits)
  | .vbdq d a u q x => form d 32 [(a, u.bits)] true 0 x (qOk s.st.grant.vtype q) fun k =>
    let sc := s.st.vec.scale q (k / 32)
    if sc = 255 then (0x7FC00000, 0)
    else match scaledVal u (el s a k u.bits) with
      | .fin n y z => FP.f32.round e.rm (.fin n y (z + sc - 127))
      | v => ((FP.f32.round e.rm v).1, Cls.when v.snan Cls.nv ||| (FP.f32.round e.rm v).2)
  | .vgather d a b m => form d gw [(a, gw), (b, gw)] false m 0 true fun k =>
    (if el s b k gw < vlmax s.st.grant.vtype then el s a (el s b k gw) gw else 0, 0)
  | .vexpand d a m => form d gw [(a, gw)] false m 0 true fun k => (el s a (setBelow s m k) gw, 0)
  | .viota d a m => form d gw [] true m 0 true fun k => (setBelow s a k, 0)
  | .vid d m => form d gw [] true m 0 true fun k => (k, 0)
  | .vbcast d a m => form d gw [] true m 0 true fun _ => ((s.r a).toNat, 0)
  | .vslideup d a b m c => form d gw [(a, gw)] false m 0 true fun k =>
    (if k < (s.r b).toNat then (s.r c).toNat else el s a (k - (s.r b).toNat) gw, 0)
  | .vslidedn d a b m c => form d gw [(a, gw)] true m 0 true fun k =>
    (if k + (s.r b).toNat < s.st.vlNow then el s a (k + (s.r b).toNat) gw else (s.r c).toNat, 0)
  | _ => none

/-- Whether a class of a set acts: its mode is trim or trap. -/
def Acts (s : State) (c : BitVec 6) : Prop := ∃ j, j < 6 ∧ c.getLsbD j = true ∧ mode s j ≠ 0

/-- Element k executes: it stands in [start, vl) and its mask bit lets it. -/
def Executes (s : State) (start : Nat) (m : MReg) (k : Nat) : Prop := start ≤ k ∧ k < s.st.vlNow ∧ allows s m k = true

/-- A vector-stream instruction has committed and its entry has completed: AL, VSTART 0 and the flags of the elements that
executed. Apart from the vector registers and masks nothing else has changed. -/
def EntryDone (s t : State) (al : Nat) (c : BitVec 6) : Prop :=
  Passed s t ∧ SameMemory s t ∧
  t = { s with st := { s.st with
    pc := t.st.pc, pfx := t.st.pfx, pfxLive := t.st.pfxLive, clause := t.st.clause, nextSeq := s.st.nextSeq + 1,
    vec := t.st.vec, csr := { s.st.csr with al := BitVec.ofNat 32 al, vstart := 0, xflags := s.st.csr.xflags ||| c } } }

/-- c is the union of the classes of the elements that execute. -/
def UnionOf (P : Nat → Prop) (cls : Nat → BitVec 6) (c : BitVec 6) : Prop :=
  ∀ j, j < 6 → (c.getLsbD j = true ↔ ∃ k, P k ∧ (cls k).getLsbD j = true)

/-- Mask registers after a form that writes only `.xmN`, if it carries it: bit k tells whether a class of element k acted
(R37). -/
def MasksAfter (s t : State) (xm : MReg) (P : Nat → Prop) (cls : Nat → BitVec 6) : Prop :=
  ∀ (r : MReg) (k : Nat),
    (r = xm → xm ≠ 0 → P k → (t.st.vec.m[r].getLsbD k = true ↔ Acts s (cls k))) ∧
    (¬(r = xm ∧ xm ≠ 0 ∧ P k) → t.st.vec.m[r].getLsbD k = s.st.vec.m[r].getLsbD k)

/-- Bit j of register r lies in element k, of w bits, of the group at d. -/
def InElem (d : VReg) (w k : Nat) (r : Fin 32) (j : Nat) : Prop :=
  r.val = d.val + k / perReg w ∧ k % perReg w * w ≤ j ∧ j < (k % perReg w + 1) * w

/-- Vector registers after an element-wise form: each element that executed holds its value, and every other bit of every
vector register is undisturbed (R38). -/
def ElemsAfter (s t : State) (d : VReg) (w : Nat) (P : Nat → Prop) (val : Nat → Nat) : Prop :=
  (∀ k, P k → el t d k w = val k % 2 ^ w) ∧
  (∀ (r : Fin 32) (j : Nat), (∀ k, P k → ¬InElem d w k r j) → t.st.vec.v[r].getLsbD j = s.st.vec.v[r].getLsbD j)

/-- What stays of the vector state besides registers, write extents and masks. -/
def VecRest (s t : State) : Prop :=
  t.st.vec = { s.st.vec with v := t.st.vec.v, wext := t.st.vec.wext, m := t.st.vec.m }

/-- An element-wise form has completed all its elements (R130). -/
def ElemDone (s t : State) (f : ElemForm) : Prop :=
  ∃ c, UnionOf (Executes s f.start f.m) (fun k => (f.val k).2) c ∧ EntryDone s t s.st.vlNow c ∧ VecRest s t ∧
    ElemsAfter s t f.d f.w (Executes s f.start f.m) (fun k => (f.val k).1) ∧
    MasksAfter s t f.xm (Executes s f.start f.m) fun k => (f.val k).2

/-- A form with a mask destination at a state (R131, R158). -/
structure MaskForm where
  d : MReg
  legal : Bool
  m : MReg
  xm : MReg
  rel : Nat → Bool × BitVec 6

/-- The compare forms and the mask logic (R131 to R133, R158). -/
def maskForm (i : Instr) (s : State) : Option MaskForm :=
  let legal := fun (d m xm : MReg) (srcs : List (VReg × Nat)) =>
    srcs.all (fun x => ((s.entry i).group x.1 x.2).ok) && (xm == 0 || (xm != m && xm != d))
  let cmp := fun (d : MReg) (a : VReg) (b : VReg ⊕ SReg) (m : MReg) (w : IW) (f : Nat → Nat → Bool) => some
    { d := d, legal := legal d m 0 ((a, w.bits) :: bSrc b w.bits), m := m, xm := 0,
      rel := fun k => (f (el s a k w.bits) (bOf s b k w.bits), 0) }
  let fcmp := fun (d : MReg) (a b : VReg) (m xm : MReg) (f : FF) (r : FRel) => some
    { d := d, legal := legal d m xm [(a, f.bits), (b, f.bits)], m := m, xm := xm,
      rel := fun k => f.fp.cmp r (el s a k f.bits) (el s b k f.bits) }
  let logic := fun (d : MReg) (f : Nat → Bool) => some { d := d, legal := true, m := 0, xm := 0, rel := fun k => (f k, 0) }
  let lt := fun (w : IW) x y => decide (signedOf w.bits x < signedOf w.bits y)
  let le := fun (w : IW) x y => decide (signedOf w.bits x ≤ signedOf w.bits y)
  match i with
  | .vcmpEq d a b m w => cmp d a (.inl b) m w fun x y => x == y
  | .vcmpNe d a b m w => cmp d a (.inl b) m w fun x y => x != y
  | .vcmpLt d a b m w => cmp d a (.inl b) m w (lt w)
  | .vcmpLe d a b m w => cmp d a (.inl b) m w (le w)
  | .vcmpLtn d a b m w => cmp d a (.inl b) m w fun x y => decide (x < y)
  | .vcmpLen d a b m w => cmp d a (.inl b) m w fun x y => decide (x ≤ y)
  | .vcmpEqVx d a b m w => cmp d a (.inr b) m w fun x y => x == y
  | .vcmpNeVx d a b m w => cmp d a (.inr b) m w fun x y => x != y
  | .vcmpLtVx d a b m w => cmp d a (.inr b) m w (lt w)
  | .vcmpLeVx d a b m w => cmp d a (.inr b) m w (le w)
  | .vcmpLtnVx d a b m w => cmp d a (.inr b) m w fun x y => decide (x < y)
  | .vcmpLenVx d a b m w => cmp d a (.inr b) m w fun x y => decide (x ≤ y)
  | .vfcmpEq d a b m x f => fcmp d a b m x f .eq
  | .vfcmpLt d a b m x f => fcmp d a b m x f .lt
  | .vfcmpLe d a b m x f => fcmp d a b m x f .le
  | .vfcmpUn d a b m x f => fcmp d a b m x f .un
  | .mand d a b => logic d fun k => allows s a k && allows s b k
  | .mor d a b => logic d fun k => allows s a k || allows s b k
  | .mxor d a b => logic d fun k => allows s a k != allows s b k
  | .mnot d a => logic d fun k => !allows s a k
  | _ => none

/-- A form with a mask destination has completed all its elements. -/
def MaskDone (s t : State) (f : MaskForm) : Prop :=
  ∃ c, UnionOf (Executes s s.st.csr.vstart.toNat f.m) (fun k => (f.rel k).2) c ∧ EntryDone s t s.st.vlNow c ∧
    t.st.vec = { s.st.vec with m := t.st.vec.m } ∧
    (∀ k, Executes s s.st.csr.vstart.toNat f.m k → t.st.vec.m[f.d].getLsbD k = (f.rel k).1) ∧
    (∀ k, f.xm ≠ 0 → Executes s s.st.csr.vstart.toNat f.m k → (t.st.vec.m[f.xm].getLsbD k = true ↔ Acts s (f.rel k).2)) ∧
    (∀ (r : MReg) (k : Nat),
      ¬((r = f.d ∨ (r = f.xm ∧ f.xm ≠ 0)) ∧ Executes s s.st.csr.vstart.toNat f.m k) →
      t.st.vec.m[r].getLsbD k = s.st.vec.m[r].getLsbD k)

/-- A vector-stream instruction that writes v to scalar register d, with VSTART 0, and changes nothing else. -/
def ScalarFromVector (s t : State) (d : SReg) (v : Word) : Prop :=
  Wrote s t d v ∧ (∀ r : SReg, t.st.pend.getLsbD r.val = (s.st.pend.getLsbD r.val && decide (r ≠ d))) ∧ SameMemory s t ∧ t.st.pc = s.st.pc + 4 ∧ t.st.pfx = none ∧
  t = { s with st := { s.st with
    regs := t.st.regs, pend := t.st.pend, pc := t.st.pc, pfx := t.st.pfx, pfxLive := false, clause := t.st.clause,
    nextSeq := s.st.nextSeq + 1, csr := { s.st.csr with vstart := 0 } } }

/-! ### Trim mode and trap mode (R35, R36) -/

/-- Whether a class of a set is in trim mode or trap mode. -/
def Stops (s : State) (c : BitVec 6) : Prop := ∃ j, j < 6 ∧ c.getLsbD j = true ∧ (mode s j = 1 ∨ mode s j = 2)

/-- The flags of the elements P have been set, and no other. -/
def FlagsSet (s t : State) (P : Nat → Prop) (cls : Nat → BitVec 6) : Prop :=
  ∀ j, j < 6 → (t.st.csr.xflags.getLsbD j = true ↔
    s.st.csr.xflags.getLsbD j = true ∨ ∃ k, P k ∧ (cls k).getLsbD j = true)

/-- What comes of element k of an entry without `.xmN`, the first of which a class acts (R35, R36): c are its classes, and start
is the leading element. done: what the elements before it leave; of element k and those after it nothing else is written. A class
in trap mode traps at k, whatever k is. Else k as the leading element traps, and any later k ends the entry with AL = k and
the trim limit of its grant at k. Where k as the leading element has several classes in trim mode, which of them gives
the cause is left open here (the model's choice is log 83). -/
def StopsAt (s t : State) (start k : Nat) (c : BitVec 6) (done : Prop) : Prop :=
  let trapped := t.st.trap.inh = true ∧ t.st.trap.vec = true ∧ t.st.trap.tval = 0 ∧ t.st.csr.vstart.toNat = k ∧
    t.st.pc = s.st.trap.tvec ∧ t.st.trap.tpc = s.st.pc + 4 ∧ t.st.csr.al = s.st.csr.al ∧ t.st.queue.length = 1
  let plain := SameMemory s t ∧
    t.st.csr = { s.st.csr with al := t.st.csr.al, vstart := t.st.csr.vstart, xflags := t.st.csr.xflags }
  ((∀ j, j < 6 → c.getLsbD j = true → mode s j ≠ 2) → k ≠ start →
    done ∧ plain ∧ t.st.csr.al.toNat = k ∧ t.st.csr.vstart = 0 ∧ t.st.vlNow = k ∧ t.st.queue = [] ∧
      t.st.trap = s.st.trap) ∧
  ((∀ j, j < 6 → c.getLsbD j = true → mode s j ≠ 2) → k = start → HasHandler s →
    done ∧ plain ∧ trapped ∧ ∃ j, j < 6 ∧ c.getLsbD j = true ∧ mode s j = 1 ∧ t.st.trap.code.toNat = 0x10 + j) ∧
  ∀ j, j < 6 → c.getLsbD j = true → mode s j = 2 → HasHandler s → (∀ i, i < j → c.getLsbD i = true → mode s i ≠ 2) →
    done ∧ plain ∧ trapped ∧ t.st.trap.code.toNat = 0x10 + j

/-! ### Vector memory -/

/-- The cached translations that serve an agent agree with the tables of its context (R331, R338). -/
def CoherentFor (s : State) (w : Who) : Prop :=
  ∀ x ∈ s.caches.tlb, ∀ va, x.serves w.cache w.ctx va = true →
    (s.walkIn w.ctx va).1 = .leaf x.leaf x.size ∧ pteSt x.leaf = 0

/-- Those that serve the strand that moves do. -/
def Coherent (s : State) : Prop := CoherentFor s s.me

/-- Stores to the places P do not change how an address of the strand's context translates. -/
def TablesApart (s : State) (P : Nat → Prop) : Prop :=
  ∀ m, (∀ a, ¬P a → Memory.get m a = Memory.get s.mem a) →
    ∀ va, ({ s with mem := m }.walkIn s.st.ctx va).1 = (s.walkIn s.st.ctx va).1

/-- A vector load or store at a state (R160 to R163): first register of the group of each of n fields; element width;
whether groups and port are legal; mask; admitted spaces; and for field f of element k its first byte, its bytes and the
bit its value begins at. -/
structure MemForm where
  reg : Nat → Nat
  n : Nat
  w : EW
  legal : Bool
  m : MReg
  port : Option Nat
  kind : Kind
  place : Nat → Nat → Int × Nat × Nat

/-- The byte offset a payload gives (R66). -/
def offOf (s : State) : Int := match s.st.pfx with | some p => (p.extractLsb' 11 15).toInt | none => 0

/-- The vector loads and stores (R163); the table gives for each the address of element k. -/
def memForm (i : Instr) (s : State) : Option MemForm :=
  let e := s.entry i
  let b := fun (a : SReg) => ((s.r a).toNat : Int)
  let unit := fun (a : SReg) (w : EW) (c : Bool) (k : Nat) =>
    if c then (b a + offOf s + 64 * k, w.bits / 8, 0)
    else (b a + offOf s + (k * w.bits / 8 : Nat), (k * w.bits + w.bits - 1) / 8 - k * w.bits / 8 + 1, k * w.bits % 8)
  let stride := fun (a x : SReg) (w : EW) (k : Nat) => (b a + k * (s.r x).toInt, w.bits / 8, 0)
  let iw := fun (w : EW) => if w.bits = 64 then 64 else 32
  let index := fun (a : SReg) (x : VReg) (w : EW) (k : Nat) => (b a + (el s x k (iw w) : Nat), w.bits / 8, 0)
  let seg := fun (a : SReg) (n : Nat) (w : EW) (k f : Nat) => (b a + offOf s + ((k * n + f) * (w.bits / 8) : Nat), w.bits / 8, 0)
  let one := fun (d : VReg) (w : EW) (m : MReg) (p : Option Nat) (ok : Bool) (kind : Kind) (at_ : Nat → Int × Nat × Nat) => some
    { reg := fun _ => d.val, n := 1, w := w, legal := (e.group d w.bits).ok && s.srcOk p && ok, m := m, port := p,
      kind := kind, place := fun k _ => at_ k }
  let many := fun (d : VReg) (n : Nat) (w : EW) (m : MReg) (p : Option Nat) (at_ : Nat → Nat → Int × Nat × Nat) => some
    { reg := fun f => d.val + f * emul s.st.grant.vtype w.bits, n := n, w := w, legal := segOk e d w n && s.srcOk p, m := m,
      port := p, kind := .any, place := at_ }
  let aligned := fun (a : SReg) (w : EW) (c : Bool) => !c || (b a + offOf s) % (w.bits / 8 : Nat) == 0
  match i with
  | .vld d a m c w r => one d w m (srcPort r e) (aligned a w c) (if c then .window else .any) (unit a w c)
  | .vst d a m c w => one d w m none (aligned a w c) (if c then .window else .any) (unit a w c)
  | .vlds d a x m w r => one d w m (srcPort r e) true .any (stride a x w)
  | .vsts d a x m w => one d w m none true .any (stride a x w)
  | .vldx d a x m w r => one d w m (srcPort r e) (indexOk e d x w.bits) .any (index a x w)
  | .vstx d a x m w => one d w m none (e.group x (iw w)).ok .any (index a x w)
  | .vldg d a x m w r => many d (x.val + 1) w m (srcPort r e) (seg a (x.val + 1) w)
  | .vstg d a x m w => many d (x.val + 1) w m none (seg a (x.val + 1) w)
  | _ => none

/-- The vector loads. -/
def isLoad : Instr → Bool
  | .vld .. | .vlds .. | .vldx .. | .vldg .. => true
  | _ => false

/-- The vector stores. -/
def isStore : Instr → Bool
  | .vst .. | .vsts .. | .vstx .. | .vstg .. => true
  | _ => false

/-- What element k of a load takes for its fields (R164, R166): the bytes of the strip buffer, where that holds all of them;
else what each field's place in memory holds. -/
def Loaded (s : State) (f : MemForm) (k : Nat) (v : Nat → Nat) : Prop :=
  let held := s.buffered f.port (f.place k 0).1 ((f.n - 1) * (f.w.bits / 8) + (f.place k 0).2.1)
  (∀ y, held = some y → ∀ x, x < f.n → v x = y / 2 ^ (x * f.w.bits)) ∧
  (held = none → ∀ x, x < f.n → ∃ ls,
    s.check s.me (f.place k x).1 (f.place k x).2.1 (max 1 (f.w.bits / 8)) f.kind .read = .ok ls ∧ v x = s.get ls)

/-- Field f of element k is loaded or stored. -/
def Moves (s : State) (f : MemForm) (k x : Nat) : Prop := Executes s s.st.csr.vstart.toNat f.m k ∧ x < f.n

/-- As EntryDone, but for memory, the caches and the streams of the strand. -/
def MemEntryDone (s t : State) (al : Nat) : Prop :=
  Passed s t ∧
  t = { s with mem := t.mem, caches := t.caches, st := { s.st with
    pc := t.st.pc, pfx := t.st.pfx, pfxLive := t.st.pfxLive, clause := t.st.clause, nextSeq := s.st.nextSeq + 1,
    vec := t.st.vec, streams := t.st.streams, csr := { s.st.csr with al := BitVec.ofNat 32 al, vstart := 0 } } }

/-- Element (k, x) of a store covers bit j of the byte at place a. -/
def Covers (f : MemForm) (ls : Nat → Nat → List Nat) (k x a j : Nat) (q : Nat) : Prop :=
  q < (ls k x).length ∧ (ls k x).getD q 0 = a ∧ (f.place k x).2.2 ≤ 8 * q + j ∧ 8 * q + j < (f.place k x).2.2 + f.w.bits

/-- The fields P of elements have been loaded as v says, and every other bit of the vector registers is as before (R38). -/
def LoadedTo (s t : State) (f : MemForm) (P : Nat → Nat → Prop) (v : Nat → Nat → Nat) : Prop :=
  (∀ k x, P k x → t.st.vec.elem (f.reg x) k f.w.bits = v k x / 2 ^ (f.place k x).2.2 % 2 ^ f.w.bits) ∧
  ∀ (r : Fin 32) (j : Nat),
    (∀ k x, P k x → ¬(r.val = f.reg x + k / perReg f.w.bits ∧ k % perReg f.w.bits * f.w.bits ≤ j ∧
      j < (k % perReg f.w.bits + 1) * f.w.bits)) → t.st.vec.v[r].getLsbD j = s.st.vec.v[r].getLsbD j

/-- The fields P of elements have been stored: a bit of memory that they cover holds the bit of the last of them in element
order, and every other bit of memory is as before (R165). -/
def StoredTo (s t : State) (f : MemForm) (ls : Nat → Nat → List Nat) (P : Nat → Nat → Prop) : Prop :=
  (∀ a, (∀ k x, P k x → a ∉ ls k x) → Memory.get t.mem a = Memory.get s.mem a) ∧
  (∀ a j, j < 8 → (∀ k x q, P k x → ¬Covers f ls k x a j q) →
    (Memory.get t.mem a).getLsbD j = (Memory.get s.mem a).getLsbD j) ∧
  ∀ k x a j q, j < 8 → P k x → Covers f ls k x a j q →
    (∀ k' x' q', P k' x' → Covers f ls k' x' a j q' → k' < k ∨ (k' = k ∧ x' ≤ x)) →
    (Memory.get t.mem a).getLsbD j = (s.st.vec.elem (f.reg x) k f.w.bits).testBit (8 * q + j - (f.place k x).2.2)

/-- The checks of R164 on a field of an element. -/
def fieldCheck (s : State) (f : MemForm) (a : Acc) (k x : Nat) : Except (Nat × Nat) (List Nat) :=
  s.check s.me (f.place k x).1 (f.place k x).2.1 (max 1 (f.w.bits / 8)) f.kind a

/-- Element k fails its checks at field x with a cause and a byte (R164): the steps before translation come first on every
field. -/
def Fails (s : State) (f : MemForm) (a : Acc) (k x cause byte : Nat) : Prop :=
  x < f.n ∧ fieldCheck s f a k x = .error (cause, byte) ∧
  ∀ y c b, y < f.n → fieldCheck s f a k y = .error (c, b) → (y < x → 8 ≤ c ∧ cause ≤ 7) ∧ (8 ≤ cause → 8 ≤ c)

/-- The machine's audit log takes an entry at once. -/
def LogOpen (s : State) : Prop :=
  s.hamada.waiting = [] ∧ s.hamada.seg.isSealed = false ∧ s.hamada.seg.entries.length + 1 < 4095

/-- A permission violation has been logged as audit entry 0x0005 and told as report 0x82 (R336, R360, R381). how: 0 trapped,
1 shortened, 2 reported only, 4 an engine transfer. -/
def ViolationTold (s t : State) (c : BitVec 16) (slot va : Nat) (k : Acc) (how : Nat) : Prop :=
  t.hamada.seg.entries = s.hamada.seg.entries ++ [auditEntry s.hamada.nextSeq 5 0 c
    (BitVec.ofNat 512 (slot + va * 2 ^ 64 + k.code * 2 ^ 128 + how * 2 ^ 136)) s.hamada.chain] ∧
  t.host.waiting = s.host.waiting ++ [BitVec.ofNat 512 (0x82 + c.toNat * 2 ^ 32 + va * 2 ^ 64 + slot * 2 ^ 128 +
    k.code * 2 ^ 144 + how * 2 ^ 152)]

/-- The vector side has trapped on the leading element, and nothing of the entry has been done (R35, R41). -/
def LeadTraps (s t : State) (cause tval : Nat) : Prop :=
  t.st.trap.code = BitVec.ofNat 8 cause ∧ t.st.trap.inh = true ∧ t.st.trap.vec = true ∧ t.st.trap.tval = BitVec.ofNat 64 tval ∧
  t.st.pc = s.st.trap.tvec ∧ t.st.trap.tpc = s.st.pc + 4 ∧ t.st.csr = s.st.csr ∧ t.st.queue.length = 1

/-- The audit log takes n entries at once (R382, R384). -/
def LogRoom (s : State) (n : Nat) : Prop := s.hamada.waiting = [] ∧ n ≤ s.hamada.places

/-- No strand of context c waits for the Oasis kernel (R335). -/
def NoneWaits (s : State) (c : BitVec 16) : Prop := ∀ k ∈ s.slotsOf c, ∀ f, (s.strand k).stat ≠ .waiting f

/-- No QPOP of context c is parked: no translation of it is held (R269). -/
def NoneParked (s : State) (c : BitVec 16) : Prop := ∀ q ∈ s.queues, q.ctx = c → q.parked = []

/-- What comes of an access fault of element k, whose leading element is vs (R35, R334 to R336, R384). On the leading element an
unmapped page makes the strand wait for the Oasis kernel, and every other fault traps. Any later element ends the entry before
it. A permission violation is logged in both cases; while the log has no place, the entry waits. -/
def FaultEnds (s t : State) (vs k cause byte tval : Nat) (a : Acc) : Prop :=
  (k = vs → cause ≤ 7 → HasHandler s → LeadTraps s t cause tval) ∧
  (k = vs → cause = 8 → t.st.stat = .waiting { cause := 8, va := BitVec.ofNat 64 byte, vec := true } ∧
    t.st.queue.length = 1 ∧ t.st.csr = s.st.csr ∧ t.st.trap = s.st.trap) ∧
  (k = vs → cause = 9 → LogOpen s → HasHandler s → LeadTraps s t 9 tval ∧ ViolationTold s t s.st.ctx s.slot tval a 0) ∧
  (k ≠ vs → (cause = 9 → LogOpen s) → t.st.csr.al.toNat = k ∧ t.st.csr.vstart = 0 ∧ t.st.vlNow = k ∧
    t.st.trap = s.st.trap ∧ t.st.queue = [] ∧ (cause = 9 → ViolationTold s t s.st.ctx s.slot tval a 1)) ∧
  (cause = 9 → s.hamada.places = 0 → t.st.queue.length = 1 ∧ t.st.csr = s.st.csr ∧ t.st.trap = s.st.trap ∧
    t.st.vec = s.st.vec ∧ SameMemory s t)

/-- A tile that an entry may use: a handle below its kernel's limit, ready, whose bytes are distinct places (R177 to R181). -/
def TileReady (s : State) (n : TReg) : Prop :=
  n.val < s.st.lim.tiles ∧ s.st.tiles[n].st = .ready ∧
  ∀ r c r' c', r < s.st.tiles[n].cur.rows → c < s.st.tiles[n].cur.len → r' < s.st.tiles[n].cur.rows →
    c' < s.st.tiles[n].cur.len → s.tileByte s.me s.st.tiles[n].cur r c = s.tileByte s.me s.st.tiles[n].cur r' c' →
    r = r' ∧ c = c'

/-- R170: row and element column of element k of a tile slice: .row walks a row first, .col a column first. -/
def sliceOfTile (d : TileDef) (w : EW) (c : Bool) (slice k : Nat) : Nat × Nat :=
  if c then (k % d.rows, slice + k / d.rows)
  else (slice + k / rowElems d.len w, k % rowElems d.len w)

/-- R171: ALROW and ALCOL after n elements. -/
def RowColAfter (t : State) (d : TileDef) (w : EW) (c : Bool) (n : Nat) : Prop :=
  t.st.csr.alrow = BitVec.ofNat 9 (if c then n % d.rows else n / rowElems d.len w) ∧
  t.st.csr.alcol = BitVec.ofNat 16 (if c then n / d.rows else n % rowElems d.len w)

/-- Fields of a vector atomic: vd, sa, vb, mN, `.unord`, W. -/
def vamoFields : Instr → Option (VReg × SReg × VReg × MReg × Bool × MW)
  | .vamoSwap d a b m u _ w | .vamoAdd d a b m u _ w | .vamoAnd d a b m u _ w | .vamoOr d a b m u _ w
  | .vamoXor d a b m u _ w | .vamoMin d a b m u _ w | .vamoMax d a b m u _ w => some (d, a, b, m, u, w)
  | _ => none

/-- R173: the new value of memory under a vector atomic. -/
def vamoNew (i : Instr) (w : Nat) (old x : BitVec w) : Option (BitVec w) :=
  match i with
  | .vamoSwap .. => some x
  | .vamoAdd .. => some (old + x)
  | .vamoAnd .. => some (old &&& x)
  | .vamoOr .. => some (old ||| x)
  | .vamoXor .. => some (old ^^^ x)
  | .vamoMin .. => some (if x.toInt < old.toInt then x else old)
  | .vamoMax .. => some (if old.toInt < x.toInt then x else old)
  | _ => none

/-- The address of element k of an indexed form of w bits: base plus the zero-extended index (R163, R173). -/
def indexedAt (s : State) (a : SReg) (b : VReg) (w k : Nat) : Int :=
  ((s.r a).toNat : Int) + (el s b k (if w = 64 then 64 else 32) : Nat)

/-! ### Reductions -/

/-- Fields of a reduction or scan: vd, va, mN, `.xmN`, `.seg`, with the width and the combining step (R153). -/
def redFields (i : Instr) (s : State) : Option (VReg × VReg × MReg × MReg × Bool × Machine.Step) :=
  let rm := (s.entry i).rm
  match i with
  | .vredsum d a w m x g => some (d, a, m, x, g,
      { w := w.bits, op := fun p q => satTo w.bits (signedOf w.bits p + signedOf w.bits q), id := 0 })
  | .vredmax d a w m g => some (d, a, m, 0, g,
      { w := w.bits, op := fun p q => (if signedOf w.bits p < signedOf w.bits q then q else p, 0), id := 2 ^ (w.bits - 1) })
  | .vredmin d a w m g => some (d, a, m, 0, g,
      { w := w.bits, op := fun p q => (if signedOf w.bits q < signedOf w.bits p then q else p, 0), id := 2 ^ (w.bits - 1) - 1 })
  | .vscan d a w m x g => some (d, a, m, x, g,
      { w := w.bits, op := fun p q => satTo w.bits (signedOf w.bits p + signedOf w.bits q), id := 0 })
  | .vfredsum d a w m x g => some (d, a, m, x, g, { w := w.bits, op := fun p q => (sumOf w rm p q), id := w.fp.signBit })
  | .vfredosum d a w m x g => some (d, a, m, x, g, { w := w.bits, op := fun p q => (sumOf w rm p q), id := w.fp.signBit })
  | .vfscan d a w m x g => some (d, a, m, x, g, { w := w.bits, op := fun p q => (sumOf w rm p q), id := w.fp.signBit })
  | .vfredmax d a w m x g => some (d, a, m, x, g,
      { w := w.bits, op := fun p q => w.fp.fmax p q, id := w.fp.infEnc + w.fp.signBit })
  | _ => none
where
  /-- round(x + y) with its classes (R83). -/
  sumOf (f : FF) (rm : RM) (p q : Nat) : Nat × BitVec 6 :=
    let z := (f.fp.val p).add rm (f.fp.val q)
    ((f.fp.round rm z.1).1, z.2 ||| (f.fp.round rm z.1).2)

/-- How a reduction or scan combines. -/
inductive RedKind where
  | ordered | scan | tree
  deriving DecidableEq, Repr

/-- The kind of a form (R154 to R156). -/
def redKind : Instr → RedKind
  | .vscan .. | .vfscan .. => .scan
  | .vfredsum .. | .vfredmax .. => .tree
  | _ => .ordered

/-- Element k takes part: under `.seg` every one in [VSTART, vl), else those the mask lets through. -/
def TakesPart (s : State) (m : MReg) (g : Bool) (k : Nat) : Prop :=
  s.st.csr.vstart.toNat ≤ k ∧ k < s.st.vlNow ∧ (g = true ∨ allows s m k = true)

/-- Whether element k opens a segment, and the number of its segment (R152). -/
def opens (s : State) (m : MReg) (k : Nat) : Bool := k == 0 || allows s m k
/-- The segment of element k. -/
def segOf (s : State) (m : MReg) (k : Nat) : Nat := (List.range k).countP fun j => allows s m (j + 1)

/-- R154: the values of the destination's elements after the ordered combination of the elements ks. -/
def orderedFold (s : State) (d a : VReg) (m : MReg) (g : Bool) (p : Machine.Step) : List Nat → (Nat → Nat) → Nat → Nat
  | [], acc => acc
  | k :: ks, acc =>
    let j := if g then segOf s m k else 0
    let base := if g && opens s m k then p.id else acc j
    orderedFold s d a m g p ks (fun x => if x = j then (p.op base (el s a k p.w)).1 % 2 ^ p.w else acc x)

/-- A tile slice has completed: AL, ALROW and ALCOL. -/
def SliceEntryDone (s t : State) (al : Nat) : Prop :=
  Passed s t ∧
  t = { s with mem := t.mem, st := { s.st with
    pc := t.st.pc, pfx := t.st.pfx, pfxLive := t.st.pfxLive, clause := t.st.clause, nextSeq := s.st.nextSeq + 1,
    vec := t.st.vec, tiles := t.st.tiles, csr := { s.st.csr with
      al := BitVec.ofNat 32 al, vstart := 0, alrow := t.st.csr.alrow, alcol := t.st.csr.alcol } } }

/-- R175: the condition of a VWAIT between memory x and the operand y at w bits. -/
def condOf (c : VCond) (w x y : Nat) : Prop :=
  match c with
  | .eq => x = y
  | .ne => x ≠ y
  | .lt => signedOf w x < signedOf w y
  | .ge => signedOf w y ≤ signedOf w x
  | .ltn => x < y
  | .gen => y ≤ x

/-- The elements that take part in a reduction, in order. -/
def partList (s : State) (m : MReg) (g : Bool) : List Nat :=
  (List.range s.st.vlNow).filter fun k => decide (s.st.csr.vstart.toNat ≤ k) && (g || allows s m k)

/-- R156: what element k of a scan is combined with. t holds the elements before it. -/
def scanPrev (s t : State) (d : VReg) (m : MReg) (g : Bool) (p : Machine.Step) (k : Nat) : Nat :=
  if g then (if opens s m k then p.id else el t d (k - 1) p.w)
  else match (List.range k).reverse.find? fun j => allows s m j with
    | some j => el t d j p.w
    | none => el s d 0 p.w

/-- R156: what the running value of a scan is before its elements ks, in order, and what it is behind them. -/
def scanFold (s : State) (a : VReg) (m : MReg) (g : Bool) (p : Machine.Step) : List Nat → Nat → Nat
  | [], acc => acc
  | k :: ks, acc =>
    scanFold s a m g p ks ((p.op (if g && opens s m k then p.id else acc) (el s a k p.w)).1 % 2 ^ p.w)

/-- The running value that a scan finds in its destination (R156). -/
def scanStart (s : State) (d : VReg) (m : MReg) (g : Bool) (w : Nat) : Nat :=
  if g then el s d (s.st.csr.vstart.toNat - 1) w
  else match (List.range s.st.csr.vstart.toNat).reverse.find? fun j => allows s m j with
    | some j => el s d j w
    | none => el s d 0 w

/-- The elements below k that take part in a reduction, in order. -/
def partBelow (s : State) (m : MReg) (g : Bool) (k : Nat) : List Nat := (partList s m g).filter fun j => decide (j < k)

/-- The classes of step k of an ordered reduction or of a scan (R154, R156, R157). -/
def stepCls (s : State) (scan : Bool) (d a : VReg) (m : MReg) (g : Bool) (p : Machine.Step) (k : Nat) : BitVec 6 :=
  let before := if scan then scanFold s a m g p (partBelow s m g k) (scanStart s d m g p.w)
    else orderedFold s d a m g p (partBelow s m g k) (fun j => el s d j p.w) (if g then segOf s m k else 0)
  (p.op (if g && opens s m k then p.id else before) (el s a k p.w)).2

/-- The tree of segment (j, b, _) over the elements below n, with its classes (R89, R155). -/
def treeTo (s : State) (d a : VReg) (m : MReg) (g : Bool) (p : Machine.Step) (j b n : Nat) : Nat × BitVec 6 :=
  treeSum p.op (fun k => if g || allows s m k then some (el s a k p.w) else none) (max b s.st.csr.vstart.toNat) n
    (if g && max b s.st.csr.vstart.toNat == b then p.id else el s d j p.w)

/-- The classes of element k of a tree reduction: those of the tree of its segment through k (R155, R157). -/
def prefixCls (s : State) (d a : VReg) (m : MReg) (g : Bool) (p : Machine.Step) (k : Nat) : BitVec 6 :=
  match (segments s.st.vec m g s.st.csr.vstart.toNat s.st.vlNow).find? fun y => decide (y.2.1 ≤ k) && decide (k < y.2.2) with
  | some y => (treeTo s d a m g p y.1 y.2.1 (k + 1)).2
  | none => 0

/-- Masks as before, but for `.xmN`. -/
def OtherMasks (s t : State) (xm : MReg) : Prop := ∀ r : MReg, r ≠ xm ∨ xm = 0 → t.st.vec.m[r] = s.st.vec.m[r]

/-! ### Forms without an element count -/

/-- A form without an element count has completed: u is the machine as the form leaves it; besides that the strand has moved
on and VSTART is 0 (R38). -/
def FormDone (s t u : State) : Prop :=
  Passed s t ∧
  t = { u with st := { u.st with
    pc := t.st.pc, pfx := t.st.pfx, pfxLive := t.st.pfxLive, clause := t.st.clause, nextSeq := s.st.nextSeq + 1,
    csr := { u.st.csr with vstart := 0 } } }

/-- The entry of a form without an element count has trapped at the head of the queue: VSTART is 0 and nothing the form
would have written has changed (R35, R41, R42). -/
def HeadTraps (s t : State) (cause : Nat) (tval : Word) : Prop :=
  t.st.trap.code = BitVec.ofNat 8 cause ∧ t.st.trap.vec = true ∧ t.st.trap.inh = true ∧ t.st.trap.tval = tval ∧
  t.st.trap.tpc = s.st.pc + 4 ∧ t.st.pc = s.st.trap.tvec ∧ t.st.queue.length = 1 ∧
  t.st.csr = { s.st.csr with vstart := 0 } ∧ t.st.regs = s.st.regs ∧ t.st.vec = s.st.vec ∧ t.st.tiles = s.st.tiles ∧
  t.oslots = s.oslots ∧ t.acc = s.acc ∧ SameMemory s t

/-- A tile that its handle's readers may use (R181). -/
def Readable (s : State) (n : TReg) : Prop :=
  n.val < s.st.lim.tiles ∧ (s.st.tiles[n].st = .ready ∨ (s.st.tiles[n].st = .draining ∧ s.st.tiles[n].pending = none))

/-- The machine with a change of a tile: at once on a ready or empty tile, held back on a draining one (R183). -/
def tileTo (s : State) (n : TReg) (d : TileDef) : State :=
  let x : Tile := if s.st.tiles[n].st = .draining then { s.st.tiles[n] with pending := some d }
    else { cur := d, st := .ready, pending := none }
  { s with st := { s.st with tiles := s.st.tiles.set n x } }

/-- The tile forms that only look at or change the tile table, with the tile they name. -/
def tableForm : Instr → Option TReg
  | .setshape n _ _ | .tdef n _ _ | .ttag n _ | .tgtag _ n | .tstat _ n | .twait n => some n
  | _ => none

/-! ### Generator, Hadamard and block forms -/

/-- R141: the element drawn from z. -/
def drawOf (u : Elem) (z : Word) : Nat :=
  match u with
  | .f32 => (FP.f32.round .rne (.fin false (z.toNat / 2 ^ 40) (-24))).1
  | .n32 => z.toNat / 2 ^ 32
  | _ => z.toNat

/-- R140: source element i of a Hadamard stage. -/
def hadIn (s : State) (a : VReg) (y : Bool) (f : FF) (i : Nat) : Val :=
  f.fp.val (if y then (if s.st.vec.vcDirty then s.st.vec.vc.toNat / 2 ^ (i * f.bits) % 2 ^ f.bits else 0) else el s a i f.bits)

/-- R140: the sum for the lower element of a pair, the difference for the upper, under `.h` over the root of 2. -/
def hadOut (s : State) (a : VReg) (k : Nat) (y h : Bool) (f : FF) (i : Nat) : Nat × BitVec 6 :=
  let rm := RM.ofCode (if 1 ≤ payRound s ∧ payRound s ≤ 5 then payRound s - 1 else s.st.csr.frm.toNat)
  let p := if i.testBit k then (hadIn s a y f (i ^^^ 2 ^ k)).add rm (hadIn s a y f i).negate
    else (hadIn s a y f i).add rm (hadIn s a y f (i ^^^ 2 ^ k))
  let v := if h then p.1.overRoot2 else p.1
  ((f.fp.round rm v).1, p.2 ||| (f.fp.round rm v).2)
where
  /-- FR of the pending payload. -/
  payRound (s : State) : Nat := match s.st.pfx with | some p => p.toNat % 8 | none => 0

/-- R138: the value of source element i of a VBQ. -/
def quantIn (s : State) (a : VReg) (c : Bool) (i : Nat) : Val :=
  if c then s.st.vec.vcFmt.fp.val (s.st.vec.vcElem i s.st.vec.vcFmt.bits) else FP.f32.val (el s a i 32)

/-- The members of block j that lie below vl (R87, R138). -/
def blockOf (s : State) (a : VReg) (c : Bool) (j : Nat) : List Val :=
  (List.range (min 32 (s.st.vlNow - 32 * j))).map fun i => quantIn s a c (32 * j + i)

/-- Where fibre i begins (R127). -/
def fibreStart (f : Nat → Nat) (i : Nat) : Nat := ((List.range i).map f).sum

/-! ### Sketches -/

/-- round(c · 2^k), ties to even (R310). -/
def scaled (c k : Int) : Int :=
  if 0 ≤ k then c * 2 ^ k.toNat
  else
    let n : Int := 2 ^ (-k).toNat
    if 2 * (c % n) < n then c / n else if n < 2 * (c % n) then c / n + 1 else if c / n % 2 = 0 then c / n else c / n + 1

/-- sat(z, iCW) (R302). -/
def skClamp (cw : Nat) (z : Int) : Int := max (-(2 ^ (cw - 1))) (min (2 ^ (cw - 1) - 1) z)

/-- The 64 bytes of a header as a number (R301). -/
def headNat (d logw cw satr : Nat) (seed : Word) (scale : Int) : Nat :=
  0x4B530001 + d * 2 ^ 32 + logw * 2 ^ 40 + cw * 2 ^ 48 + satr * 2 ^ 56 + seed.toNat * 2 ^ 64 + modulo 16 scale * 2 ^ 128

/-- Where a sketch lies: the 64 bytes of its header and the bytes of its counters, all at places of their own. -/
def SketchAt (s : State) (h : Word) (x : SkHead) (k : Acc) (hs cs : List Nat) : Prop :=
  s.check s.me h.toNat 64 64 .memory k = .ok hs ∧ s.check s.me (h.toNat + 64) (x.d * 2 ^ x.logw * (x.cw / 8)) 1 .memory k = .ok cs ∧
  (hs ++ cs).Nodup

/-- Counter i of a sketch whose counters lie at cs, as a signed number. -/
def counterOf (s : State) (x : SkHead) (cs : List Nat) (i : Nat) : Int :=
  signedOf x.cw (s.get ((cs.drop (i * (x.cw / 8))).take (x.cw / 8)))

/-- A sketch after a form that gave every counter a new exact value z: the counters are z clamped, and SATR gains the rows
that clamped and the bits of y (R310, R311). -/
def SketchTo (s t : State) (x : SkHead) (hs cs : List Nat) (z : Nat → Int) (y : Nat) (scale : Int) : Prop :=
  ∃ r, Holds t hs (headNat x.d x.logw x.cw r x.seed scale) ∧
    (∀ j, r.testBit j = true ↔ (x.satr.testBit j = true ∨ y.testBit j = true ∨
      ∃ i, i / 2 ^ x.logw = j ∧ i < x.d * 2 ^ x.logw ∧ skClamp x.cw (z i) ≠ z i)) ∧
    (∀ i, i < x.d * 2 ^ x.logw → counterOf t x cs i = skClamp x.cw (z i)) ∧ SameOutside (hs ++ cs) s t

/-- Row j of a key: number of the counter, and whether the sign is negative (R302, R303). -/
def rowOf (x : SkHead) (key : Nat) (j : Nat) : Nat × Bool :=
  let v := ((BitVec.ofNat 64 key ^^^ (x.seed + BitVec.ofNat 64 j)) * sketchMul j).toNat
  (j * 2 ^ x.logw + v / 2 ^ (64 - x.logw), (v / 2 ^ (63 - x.logw)) % 2 = 1)

/-- What SKUPD adds to a counter before the clamp: a number, or an infinity as one beyond every limit (R308). -/
def increment (v : Val) (k : Int) : Int :=
  match v with
  | .nan _ => 0
  | .inf n => if n then -(2 ^ 40) else 2 ^ 40
  | .fin n m e => scaled (if n then -(m : Int) else m) (e + k)

/-- Whether c · 2^k is no integer. -/
def inexact (c k : Int) : Bool := k < 0 ∧ c % 2 ^ (-k).toNat ≠ 0

/-- NX and SAT of a counter (R310, R311). -/
def sketchCls (nx sat : Bool) : BitVec 6 := (if nx then 16 else 0) ||| (if sat then 32 else 0)

/-- The classes of an increment of SKUPD (R308). -/
def incrementCls (v : Val) (k : Int) : BitVec 6 :=
  match v with
  | .nan _ => 1
  | .inf _ => 0
  | .fin n m e => sketchCls (inexact (if n then -(m : Int) else m) (e + k)) false

/-- Counter i after the elements ks of an SKUPD in order, each an increment with a key, and whether a clamp has changed it
(R303, R308). -/
def updated (x : SkHead) (key : Nat → Nat) (inc : Nat → Int) (i : Nat) : List Nat → Int × Bool → Int × Bool
  | [], c => c
  | k :: ks, c =>
    let p := rowOf x (key k) (i / 2 ^ x.logw)
    let z := if p.2 then c.1 - inc k else c.1 + inc k
    updated x key inc i ks (if p.1 = i then (skClamp x.cw z, c.2 || skClamp x.cw z != z) else c)

/-! ### Copies -/

/-- A copy form with its descriptor x (R221 to R224): the register of the descriptor's address; the copy that it issues;
whether the tile it names may be used; whether registers, groups, shape and leading element pass; and the tiles as it leaves
them. -/
def copyForm (i : Instr) (s : State) (x : BitVec 1024) : Option (SReg × Copy × Prop × Prop × Vector Tile 8) :=
  let acc : Bool → Acc := fun r => if r then .write else .read
  match i with
  | .cpyv d a g r => some (a,
    { kind := 0, out := r, desc := x, reg := d.val, regs := g.val + 1, tile := .empty, seq := s.st.nextSeq, done := 0,
      status := none },
    True, d.val % (g.val + 1) = 0 ∧ d.val + g.val + 1 ≤ 32 ∧ copyTotal x ≤ (g.val + 1) * (8192 / copyWidth x) ∧
      s.copyLeading x (acc r) = none, s.st.tiles)
  | .cpyx d a r =>
    let n := copyCtl x / 2 ^ 53 % 8 + 1
    let v := copyCtl x / 2 ^ 48 % 32
    let p := s.strand (copyCtl x / 2 ^ 32 % 2 ^ 11)
    some (a,
      { kind := 1, out := r, desc := x, reg := d.val, regs := 0, tile := .empty, seq := s.st.nextSeq, done := 0,
        status := none },
      True, copyDims x = 1 ∧ p.stat ≠ .absent ∧ p.gkey = s.st.gkey ∧ d.val % n = 0 ∧ d.val + n ≤ 32 ∧ v % n = 0 ∧
        v + n ≤ 32 ∧ copyLen x 0 ≤ n * (8192 / copyWidth x), s.st.tiles)
  | .cpyt d a r => some (a,
    { kind := 2, out := r, desc := x, reg := d.val, regs := 0, tile := s.st.tiles[d].cur, seq := s.st.nextSeq, done := 0,
      status := none },
    if r then Readable s d else (d.val < s.st.lim.tiles ∧ s.st.tiles[d].st = .ready),
    (∀ j, j < copyTotal x → (copyTile x j).1 < s.st.tiles[d].cur.rows ∧
      ((copyTile x j).2 + 1) * copyWidth x ≤ 8 * s.st.tiles[d].cur.len) ∧ s.copyLeading x (acc r) = none,
    s.st.tiles.set d { s.st.tiles[d] with st := if r then .draining else .filling })
  | _ => none

/-- Element j of a copy of n elements is still to be transferred (R221, R225). -/
def Left (c : Copy) (n j : Nat) : Prop := c.done ≤ j ∧ j < n

/-! ### Scalar forms that change more than registers -/

/-- A scalar instruction has moved on; besides, the machine is u. -/
def MovedIn (s t u : State) : Prop :=
  Passed s t ∧
  t = { u with st := { u.st with pc := t.st.pc, pfx := t.st.pfx, pfxLive := t.st.pfxLive, clause := t.st.clause } }

/-- A scalar instruction has written v to d and moved on; besides, the machine is u. -/
def ResultIn (s t u : State) (d : SReg) (v : Word) : Prop :=
  Wrote s t d v ∧ Passed s t ∧
  t = { u with st := { u.st with
    regs := t.st.regs, pc := t.st.pc, pfx := t.st.pfx, pfxLive := t.st.pfxLive, clause := t.st.clause } }

/-- The machine with the stream at a port replaced. -/
def withStream (s : State) (p : Fin 16) (x : Stream) : State :=
  { s with st := { s.st with streams := s.st.streams.set p x } }

/-- A bound port whose stream takes or gives elements (R212, R214). -/
def LiveStream (s : State) (p : Fin 16) : Prop :=
  p.val < s.st.csr.strmap.toNat / 2 ^ 5 % 2 ^ 5 ∧ s.st.streams[p].st ≠ .idle ∧ s.st.streams[p].st ≠ .ended

/-- A read stream after one element (R211, R214). -/
def movedOne (x : Stream) : Stream :=
  { x with
    cur := x.cur + 1, buf := x.buf.filter fun (p : Nat × Word) => decide (x.cur + 1 ≤ p.1),
    st := if x.cur + 1 = x.count then .ended else .running }

/-- The command of a PUSH of four words from register a on (R210). -/
def cmdOf (s : State) (a : SReg) : Cmd :=
  let w : Nat → Word := fun i => s.r (Fin.ofNat 32 (a.val + i))
  { w0 := w 0, w1 := w 1, w2 := w 2, w3 := w 3, seq := s.st.nextSeq, ord := s.st.pushes, trans := 0, status := none }

/-- The strand after one more PUSH (R226). -/
def pushedOn (t : Strand) : Strand := { t with pushes := t.pushes + 1 }

/-! ### Queues -/

/-- A register value that names a queue of the strand's context (R269). -/
def NamesQueue (s : State) (w : Word) (q : Queue) : Prop :=
  w.toNat % 128 = 0 ∧ w.toNat < 2 ^ 56 ∧ (∃ e n, s.leafOf (coreOf s.slot) s.st.ctx w.toNat pteQ = some (e, n) ∧ pteQ e = true) ∧
  s.queue? s.st.ctx w.toNat = some q

/-- The queue q has become q', and every other queue is as it was. -/
def QueueTo (s t : State) (q q' : Queue) : Prop :=
  t.queue? q.ctx q.va = some q' ∧ ∀ c v, (c ≠ q.ctx ∨ v ≠ q.va) → t.queue? c v = s.queue? c v

/-- Where the 64 bytes of a record lie (R269). -/
def RecordAt (s : State) (w : Word) (k : Acc) (ls : List Nat) : Prop := w.toNat % 64 = 0 ∧ s.locs s.me w.toNat 64 k = .ok ls

/-- The entry that a QPOP selects (R272): the first ready one of the first 8 of the highest level that holds any. -/
def Selected (s : State) (q : Queue) (e : QRec) : Prop :=
  ∃ p : Fin 8, (∀ h : Fin 8, p < h → q.levels[h] = []) ∧ (q.levels[p].take 8).find? (fun e => s.recReady q e.data.toNat) = some e

/-- Memory after the delivery of entry e of queue q to the places ls (R267, R270): they hold the record, and where FREE is
set the counter of DEP0 holds 2^63. The counter and the tables that lead to it lie elsewhere. -/
def DeliveredTo (s t : State) (q : Queue) (e : QRec) (ls : List Nat) : Prop :=
  Holds t ls e.data.toNat ∧
  ∃ cs, (if recDv e.data.toNat 0 = true ∧ recDep e.data.toNat 0 / 2 ^ 31 = 1
      then s.counterAt q (recDep e.data.toNat 0 % 65536) = some cs else cs = []) ∧
    Holds t cs (2 ^ 63) ∧ SameOutside (ls ++ cs) s t

/-- The places ls of a record are apart from the tables and from every counter of the queue. -/
def RecordApart (s : State) (q : Queue) (ls : List Nat) : Prop :=
  ls.Nodup ∧
  (∀ m, (∀ l, l ∉ ls → Memory.get m l = Memory.get s.mem l) →
    ∀ va, ({ s with mem := m }.walkIn q.ctx va).1 = (s.walkIn q.ctx va).1) ∧
  ∀ n cs, n < 65536 → s.counterAt q n = some cs → cs.length = 8 ∧ cs.Nodup ∧ ∀ l ∈ cs, l ∉ ls

/-- SEQ, SEALED and PRIO of a result that delivers (R270). -/
def deliveredWord (q : Queue) (e : QRec) : Word :=
  BitVec.ofNat 64 (e.seq.toNat + (if q.isSealed then 2 ^ 49 else 0) + recPrio e.data.toNat * 2 ^ 50)

/-- EMPTY, with SEALED where the queue is sealed (R270). -/
def nothingWord (q : Queue) : Word := BitVec.ofNat 64 (2 ^ 48 + if q.isSealed then 2 ^ 49 else 0)

/-- The forms that name a queue, with the register that does and the kind of queue they take (R269). -/
def queueForm : Instr → Option (SReg × Option Bool)
  | .qpush _ a _ | .qlen _ a => some (a, none)
  | .qpop _ a _ => some (a, some false)
  | .qpushb _ a _ | .qpopb _ a _ | .qsteal _ a _ => some (a, some true)
  | _ => none

/-- The tags of the operands of a record, and whether a method is for just these (R277). -/
def tagsOf (r : Nat) : List Nat := (List.range (r / 2 ^ 19 % 8)).map fun p => r / 2 ^ (184 + 64 * p) % 2 ^ 8
/-- The method fits the record. -/
def FitsExactly (m : Method) (r : Nat) : Prop := m.op = r % 2 ^ 16 ∧ m.tags = tagsOf r

/-- A method of the table that fits a record once the operands p, one or two, have been converted, by conversions of the table
(R278). -/
def FitsConverted (ms : List Method) (r : Nat) (m : Method) (p : List Nat) : Prop :=
  m.op = r % 2 ^ 16 ∧ m.tags.length = (tagsOf r).length ∧ 1 ≤ p.length ∧ p.length ≤ 2 ∧
  p = (List.range (tagsOf r).length).filter (fun i => (tagsOf r)[i]? ≠ m.tags[i]?) ∧
  ∀ i ∈ p, ∃ x ∈ ms, x.op = 0xFFFF ∧ x.tags = [(tagsOf r).getD i 0, m.tags.getD i 0]

/-- The plan of R278: the fewest conversions, and of several such methods the first. -/
def IsPlan (ms : List Method) (r : Nat) (m : Method) (p : List Nat) : Prop :=
  ∃ n : Nat, ms[n]? = some m ∧ FitsConverted ms r m p ∧
    ∀ (j : Nat) m' p', ms[j]? = some m' → FitsConverted ms r m' p' → p.length < p'.length ∨ (p.length = p'.length ∧ n ≤ j)

/-- The records of a plan in the order written (R279): a conversion for each operand of p, whose counter is c, and the original,
which waits for as many as there are. -/
def planRecords (r : Nat) (m : Method) (p : List Nat) (c : Nat) : List Nat :=
  let opd := fun i => r / 2 ^ (128 + 64 * i) % 2 ^ 64
  let retag := fun i => opd i % 2 ^ 56 + m.tags.getD i 0 * 2 ^ 56
  (p.map fun i => 0xFFFF + r / 2 ^ 16 % 2 ^ 3 * 2 ^ 16 + 2 * 2 ^ 19 + 2 ^ 24 + r / 2 ^ 32 % 2 ^ 32 * 2 ^ 32 + c * 2 ^ 96 +
    opd i * 2 ^ 128 + retag i * 2 ^ 192) ++
  [r % 2 ^ 22 + 2 ^ 22 + r / 2 ^ 24 % 2 ^ 40 * 2 ^ 24 + (c + p.length * 2 ^ 16 + 2 ^ 31) * 2 ^ 64 +
    ((List.range 6).map fun i => (if i ∈ p then retag i else opd i) * 2 ^ (128 + 64 * i)).sum]

/-! ### Groups -/

/-- The group of the strand has become h, and every other group is as it was. -/
def GroupTo (s t : State) (h : Group) : Prop :=
  t.group? s.st.gkey = some h ∧ ∀ g, g ≠ s.st.gkey → t.group? g = s.group? g

/-- A barrier unit after one arrival (R293). -/
def arrived (x : Barrier) : Barrier :=
  if x.arr + 1 = x.n then { n := x.n, arr := 0, ph := x.ph + 1 } else { n := x.n, arr := x.arr + 1, ph := x.ph }

/-- After an arrival at barrier n of group g that leaves it as y: where it opened a phase, every strand of the group that was
parked for it has gone on (R296); no other strand has changed. -/
def Woken (s t : State) (g : Group) (n : Nat) (x y : Barrier) : Prop :=
  ∀ k, k ≠ s.slot → t.strand k =
    if y.ph ≠ x.ph ∧ k ∈ g.live ∧ k / 64 = g.cluster then (s.strand k).pastBar n y else s.strand k

/-- The forms of major 0x3B, with d, a and b (R347). -/
def systemForm : Instr → Option (SReg × SReg × SReg)
  | .ctxhalt d a => some (d, a, 0)
  | .scrubCluster d a b | .scrubL2 d a b | .scrubShadowSlot d a b | .waysetSet d a b | .waysetRead d a b | .setroot d a b
  | .invva d a b | .invctx d a b | .walk d a b | .auditAppend d a b | .auditSeal d a b | .auditFree d a b
  | .auditExtend d a b => some (d, a, b)
  | _ => none

/-- Slices that sa of a WAYSET names (R353). -/
def waySlice (x n : Nat) : Prop := n / 128 = x / 512 % 4 ∧ (x / 256 % 2 = 1 ∨ n % 128 = x / 2 % 128)

/-- The mask m in these slices for context c, which is y, meets that of another tenant although one of the two is strict
(R353, R355; for a context that is not strict the model's reading, log 97). -/
def meetsStrict (s : State) (c : BitVec 16) (y : Context) (m : BitVec 16) (x : Nat) : Prop :=
  ∃ p ∈ s.ctxs, p.1 ≠ 0 ∧ p.1 ≠ c.toNat ∧ (y.strict = true ∨ p.2.strict = true) ∧
    ∃ n, waySlice x n ∧ s.wayMask n (BitVec.ofNat 16 p.1) &&& m ≠ 0

/-- The groups of a machine with the barrier units of the clusters P idle (R292, R349); what is saved with a pre-empted group
stays. -/
def barsCleared (P : Nat → Bool) (l : List (Nat × Group)) : List (Nat × Group) :=
  l.map fun g => if P g.2.cluster ∧ g.2.saved = [] then (g.1, { g.2 with bars := Vector.replicate 8 .idle }) else g

/-- No cluster of a partition has been used by a strand of the system context since its last scrub. -/
def NoneSoiled (s : State) (clu : BitVec 32) : Prop := ∀ n ∈ s.soiled, clu.getLsbD n = false

/-- Nothing of a cluster is left but zeros: its memories, accumulator rows and operand slots (R350). -/
def Zeroed (t : State) (n : Nat) : Prop :=
  (∀ l, inCluster n l = true → Memory.get t.mem l = 0) ∧ (∀ k, k / 32768 = n → lookup 0 k t.acc = 0) ∧
  ∀ k, k / 128 = n → lookup .empty k t.oslots = .empty

/-- A reply of a form over a unit that it scrubbed (R349, R351): the audit log has gained an entry, and a unit that failed is out
of service. -/
def Scrubbed (s t u : State) (d : SReg) (x : ScrubUnit) : Prop :=
  ResultIn s t { u with hamada := t.hamada, pkg := { s.pkg with badUnits := t.pkg.badUnits } } d
    (if x ∈ s.pkg.badUnits ∨ x ∈ s.pkg.failing then 1 else 0) ∧
  ∀ y, y ∈ t.pkg.badUnits ↔ y ∈ s.pkg.badUnits ∨ (y = x ∧ x ∈ s.pkg.failing)

/-! ### Work in the background -/

/-- t is the strand of slot k, and no work of an earlier strand of that slot is left. -/
def OnSlot (s : State) (k : Nat) (t : Strand) : Prop := t = s.strand k ∧ ∀ p ∈ s.ending, p.1 ≠ k

/-- The strand of slot k has become u, and every other strand is as it was. -/
def StrandTo (s t : State) (k : Nat) (u : Strand) : Prop := t.strand k = u ∧ ∀ j, j ≠ k → t.strand j = s.strand j

/-- Nothing precedes the port commands of a strand (R210). -/
def NothingBefore (t : Strand) : Prop := t.queue = [] ∧ t.copies = [] ∧ ∀ n : Fin 16, t.streams[n].fifo = []

/-- Command i, which is c, has no status, and no older one without a status may write a line that it may write: it may act
(R321). -/
def MayAct (s : State) (k : Nat) (t : Strand) (i : Nat) (c : Cmd) : Prop :=
  t.cmds[i]? = some c ∧ c.status = none ∧
  ∀ j x, j < i → t.cmds[j]? = some x → x.status = none → s.cmdsMeet (playaOf k t.ctx) x c = false

/-- It is the only one that may act and moves by its row of the table. -/
def ActsAlone (s : State) (k : Nat) (t : Strand) (i : Nat) (c : Cmd) : Prop :=
  MayAct s k t i c ∧ ∀ j x, j ≠ i → MayAct s k t j x → x.op ≠ c.op ∧ 1 ≤ x.op ∧ x.op ≤ 5

/-- Collective i, which is c, is the oldest of a strand that has no status. -/
def OldestColl (t : Strand) (i : Nat) (c : Coll) : Prop :=
  t.colls[i]? = some c ∧ c.status = none ∧ ∀ j x, j < i → t.colls[j]? = some x → x.status ≠ none

/-- Vector registers x have become y: the elements P, of w bits, from register r on hold the values v, and every other bit is as
before. -/
def CopiedTo (x y : VecFile) (r w : Nat) (P : Nat → Prop) (v : Nat → Nat) : Prop :=
  y = { x with v := y.v, wext := y.wext } ∧ (∀ j, P j → y.elem r j w = v j) ∧
  ∀ (q : Fin 32) (p : Nat), (∀ j, P j → ¬(q.val = r + j / (8192 / w) ∧ j % (8192 / w) * w ≤ p ∧
    p < (j % (8192 / w) + 1) * w)) → y.v[q].getLsbD p = x.v[q].getLsbD p

/-- No two bytes of a tile's shape have one place. -/
def OnePlaceEach (s : State) (w : Who) (x : TileDef) : Prop :=
  ∀ r c r' c', r < x.rows → c < x.len → r' < x.rows → c' < x.len → s.tileByte w x r c = s.tileByte w x r' c' → r = r' ∧ c = c'

/-- Block b of line l of a tile, a row for LAY 0 and a column for LAY 1, has an element that is no zero encoding of FMT
(R186). -/
def BlockHas (s : State) (w : Who) (x : TileDef) (l b : Nat) : Prop :=
  ∃ i, i / 32 = b ∧ i < x.lines.2 ∧ zeroEnc (tagFmt x.tag)
    (if tagLay x.tag = 0 then s.tileElem w x l i (codeBits (tagFmt x.tag)) else s.tileElem w x i l (codeBits (tagFmt x.tag))) = false

/-- At most one block of every aligned group of n has an element that is not zero. -/
def OneInGroup (s : State) (w : Who) (x : TileDef) (n : Nat) : Prop :=
  ∀ l a b, l < x.lines.1 → a < x.blocks → b < x.blocks → a / n = b / n → BlockHas s w x l a → BlockHas s w x l b → a = b

/-- y is the tile x after the end of a fill (R186): a locked tag stays; else FMT and LAY stay, SP is quarter, half or dense as the
blocks allow, and the bitmap keeps the block of each group that is not zero, or its first. -/
def Recomputed (s : State) (w : Who) (x y : TileDef) : Prop :=
  (tagLock x.tag = true → y = x) ∧
  (tagLock x.tag = false → ∃ sp, y = { x with tag := mkTag (tagFmt x.tag) sp (tagLay x.tag) false, bitmap := y.bitmap } ∧
    (OneInGroup s w x 4 → sp = 2) ∧ (¬OneInGroup s w x 4 → OneInGroup s w x 2 → sp = 1) ∧
    (¬OneInGroup s w x 4 → ¬OneInGroup s w x 2 → sp = 0 ∧ y.bitmap = BitVec.allOnes 16384) ∧
    ∀ n, (sp = 1 ∧ n = 2) ∨ (sp = 2 ∧ n = 4) → ∀ l b, l < x.lines.1 → b < x.blocks → x.bit l b < 16384 →
      (y.bitmap.getLsbD (x.bit l b) = true ↔
        BlockHas s w x l b ∨ (b % n = 0 ∧ ∀ a, a / n = b / n → ¬BlockHas s w x l a)))

/-- Stores to the places P do not change how an address of a context translates. -/
def TablesOfApart (s : State) (c : BitVec 16) (P : Nat → Prop) : Prop :=
  ∀ m, (∀ a, ¬P a → Memory.get m a = Memory.get s.mem a) →
    ∀ va, ({ s with mem := m }.walkIn c va).1 = (s.walkIn c va).1

/-- The new values of element j of a command, from A, B and m (R318): of A, and of m where FADE has momentum. -/
def playaValue (c : Cmd) (a b m : Nat) : Nat × Nat :=
  let f := c.fp
  let x := FP.f32.val (c.w3.toNat % 2 ^ 32)
  let y := FP.f32.val (c.w3.toNat / 2 ^ 32)
  let fm := fun (p q r : Val) => ((p.mul q).1.add .rne r).1
  let one : Val := .fin false 1 0
  let m1 := (f.round .rne (fm one (fm (FP.bf16.val (c.w0.toNat / 2 ^ 16 % 2 ^ 16)) (f.val m) (f.val b))
    (fm y (f.val a) (.fin true 0 0)))).1
  match c.op with
  | 1 => ((f.round .rne (fm x (f.val b) (f.val a))).1, 0)
  | 2 => if c.w0.getLsbD 10 then ((f.round .rne (fm x.negate (f.val m1) (f.val a))).1, m1)
    else ((f.round .rne (fm x.negate (fm y (f.val a) (f.val b)) (f.val a))).1, 0)
  | 3 => (c.w3.toNat % 2 ^ (8 * c.e), 0)
  | _ => (b, 0)

/-- The row of the table for a Playa operation, and for a collective's. -/
noncomputable def playaRowOf (op k : Nat) : Instr :=
  match op with | 1 => .axpy k | 2 => .fade k | 3 => .fill k | 4 => .copy k | _ => .scadd k
/-- The row of a collective's operation. -/
noncomputable def collRowOf (op k : Nat) : Instr := match op with | 1 => .allreduce k | 2 => .reduceScatter k | _ => .sketchSum k

/-- No member has left a collective or ended it. -/
def NobodyLeft (fs : List Flit) : Prop := ∀ f ∈ fs, f.type ≠ 6 ∧ f.type ≠ 7

/-! ### Links -/

/-- The machine with another port p. -/
def withPort (s : State) (p : Fin 16) (x : BPort) : State := { s with link := { s.link with ports := s.link.ports.set p x } }

/-- A port that carries flits (R364). -/
def Carries (x : BPort) : Prop := x.st = .up ∨ x.st = .degraded

/-- A flit arrives at port p, which is x: it is the next in order, and nothing is held or awaited again (R362). -/
def Arrives (s : State) (p : Fin 16) (x : BPort) (f : Flit) : Prop :=
  x = s.link.ports[p] ∧ Carries x ∧ f.seq = x.rxSeq ∧ x.held = [] ∧ x.retry = []

/-- A port after it has sent an acknowledgement (type 4) or a request to send again (type 5) about a number, which bears no number
of its own (the model's choice, log 91). me: this chip; sender: that of the flit. -/
def replied (x : BPort) (type : Nat) (me sender : BitVec 12) (seq : BitVec 16) : BPort :=
  { x with
    sent := x.sent + 1,
    replies := { seq := 0, dst := x.peer.getD sender, src := me, type := BitVec.ofNat 8 type, payload := seq.setWidth 1920 } ::
      x.replies }

/-- A port after it has taken flit f in order and acknowledged it. -/
def tookOne (x : BPort) (me : BitVec 12) (f : Flit) : BPort :=
  { replied x 4 me f.src f.seq with recv := x.recv + 1, rxSeq := x.rxSeq + 1 }

/-- The rows of the table for flits of collectives, with their types (R363, R371, R394). -/
def flitTypeOf : Instr → Option (Fin 16 × Flit × Nat)
  | .contrib p f => some (p, f, 1)
  | .psum p f => some (p, f, 2)
  | .result p f => some (p, f, 3)
  | .leave p f => some (p, f, 6)
  | .abort p f => some (p, f, 7)
  | _ => none

/-- The port that the routes name for a chip. -/
def routeTo (s : State) (chip : Nat) : Option Nat := (s.link.routes.find? fun r => r.1 = chip).map (·.2)

/-- A port after one more flit to send, when nothing else waits (R362, R364): sent at once with the next number, or kept. -/
def sends (x : BPort) (f : Flit) : BPort :=
  if x.st = .up ∨ x.st = .degraded then
    { x with
      unacked := x.unacked ++ [{ f with seq := x.txSeq }], txSeq := x.txSeq + 1, sent := x.sent + 1,
      turn := f.payload.toNat % 2 ^ 16 }
  else { x with tx := [f] }

/-- The flits that a port has to send or has sent and not seen acknowledged, without their numbers. -/
def onPort (x : BPort) : List Flit := (x.unacked ++ x.tx).map fun f => { f with seq := 0 }

/-- A flit of a collective's contributions (R363). chip: its sender; member: the rank it goes to; rest: its fields from byte 16 on. -/
def contribution (chip : BitVec 12) (v : CollEnv) (c : Coll) (member rest : Nat) : Flit :=
  { seq := 0, dst := BitVec.ofNat 12 (v.ms.getD member 0), src := chip, type := if c.op = 3 then 2 else 1,
    payload := BitVec.ofNat 1920 (v.ctx.toNat + c.grp % 2 ^ 8 * 2 ^ 16 + c.num % 2 ^ 32 * 2 ^ 32 + c.w0.toNat * 2 ^ 64 +
      rest * 2 ^ 128) }

/-- What a member sends for a collective (R363): every chunk that another member owns, in parts of what a flit holds: 52 values
of 32 bits, 104 of 16 and 34 of 48, each with its chunk, its first index and the bit of this member; then a flit without data
to each member that gets no contribution from this one and no result. vals: this member's values of a chunk. -/
def contributions (chip : BitVec 12) (v : CollEnv) (c : Coll) (vals : Nat → List Nat) : List Flit :=
  let p := v.ms.length
  let w := if c.op = 3 then 48 else 8 * v.size
  let cap := if w = 48 then 34 else if w = 16 then 104 else 52
  let owns := fun r => (List.range (v.chunks c)).any fun ch => ch % p = r
  ((List.range (v.chunks c)).filter fun ch => ch % p ≠ v.rank).flatMap (fun ch =>
    (List.range (((vals ch).length + cap - 1) / cap)).map fun j =>
      contribution chip v c (ch % p) (ch + cap * j * 2 ^ 32 + 2 ^ v.rank * 2 ^ 64 +
        (((vals ch).drop (cap * j)).take cap).foldr (fun x a => x + a * 2 ^ w) 0 * 2 ^ 128)) ++
  ((List.range p).filter fun r => decide (r ≠ v.rank) && !owns r && (c.op = 2 || !owns v.rank)).map fun r =>
    contribution chip v c r (2 ^ 32 - 1)

/-! ### What the host is told, and what it asks -/

/-- A record of the ring (R357): CODE, TAG, CTX, STATUS, and the results from byte 8 on as a number. -/
def record (code : Nat) (tag c : BitVec 16) (status x : Nat) : Report :=
  BitVec.ofNat 512 (code + tag.toNat * 2 ^ 16 + c.toNat * 2 ^ 32 + status * 2 ^ 48 + x * 2 ^ 64)

/-- The machine u with more records for the host. -/
def told (u : State) (rs : List Report) : State := { u with host := { u.host with waiting := u.host.waiting ++ rs } }

/-- Report 0x83 of a port in a state with its code (R360). -/
def portRecord (p : Fin 16) (code lanes : Nat) : Report := record 0x83 0 0 0 (p.val + code * 2 ^ 8 + lanes * 2 ^ 16)

/-- The completion of a request with status 0 and results x. -/
def granted (q : Req) (code x : Nat) : Report := record code q.tag q.ctx 0 x

/-- A request that is served: over a trained link, by a Ready module, no byte set outside its fields (R357, R359, R390). -/
def Served (s : State) (q : Req) (fs : List (Nat × Nat)) : Prop :=
  s.host.trained = true ∧ s.pkg.state = 4 ∧ Req.only q fs = true

/-- A served request about a tenant context x (R358). -/
def About (s : State) (q : Req) (fs : List (Nat × Nat)) (x : Context) : Prop :=
  Served s q fs ∧ q.ctx ≠ 0 ∧ s.ctx? q.ctx = some x

/-- A context that does not go (R342). -/
def Stays (x : Context) : Prop := x.st ≠ .releasing ∧ x.st ≠ .released

/-- Context c has become y, and every other context is as it was. -/
def CtxTo (s t : State) (c : BitVec 16) (y : Context) : Prop :=
  t.ctx? c = some y ∧ ∀ d, d ≠ c → t.ctx? d = s.ctx? d

/-- A VWAIT (R175). -/
def waits : Instr → Bool
  | .vwait _ _ _ _ _ _ => true
  | _ => false

/-- A strand without an accepted store that has been stopped, in the state st (R45, R70, R144, R175, R214, R272, R291): a VWAIT
at its head waits anew from no element, any other head entry stands at the boundary it had reached; a parked QPOP is to be
executed again; no hazard of its clause is left and no element that a stream has fetched ahead; nothing else of it changes. -/
def stoppedAs (st : SStat) (t : Strand) : Strand :=
  { t with
    stat := st, park := if t.park = .vwait ∨ t.park = .qpop then .none else t.park,
    csr := { t.csr with vstart := vstartStopped t }, prog := 0,
    clause := t.clause.map fun c => { c with log := [] },
    streams := t.streams.map fun (x : Stream) => if x.write then x else { x with buf := [] },
    queue := match t.queue with
      | e :: r => (if waits e.instr then { e with done := 0 } else e) :: r
      | [] => [] }

/-- No strand has a store that it has accepted and that has not performed, and no strand of context c that has ended has work
left. -/
def Settled (s : State) (c : BitVec 16) : Prop :=
  (∀ k, (s.strand k).late = []) ∧ ∀ p ∈ s.ending, p.2.ctx ≠ c

/-- Every cluster of context c, which is x, has given up its strands, and an image of it stands in the shadow store or the
spill region (R345): the strands stopped, the barrier units of the groups there (R292), and the bytes of its memories. -/
def Imaged (s t : State) (c : BitVec 16) (x : Context) : Prop :=
  ∀ n, n < 32 → x.clu.getLsbD n = true → (∀ k, k / 64 = n → (t.strand k).stat = .absent) ∧
    ∃ i : Image, (i ∈ t.spill ∨ ∃ j : Fin 8, t.shadow[j] = some i) ∧ i.ctx = c ∧ i.cluster = n ∧
      (∀ k, k / 64 = n → (s.strand k).stat ≠ .absent → (s.strand k).ctx = c →
        (k, stoppedAs .halted (s.strand k)) ∈ i.strands) ∧ i.hash = imageHash i ∧ i.gseed = x.gseed ∧
      (∀ g ∈ s.groups, g.2.ctx = c → g.2.cluster = n → (g.1, g.2.bars) ∈ i.bars) ∧
      ∀ l, (spadAt (8 * n) ≤ l ∧ l < spadAt (8 * n + 8)) ∨ (clusterAt n ≤ l ∧ l < clusterAt (n + 1)) →
        Memory.get i.cells l = Memory.get s.mem l

/-- The fields of a request to map or to fill on demand are within their limits (R359); size of its pages. -/
def MapFields (q : Req) (size : Nat) : Prop :=
  ((Req.arg q 24 1 = 0 ∧ size = 65536) ∨ (Req.arg q 24 1 = 1 ∧ size = 2097152) ∨ (Req.arg q 24 1 = 2 ∧ size = 1073741824)) ∧
  Req.arg q 25 1 < 8 ∧ Req.arg q 8 8 % size = 0 ∧ Req.arg q 16 8 % size = 0 ∧ 0 < Req.arg q 16 8 ∧
  Req.arg q 8 8 + Req.arg q 16 8 ≤ 2 ^ 56

/-- A byte, or bytes, of a host block as a number (R359). -/
def blockField (b : List Byte) (o n : Nat) : Nat := bytesToNat ((b.drop o).take n)

/-- The block that a request's address field names is aligned and gives n bytes b (R359). -/
def BlockOf (q : Req) (n : Nat) (b : List Byte) : Prop :=
  ∃ h, q.block = some h ∧ Req.arg q 8 8 % 64 = 0 ∧ n ≤ h.length ∧ b = h.take n

/-- A strand of group g as admission starts it (R257, R283, R315): strand i, from row row of the accumulators and stream
str of its core. -/
def Started (s : State) (l : Launch) (k : Kernel) (gkey g i row str : Nat) (u : Strand) : Prop :=
  u.stat = .running ∧ u.ctx = l.ctx ∧ u.gkey = gkey ∧ u.wid = BitVec.ofNat 64 (g * 2 ^ widW k.widf 0 + i) ∧
  u.pc = k.entry.setWidth 56 ∧ u.trap.tvec = k.tvec.setWidth 56 ∧ u.trap.inh = false ∧
  (∀ r : SReg, u.reg r = if 1 ≤ r.val ∧ r.val ≤ 15 then l.s.toList.getD (r.val - 1) 0 else 0) ∧
  u.csr = { Csrs.reset with
    widf := k.widf, lanew := l.lane.setWidth 4, lanea := BitVec.ofNat 4 (2 ^ (l.lane.toNat / 16 % 4)),
    accbase := BitVec.ofNat 13 row, acclim := BitVec.ofNat 13 (row + k.accrows),
    strmap := BitVec.ofNat 10 (str + 32 * k.streams), mtab := k.mtab } ∧
  u.queue = [] ∧ u.vec = .reset ∧ u.key = mix (match s.ctx? l.ctx with | some x => x.gseed | none => 0) (u.wid.setWidth 128) ∧
  u.ctr = 0

/-- An image of the Oasis software that Hamada accepts (R377, R378). -/
def Accepts (i : BootImage) : Prop :=
  i.magic = 0x5349414F ∧ i.zerosOk = true ∧ i.body.length ≤ 2 ^ 28 ∧ shake256 (bvBytes 64 i.pk) = Config.fuseSigner ∧
  xmssVerifies i.pk i.sig (shake256 (bvBytes 4 i.magic ++ bvBytes 4 i.svn ++ natToBytes 8 i.body.length ++
    bvBytes 64 i.pk ++ i.body)) = true ∧ Config.fuseMinsvn.toNat ≤ i.svn.toNat

/-- What every step keeps: memory stands in its canonical form, and no strand that stands in a slot, is saved with its group
or stands in an image holds a grant longer than VLMAX (R124). -/
def Inv (s : State) : Prop :=
  Memory.wf s.mem = true ∧ ∀ p ∈ s.allStrands, p.2.grant.len ≤ vlmax p.2.grant.vtype

end Sys2Proof.Safety
end

