-- ==== Sys2Proof/Certificates/Slice0/Obligations.lean ====
section
/-! DEFINITION. The statements for the provers. They use the terms of Sys2Proof/Safety.lean. -/

open Sys2Proof Sys2Proof.Machine Sys2Proof.Safety

/-! ### Scalar forms (06) -/

/-- R97: every form of majors 0x01 and 0x02 writes f(sa, sb) to sd and changes nothing else. CLZ, CTZ and POPC are said
by what they count. -/
def Obligations.IntegerRegisterForms : Prop :=
  (∀ (i : Instr) (s : State) (d a b : SReg) (v : Word), regs3 i = some (d, a, b) → op2 i (s.r a) (s.r b) = some v →
    ∃ t, exec i s = .next t ∧ ScalarResult s t d v) ∧
  (∀ (s : State) (d a : SReg), ∃ t n, exec (.clz d a) s = .next t ∧ ScalarResult s t d (BitVec.ofNat 64 n) ∧ n ≤ 64 ∧
    (∀ k, 64 - n ≤ k → (s.r a).getLsbD k = false) ∧ (n < 64 → (s.r a).getLsbD (63 - n) = true)) ∧
  (∀ (s : State) (d a : SReg), ∃ t n, exec (.ctz d a) s = .next t ∧ ScalarResult s t d (BitVec.ofNat 64 n) ∧ n ≤ 64 ∧
    (∀ k, k < n → (s.r a).getLsbD k = false) ∧ (n < 64 → (s.r a).getLsbD n = true)) ∧
  (∀ (s : State) (d a : SReg), ∃ t, exec (.popc d a) s = .next t ∧
    ScalarResult s t d (BitVec.ofNat 64 ((List.range 64).countP fun k => (s.r a).getLsbD k)))

/-- R98: SEL, with its fourth field in bits [10:6]; the sources are read before sd is written. -/
def Obligations.SelectForm : Prop :=
  ∀ (s : State) (d a b c : SReg),
    (∃ t, exec (.sel d a b c) s = .next t ∧ ScalarResult s t d (if s.r c ≠ 0 then s.r a else s.r b)) ∧
    (∃ w, encode (.sel d a b c) = some w ∧ w / 2 ^ 26 = 3 ∧ w / 2 ^ 6 % 2 ^ 5 = c.val)

/-- R99: the immediate forms. The sign-extended immediate, whose high bits a payload gives (R66), stands in place of sb. -/
def Obligations.ImmediateForms : Prop :=
  ∀ (i : Instr) (s : State) (d : SReg) (v : Word), immResult i s = some (d, v) →
    ∃ t, exec i s = .next t ∧ ScalarResult s t d v

/-- R100: LIH. -/
def Obligations.LoadImmediateHigh : Prop :=
  ∀ (s : State) (d : SReg) (f : BitVec 17), ∃ t v, exec (.lih d f) s = .next t ∧ ScalarResult s t d v ∧
    v.toInt = f.toInt * 2 ^ 16 ∧ v.toNat % 2 ^ 16 = 0 ∧ (∀ k, 32 ≤ k → k < 64 → v.getLsbD k = v.getLsbD 32) ∧
    encode (.lih d f) = some (0x07 * 2 ^ 26 + d.val * 2 ^ 21 + f.toNat) ∧ Instr.pay (.lih d f) = .dash

/-- R101: LD and LDN. ls are the places of the bytes at ea = sa + sext(off). R230: where a store that the strand has accepted
has still to perform to these bytes, it performs first, and the load sees it. -/
def Obligations.ScalarLoads : Prop :=
  ∀ (s : State) (d a : SReg) (w : LW) (f : BitVec 14) (ea : Word) (ls : List Nat),
    ea = BitVec.ofInt 64 ((s.r a).toInt + (immOf s.st 14 f).toInt) → ea.toNat % w.bytes = 0 →
    s.locs s.me ea.toNat w.bytes .read = .ok ls →
    (NoneLate s ls →
      (∃ t, exec (.ld d a w f) s = .next t ∧ Wrote s t d ((BitVec.ofNat (8 * w.bytes) (s.get ls)).signExtend 64) ∧
        Passed s t ∧ OnlyRegsMem s t ∧ SameMemory s t) ∧
      (∃ t, exec (.ldn d a w f) s = .next t ∧ Wrote s t d (BitVec.ofNat 64 (s.get ls)) ∧
        Passed s t ∧ OnlyRegsMem s t ∧ SameMemory s t)) ∧
    (∀ v, s.st.late = [(ls, v)] → ∃ t, exec (.ldn d a w f) s = .next t ∧ Wrote s t d (BitVec.ofNat 64 (v % 256 ^ w.bytes)) ∧
      Passed s t ∧ t.st.late = [] ∧ OnlyRegsMem s { t with st := { t.st with late := s.st.late } } ∧ Holds t ls v ∧
      SameOutside ls s t)

/-- R101: ST writes the low bytes of sd at ea, and no other byte of memory changes. R227, R230: the store may be accepted at once
and perform later; then memory is as before, and the strand keeps what it has still to write. -/
def Obligations.ScalarStores : Prop :=
  ∀ (s : State) (d a : SReg) (w : LW) (f : BitVec 14) (ea : Word) (ls : List Nat),
    ea = BitVec.ofInt 64 ((s.r a).toInt + (immOf s.st 14 f).toInt) → ea.toNat % w.bytes = 0 →
    s.locs s.me ea.toNat w.bytes .write = .ok ls →
    (s.st.lateOn = false → NoneLate s ls →
      ∃ t, exec (.st d a w f) s = .next t ∧ ls.length = w.bytes ∧ Holds t ls (s.r d).toNat ∧ SameOutside ls s t ∧
        (∀ r, t.st.reg r = s.st.reg r) ∧ Passed s t ∧ OnlyRegsMem s t) ∧
    (s.st.lateOn = true →
      ∃ t, exec (.st d a w f) s = .next t ∧ t.st.late = s.st.late ++ [(ls, (s.r d).toNat)] ∧ SameMemory s t ∧
        (∀ r, t.st.reg r = s.st.reg r) ∧ Passed s t ∧ OnlyRegsMem s { t with st := { t.st with late := s.st.late } })

/-- R103: AMO and CAS are read-modify-writes of the W bytes at ea = sb + off; sd takes the old value, sign-extended; a CAS
that does not compare equal writes nothing (R104). -/
def Obligations.ScalarAtomics : Prop :=
  (∀ (i : Instr) (s : State) (d a b : SReg) (w : MW) (ea : Word) (ls : List Nat) (new : BitVec w.bits),
    amoRegs i = some (d, a, b, w) → ea = BitVec.ofInt 64 ((s.r b).toInt + (immOf s.st 0 (0 : BitVec 0)).toInt) →
    ea.toNat % (w.bits / 8) = 0 → s.locs s.me ea.toNat (w.bits / 8) .rw = .ok ls →
    amoNew i w.bits (BitVec.ofNat w.bits (s.get ls)) ((s.r a).setWidth w.bits) = some new →
    ∃ t, exec i s = .next t ∧ Wrote s t d ((BitVec.ofNat w.bits (s.get ls)).signExtend 64) ∧ Holds t ls new.toNat ∧
      ls.length = w.bits / 8 ∧ SameOutside ls s t ∧ Passed s t ∧ OnlyRegsMem s t) ∧
  (∀ (s : State) (d a b : SReg) (r : Ordr) (w : MW) (ea : Word) (ls : List Nat),
    ea = BitVec.ofInt 64 ((s.r b).toInt + (immOf s.st 0 (0 : BitVec 0)).toInt) →
    ea.toNat % (w.bits / 8) = 0 → s.locs s.me ea.toNat (w.bits / 8) .rw = .ok ls →
    ∃ t, exec (.cas d a b r w) s = .next t ∧ Wrote s t d ((BitVec.ofNat w.bits (s.get ls)).signExtend 64) ∧
      (s.get ls = ((s.r d).setWidth w.bits).toNat → Holds t ls ((s.r a).setWidth w.bits).toNat) ∧
      (s.get ls ≠ ((s.r d).setWidth w.bits).toNat → SameMemory s t) ∧ SameOutside ls s t ∧ Passed s t ∧ OnlyRegsMem s t)

/-- R102, R40, R336, R384: the order of the checks of a scalar access, and what each failure does. A misaligned access, a window
bound and an address of no space are delivered with TVAL = ea; an unmapped page makes the strand wait for the Oasis kernel and
changes nothing else; a permission violation is logged and told as report 0x82 before it is delivered, and while the
log has no place the instruction does nothing. -/
def Obligations.ScalarAccessFaults : Prop :=
  ∀ (i : Instr) (s : State) (ea : Word) (n : Nat) (k : Acc), accessOf i s = some (ea, n, k) →
    (ea.toNat % n ≠ 0 → HasHandler s → ∃ t, exec i s = .next t ∧ Delivered s t 7 ea) ∧
    (∀ c b, ea.toNat % n = 0 → s.locs s.me ea.toNat n k = .error (c, b) →
      (c = 4 ∨ c = 5 → HasHandler s → ∃ t, exec i s = .next t ∧ Delivered s t c ea) ∧
      (c = 8 → ∃ t, exec i s = .next t ∧
        t = { s with st := { s.st with stat := .waiting { cause := 8, va := BitVec.ofNat 64 b, vec := false } } }) ∧
      (c = 9 → LogOpen s → HasHandler s → ∃ t, exec i s = .next t ∧
        Delivered { s with hamada := t.hamada, host := t.host } t 9 ea ∧ ViolationTold s t s.st.ctx s.slot ea.toNat k 0) ∧
      (c = 9 → s.hamada.places = 0 → exec i s = .next s))

/-- R105: the branches. -/
def Obligations.Branches : Prop :=
  ∀ (i : Instr) (s : State) (c : Prop) (f : BitVec 13), branchOf i s = some (c, f) →
    ∃ t, exec i s = .next t ∧ t.st.regs = s.st.regs ∧ SameMemory s t ∧
      (c → WentTo s t (targetOf s (immOf s.st 13 f))) ∧ (¬c → Passed s t ∧ OnlyRegs s t)

/-- R105 and R106: JAL and JALR. JALR takes its target from sa before sd is written; a misaligned target or one outside the
global addresses traps with TVAL = t, and neither sd nor pc has been written. -/
def Obligations.Jumps : Prop :=
  (∀ (s : State) (d : SReg) (f : BitVec 17), ∃ t, exec (.jal d f) s = .next t ∧
    Wrote s t d ((s.st.pc + 4).setWidth 64) ∧ WentTo s t (targetOf s (immOf s.st 17 f)) ∧ SameMemory s t) ∧
  (∀ (s : State) (d a : SReg) (f : BitVec 16) (x : Word), x = BitVec.ofInt 64 ((s.r a).toInt + (immOf s.st 16 f).toInt) →
    (x.toNat % 4 = 0 → x.toNat < 2 ^ 56 → ∃ t, exec (.jalr d a f) s = .next t ∧
      Wrote s t d ((s.st.pc + 4).setWidth 64) ∧ WentTo s t (x.setWidth 56) ∧ SameMemory s t) ∧
    (x.toNat % 4 ≠ 0 → HasHandler s → ∃ t, exec (.jalr d a f) s = .next t ∧ Delivered s t 7 x) ∧
    (x.toNat % 4 = 0 → 2 ^ 56 ≤ x.toNat → HasHandler s → ∃ t, exec (.jalr d a f) s = .next t ∧ Delivered s t 5 x))

/-- R108 to R111: the scalar floating forms. R110: a class in trap mode traps with the cause of the first such class before
sd or XFLAGS is written; otherwise every class is set in XFLAGS and sd is written, in mode trim as in mode flag. -/
def Obligations.ScalarFloatForms : Prop :=
  ∀ (i : Instr) (s : State) (d : SReg) (v : Word) (c : BitVec 6), floatOf i s = some (d, v, c) →
    (NoTrap s c → ∃ t, exec i s = .next t ∧ FloatResult s t d v c) ∧
    (∀ k, k < 6 → c.getLsbD k = true → mode s k = 2 → (∀ j, j < k → c.getLsbD j = true → mode s j ≠ 2) → HasHandler s →
      ∃ t, exec i s = .next t ∧ Delivered s t (0x10 + k) 0)

/-- R112: CSRR returns the register's value. A synchronising read finds it at once when no entry is older and, for SHAPEn,
no change is held back (R31, R180). -/
def Obligations.ControlRegisterRead : Prop :=
  ∀ (s : State) (d : SReg) (n : Csr),
    (csrSync n = true → s.st.trap.inh = false → s.st.queue = []) →
    (∀ k, n = .shape k → s.st.trap.inh = false → s.st.tiles[k].pending = none) →
    ∃ t, exec (.csrr d n) s = .next t ∧ ScalarResult s t d (s.csrVal n)

/-- R112, R31, R32, R39, R43: CSRW, CSRS and CSRC, and the two rows of CSRW that wait for older entries. The register named takes
what its field map allows; every other control register reads as before. XACT: a field written 0b11 keeps its mode. A form that
names a read-only register raises cause 0x02. -/
def Obligations.ControlRegisterWrite : Prop :=
  (∀ (i : Instr) (s : State) (n : Csr) (v : Word), csrWriteOf i s = some (n, v) → csrWritable n = true →
    (n = .vstart ∨ n = .xflags → s.st.trap.inh = true ∨ Quiet s) →
    ∃ t, exec i s = .next t ∧ Passed s t ∧ SameMemory s t ∧
      t = { s with st := { s.st with
        pc := t.st.pc, pfx := t.st.pfx, pfxLive := t.st.pfxLive, clause := t.st.clause, csr := t.st.csr, trap := t.st.trap } } ∧
      (∀ m, m ≠ n → t.csrVal m = s.csrVal m) ∧
      (n ≠ .xact → t.csrVal n = csrAfter n (s.csrVal n) v) ∧
      (n = .xact → ∀ k, k < 6 →
        mode t k = if v.toNat / 4 ^ k % 4 = 3 then mode s k else v.toNat / 4 ^ k % 4)) ∧
  (∀ (i : Instr) (s : State) (n : Csr) (v : Word), csrWriteOf i s = some (n, v) → csrWritable n = false → HasHandler s →
    ∃ t, exec i s = .next t ∧ Delivered s t 2 0)

/-- R42 and R117: TRAP is delivered with cause 0x20 and its immediate in TVAL. Outside every handler, with TVEC = 0 or
inside a handler, the strand ends with a failure report instead (R40). -/
def Obligations.TrapDelivery : Prop :=
  ∀ (s : State) (imm : BitVec 17),
    (HasHandler s → ∃ t, exec (.trap imm) s = .next t ∧ Delivered s t 0x20 (imm.setWidth 64)) ∧
    (¬HasHandler s → ∃ t, exec (.trap imm) s = .next t ∧ (t.strand s.slot).stat = .absent ∧
      ∃ r ∈ t.host.waiting, r.toNat % 2 ^ 16 = 0x81 ∧
        r.toNat / 2 ^ 64 % 2 ^ 8 = (if s.st.trap.inh then 0x30 else 0x20))

/-- R44 and R73: RETT clears IN, restores the pending payload and the clause position from TSTAT and continues at TPC; the
queue, the pending bits and the trim limits are as they were. Outside a handler it traps with cause 0x02. -/
def Obligations.ReturnFromTrap : Prop :=
  ∀ s : State,
    (s.st.trap.inh = true → ∃ t, exec .rett s = .next t ∧
      t.st.trap = { s.st.trap with inh := false } ∧ t.st.pc = s.st.trap.tpc ∧
      t.st.pfx = (if s.st.trap.tstat.getLsbD 26 then some (s.st.trap.tstat.setWidth 26) else none) ∧
      (∀ p n, p = s.st.trap.tstat.toNat / 2 ^ 27 % 8 → n = s.st.trap.tstat.toNat / 2 ^ 30 % 8 →
        (t.st.clause.map fun c => (c.pos, c.len, c.cnt)) =
          if 1 ≤ p ∧ p ≤ n then some (p, n, BitVec.ofNat 21 (s.st.trap.tstat.toNat / 2 ^ 33)) else none) ∧
      t.st.queue = s.st.queue ∧ t.st.pend = s.st.pend ∧ t.st.trims = s.st.trims ∧ t.st.csr = s.st.csr ∧
      t.st.regs = s.st.regs ∧ t = { s with st := t.st }) ∧
    (HasHandler s → ∃ t, exec .rett s = .next t ∧ Delivered s t 2 0)

/-- R66 to R68 and R65: PFX leaves its payload for the next word; CLH starts a clause at position 1, and while a clause has
positions left it raises cause 0x01; so does any reserved encoding, with the word in TVAL. -/
def Obligations.GoverningWords : Prop :=
  (∀ (s : State) (p : BitVec 26), ∃ t, exec (.pfx p) s = .next t ∧
    t = { s with st := { s.st with pc := s.st.pc + 4, pfx := some p, pfxLive := true } }) ∧
  (∀ (s : State) (c : BitVec 26), Instr.wf (.clh c) = true → s.st.clause = none → ∃ t, exec (.clh c) s = .next t ∧
    t = { s with st := { s.st with
      pc := s.st.pc + 4, pfx := none, pfxLive := false,
      clause := some { pos := 1, len := c.toNat % 8, cnt := BitVec.ofNat 21 (c.toNat / 8), log := [] } } }) ∧
  (∀ (s : State) (c : BitVec 26), s.st.clause.isSome = true → HasHandler s →
    ∃ t, exec (.clh c) s = .next t ∧ Delivered s t 1 (s.st.ir.setWidth 64)) ∧
  (∀ (s : State) (w : BitVec 32), HasHandler s → ∃ t, exec (.reservedEncoding w) s = .next t ∧ Delivered s t 1 (w.setWidth 64))

/-- R115, R117, R119 to R121, R124: WID reads a field of the work identifier; YIELD changes nothing; with nothing under way
FENCE and VFENCE pass; PROBE gives the cause an access would raise; SETVL grants min(AVL, VLMAX), for e6 a multiple of 4
from 4 on (R125), to sd and to VL, with the VTYPE of its suffixes. -/
def Obligations.PlainSystemForms : Prop :=
  (∀ (s : State) (d : SReg) (n : BitVec 3), ∃ t, exec (.wid d n) s = .next t ∧
    ScalarResult s t d (BitVec.ofNat 64 (widField s.st.csr.widf s.st.wid n.toNat))) ∧
  (∀ s : State, ∃ t, exec .yield s = .next t ∧ Passed s t ∧ OnlyRegs s t ∧ t.st.regs = s.st.regs ∧ SameMemory s t) ∧
  (∀ (s : State) (sc : Scope) (k : BitVec 8), Quiet s → ∃ t, exec (.fence sc k) s = .next t ∧
    Passed s t ∧ OnlyRegs s t ∧ t.st.regs = s.st.regs ∧ SameMemory s t) ∧
  (∀ s : State, Quiet s → ∃ t, exec .vfence s = .next t ∧
    Passed s t ∧ OnlyRegs s t ∧ t.st.regs = s.st.regs ∧ SameMemory s t) ∧
  (∀ (s : State) (d a : SReg) (k : PKind), ∃ t, exec (.probe d a k) s = .next t ∧
    ScalarResult s t d (BitVec.ofNat 64 (probeOf s (s.r a).toNat k))) ∧
  (∀ (s : State) (d a : SReg) (g : Grp) (w : EW) (n : Nat),
    n = grantOf (vlmax (BitVec.ofNat 5 (w.code + 8 * g.code))) w (s.r a).toNat → ∃ t, exec (.setvl d a g w) s = .next t ∧
      Wrote s t d (BitVec.ofNat 64 n) ∧ Passed s t ∧ SameMemory s t ∧ t.csrVal .vl = BitVec.ofNat 64 n ∧
      t.csrVal .vtype = BitVec.ofNat 64 (w.code + 8 * g.code) ∧
      t = { s with st := { s.st with
        regs := t.st.regs, pc := t.st.pc, pfx := t.st.pfx, pfxLive := t.st.pfxLive, clause := t.st.clause,
        grant := t.st.grant, nextGrant := s.st.nextGrant + 1, trims := t.st.trims } })

/-- R117 and R361: the services of SYSC, with nothing of the strand under way. Service 0 gives this chip's number; 1 hands s1
to s4 to the host as report 0x86 and gives 0, or −2 while the ring is full; 2 gives the members and the rank in group s1,
or −1; any other service gives −1 and changes nothing else. -/
def Obligations.SystemServices : Prop :=
  ∀ s : State, Quiet s →
    (∀ d, ∃ t, exec (.syscChipNumber d) s = .next t ∧ ScalarResult s t d (s.link.chip.setWidth 64)) ∧
    (∀ d, s.host.ringOpen = true → ∃ t r, exec (.syscSend d) s = .next t ∧ Wrote s t d 0 ∧ Passed s t ∧ SameMemory s t ∧
      t.host.waiting = s.host.waiting ++ [r] ∧ (r : Report).toNat % 2 ^ 64 = 0x86 + s.st.ctx.toNat * 2 ^ 32 ∧
      (∀ k : Fin 4, r.toNat / 2 ^ (64 + 64 * k.val) % 2 ^ 64 = (s.r (Fin.ofNat 32 (k.val + 1))).toNat) ∧
      OnlyRegs s { t with host := s.host }) ∧
    (∀ d, s.host.ringOpen = false → ∃ t, exec (.syscSend d) s = .next t ∧ ScalarResult s t d (BitVec.ofInt 64 (-2))) ∧
    (∀ d ms, s.cgroup? s.st.ctx (s.r 1).toNat = some ms → ∃ t, exec (.syscMembership d) s = .next t ∧
      ScalarResult s t d (BitVec.ofNat 64 (ms.length * 2 ^ 16 + ms.findIdx (· = s.link.chip.toNat)))) ∧
    (∀ d, s.cgroup? s.st.ctx (s.r 1).toNat = none → ∃ t, exec (.syscMembership d) s = .next t ∧
      ScalarResult s t d (BitVec.ofInt 64 (-1))) ∧
    (∀ d f, ∃ t, exec (.unofferedSyscService d f) s = .next t ∧ ScalarResult s t d (BitVec.ofInt 64 (-1)))

/-- R118, R281: EXIT ends the strand, inside a handler at once and outside one when nothing of it is under way: its slot is
empty, its claims are released, its children return their allowance to nobody (R289), its group goes on with the others and
ends with the last, and memory and the accumulator rows keep their contents. -/
def Obligations.ExitEndsTheStrand : Prop :=
  ∀ s : State, s.st.trap.inh = true ∨ Quiet s → (∀ o ∈ s.objs, o.st ≠ .retiring) →
    ∃ t, exec .exit s = .next t ∧ (t.strand s.slot).stat = .absent ∧ (s.st.late = [] → t.mem = s.mem) ∧ t.acc = s.acc ∧
      (∀ p ∈ t.oslots, p.1 / 16 = coreOf s.slot → p.2.owner ≠ some s.slot) ∧
      (∀ k, k ≠ s.slot → s.st.parent ≠ some k → t.strand k = { s.strand k with
        parent := if (s.strand k).parent = some s.slot ∧ (s.strand k).gkey = s.st.gkey then none else (s.strand k).parent }) ∧
      (∀ g, s.group? s.st.gkey = some g →
        ((∃ m ∈ g.live, m ≠ s.slot) → t.group? s.st.gkey = some { g with live := g.live.filter (· ≠ s.slot) }) ∧
        ((∀ m ∈ g.live, m = s.slot) → g.saved = [] → t.group? s.st.gkey = none))

/-- R316: RNGCK stores K and C in the 32-byte record of the strand, and RNGRS takes them back. -/
def Obligations.GeneratorRecords : Prop :=
  ∀ (s : State) (a : SReg) (ea : Nat) (ls : List Nat), Quiet s →
    ea = ((s.r a).toNat + 32 * widField s.st.csr.widf s.st.wid 0) % 2 ^ 64 → ea % 32 = 0 →
    (s.locs s.me ea 32 .write = .ok ls → ∃ t, exec (.rngck a) s = .next t ∧
      ls.length = 32 ∧ Holds t ls (s.st.key.toNat + s.st.ctr.toNat * 2 ^ 64) ∧ SameOutside ls s t ∧
      t.st.regs = s.st.regs ∧ Passed s t ∧ OnlyRegsMem s t) ∧
    (s.locs s.me ea 32 .read = .ok ls → s.get ls < 2 ^ 192 → ∃ t, exec (.rngrs a) s = .next t ∧
      t.st.key.toNat + t.st.ctr.toNat * 2 ^ 64 = s.get ls ∧ t.st.regs = s.st.regs ∧ Passed s t ∧ SameMemory s t ∧
      OnlyRegsMem s { t with st := { t.st with key := s.st.key, ctr := s.st.ctr } })

/-! ### Vector-stream forms (02, 07, 08) -/

/-- R28, R29, R43: what the entry of a vector-stream instruction holds, all captured at commit; the scalar side then goes on. Inside
a handler the commit is a double trap: the strand ends with report 0x81. -/
def Obligations.CommitCapturesTheEntry : Prop :=
  (∀ (i : Instr) (s : State), i.isVector = true → (∀ d a b g w, i ≠ .setvlf d a b g w) → s.st.trap.inh = false →
    s.st.hasRoom i = true → s.st.runAhead = true → s.st.sync = [] → s.st.park = .none → s.st.late = [] →
    ∃ t e, exec i s = .next t ∧ t.st.queue = s.st.queue ++ [e] ∧ t.st.nextSeq = s.st.nextSeq + 1 ∧
      t.st.pc = s.st.pc + 4 ∧ SameMemory s t ∧ e.seq = s.st.nextSeq ∧ e.ord = s.st.pushes ∧ e.instr = i ∧ e.word = s.st.ir ∧ e.pay = s.st.pfx ∧
      e.grant = s.st.grant.id ∧ e.len = s.st.grant.len ∧ e.vtype = s.st.grant.vtype ∧ e.frm = s.st.csr.frm ∧
      e.fxrm = s.st.csr.fxrm ∧ e.xact = s.st.csr.xact ∧
      (∀ r, i.reads.d = some r → e.opd.d = s.r r) ∧ (∀ r, i.reads.a = some r → e.opd.a = s.r r) ∧
      (∀ r, i.reads.b = some r → e.opd.b = s.r r) ∧ (∀ r, i.reads.c = some r → e.opd.c = s.r r)) ∧
  (∀ (i : Instr) (s : State), i.isVector = true → s.st.trap.inh = true →
    ∃ t, exec i s = .next t ∧ (t.strand s.slot).stat = .absent ∧
      ∃ r ∈ t.host.waiting, r.toNat % 2 ^ 16 = 0x81 ∧ r.toNat / 2 ^ 64 % 2 ^ 8 = 0x30)

/-- R130, R132: the integer forms, VV and VX, over every element. -/
def Obligations.IntegerVectorForms : Prop :=
  ∀ (i : Instr) (s : State) (f : ElemForm), Quiet s → Granted s → intForm i s = some f → f.legal = true →
    (f.xm = 0 → ∀ k, Executes s f.start f.m k → ¬Acts s (f.val k).2) → ∃ t, exec i s = .next t ∧ ElemDone s t f

/-- R130, R133, R134: the floating forms, VV and VX, and the special functions. -/
def Obligations.FloatVectorForms : Prop :=
  ∀ (i : Instr) (s : State) (f : ElemForm), Quiet s → Granted s → floatForm i s = some f → f.legal = true →
    (f.xm = 0 → ∀ k, Executes s f.start f.m k → ¬Acts s (f.val k).2) → ∃ t, exec i s = .next t ∧ ElemDone s t f

/-- R135, R136, R139, R144, R146, R148, R149, R151: conversions, packing, dequantisation and permutations. The model's choices: an
integer conversion that is not narrower saturates what its target does not hold (log 109), and a signalling e5m2 NaN under a scale of
0xFF raises nothing (log 108). -/
def Obligations.ConversionAndPermutationForms : Prop :=
  ∀ (i : Instr) (s : State) (f : ElemForm), Quiet s → Granted s → moveForm i s = some f → f.legal = true →
    (f.xm = 0 → ∀ k, Executes s f.start f.m k → ¬Acts s (f.val k).2) → ∃ t, exec i s = .next t ∧ ElemDone s t f

/-- R131, R158: compares and mask logic write one bit of the mask destination for each element that executes. -/
def Obligations.MaskDestinationForms : Prop :=
  ∀ (i : Instr) (s : State) (f : MaskForm), Quiet s → Granted s → maskForm i s = some f → f.legal = true →
    (f.xm = 0 → ∀ k, Executes s s.st.csr.vstart.toNat f.m k → ¬Acts s (f.rel k).2) → ∃ t, exec i s = .next t ∧ MaskDone s t f

/-- R35 to R37 on the forms that raise classes, without `.xmN`: the integer and floating forms, conversions and moves; compares;
reductions and scans. Let k be the first element of which a class acts (R155: for a tree, of whose prefix tree). The
elements before it have completed; k and those after it write nothing and set no flag. A class in trap mode traps at k with
VSTART = k, whatever k is; else k as the leading element traps, and any later k ends the entry with AL = k and the trim limit of
its grant at k. Under rdn the identity of a sum takes part as an element does (the model's choice, log 94); for conversions and
dequantisation see logs 108 and 109. -/
def Obligations.ShorteningAndTrapMode : Prop :=
  (∀ (i : Instr) (s : State) (f : ElemForm) (k : Nat), Quiet s → Granted s →
    intForm i s = some f ∨ floatForm i s = some f ∨ moveForm i s = some f → f.legal = true → f.xm = 0 →
    Executes s f.start f.m k → Stops s (f.val k).2 → (∀ j, j < k → Executes s f.start f.m j → ¬Acts s (f.val j).2) →
    ∃ t, exec i s = .next t ∧ StopsAt s t f.start k (f.val k).2
      (ElemsAfter s t f.d f.w (fun j => Executes s f.start f.m j ∧ j < k) (fun j => (f.val j).1) ∧ VecRest s t ∧
        t.st.vec.m = s.st.vec.m ∧ FlagsSet s t (fun j => Executes s f.start f.m j ∧ j < k) (fun j => (f.val j).2))) ∧
  (∀ (i : Instr) (s : State) (f : MaskForm) (k : Nat), Quiet s → Granted s → maskForm i s = some f → f.legal = true → f.xm = 0 →
    Executes s s.st.csr.vstart.toNat f.m k → Stops s (f.rel k).2 →
    (∀ j, j < k → Executes s s.st.csr.vstart.toNat f.m j → ¬Acts s (f.rel j).2) →
    ∃ t, exec i s = .next t ∧ StopsAt s t s.st.csr.vstart.toNat k (f.rel k).2
      (t.st.vec = { s.st.vec with m := t.st.vec.m } ∧
        (∀ j, Executes s s.st.csr.vstart.toNat f.m j → j < k → t.st.vec.m[f.d].getLsbD j = (f.rel j).1) ∧
        (∀ (r : MReg) (j : Nat), ¬(r = f.d ∧ Executes s s.st.csr.vstart.toNat f.m j ∧ j < k) →
          t.st.vec.m[r].getLsbD j = s.st.vec.m[r].getLsbD j) ∧
        FlagsSet s t (fun j => Executes s s.st.csr.vstart.toNat f.m j ∧ j < k) (fun j => (f.rel j).2))) ∧
  (∀ (i : Instr) (s : State) (d a : VReg) (m : MReg) (g scan : Bool) (p : Machine.Step) (k : Nat), Quiet s → Granted s →
    redFields i s = some (d, a, m, 0, g, p) → redKind i = (if scan then .scan else .ordered) →
    legalOps s i d p.w [(a, p.w)] false m 0 = true → TakesPart s m g k → Stops s (stepCls s scan d a m g p k) →
    (∀ j, j < k → TakesPart s m g j → ¬Acts s (stepCls s scan d a m g p j)) →
    ∃ t, exec i s = .next t ∧ StopsAt s t s.st.csr.vstart.toNat k (stepCls s scan d a m g p k)
      ((scan = false → ElemsAfter s t d p.w (fun j => ∃ q, TakesPart s m g q ∧ q < k ∧ j = if g then segOf s m q else 0)
          (orderedFold s d a m g p (partBelow s m g k) fun j => el s d j p.w)) ∧
        (scan = true → ElemsAfter s t d p.w (fun j => TakesPart s m g j ∧ j < k)
          fun j => scanFold s a m g p (partBelow s m g (j + 1)) (scanStart s d m g p.w)) ∧
        VecRest s t ∧ t.st.vec.m = s.st.vec.m ∧
        FlagsSet s t (fun j => TakesPart s m g j ∧ j < k) (stepCls s scan d a m g p))) ∧
  (∀ (i : Instr) (s : State) (d a : VReg) (m : MReg) (g : Bool) (p : Machine.Step) (sg : List (Nat × Nat × Nat)) (j b n k : Nat),
    Quiet s → Granted s → redFields i s = some (d, a, m, 0, g, p) → redKind i = .tree →
    legalOps s i d p.w [(a, p.w)] false m 0 = true → s.st.csr.vstart.toNat < s.st.vlNow →
    sg = segments s.st.vec m g s.st.csr.vstart.toNat s.st.vlNow → (j, b, n) ∈ sg → max b s.st.csr.vstart.toNat ≤ k → k < n →
    Stops s (treeTo s d a m g p j b (k + 1)).2 →
    (∀ x ∈ sg, ∀ q, max x.2.1 s.st.csr.vstart.toNat ≤ q → q < x.2.2 → q < k → ¬Acts s (treeTo s d a m g p x.1 x.2.1 (q + 1)).2) →
    ∃ t, exec i s = .next t ∧
      StopsAt s t s.st.csr.vstart.toNat k (treeTo s d a m g p j b (k + 1)).2
        ((∀ x ∈ sg, x.2.2 ≤ k → el t d x.1 p.w = (treeTo s d a m g p x.1 x.2.1 x.2.2).1 % 2 ^ p.w) ∧
          (max b s.st.csr.vstart.toNat < k → el t d j p.w = (treeTo s d a m g p j b k).1 % 2 ^ p.w) ∧
          (∀ (r : Fin 32) (q : Nat), (∀ x ∈ sg, x.2.2 ≤ k → ¬InElem d p.w x.1 r q) →
            (max b s.st.csr.vstart.toNat < k → ¬InElem d p.w j r q) → t.st.vec.v[r].getLsbD q = s.st.vec.v[r].getLsbD q) ∧
          VecRest s t ∧ t.st.vec.m = s.st.vec.m ∧
          ∀ q, q < 6 → (t.st.csr.xflags.getLsbD q = true ↔ s.st.csr.xflags.getLsbD q = true ∨
            (∃ x ∈ sg, x.2.2 ≤ k ∧ (treeTo s d a m g p x.1 x.2.1 x.2.2).2.getLsbD q = true) ∨
            (max b s.st.csr.vstart.toNat < k ∧ (treeTo s d a m g p j b k).2.getLsbD q = true))))

/-- R38: an entry of these forms that starts with VSTART at or above its effective length executes nothing and makes no check; it
sets AL and VSTART and retires. R123, R143: below that, operand groups that are not legal, or overlap, raise cause 0x02 on the
leading element. -/
def Obligations.RetiringAndIllegalEntries : Prop :=
  (∀ (i : Instr) (s : State) (f : ElemForm), Quiet s → intForm i s = some f ∨ floatForm i s = some f →
    s.st.vlNow ≤ s.st.csr.vstart.toNat → ∃ t, exec i s = .next t ∧ EntryDone s t s.st.vlNow 0 ∧ t.st.vec = s.st.vec) ∧
  (∀ (i : Instr) (s : State) (f : ElemForm), Quiet s → intForm i s = some f ∨ floatForm i s = some f → f.legal = false →
    s.st.csr.vstart.toNat < s.st.vlNow → HasHandler s →
    ∃ t, exec i s = .next t ∧ t.st.trap.code = 2 ∧ t.st.trap.vec = true ∧ t.st.trap.inh = true ∧ t.st.trap.tval = 0 ∧
      t.st.pc = s.st.trap.tvec ∧ t.st.csr = s.st.csr ∧ t.st.vec = s.st.vec ∧ t.st.queue.length = 1 ∧ SameMemory s t)

/-- R147: VCOMPRESS packs the selected elements from element 0 and writes zeros to the end of the group. -/
def Obligations.CompressForm : Prop :=
  ∀ (s : State) (d a : VReg) (m : MReg), Quiet s → Granted s → s.st.csr.vstart = 0 ∨ s.st.csr.vstart.toNat < s.st.vlNow →
    legalOps s (.vcompress d a m) d (grantWidth s.st.grant.vtype) [(a, grantWidth s.st.grant.vtype)] false 0 0 = true →
    ∃ t, exec (.vcompress d a m) s = .next t ∧ EntryDone s t s.st.vlNow 0 ∧ VecRest s t ∧ t.st.vec.m = s.st.vec.m ∧
      ElemsAfter s t d (grantWidth s.st.grant.vtype)
        (fun k => k < emul s.st.grant.vtype (grantWidth s.st.grant.vtype) * perReg (grantWidth s.st.grant.vtype))
        (fun k => (((List.range s.st.vlNow).filter fun j => allows s m j).map fun j =>
          el s a j (grantWidth s.st.grant.vtype)).getD k 0)

/-- R149, R150, R159: VMVX writes element 0; VRDS, MPOPC and MFIRST give a scalar whatever VSTART is. -/
def Obligations.ScalarMoves : Prop :=
  ∀ s : State, Quiet s → Granted s →
    (∀ (d : VReg) (a : SReg), s.st.csr.vstart = 0 → 0 < s.st.vlNow →
      legalOps s (.vmvx d a) d (grantWidth s.st.grant.vtype) [] true 0 0 = true →
      ∃ t, exec (.vmvx d a) s = .next t ∧ EntryDone s t s.st.vlNow 0 ∧ VecRest s t ∧ t.st.vec.m = s.st.vec.m ∧
        ElemsAfter s t d (grantWidth s.st.grant.vtype) (· = 0) (fun _ => (s.r a).toNat)) ∧
    (∀ (d : SReg) (a : VReg) (b : SReg), legalOps s (.vrds d a b) a (grantWidth s.st.grant.vtype) [] true 0 0 = true →
      ∃ t, exec (.vrds d a b) s = .next t ∧ ScalarFromVector s t d
        (if (s.r b).toNat < vlmax s.st.grant.vtype then
          BitVec.ofInt 64 (signedOf (grantWidth s.st.grant.vtype) (el s a (s.r b).toNat (grantWidth s.st.grant.vtype)))
         else 0)) ∧
    (∀ (d : SReg) (a : MReg), ∃ t, exec (.mpopc d a) s = .next t ∧
      ScalarFromVector s t d (BitVec.ofNat 64 (setBelow s a s.st.vlNow))) ∧
    (∀ (d : SReg) (a : MReg), ∃ t v, exec (.mfirst d a) s = .next t ∧ ScalarFromVector s t d v ∧
      (∀ k, k < s.st.vlNow → allows s a k = true → (∀ j, j < k → allows s a j = false) → v = BitVec.ofNat 64 k) ∧
      ((∀ k, k < s.st.vlNow → allows s a k = false) → v = BitVec.allOnes 64))

/-! ### Vector memory, reductions (08, 09) -/

/-- R37, R152 to R157: reductions and scans. An ordered reduction combines element by element into element 0, or under `.seg` into
one element for each segment; a scan writes every running value; a tree reduction combines as treesum of R89 does. Under rdn the
identity of a sum takes part as an element does, so that a segment or tree of +0 gives -0 (the model's choice, log 94: the last
sentence of R153 has it leave such a sum as it is). XFLAGS takes in the classes of every step, or of the tree of every segment
(with `.xmN` too: the model's choice, log 111). `.xmN` tells of each element that takes part whether a class of its step, or of
the tree through it, is in trim or trap mode; its other bits stay. -/
def Obligations.ReductionsAndScans : Prop :=
  ∀ (i : Instr) (s : State) (d a : VReg) (m x : MReg) (g : Bool) (p : Machine.Step), Quiet s → Granted s →
    redFields i s = some (d, a, m, x, g, p) → legalOps s i d p.w [(a, p.w)] false m x = true → (x = 0 → s.st.csr.xact = 0) →
    s.st.csr.vstart.toNat < s.st.vlNow →
    ∃ t c, exec i s = .next t ∧ EntryDone s t s.st.vlNow c ∧ VecRest s t ∧ OtherMasks s t x ∧
      (redKind i ≠ .tree → UnionOf (TakesPart s m g) (stepCls s (decide (redKind i = .scan)) d a m g p) c ∧
        MasksAfter s t x (TakesPart s m g) (stepCls s (decide (redKind i = .scan)) d a m g p)) ∧
      (redKind i = .tree →
        (∀ q, q < 6 → (c.getLsbD q = true ↔ ∃ y ∈ segments s.st.vec m g s.st.csr.vstart.toNat s.st.vlNow,
          (treeTo s d a m g p y.1 y.2.1 y.2.2).2.getLsbD q = true)) ∧
        MasksAfter s t x (TakesPart s m g) (prefixCls s d a m g p)) ∧
      (redKind i = .ordered → ElemsAfter s t d p.w (fun j => ∃ k, TakesPart s m g k ∧ j = if g then segOf s m k else 0)
        (orderedFold s d a m g p (partList s m g) fun j => el s d j p.w)) ∧
      (redKind i = .scan → ElemsAfter s t d p.w (TakesPart s m g)
        fun k => (p.op (scanPrev s t d m g p k) (el s a k p.w)).1) ∧
      (redKind i = .tree →
        (∀ j b n, (j, b, n) ∈ segments s.st.vec m g s.st.csr.vstart.toNat s.st.vlNow →
          el t d j p.w = (treeSum p.op (fun k => if g || allows s m k then some (el s a k p.w) else none)
            (max b s.st.csr.vstart.toNat) n
            (if g && max b s.st.csr.vstart.toNat == b then p.id else el s d j p.w)).1 % 2 ^ p.w) ∧
        (∀ (r : Fin 32) (q : Nat),
          (∀ j b n, (j, b, n) ∈ segments s.st.vec m g s.st.csr.vstart.toNat s.st.vlNow → ¬InElem d p.w j r q) →
          t.st.vec.v[r].getLsbD q = s.st.vec.v[r].getLsbD q))

/-- R160 to R166: the vector loads, when no element that executes faults: each takes its value from memory, or from the strip
buffer of the stream it reads through, whose cursor moves on by AL. -/
def Obligations.VectorLoads : Prop :=
  ∀ (i : Instr) (s : State) (f : MemForm) (v : Nat → Nat → Nat), Quiet s → Granted s → Coherent s → isLoad i = true →
    memForm i s = some f → f.legal = true →
    (∀ k, Executes s s.st.csr.vstart.toNat f.m k → Loaded s f k (v k)) →
    ∃ t, exec i s = .next t ∧ MemEntryDone s t s.st.vlNow ∧ t.mem = s.mem ∧ VecRest s t ∧ t.st.vec.m = s.st.vec.m ∧
      t.st.streams = (s.useStream f.port s.st.vlNow).st.streams ∧ LoadedTo s t f (Moves s f) v

/-- R160 to R165: the vector stores, when no element that executes faults. A bit of memory that elements cover holds the bit
of the last of them in element order; every other bit of memory is as before. -/
def Obligations.VectorStores : Prop :=
  ∀ (i : Instr) (s : State) (f : MemForm) (ls : Nat → Nat → List Nat), Quiet s → Granted s → Coherent s →
    isStore i = true → memForm i s = some f → f.legal = true →
    TablesApart s (fun a => ∃ k x, Moves s f k x ∧ a ∈ ls k x) →
    (∀ k x, Moves s f k x → (ls k x).Nodup ∧ fieldCheck s f .write k x = .ok (ls k x)) →
    ∃ t, exec i s = .next t ∧ MemEntryDone s t s.st.vlNow ∧ t.st.vec = s.st.vec ∧ t.st.streams = s.st.streams ∧
      StoredTo s t f ls (Moves s f)

/-- R35, R164, R166, R336: the faults of every vector load and store, with every cause. Element k is the first that fails, at
field x. The elements before it have loaded, from memory or from the strip buffer of the form's stream, whose cursor moves on by
AL where the load is shortened, or have been stored; of element k and of those after it nothing is written. The second and the
fourth clause are the misaligned base of `.col`, which faults element VSTART. Where the leading element traps and the strand has
no handler, the strand ends there (R40, R118): its registers, its streams and memory are no matter of these clauses then. -/
def Obligations.VectorAccessFaults : Prop :=
  (∀ (i : Instr) (s : State) (f : MemForm) (k x cause byte : Nat) (v : Nat → Nat → Nat), Quiet s → Granted s → Coherent s →
    isLoad i = true → memForm i s = some f → f.legal = true → Executes s s.st.csr.vstart.toNat f.m k →
    s.buffered f.port (f.place k 0).1 ((f.n - 1) * (f.w.bits / 8) + (f.place k 0).2.1) = none → Fails s f .read k x cause byte →
    (∀ j, j < k → Executes s s.st.csr.vstart.toNat f.m j → Loaded s f j (v j)) →
    ∃ t, exec i s = .next t ∧
      FaultEnds s t s.st.csr.vstart.toNat k cause byte ((f.place k x).1 % 2 ^ 64).toNat .read ∧
      ((k = s.st.csr.vstart.toNat → cause ≠ 8 → HasHandler s) → SameMemory s t ∧
        ((cause = 9 → LogOpen s) → LoadedTo s t f (fun j y => Moves s f j y ∧ j < k) v)) ∧
      (k ≠ s.st.csr.vstart.toNat → (cause = 9 → LogOpen s) → t.st.streams = (s.useStream f.port k).st.streams)) ∧
  (∀ (s : State) (d : VReg) (a : SReg) (m : MReg) (w : EW), Quiet s → Granted s → HasHandler s →
    ((s.entry (.vld d a m true w .mem)).group d w.bits).ok = true → srcPort .mem (s.entry (.vld d a m true w .mem)) = none →
    (((s.r a).toNat : Int) + offOf s) % (w.bits / 8 : Nat) ≠ 0 → Executes s s.st.csr.vstart.toNat m s.st.csr.vstart.toNat →
    ∃ t, exec (.vld d a m true w .mem) s = .next t ∧ SameMemory s t ∧ t.st.vec = s.st.vec ∧
      LeadTraps s t 7 ((((s.r a).toNat : Int) + offOf s + 64 * s.st.csr.vstart.toNat) % 2 ^ 64).toNat) ∧
  (∀ (i : Instr) (s : State) (f : MemForm) (k x cause byte : Nat) (ls : Nat → Nat → List Nat), Quiet s → Granted s →
    Coherent s → isStore i = true → memForm i s = some f → f.legal = true → Executes s s.st.csr.vstart.toNat f.m k →
    TablesApart s (fun a => ∃ j y, (Moves s f j y ∧ j < k) ∧ a ∈ ls j y) → Fails s f .write k x cause byte →
    (∀ j y, Moves s f j y → j < k → (ls j y).Nodup ∧ fieldCheck s f .write j y = .ok (ls j y)) →
    ∃ t, exec i s = .next t ∧
      FaultEnds s t s.st.csr.vstart.toNat k cause byte ((f.place k x).1 % 2 ^ 64).toNat .write ∧
      ((k = s.st.csr.vstart.toNat → cause ≠ 8 → HasHandler s) → t.st.vec = s.st.vec ∧ t.st.streams = s.st.streams ∧
        ((cause = 9 → LogOpen s) → StoredTo s t f ls fun j y => Moves s f j y ∧ j < k))) ∧
  (∀ (s : State) (d : VReg) (a : SReg) (m : MReg) (w : EW), Quiet s → Granted s → HasHandler s →
    ((s.entry (.vst d a m true w)).group d w.bits).ok = true →
    (((s.r a).toNat : Int) + offOf s) % (w.bits / 8 : Nat) ≠ 0 → Executes s s.st.csr.vstart.toNat m s.st.csr.vstart.toNat →
    ∃ t, exec (.vst d a m true w) s = .next t ∧ SameMemory s t ∧ t.st.vec = s.st.vec ∧
      LeadTraps s t 7 ((((s.r a).toNat : Int) + offOf s + 64 * s.st.csr.vstart.toNat) % 2 ^ 64).toNat)

/-- R170, R171, R181, R185: tile slices. -/
def Obligations.TileSlices : Prop :=
  ∀ (s : State) (d : VReg) (a : TReg) (b : SReg) (m : MReg) (c : Bool) (w : EW), Quiet s → Granted s → TileReady s a →
    legalOps s (.vldt d a b m c w) d w.bits [] true 0 0 = true →
    (0 < if c then s.st.tiles[a].cur.rows else rowElems s.st.tiles[a].cur.len w) →
    (∀ k, Executes s s.st.csr.vstart.toNat m k →
      (sliceOfTile s.st.tiles[a].cur w c (s.r b).toNat k).1 < s.st.tiles[a].cur.rows ∧
      (sliceOfTile s.st.tiles[a].cur w c (s.r b).toNat k).2 < rowElems s.st.tiles[a].cur.len w) →
    (∃ t, exec (.vldt d a b m c w) s = .next t ∧ SliceEntryDone s t s.st.vlNow ∧ t.mem = s.mem ∧ t.st.tiles = s.st.tiles ∧
      VecRest s t ∧ t.st.vec.m = s.st.vec.m ∧ RowColAfter t s.st.tiles[a].cur w c s.st.vlNow ∧
      ElemsAfter s t d w.bits (Executes s s.st.csr.vstart.toNat m) fun k =>
        s.tileElem s.me s.st.tiles[a].cur (sliceOfTile s.st.tiles[a].cur w c (s.r b).toNat k).1
          (sliceOfTile s.st.tiles[a].cur w c (s.r b).toNat k).2 w.bits) ∧
    (∃ t, exec (.vstt d a b m c w) s = .next t ∧ SliceEntryDone s t s.st.vlNow ∧ t.st.vec = s.st.vec ∧
      RowColAfter t s.st.tiles[a].cur w c s.st.vlNow ∧
      (∀ k, Executes s s.st.csr.vstart.toNat m k →
        t.tileElem s.me s.st.tiles[a].cur (sliceOfTile s.st.tiles[a].cur w c (s.r b).toNat k).1
          (sliceOfTile s.st.tiles[a].cur w c (s.r b).toNat k).2 w.bits = el s d k w.bits) ∧
      (∀ p, (∀ k, Executes s s.st.csr.vstart.toNat m k →
        p ∉ s.tileLocs s.me s.st.tiles[a].cur (sliceOfTile s.st.tiles[a].cur w c (s.r b).toNat k).1
          (sliceOfTile s.st.tiles[a].cur w c (s.r b).toNat k).2 w.bits) → Memory.get t.mem p = Memory.get s.mem p) ∧
      ((∃ k, Executes s s.st.csr.vstart.toNat m k) →
        t.st.tiles[a].cur = s.st.tiles[a].cur.stored w c ∧ ∀ n : TReg, n ≠ a → t.st.tiles[n] = s.st.tiles[n]))

/-- R173 and R174: VAMO, with every element at an address of its own: each is one read-modify-write, in any order the form
allows; the old value goes to the element. -/
def Obligations.VectorAtomics : Prop :=
  ∀ (i : Instr) (s : State) (d : VReg) (a : SReg) (b : VReg) (m : MReg) (u : Bool) (w : MW) (ls : Nat → List Nat),
    Quiet s → Granted s → Coherent s → vamoFields i = some (d, a, b, m, u, w) →
    ((s.entry i).group d w.bits).ok = true → indexOk (s.entry i) d b w.bits = true →
    TablesApart s (fun p => ∃ k, Executes s s.st.csr.vstart.toNat m k ∧ p ∈ ls k) →
    (∀ k, Executes s s.st.csr.vstart.toNat m k →
      s.check s.me (indexedAt s a b w.bits k) (w.bits / 8) (w.bits / 8) .any .rw = .ok (ls k)) →
    (∀ k j, Executes s s.st.csr.vstart.toNat m k → Executes s s.st.csr.vstart.toNat m j → k ≠ j → ∀ p ∈ ls k, p ∉ ls j) →
    ∃ t, exec i s = .next t ∧ MemEntryDone s { t with freeCtr := s.freeCtr } s.st.vlNow ∧ VecRest s t ∧
      t.st.vec.m = s.st.vec.m ∧ t.st.streams = s.st.streams ∧
      ElemsAfter s t d w.bits (Executes s s.st.csr.vstart.toNat m) (fun k => s.get (ls k)) ∧
      (∀ k new, Executes s s.st.csr.vstart.toNat m k →
        vamoNew i w.bits (BitVec.ofNat w.bits (s.get (ls k))) (BitVec.ofNat w.bits (el s d k w.bits)) = some new →
        Holds t (ls k) new.toNat) ∧
      (∀ p, (∀ k, Executes s s.st.csr.vstart.toNat m k → p ∉ ls k) → Memory.get t.mem p = Memory.get s.mem p)

/-- R175: VWAIT completes once every element that executes reads a value that meets its condition; it reads only. R176:
VSCADD adds each element to memory once; with every element at an address of its own the sums do not depend on the order. -/
def Obligations.WaitAndScatter : Prop :=
  (∀ (s : State) (d : VReg) (a : SReg) (b : VReg) (m : MReg) (c : VCond) (w : MW) (ls : Nat → List Nat),
    Quiet s → Granted s → ((s.entry (.vwait d a b m c w)).group d w.bits).ok = true →
    ((s.entry (.vwait d a b m c w)).group b (if w.bits = 64 then 64 else 32)).ok = true →
    (∀ k, Executes s s.st.csr.vstart.toNat m k →
      s.check s.me (indexedAt s a b w.bits k) (w.bits / 8) (w.bits / 8) .memory .read = .ok (ls k)) →
    ((∀ k, Executes s s.st.csr.vstart.toNat m k → condOf c w.bits (s.get (ls k)) (el s d k w.bits)) →
      ∃ t, exec (.vwait d a b m c w) s = .next t ∧ EntryDone s { t with caches := s.caches } s.st.vlNow 0 ∧
        t.st.vec = s.st.vec) ∧
    ((∃ k, Executes s s.st.csr.vstart.toNat m k ∧ ¬condOf c w.bits (s.get (ls k)) (el s d k w.bits)) →
      ∃ t, exec (.vwait d a b m c w) s = .next t ∧ t.st.queue.length = 1 ∧ t.st.park = .vwait ∧ t.mem = s.mem ∧
        t.st.vec = s.st.vec ∧ t.st.csr = s.st.csr)) ∧
  (∀ (s : State) (d : VReg) (a : SReg) (b : VReg) (m : MReg) (u : SctT) (ls : Nat → List Nat),
    Quiet s → Granted s → Coherent s → ((s.entry (.vscadd d a b m u)).group d (sctBits u)).ok = true →
    ((s.entry (.vscadd d a b m u)).group b (if sctBits u = 64 then 64 else 32)).ok = true →
    TablesApart s (fun p => ∃ k, Executes s s.st.csr.vstart.toNat m k ∧ p ∈ ls k) →
    (∀ k, Executes s s.st.csr.vstart.toNat m k →
      s.check s.me (indexedAt s a b (sctBits u) k) (sctBits u / 8) (sctBits u / 8) .memory .rw = .ok (ls k)) →
    (∀ k j, Executes s s.st.csr.vstart.toNat m k → Executes s s.st.csr.vstart.toNat m j → k ≠ j → ∀ p ∈ ls k, p ∉ ls j) →
    ∃ t, exec (.vscadd d a b m u) s = .next t ∧ MemEntryDone s { t with freeCtr := s.freeCtr } s.st.vlNow ∧
      t.st.vec = s.st.vec ∧ t.st.streams = s.st.streams ∧
      (∀ k, Executes s s.st.csr.vstart.toNat m k → Holds t (ls k) (sctPlus u (s.get (ls k)) (el s d k (sctBits u)))) ∧
      (∀ p, (∀ k, Executes s s.st.csr.vstart.toNat m k → p ∉ ls k) → Memory.get t.mem p = Memory.get s.mem p))

/-! ### Draws, blocks, tiles, the matrix array, copies and sketches (07, 10, 11, 12, 21) -/

/-- R141, R140, R138: VRNG draws mix(K, C + i) for each element and moves C on by AL; VHAD combines the elements of each pair
i, i xor 2^k; VBQ gives each block of 32 its scale and quantises its elements under it. An entry that reads vc and completes every
element clears the dirty bit (R47; that another one does not is log 110). -/
def Obligations.DrawsStagesAndBlocks : Prop :=
  (∀ (s : State) (d : VReg) (u : Elem) (m : MReg), Quiet s → Granted s →
    legalOps s (.vrng d u m) d u.bits [] true 0 0 = true →
    ∃ t, exec (.vrng d u m) s = .next t ∧ EntryDone s { t with st := { t.st with ctr := s.st.ctr } } s.st.vlNow 0 ∧
      t.st.ctr = s.st.ctr + BitVec.ofNat 128 s.st.vlNow ∧ VecRest s t ∧ t.st.vec.m = s.st.vec.m ∧
      ElemsAfter s t d u.bits (Executes s s.st.csr.vstart.toNat m)
        (fun i => drawOf u (mix s.st.key (s.st.ctr + BitVec.ofNat 128 i)))) ∧
  (∀ (s : State) (d a : VReg) (k : Fin 32) (y z h : Bool) (x : MReg) (f : FF), Quiet s → Granted s →
    s.st.csr.vstart.toNat < s.st.vlNow → s.st.vlNow % 2 ^ (k.val + 1) = 0 → ¬(y = true ∧ z = true) →
    (if z then emul s.st.grant.vtype f.bits = 1 else ((s.entry (.vhad d a k y z h x f)).group d f.bits).ok = true) →
    (if y then emul s.st.grant.vtype f.bits = 1 ∧ s.st.vec.vcFmt = f
      else ((s.entry (.vhad d a k y z h x f)).group a f.bits).ok = true) →
    (y = false → z = false → ((s.entry (.vhad d a k y z h x f)).group a f.bits).overlapOk
      ((s.entry (.vhad d a k y z h x f)).group d f.bits) false = true) →
    (x = 0 → ∀ i, Executes s s.st.csr.vstart.toNat 0 i → ¬Acts s (hadOut s a k.val y h f i).2) →
    ∃ t c, exec (.vhad d a k y z h x f) s = .next t ∧ EntryDone s t s.st.vlNow c ∧
      UnionOf (Executes s s.st.csr.vstart.toNat 0) (fun i => (hadOut s a k.val y h f i).2) c ∧
      MasksAfter s t x (Executes s s.st.csr.vstart.toNat 0) (fun i => (hadOut s a k.val y h f i).2) ∧
      t.st.vec.q = s.st.vec.q ∧
      (z = false → ElemsAfter s t d f.bits (Executes s s.st.csr.vstart.toNat 0) (fun i => (hadOut s a k.val y h f i).1) ∧
        t.st.vec.vcFmt = s.st.vec.vcFmt ∧ t.st.vec.vcDirty = (s.st.vec.vcDirty && !y) ∧ (y = false → t.st.vec.vc = s.st.vec.vc)) ∧
      (z = true → t.st.vec.v = s.st.vec.v ∧ t.st.vec.wext = s.st.vec.wext ∧ t.st.vec.vcDirty = true ∧ t.st.vec.vcFmt = f ∧
        (∀ i, Executes s s.st.csr.vstart.toNat 0 i →
          t.st.vec.vc.toNat / 2 ^ (i * f.bits) % 2 ^ f.bits = (hadOut s a k.val y h f i).1 % 2 ^ f.bits) ∧
        (∀ p, (∀ i, Executes s s.st.csr.vstart.toNat 0 i → ¬(i * f.bits ≤ p ∧ p < (i + 1) * f.bits)) →
          t.st.vec.vc.getLsbD p = s.st.vec.vc.getLsbD p))) ∧
  (∀ (s : State) (d a : VReg) (u : Elem) (q : QReg) (x : MReg) (c : Bool) (out : Nat → Nat × BitVec 6), Quiet s → Granted s →
    s.st.csr.vstart.toNat < s.st.vlNow → qOk s.st.grant.vtype q = true →
    legalOps s (.vbq d a u q x c) d u.bits (if c then [] else [(a, 32)]) false 0 0 = true →
    (c = true → emul s.st.grant.vtype s.st.vec.vcFmt.bits = 1) →
    (∀ i, out i = quantElem u (s.entry (.vbq d a u q x c)).rm (blockScale u (blockOf s a c (i / 32))) (quantIn s a c i)) →
    (x = 0 → ∀ i, Executes s s.st.csr.vstart.toNat 0 i → ¬Acts s (out i).2) →
    ∃ t cl, exec (.vbq d a u q x c) s = .next t ∧ EntryDone s t s.st.vlNow cl ∧
      UnionOf (Executes s s.st.csr.vstart.toNat 0) (fun i => (out i).2) cl ∧
      MasksAfter s t x (Executes s s.st.csr.vstart.toNat 0) (fun i => (out i).2) ∧
      ElemsAfter s t d u.bits (Executes s s.st.csr.vstart.toNat 0) (fun i => (out i).1) ∧
      t.st.vec.vcFmt = s.st.vec.vcFmt ∧ t.st.vec.vcDirty = (s.st.vec.vcDirty && !c) ∧ (c = false → t.st.vec.vc = s.st.vec.vc) ∧
      (∀ j, s.st.csr.vstart.toNat / 32 ≤ j → 32 * j < s.st.vlNow → t.st.vec.scale q j = blockScale u (blockOf s a c j)) ∧
      (∀ (r : Fin 8) (p : Nat),
        (∀ j, s.st.csr.vstart.toNat / 32 ≤ j → 32 * j < s.st.vlNow → ¬(r.val = q.val + j / 64 ∧ p / 8 = j % 64)) →
        t.st.vec.q[r].getLsbD p = s.st.vec.q[r].getLsbD p))

/-- R126, R127: SETVLF takes n fibres from its list, as many as it counts or as fit before one that is 0 or too long. VL is the
sum of their lengths, AL their number, and the mask marks where each begins. -/
def Obligations.FibreGrants : Prop :=
  ∀ (s : State) (d : MReg) (a b : SReg) (g : Grp) (w : EW) (f : Nat → Nat) (n : Nat) (vt : BitVec 5), Quiet s → Coherent s →
    vt = BitVec.ofNat 5 (w.code + 8 * g.code) → n ≤ (s.r b).toNat → fibreStart f n ≤ vlmax vt →
    (∀ i, i < n → f i ≠ 0 ∧ ∃ ls, s.check s.me (((s.r a).toNat : Int) + 4 * (i : Nat)) 4 4 .any .read = .ok ls ∧ s.get ls = f i) →
    (n = (s.r b).toNat ∨ (0 < n ∧ ∃ ls, s.check s.me (((s.r a).toNat : Int) + 4 * (n : Nat)) 4 4 .any .read = .ok ls ∧
      (s.get ls = 0 ∨ vlmax vt < fibreStart f n + s.get ls))) →
    ∃ t, exec (.setvlf d a b g w) s = .next t ∧ Passed s t ∧ SameMemory s t ∧
      t.csrVal .vl = BitVec.ofNat 64 (fibreStart f n) ∧ t.csrVal .vtype = BitVec.ofNat 64 (w.code + 8 * g.code) ∧
      t = { s with caches := t.caches, st := { s.st with
        pc := t.st.pc, pfx := t.st.pfx, pfxLive := t.st.pfxLive, clause := t.st.clause, nextSeq := s.st.nextSeq + 1,
        grant := t.st.grant, nextGrant := s.st.nextGrant + 1, trims := t.st.trims, vec := { s.st.vec with m := t.st.vec.m },
        csr := { s.st.csr with al := BitVec.ofNat 32 n, vstart := 0 } } } ∧
      (∀ (r : MReg) (p : Nat),
        (r = d → p < fibreStart f n → (t.st.vec.m[r].getLsbD p = true ↔ ∃ i, i < n ∧ p = fibreStart f i)) ∧
        (¬(r = d ∧ p < fibreStart f n) → t.st.vec.m[r].getLsbD p = s.st.vec.m[r].getLsbD p))

/-- R129, R178 to R189: the tile table. A change takes effect at once on a ready tile and is held back on a draining one.
TDEF checks its region in the order of R179: the row blocks, the alignment of the base, its window, and the region's bounds there. A
handle above the limit raises cause 0x02, and so does an empty tile, but for TDEF, TSTAT and TWAIT (R181). -/
def Obligations.TileTable : Prop :=
  (∀ (s : State) (d : TReg) (a b : SReg), Quiet s → Readable s d → ∃ t, exec (.setshape d a b) s = .next t ∧
    FormDone s t (tileTo s d { s.st.tiles[d].cur with
      rows := min (min (s.r a).toNat 256) (64 * s.st.tiles[d].cur.rb), len := min (s.r b).toNat 1024 })) ∧
  (∀ (s : State) (d : TReg) (a b : SReg), Quiet s →
    Readable s d ∨ (d.val < s.st.lim.tiles ∧ s.st.tiles[d].st = .empty) →
    (1 ≤ (s.r b).toNat → (s.r b).toNat ≤ 4 → (s.r a).toNat % 4096 = 0 → 0xFC ≤ (s.r a).toNat / 2 ^ 56 →
      (s.r a).toNat / 2 ^ 56 ≤ 0xFE → (∃ l, s.place s.me ((s.r a).toNat + 65536 * (s.r b).toNat - 1) .read = .ok l) →
      (s.r a).toNat % 2 ^ 56 / 2 ^ 20 = ((s.r a).toNat % 2 ^ 56 + 65536 * (s.r b).toNat - 1) / 2 ^ 20 →
      ∃ t, exec (.tdef d a b) s = .next t ∧ FormDone s t (tileTo s d
        { base := s.r a, rb := (s.r b).toNat, rows := 0, len := 0, tag := 0x0C, bitmap := BitVec.allOnes 16384 })) ∧
    (HasHandler s → (s.r b).toNat = 0 ∨ 4 < (s.r b).toNat → ∃ t, exec (.tdef d a b) s = .next t ∧ HeadTraps s t 2 0) ∧
    (HasHandler s → 1 ≤ (s.r b).toNat → (s.r b).toNat ≤ 4 → (s.r a).toNat % 4096 ≠ 0 →
      ∃ t, exec (.tdef d a b) s = .next t ∧ HeadTraps s t 7 (s.r a)) ∧
    (HasHandler s → 1 ≤ (s.r b).toNat → (s.r b).toNat ≤ 4 → (s.r a).toNat % 4096 = 0 →
      (s.r a).toNat / 2 ^ 56 < 0xFC ∨ (s.r a).toNat / 2 ^ 56 = 0xFF → ∃ t, exec (.tdef d a b) s = .next t ∧ HeadTraps s t 6 (s.r a)) ∧
    (HasHandler s → 1 ≤ (s.r b).toNat → (s.r b).toNat ≤ 4 → (s.r a).toNat % 4096 = 0 → 0xFC ≤ (s.r a).toNat / 2 ^ 56 →
      (s.r a).toNat / 2 ^ 56 ≤ 0xFE → (∀ l, s.place s.me ((s.r a).toNat + 65536 * (s.r b).toNat - 1) .read ≠ .ok l) ∨
        (s.r a).toNat % 2 ^ 56 / 2 ^ 20 ≠ ((s.r a).toNat % 2 ^ 56 + 65536 * (s.r b).toNat - 1) / 2 ^ 20 →
      ∃ t, exec (.tdef d a b) s = .next t ∧ HeadTraps s t 4 (s.r a))) ∧
  (∀ (s : State) (d : TReg) (a : SReg), Quiet s → Readable s d →
    ((s.r a).toNat < 512 → (s.r a).toNat % 32 < 19 → (s.r a).toNat / 32 % 4 ≠ 3 → ∀ bm,
      s.bitmapFor s.me { s.st.tiles[d].cur with tag := (s.r a).setWidth 9 } ((s.r a).toNat / 32 % 4) = some bm →
      ∃ t, exec (.ttag d a) s = .next t ∧
        FormDone s t (tileTo s d { s.st.tiles[d].cur with tag := (s.r a).setWidth 9, bitmap := bm })) ∧
    (HasHandler s → 512 ≤ (s.r a).toNat ∨ 19 ≤ (s.r a).toNat % 32 ∨ (s.r a).toNat / 32 % 4 = 3 →
      ∃ t, exec (.ttag d a) s = .next t ∧ HeadTraps s t 2 0)) ∧
  (∀ (s : State) (d : SReg) (a : TReg), Quiet s → Readable s a →
    ∃ t, exec (.tgtag d a) s = .next t ∧ ScalarFromVector s t d (s.st.tiles[a].cur.tag.setWidth 64)) ∧
  (∀ (s : State) (d : SReg) (a : TReg), Quiet s → a.val < s.st.lim.tiles →
    ∃ t, exec (.tstat d a) s = .next t ∧
      ScalarFromVector s t d (match s.st.tiles[a].st with | .empty => 0 | .filling => 1 | .ready => 2 | .draining => 3)) ∧
  (∀ (s : State) (d : TReg), Quiet s → d.val < s.st.lim.tiles → s.st.tiles[d].st = .ready ∨ s.st.tiles[d].st = .empty →
    ∃ t, exec (.twait d) s = .next t ∧ FormDone s t s) ∧
  (∀ (i : Instr) (s : State) (n : TReg), tableForm i = some n → Quiet s → HasHandler s →
    (s.st.lim.tiles ≤ n.val → ∃ t, exec i s = .next t ∧ HeadTraps s t 2 0) ∧
    (s.st.tiles[n].st = .empty → (∀ d a b, i ≠ .tdef d a b) → (∀ d a, i ≠ .tstat d a) → (∀ d, i ≠ .twait d) →
      ∃ t, exec i s = .next t ∧ HeadTraps s t 2 0))

/-- R187, R193 to R197: MCLAIM, MRELS and MLDS. A claim takes all its slots or waits; MLDS rewrites a slot from a tile, keeping of
each group the block that the bitmap keeps; a group without one is zeros. Of the kept blocks of a half or quarter bf16 or f16 tile
the clause says what the 96 bytes of a column hold (R192); the rest is a free value (the model's choice, log 54). -/
def Obligations.OperandSlots : Prop :=
  (∀ (s : State) (a : SReg), Quiet s →
    ((s.r a).toNat < 2 ^ 16 → (List.range 16).countP (fun n => (s.r a).getLsbD n) ≤ s.st.lim.slots → s.r a ≠ 0 →
      (∀ n, n < 16 → (s.oslot n).owner = some s.slot → (s.r a).getLsbD n = true) → (∀ k ∈ s.claims, coreOf k ≠ coreOf s.slot) →
      ((∀ n, n < 16 → (s.r a).getLsbD n = true → (s.oslot n).owner = none ∨ (s.oslot n).owner = some s.slot) →
        ∃ t o, exec (.mclaim a) s = .next t ∧ FormDone s t { s with oslots := o } ∧
          ∀ k, lookup .empty k o = if k / 16 = coreOf s.slot ∧ (s.r a).getLsbD (k % 16) = true
            then { lookup .empty k s.oslots with owner := some s.slot } else lookup .empty k s.oslots) ∧
      ((∃ n, n < 16 ∧ (s.r a).getLsbD n = true ∧ (s.oslot n).owner ≠ none ∧ (s.oslot n).owner ≠ some s.slot) →
        ∃ t, exec (.mclaim a) s = .next t ∧ t.claims = s.claims ++ [s.slot] ∧ t.st.park = .mclaim ∧ t.st.queue.length = 1 ∧
          t.oslots = s.oslots ∧ t.st.csr = s.st.csr ∧ SameMemory s t)) ∧
    (HasHandler s → 2 ^ 16 ≤ (s.r a).toNat → ∃ t, exec (.mclaim a) s = .next t ∧ HeadTraps s t 2 0)) ∧
  (∀ (s : State) (a : SReg), Quiet s → (s.r a).toNat < 2 ^ 16 → ∃ t o, exec (.mrels a) s = .next t ∧
    FormDone s t { s with oslots := o } ∧
      ∀ k, lookup .empty k o = if k / 16 = coreOf s.slot ∧ (s.r a).getLsbD (k % 16) = true ∧
          (lookup .empty k s.oslots).owner = some s.slot
        then { lookup .empty k s.oslots with owner := none } else lookup .empty k s.oslots) ∧
  (∀ (s : State) (d : OSlot) (a : TReg) (c : Bool) (nb w sp m span k : Nat) (tl : TileDef), Quiet s → Readable s a →
    tl = s.st.tiles[a].cur → (s.oslot d.val).owner = some s.slot → slotScales? (tagFmt tl.tag) = some nb →
    w = codeBits (tagFmt tl.tag) → sp = tagSp tl.tag → m = 2 ^ sp → span = 96 * m → k = span * 8 / w → sp < 3 →
    (c = true → 8 ≤ w) → (sp ≠ 0 → tagLay tl.tag = bitN c) →
    ∃ t o x, exec (.mlds d a c) s = .next t ∧
      FormDone s t { s with oslots := o, freeCtr := s.freeCtr + if sp ≠ 0 ∧ w = 16 then 1 else 0 } ∧
      (∀ j, lookup .empty j o = if j = 16 * coreOf s.slot + d.val then x else lookup .empty j s.oslots) ∧
      x.owner = some s.slot ∧ x.fmt = tagFmt tl.tag ∧ x.sp = sp ∧
      (∀ n i, n < 128 → i < k → (sp ≠ 0 → 32 * (i / 32 / m) + i % 32 < 768 / w) → x.elem n i =
        if sp = 0 ∨ tl.kept sp n (i / 32 / m) = some (i / 32 % m) then s.kElem tl c n i else 0) ∧
      (∀ n j, n < 128 → j < nb → (x.scales.toList.getD n 0).toNat / 2 ^ (8 * j) % 256 =
        if sp ≠ 0 ∧ tl.kept sp n j = none then 0x7F
        else if c then (if k + nb ≤ tl.rows ∧ 128 ≤ tl.len then s.tileGet s.me tl (k + j) n else 0x7F)
        else (if 128 ≤ tl.rows ∧ span + nb ≤ tl.len then s.tileGet s.me tl n (span + j) else 0x7F)))

/-- R199 to R206: MROW and MTILE make every column of a row anew from the slot, the activation and the scales; MACR and MACW
move rows between the accumulator store and vector registers; MACZ zeroes rows. The model's choices: when NX is raised in an
integer mode (log 86), that a register scale of 0xFF raises NV over an absent block (log 104), and that SE = 1 names no scale register
in bf16 and f16 (log 105). -/
def Obligations.MatrixAndAccumulator : Prop :=
  (∀ (s : State) (d : OSlot) (a : VReg) (b : SReg) (m : MMode) (k : Fin 16) (cm : AccM) (i : ModeInfo) (o : OpSlot)
      (row q k0 n : Nat) (se : Bool) (out : Nat → Nat × BitVec 6),
    Quiet s → s.st.csr.vstart = 0 → i = modeInfo m → o = s.oslot d.val → o.owner = some s.slot → o.fmt = i.slot.code →
    ¬(m = .t2 ∧ o.sp = 2) → (s.r b).toNat < 2 ^ 16 → row = (s.r b).toNat % 4096 → q = (s.r b).toNat / 2 ^ 12 % 8 →
    se = (s.r b).getLsbD 15 → s.st.csr.accbase.toNat ≤ row → row < s.st.csr.acclim.toNat → k.val * 96 % i.span o = 0 →
    k0 = k.val * 768 / i.act.bits → n = i.elems o → ((s.entry (.mrow d a b m k cm)).group a 8).ok = true →
    k0 + n ≤ emul s.st.grant.vtype 8 * perReg i.act.bits →
    (se = true → i.scaled = true → q + (k0 / i.block + n / i.block - 1) / 64 ≤ 7) →
    (∀ j, out j = matColumn i cm o j (n / i.block) (fun e => el s a (k0 + e) i.act.bits)
      (fun e => if se && i.scaled then s.st.vec.scale (Fin.ofNat 8 q) (k0 / i.block + e) else 0x7F)
      ((s.accRow row).toNat / 2 ^ (32 * j) % 2 ^ 32)) →
    (∀ j, j < 128 → ¬Acts s (out j).2) →
    ∃ t c, exec (.mrow d a b m k cm) s = .next t ∧ EntryDone s { t with acc := s.acc } 1 c ∧ t.st.vec = s.st.vec ∧
      UnionOf (· < 128) (fun j => (out j).2) c ∧
      (∀ j, j < 128 → (t.accRow row).toNat / 2 ^ (32 * j) % 2 ^ 32 = (out j).1 % 2 ^ 32) ∧
      (∀ r, r ≠ 4096 * coreOf s.slot + row → lookup 0 r t.acc = lookup 0 r s.acc)) ∧
  (∀ (s : State) (d : OSlot) (a : TReg) (b : SReg) (m : MMode) (col : Bool) (cm : AccM) (i : ModeInfo) (o : OpSlot)
      (tl : TileDef) (len n : Nat) (sc : Nat → Nat → Nat) (out : Nat → Nat → Nat × BitVec 6),
    Quiet s → Readable s a → tl = s.st.tiles[a].cur → i = modeInfo m → o = s.oslot d.val → o.owner = some s.slot →
    o.fmt = i.slot.code → ¬(m = .t2 ∧ o.sp = 2) → tagFmt tl.tag = i.act.code → (col = true → 8 ≤ i.act.bits) →
    (s.r b).toNat < 2 ^ 12 → n = i.elems o → (∀ p ∈ s.st.trims, p.1 ≠ s.st.grant.id) →
    len = (if col then 8 * tl.len / i.act.bits else tl.rows) →
    s.st.csr.vstart.toNat < len →
    (s.st.csr.accbase.toNat ≤ (s.r b).toNat ∧ (s.r b).toNat + len ≤ s.st.csr.acclim.toNat) →
    (∀ v j, sc v j = if !i.scaled then 0x7F
      else if col then (if n + n / i.block ≤ tl.rows then s.tileGet s.me tl (n + j) v else 0x7F)
      else (if i.span o + n / i.block ≤ tl.len then s.tileGet s.me tl v (i.span o + j) else 0x7F)) →
    (∀ v j, out v j = matColumn i cm o j (n / i.block) (s.actElem tl col i.act.bits v) (sc v)
      ((s.accRow ((s.r b).toNat + v)).toNat / 2 ^ (32 * j) % 2 ^ 32)) →
    (∀ v j, v < len → j < 128 → ¬Acts s (out v j).2) →
    ∃ t c, exec (.mtile d a b m col cm) s = .next t ∧ EntryDone s { t with acc := s.acc } len c ∧ t.st.vec = s.st.vec ∧
      (∀ e, e < 6 → (c.getLsbD e = true ↔
        ∃ v j, s.st.csr.vstart.toNat ≤ v ∧ v < len ∧ j < 128 ∧ (out v j).2.getLsbD e = true)) ∧
      (∀ v j, s.st.csr.vstart.toNat ≤ v → v < len → j < 128 →
        (t.accRow ((s.r b).toNat + v)).toNat / 2 ^ (32 * j) % 2 ^ 32 = (out v j).1 % 2 ^ 32) ∧
      (∀ r, (∀ v, s.st.csr.vstart.toNat ≤ v → v < len → r ≠ 4096 * coreOf s.slot + (s.r b).toNat + v) →
        lookup 0 r t.acc = lookup 0 r s.acc)) ∧
  (∀ (s : State) (d : VReg) (a b : SReg) (r : RCode) (out : Nat → Nat × BitVec 6), Quiet s → Granted s →
    s.st.csr.accbase.toNat ≤ (s.r a).toNat → (s.r a).toNat < s.st.csr.acclim.toNat → -256 ≤ (s.r b).toInt →
    (s.r b).toInt ≤ 255 → ((s.entry (.macr d a b r)).group d (rcodeElem r).bits).ok = true →
    (∀ i, out i = macrElem r (s.entry (.macr d a b r)).rm (s.entry (.macr d a b r)).xm (s.r b).toInt
      ((s.accRow (s.r a).toNat).toNat / 2 ^ (32 * i) % 2 ^ 32)) →
    (∀ i, i < min s.st.vlNow 128 → ¬Acts s (out i).2) →
    ∃ t c, exec (.macr d a b r) s = .next t ∧ EntryDone s t (min s.st.vlNow 128) c ∧ VecRest s t ∧ t.st.vec.m = s.st.vec.m ∧
      UnionOf (fun i => s.st.csr.vstart.toNat ≤ i ∧ i < min s.st.vlNow 128) (fun i => (out i).2) c ∧
      ElemsAfter s t d (rcodeElem r).bits (fun i => s.st.csr.vstart.toNat ≤ i ∧ i < min s.st.vlNow 128) (fun i => (out i).1)) ∧
  (∀ (s : State) (a : VReg) (b : SReg) (r : RCode) (out : Nat → Nat × BitVec 6), Quiet s → Granted s →
    s.st.csr.accbase.toNat ≤ (s.r b).toNat → (s.r b).toNat < s.st.csr.acclim.toNat →
    ((s.entry (.macw a b r)).group a (rcodeElem r).bits).ok = true →
    (∀ i, out i = macwElem r (el s a i (rcodeElem r).bits)) → (∀ i, i < min s.st.vlNow 128 → ¬Acts s (out i).2) →
    ∃ t c, exec (.macw a b r) s = .next t ∧ EntryDone s { t with acc := s.acc } (min s.st.vlNow 128) c ∧ t.st.vec = s.st.vec ∧
      UnionOf (fun i => s.st.csr.vstart.toNat ≤ i ∧ i < min s.st.vlNow 128) (fun i => (out i).2) c ∧
      (∀ i, i < 128 → (t.accRow (s.r b).toNat).toNat / 2 ^ (32 * i) % 2 ^ 32 =
        if s.st.csr.vstart.toNat ≤ i ∧ i < s.st.vlNow then (out i).1 % 2 ^ 32
        else (s.accRow (s.r b).toNat).toNat / 2 ^ (32 * i) % 2 ^ 32) ∧
      (∀ k, k ≠ 4096 * coreOf s.slot + (s.r b).toNat → lookup 0 k t.acc = lookup 0 k s.acc)) ∧
  (∀ (s : State) (a b : SReg), Quiet s → s.st.csr.acclim.toNat ≤ 4096 →
    ((s.r b) ≠ 0 → s.st.csr.accbase.toNat ≤ (s.r a).toNat ∧ (s.r a).toNat + (s.r b).toNat ≤ s.st.csr.acclim.toNat) →
    ∃ t x, exec (.macz a b) s = .next t ∧ FormDone s t { s with acc := x } ∧
      ∀ k, lookup 0 k x = if 4096 * coreOf s.slot + (s.r a).toNat ≤ k ∧
        k < 4096 * coreOf s.slot + (s.r a).toNat + (s.r b).toNat then 0 else lookup 0 k s.acc)

/-- R221 to R224: CPYV, CPYX and CPYT read their descriptor, check it, and issue the copy; the strand goes on while the copy
is in flight. CPYT makes its tile filling or draining. A descriptor with a bit it must not hold raises cause 0x02. -/
def Obligations.CopyIssue : Prop :=
  ∀ (i : Instr) (s : State) (x : BitVec 1024) (a : SReg) (c : Copy) (u ok : Prop) (tl : Vector Tile 8) (ls : List Nat),
    copyForm i s x = some (a, c, u, ok, tl) → Quiet s → s.check s.me (s.r a).toNat 128 128 .any .read = .ok ls →
    x = BitVec.ofNat 1024 (s.get ls) →
    (copyBad x = false → u → ok → ∃ t, exec i s = .next t ∧ SameMemory s t ∧
      FormDone s t { s with caches := t.caches, st := { s.st with copies := [c], tiles := tl } }) ∧
    (copyBad x = true → HasHandler s → ∃ t, exec i s = .next t ∧ HeadTraps s t 2 0)

/-- R307, R310, R311: SKINIT makes a sketch of zeros; SKADD adds a scaled sketch and SKSCL scales one, each counter exactly,
rounded and clamped, with SATR marking the rows that clamped. A class in trap mode changes nothing. -/
def Obligations.WholeSketches : Prop :=
  (∀ (s : State) (d a b : SReg) (x : SkHead) (hs cs : List Nat), Quiet s → SketchAt s (s.r d) x .write hs cs →
    x.d = (s.r a).toNat % 16 → x.logw = (s.r a).toNat / 16 % 32 → x.cw = (if (s.r a).getLsbD 9 then 32 else 16) →
    x.seed = s.r b → x.scale = ((s.r a).extractLsb' 16 16).toInt → (s.r a).toNat / 2 ^ 10 % 64 = 0 → (s.r a).toNat < 2 ^ 32 →
    x.d = 3 ∨ x.d = 5 ∨ x.d = 7 → 6 ≤ x.logw → x.logw ≤ 26 → -1024 ≤ x.scale → x.scale ≤ 1023 →
    ∃ t, exec (.skinit d a b) s = .next t ∧ FormDone s t { s with mem := t.mem, caches := t.caches } ∧
      Holds t hs (headNat x.d x.logw x.cw 0 x.seed x.scale) ∧ (∀ l ∈ cs, Memory.get t.mem l = 0) ∧ SameOutside (hs ++ cs) s t) ∧
  (∀ (s : State) (d a : SReg) (x y : SkHead) (hs cs ms ns : List Nat) (z : Nat → Int) (cl : Nat → BitVec 6) (c : BitVec 6),
    Quiet s → SketchAt s (s.r d) x .rw hs cs → skHead? (s.get hs) = some x →
    s.check s.me (s.r a).toNat 64 64 .memory .rw = .ok ms → skHead? (s.get ms) = some y →
    s.check s.me ((s.r a).toNat + 64) (y.d * 2 ^ y.logw * (y.cw / 8)) 1 .memory .rw = .ok ns →
    x.d = y.d → x.logw = y.logw → x.cw = y.cw → x.seed = y.seed →
    (∀ i, z i = counterOf s x cs i + scaled (counterOf s y ns i) (y.scale - x.scale)) →
    (∀ i, cl i = sketchCls (inexact (counterOf s y ns i) (y.scale - x.scale)) (skClamp x.cw (z i) != z i)) →
    UnionOf (· < x.d * 2 ^ x.logw) cl c →
    (NoTrap s c → ∃ t, exec (.skadd d a) s = .next t ∧ SketchTo s t x hs cs z y.satr x.scale ∧
      FormDone s t { s with mem := t.mem, caches := t.caches, st := { s.st with csr := { s.st.csr with xflags := s.st.csr.xflags ||| c } } }) ∧
    (∀ j, j < 6 → c.getLsbD j = true → mode s j = 2 → (∀ q, q < j → ¬(c.getLsbD q = true ∧ mode s q = 2)) → HasHandler s →
      ∃ t, exec (.skadd d a) s = .next t ∧ HeadTraps s t (0x10 + j) 0)) ∧
  (∀ (s : State) (d a : SReg) (x : SkHead) (hs cs : List Nat) (k : Int) (z : Nat → Int) (cl : Nat → BitVec 6) (c : BitVec 6),
    Quiet s → SketchAt s (s.r d) x .rw hs cs → skHead? (s.get hs) = some x → k = (s.r a).toInt → -63 ≤ k → k ≤ 63 →
    -1024 ≤ x.scale + k → x.scale + k ≤ 1023 → (∀ i, z i = scaled (counterOf s x cs i) (-k)) →
    (∀ i, cl i = sketchCls (inexact (counterOf s x cs i) (-k)) (skClamp x.cw (z i) != z i)) →
    UnionOf (· < x.d * 2 ^ x.logw) cl c →
    (NoTrap s c → ∃ t, exec (.skscl d a) s = .next t ∧ SketchTo s t x hs cs z 0 (x.scale + k) ∧
      FormDone s t { s with mem := t.mem, caches := t.caches, st := { s.st with csr := { s.st.csr with xflags := s.st.csr.xflags ||| c } } }) ∧
    (∀ j, j < 6 → c.getLsbD j = true → mode s j = 2 → (∀ q, q < j → ¬(c.getLsbD q = true ∧ mode s q = 2)) → HasHandler s →
      ∃ t, exec (.skscl d a) s = .next t ∧ HeadTraps s t (0x10 + j) 0))

/-- R308, R309, R314: each active element of an SKUPD adds its value, in true units, to one counter of every row; each of an
SKQRY takes the median of its signed counters; SETLS sets the loss scale. -/
def Obligations.SketchElements : Prop :=
  (∀ (s : State) (d : VReg) (a : SReg) (b : VReg) (m : MReg) (x : SkHead) (hs cs ks : List Nat) (key : Nat → Nat)
      (v : Nat → Val) (k : Int) (run : Nat → Int × Bool), Quiet s → Granted s → Coherent s →
    TablesApart s (fun l => l ∈ hs ++ cs) → SketchAt s (s.r a) x .rw hs cs → skHead? (s.get hs) = some x →
    ((s.entry (.skupd d a b m)).group d 32).ok = true → ((s.entry (.skupd d a b m)).group b 64).ok = true →
    ks = (List.range s.st.vlNow).filter (fun i => decide (s.st.csr.vstart.toNat ≤ i) && allows s m i) →
    (∀ i, key i = el s b i 64) → (∀ i, v i = FP.f32.val (el s d i 32)) → k = -(s.st.csr.lscale.toInt) - x.scale →
    (∀ i, run i = updated x key (fun j => increment (v j) k) i ks (counterOf s x cs i, false)) →
    (∀ i, i < x.d * 2 ^ x.logw → (run i).2 = true → mode s 5 = 0) → (∀ j ∈ ks, ¬Acts s (incrementCls (v j) k)) →
    ∃ t c r, exec (.skupd d a b m) s = .next t ∧ EntryDone s { t with mem := s.mem, caches := s.caches } s.st.vlNow c ∧ t.st.vec = s.st.vec ∧
      (∀ j, j < 6 → (c.getLsbD j = true ↔ (∃ e ∈ ks, (incrementCls (v e) k).getLsbD j = true) ∨
        (j = 5 ∧ ∃ i, i < x.d * 2 ^ x.logw ∧ (run i).2 = true))) ∧
      Holds t hs (headNat x.d x.logw x.cw r x.seed x.scale) ∧
      (∀ j, r.testBit j = true ↔ (x.satr.testBit j = true ∨ ∃ i, i / 2 ^ x.logw = j ∧ i < x.d * 2 ^ x.logw ∧ (run i).2 = true)) ∧
      (∀ i, i < x.d * 2 ^ x.logw → counterOf t x cs i = (run i).1) ∧ SameOutside (hs ++ cs) s t) ∧
  (∀ (s : State) (d : VReg) (a : SReg) (b : VReg) (m : MReg) (x : SkHead) (hs cs : List Nat) (est : Nat → Val),
    Quiet s → Granted s → SketchAt s (s.r a) x .read hs cs → skHead? (s.get hs) = some x →
    legalOps s (.skqry d a b m) d 32 [(b, 64)] false 0 0 = true →
    (∀ i, est i = valOfInt (median ((List.range x.d).map fun j =>
      let p := rowOf x (el s b i 64) j
      if p.2 then -(counterOf s x cs p.1) else counterOf s x cs p.1)) x.scale) →
    (∀ i, Executes s s.st.csr.vstart.toNat m i → ¬Acts s (FP.f32.round .rne (est i)).2) →
    ∃ t c, exec (.skqry d a b m) s = .next t ∧ EntryDone s { t with caches := s.caches } s.st.vlNow c ∧ VecRest s t ∧ t.st.vec.m = s.st.vec.m ∧
      UnionOf (Executes s s.st.csr.vstart.toNat m) (fun i => (FP.f32.round .rne (est i)).2) c ∧
      ElemsAfter s t d 32 (Executes s s.st.csr.vstart.toNat m) (fun i => (FP.f32.round .rne (est i)).1)) ∧
  (∀ (s : State) (a : SReg), Quiet s →
    (-128 ≤ (s.r a).toInt → (s.r a).toInt ≤ 127 → ∃ t, exec (.setls a) s = .next t ∧
      FormDone s t { s with st := { s.st with csr := { s.st.csr with lscale := BitVec.ofInt 8 (s.r a).toInt } } }) ∧
    (HasHandler s → (s.r a).toInt < -128 ∨ 127 < (s.r a).toInt → ∃ t, exec (.setls a) s = .next t ∧ HeadTraps s t 2 0))

/-! ### Ports, queues, groups and the system context (12, 17 to 19, 24, 25) -/

/-- R209 to R217: PUSH adds its words to a write stream's FIFO or a command to p16 or p17; POP takes the next element of a read
stream or the oldest status, and while that has not come its register waits and the strand goes on; STRCFG starts a stream;
STRBAR, with nothing under way, drops the buffers it names. A port that is not bound, is idle or has ended, and a status with
nothing outstanding, raise cause 0x02. -/
def Obligations.PortForms : Prop :=
  ∀ s : State, (∀ n : Fin 16, s.st.streams[n].wfault = none) → (∀ r ∈ s.st.sync, r.src.isPort = false) →
    (∀ (d : Port) (a : SReg) (n : Fin 8) (p : Fin 16) (x : Stream), d.val = p.val → x = s.st.streams[p] →
      (LiveStream s p → x.write = true → x.cur + x.fifo.length + n.val + 1 ≤ x.count → x.fifo.length + n.val + 1 ≤ 32 →
        ∃ t, exec (.push d a n) s = .next t ∧ MovedIn s t { s with st := pushedOn { s.st with streams := s.st.streams.set p { x with
          fifo := x.fifo ++ (List.range (n.val + 1)).map fun i =>
            (s.st.nextSeq, s.st.pushes, s.r (Fin.ofNat 32 (a.val + i))) } } }) ∧
      (HasHandler s → ¬(LiveStream s p ∧ x.write = true) → ∃ t, exec (.push d a n) s = .next t ∧ Delivered s t 2 0)) ∧
    (∀ (d : Port) (a : SReg) (n : Fin 8),
      (d.val = 16 → n.val = 3 → (s.st.cmds.filter (·.status.isNone)).length < 16 → ∃ t, exec (.push d a n) s = .next t ∧
        MovedIn s t { s with st := pushedOn { s.st with cmds := s.st.cmds ++ [cmdOf s a] } }) ∧
      (d.val = 17 → n.val = 3 → (s.st.colls.filter (·.status.isNone)).length < 8 → ∃ t c, exec (.push d a n) s = .next t ∧
        MovedIn s t { s with ctxs := t.ctxs, st := pushedOn { s.st with colls := s.st.colls ++ [c] } } ∧
        c.w0 = (cmdOf s a).w0 ∧ c.w1 = (cmdOf s a).w1 ∧ c.w2 = (cmdOf s a).w2 ∧ c.w3 = (cmdOf s a).w3 ∧ c.seq = s.st.nextSeq ∧ c.ord = s.st.pushes ∧
        (c.bad s.link.chip.toNat (s.cgroup? s.st.ctx c.grp) = true →
          c.status = some (BitVec.ofNat 64 (2 ^ 33)) ∧ t.ctxs = s.ctxs) ∧
        (c.bad s.link.chip.toNat (s.cgroup? s.st.ctx c.grp) = false → c.status = none ∧
          ∀ x, s.ctx? s.st.ctx = some x → c.num = lookup 0 c.grp x.collNum ∧
            t.ctx? s.st.ctx = some { x with collNum := store 0 c.grp (c.num + 1) x.collNum })) ∧
      (HasHandler s → d.val = 18 ∨ (16 ≤ d.val ∧ n.val ≠ 3) → ∃ t, exec (.push d a n) s = .next t ∧ Delivered s t 2 0)) ∧
    (∀ (d : SReg) (a : Port) (p : Fin 16) (x : Stream), a.val = p.val → x = s.st.streams[p] →
      (∀ e, LiveStream s p → x.write = false → x.cur < x.count → x.buf.find? (fun e => e.1 = x.cur) = some e →
        ∃ t, exec (.pop d a) s = .next t ∧ ResultIn s t (withStream s p (movedOne x)) d e.2) ∧
      (∀ (ea : Nat) ls, LiveStream s p → x.write = false → x.cur < x.count → x.buf.find? (fun e => e.1 = x.cur) = none →
        (ea : Int) = x.base.toNat + x.cur * x.stride.toInt → ea < 2 ^ 64 → ea % 2 ^ x.width = 0 →
        s.locs s.me ea (2 ^ x.width) .read = .ok ls → ∃ t, exec (.pop d a) s = .next t ∧ SameMemory s t ∧
          ResultIn s t { withStream s p (movedOne x) with caches := t.caches } d (BitVec.ofNat 64 (s.get ls))) ∧
      (HasHandler s → ¬(LiveStream s p ∧ x.write = false) → ∃ t, exec (.pop d a) s = .next t ∧ Delivered s t 2 0)) ∧
    (∀ (d : SReg) (a : Port) (v : Word),
      (∀ c r, a.val = 16 → s.st.cmds = c :: r → c.status = some v → ∃ t, exec (.pop d a) s = .next t ∧
        ResultIn s t { s with st := { s.st with cmds := r } } d v) ∧
      (∀ c r, a.val = 17 → s.st.colls = c :: r → c.status = some v → ∃ t, exec (.pop d a) s = .next t ∧
        ResultIn s t { s with st := { s.st with colls := r } } d v) ∧
      (∀ c r, a.val = 18 → s.st.copies = c :: r → c.status = some v → ∃ t, exec (.pop d a) s = .next t ∧
        ResultIn s t { s with st := { s.st with copies := r } } d v) ∧
      (s.st.sync.length < 8 → (∃ c r, (a.val = 16 ∧ s.st.cmds = c :: r ∧ c.status = none)) ∨
        (∃ c r, a.val = 17 ∧ s.st.colls = c :: r ∧ c.status = none) ∨ (∃ c r, a.val = 18 ∧ s.st.copies = c :: r ∧ c.status = none) →
        ∃ t, exec (.pop d a) s = .next t ∧ (∀ q : Fin 32, t.st.pend.getLsbD q.val = (s.st.pend.getLsbD q.val || decide (q = d))) ∧
          MovedIn s t { s with st := { s.st with pend := t.st.pend, sync := s.st.sync ++
            [{ reg := d, seq := s.st.nextSeq, src := .port a.val, grant := s.st.grant, flags := s.st.csr.xflags }] } }) ∧
      (HasHandler s → (a.val = 16 ∧ s.st.cmds = []) ∨ (a.val = 17 ∧ s.st.colls = []) ∨ (a.val = 18 ∧ s.st.copies = []) →
        ∃ t, exec (.pop d a) s = .next t ∧ Delivered s t 2 0)) ∧
    (∀ (d : OSlot) (a : SReg) (ls : List Nat) (count ctl : Nat), (s.r a).toNat % 32 = 0 →
      s.locs s.me (s.r a).toNat 32 .read = .ok ls → count = s.get ls / 2 ^ 64 % 2 ^ 64 → ctl = s.get ls / 2 ^ 192 →
      d.val < s.st.csr.strmap.toNat / 2 ^ 5 % 2 ^ 5 →
      (count ≤ 2 ^ 32 → ctl < 2 ^ 32 → ctl / 4 % 2 = 0 → ctl / 2 ^ 6 % 2 ^ 10 = 0 → ctl / 2 ^ 16 ≠ 0 →
        (ctl / 16 % 4 + 1) * (ctl / 2 ^ 16) * 2 ^ (ctl % 4) ≤ 8192 → s.st.streams[d].fifo = [] →
        ∃ t, exec (.strcfg d a) s = .next t ∧ SameMemory s t ∧ MovedIn s t { withStream s d {
          st := if count = 0 then .ended else .running, base := BitVec.ofNat 64 (s.get ls), count := count,
          stride := BitVec.ofNat 64 (s.get ls / 2 ^ 128), width := ctl % 4, write := ctl / 8 % 2 == 1,
          depth := ctl / 16 % 4, slen := ctl / 2 ^ 16, cur := 0, buf := [], fifo := [], wfault := none } with
            caches := t.caches }) ∧
      (HasHandler s → 2 ^ 32 < count ∨ 2 ^ 32 ≤ ctl ∨ ctl / 4 % 2 = 1 ∨ ctl / 2 ^ 6 % 2 ^ 10 ≠ 0 ∨ ctl / 2 ^ 16 % 2 ^ 16 = 0 ∨
        8192 < (ctl / 16 % 4 + 1) * (ctl / 2 ^ 16 % 2 ^ 16) * 2 ^ (ctl % 4) →
        ∃ t, exec (.strcfg d a) s = .next t ∧ Delivered { s with caches := t.caches } t 2 0)) ∧
    (∀ i : BitVec 17, Quiet s → (∀ n, n < 16 → i.getLsbD n = true → n < s.st.csr.strmap.toNat / 2 ^ 5 % 2 ^ 5) →
      ∃ t, exec (.strbar i) s = .next t ∧ SameMemory s t ∧
        MovedIn s t { s with st := { s.st with streams := t.st.streams } } ∧
        (∀ n : Fin 16, t.st.streams[n] = if i.getLsbD n.val = true ∧ s.st.streams[n].write = false
          then { s.st.streams[n] with buf := [] } else s.st.streams[n]))

/-- R269 to R275, R267: QPUSH and QPUSHB append a valid record unless the level is full or the queue is sealed; QPOP, QPOPB and
QSTEAL deliver a ready record to the buffer at sr, or nothing, and QPOP parks while an open queue has none ready; QLEN tells
the counts; DEPENDENCE_READY serves a QPOP that is parked, by the translation of its buffer that it made. -/
def Obligations.QueueForms : Prop :=
  (∀ (s : State) (d a b : SReg) (q : Queue) (ls : List Nat) (r : Nat), NamesQueue s (s.r a) q →
    RecordAt s (s.r b) .read ls → r = s.get ls → recValid q r = true → q.parked = [] →
    ((q.isSealed = false → (q.levels[q.level (recPrio r)]).length + 1 ≤ 2 ^ q.capl → ∃ t, exec (.qpush d a b) s = .next t ∧
        ResultIn s t { s with queues := t.queues, caches := t.caches } d (q.nextSeq.setWidth 64) ∧ SameMemory s t ∧
        QueueTo s t q { q with
          nextSeq := q.nextSeq + 1, levels := q.levels.set (q.level (recPrio r))
            (q.levels[q.level (recPrio r)] ++ [{ seq := q.nextSeq, data := BitVec.ofNat 512 r }]) }) ∧
      (q.isSealed = true ∨ 2 ^ q.capl < (q.levels[q.level (recPrio r)]).length + 1 → ∃ t, exec (.qpush d a b) s = .next t ∧
        ResultIn s t { s with queues := t.queues, caches := t.caches } d
          (BitVec.ofNat 64 ((if 2 ^ q.capl < (q.levels[q.level (recPrio r)]).length + 1 then 2 ^ 48 else 0) +
            if q.isSealed then 2 ^ 49 else 0)) ∧ SameMemory s t ∧ QueueTo s t q q)) ∧
    (q.deque = true → q.owner = none ∨ q.owner = some s.slot → q.isSealed = false →
      (q.levels[(0 : Fin 8)]).length + 1 ≤ 2 ^ q.capl → ∃ t, exec (.qpushb d a b) s = .next t ∧
        ResultIn s t { s with queues := t.queues, caches := t.caches } d (q.nextSeq.setWidth 64) ∧ SameMemory s t ∧
        QueueTo s t q { q with
          owner := some s.slot, nextSeq := q.nextSeq + 1,
          levels := q.levels.set 0 ({ seq := q.nextSeq, data := BitVec.ofNat 512 r } :: q.levels[(0 : Fin 8)]) }) ∧
    (q.deque = true → q.owner ≠ none → q.owner ≠ some s.slot → HasHandler s →
      ∃ t, exec (.qpushb d a b) s = .next t ∧ Delivered s t 2 0)) ∧
  (∀ (s : State) (d a b : SReg) (q : Queue) (ls : List Nat), NamesQueue s (s.r a) q → RecordAt s (s.r b) .rw ls →
    RecordApart s q ls → s.st.park = .none →
    (q.deque = false → q.parked = [] → (∀ e, Selected s q e → ∃ t, exec (.qpop d a b) s = .next t ∧
      ResultIn s t { s with mem := t.mem, queues := t.queues, caches := t.caches } d (deliveredWord q e) ∧ DeliveredTo s t q e ls ∧
      QueueTo s t q { q with levels := q.levels.map fun (l : List QRec) => l.filter fun x => x.seq ≠ e.seq })) ∧
    (q.deque = false → q.isSealed = true → (∀ l : Fin 8, q.levels[l] = []) → ∃ t, exec (.qpop d a b) s = .next t ∧
      ResultIn s t { s with caches := t.caches } d (nothingWord q) ∧ SameMemory s t) ∧
    (q.deque = false → q.parked ≠ [] ∨ (∀ e, ¬Selected s q e) → q.isSealed = false → ∃ t, exec (.qpop d a b) s = .next t ∧
      t = { s with queues := t.queues, caches := t.caches, st := { s.st with park := .qpop } } ∧
      QueueTo s t q { q with parked := q.parked ++ [{ slot := s.slot, dst := d, buf := (s.r b).toNat, locs := ls }] }) ∧
    (∀ bottom, q.deque = true → (bottom = true → q.owner = none ∨ q.owner = some s.slot) → ∀ o,
      o = (if bottom then some s.slot else q.owner) →
      (∀ e, (((if bottom then q.levels[(0 : Fin 8)] else q.levels[(0 : Fin 8)].reverse).take 8).find?
          fun e => s.recReady q e.data.toNat) = some e →
        ∃ t, exec (if bottom then .qpopb d a b else .qsteal d a b) s = .next t ∧
          ResultIn s t { s with mem := t.mem, queues := t.queues, caches := t.caches } d (deliveredWord q e) ∧
          DeliveredTo s t q e ls ∧ QueueTo s t q { q with
            owner := o, levels := q.levels.map fun (l : List QRec) => l.filter fun x => x.seq ≠ e.seq }) ∧
      ((((if bottom then q.levels[(0 : Fin 8)] else q.levels[(0 : Fin 8)].reverse).take 8).find?
          fun e => s.recReady q e.data.toNat) = none →
        ∃ t, exec (if bottom then .qpopb d a b else .qsteal d a b) s = .next t ∧ SameMemory s t ∧
          ResultIn s t { s with queues := t.queues, caches := t.caches } d (nothingWord q) ∧ QueueTo s t q { q with owner := o }))) ∧
  (∀ (s : State) (d a : SReg) (q : Queue), NamesQueue s (s.r a) q → ∃ t, exec (.qlen d a) s = .next t ∧
    ScalarResult s t d (BitVec.ofNat 64 ((q.levels.toList.map List.length).sum % 2 ^ 24 + min q.drop 65535 * 2 ^ 32 +
      min q.parked.length 255 * 2 ^ 48 + (if q.isSealed then 2 ^ 56 else 0) + if q.deque then 2 ^ 57 else 0))) ∧
  (∀ (i : Instr) (s : State) (a : SReg) (k : Option Bool), queueForm i = some (a, k) → HasHandler s → s.st.park = .none →
    ((s.r a).toNat % 128 ≠ 0 → ∃ t, exec i s = .next t ∧ Delivered s t 7 (s.r a)) ∧
    (∀ q, NamesQueue s (s.r a) q → k = some (!q.deque) → ∃ t, exec i s = .next t ∧ Delivered s t 2 0) ∧
    (∀ e n, (s.r a).toNat % 128 = 0 → (s.r a).toNat < 2 ^ 56 →
      s.leafOf (coreOf s.slot) s.st.ctx (s.r a).toNat pteQ = some (e, n) → pteQ e = true →
      s.queue? s.st.ctx (s.r a).toNat = none → s.passed = false → ∃ t, exec i s = .next t ∧ Delivered s t 2 0)) ∧
  (∀ (s : State) (c : BitVec 16) (w : Word) (q : Queue) (k buf : Nat) (d : SReg) (e : QRec) (ls : List Nat) (x : Strand),
    s.queue? c w.toNat = some q → q.parked = [{ slot := k, dst := d, buf := buf, locs := ls }] → x = s.strand k →
    x.stat ≠ .absent → x.stat ≠ .halted → x.ctx = c → x.park = .qpop → Selected s q e → RecordApart s q ls →
    ∃ t, exec (.dependenceReady c w) s = .next t ∧ DeliveredTo s t q e ls ∧
      QueueTo s t q { q with parked := [], levels := q.levels.map fun (l : List QRec) => l.filter fun x => x.seq ≠ e.seq } ∧
      (t.strand k).reg d = (if d = 0 then 0 else deliveredWord q e) ∧ (t.strand k).pc = x.pc + 4 ∧
      (t.strand k).park = x.vectorPark ∧
      (∀ r, r ≠ d → (t.strand k).reg r = x.reg r) ∧ ∀ j, j ≠ k → t.strand j = s.strand j)

/-- R276 to R280: DISPATCH links and goes to the routine of the first method whose operator and tags match the record at sr. Where
there is none but a plan of one or two conversions, it puts their records and the original at the head of its level, sets the
counter of the ring to 0 and gives 1, or changes nothing and gives 3; where there is no plan either, it raises cause 0x18. DRET
returns, after counting a conversion done. What becomes of an insertion while the page of the counter is not mapped is log 125. -/
def Obligations.DispatchForms : Prop :=
  (∀ (s s' : State) (d a b : SReg) (ls : List Nat) (r cbase : Nat) (ms : List Method), Coherent s →
    RecordAt s (s.r a) .read ls → r = s.get ls → s.methods = .ok (s', cbase, ms) →
    (∀ m, ms.find? (fun m => m.op = r % 2 ^ 16 && m.tags = tagsOf r) = some m →
      ∃ t, exec (.dispatch d a b) s = .next t ∧ Wrote s t d ((s.st.pc + 4).setWidth 64) ∧ SameMemory s t ∧
        WentTo { s with caches := t.caches } t (BitVec.ofNat 56 (cbase + m.rout))) ∧
    ((∀ m ∈ ms, ¬FitsExactly m r) → (∀ m ∈ ms, ∀ p, ¬FitsConverted ms r m p) → HasHandler s → ∃ t, exec (.dispatch d a b) s = .next t ∧
      Delivered { s with caches := t.caches } t 0x18 (BitVec.ofNat 64 (r % 2 ^ 16 * 2 ^ 48 + ((List.range 6).map fun p =>
        (if p < (if r / 2 ^ 19 % 8 = 7 then 6 else r / 2 ^ 19 % 8) then r / 2 ^ (184 + 64 * p) % 2 ^ 8 else 0xFF) *
          2 ^ (8 * p)).sum))) ∧
    (∀ m p q c cs l, (∀ m ∈ ms, ¬FitsExactly m r) → IsPlan ms r m p → NamesQueue s (s.r b) q → q.parked = [] → q.depb % 8 = 0 →
      c = q.cvb + q.cvnext % q.cvn → l = q.level (recPrio r) →
      (q.isSealed = false → 0 < q.cvn → s.locs s.me (q.depb + 8 * c) 8 .queue = .ok cs → 2 ^ 63 ≤ s.get cs → (q.levels[l]).length + (p.length + 1) ≤ 2 ^ q.capl →
        ∃ t, exec (.dispatch d a b) s = .next t ∧
          ResultIn s t { s with mem := t.mem, queues := t.queues, caches := t.caches } d 1 ∧ Holds t cs 0 ∧ SameOutside cs s t ∧
          QueueTo s t q { q with
            cvnext := q.cvnext + 1, nextSeq := q.nextSeq + BitVec.ofNat 48 (p.length + 1),
            levels := q.levels.set l ((List.range (p.length + 1)).map (fun n =>
              { seq := q.nextSeq + BitVec.ofNat 48 n, data := BitVec.ofNat 512 ((planRecords r m p c).getD n 0) }) ++ q.levels[l]) }) ∧
      (q.isSealed = true ∨ q.cvn = 0 ∨ (s.locs s.me (q.depb + 8 * c) 8 .queue = .ok cs ∧ s.get cs < 2 ^ 63) ∨ 2 ^ q.capl < (q.levels[l]).length + (p.length + 1) →
        ∃ t, exec (.dispatch d a b) s = .next t ∧ SameMemory s t ∧ ResultIn s t { s with caches := t.caches } d 3))) ∧
  (∀ (s : State) (d a b : SReg) (ls cs : List Nat) (r : Nat) (q : Queue), Coherent s → RecordAt s (s.r b) .read ls →
    r = s.get ls → (s.r a).toNat % 4 = 0 → (s.r a).toNat < 2 ^ 56 →
    (r / 2 ^ 24 % 2 = 0 → ∃ t, exec (.dret d a b) s = .next t ∧ SameMemory s t ∧
      WentTo { s with caches := t.caches } t ((s.r a).setWidth 56) ∧ t.st.regs = s.st.regs) ∧
    (r / 2 ^ 24 % 2 = 1 → NamesQueue s (s.r d) q → q.parked = [] → q.depb % 8 = 0 →
      s.locs s.me (q.depb + 8 * (r / 2 ^ 96 % 2 ^ 16)) 8 .rw = .ok cs →
      ∃ t, exec (.dret d a b) s = .next t ∧ Holds t cs (s.get cs + 1) ∧ SameOutside cs s t ∧
        WentTo { s with mem := t.mem, caches := t.caches } t ((s.r a).setWidth 56) ∧ t.st.regs = s.st.regs)) ∧
  (∀ (s : State) (d a b : SReg), HasHandler s →
    ((s.r a).toNat % 4 ≠ 0 → ∃ t, exec (.dret d a b) s = .next t ∧ Delivered s t 7 (s.r a)) ∧
    ((s.r a).toNat % 4 = 0 → 2 ^ 56 ≤ (s.r a).toNat → ∃ t, exec (.dret d a b) s = .next t ∧ Delivered s t 5 (s.r a)))

/-- R288 to R296: FORKL starts a child with half the allowance and the named registers, or gives 0 where there is no place;
JOINL gives how a child ended once its accesses have performed, or parks, while the vector side goes on; a scalar side that goes on
leaves the vector side parked where its head entry waits; GRPID describes the group; BINIT, BWAIT, BARW and
BARV act on the barrier units, a BARW that has to wait has its register written before it parks, and the arrival that opens a
phase wakes the strands parked for it. -/
def Obligations.GroupForms : Prop :=
  (∀ (s : State) (d a b : SReg) (g : Group) (slot i w : Nat) (rest : List Nat), s.st.stat = .running → s.st.pend = 0 →
    s.group? s.st.gkey = some g → (s.r a).toNat % 4 = 0 → (s.r a).toNat < 2 ^ 56 → (s.r b).toNat % 2 = 0 → (s.r b).toNat < 2 ^ 32 →
    w = widW s.st.csr.widf 0 →
    (s.freeSlots (coreOf s.slot) = slot :: rest → 2 ≤ s.st.csr.lanea.toNat → g.live.length < 64 → s.st.lim.strands ≤ i →
      i < 2 ^ min w 12 → (∀ k ∈ g.live, widField (s.strand k).csr.widf (s.strand k).wid 0 ≠ i) →
      (∀ j, s.st.lim.strands ≤ j → j < i → ∃ k ∈ g.live, widField (s.strand k).csr.widf (s.strand k).wid 0 = j) →
      ∃ t c, exec (.forkl d a b) s = .next t ∧ c = t.strand slot ∧ c.stat = .running ∧ c.pc = (s.r a).setWidth 56 ∧
        c.parent = some s.slot ∧ c.startAfter = some { slot := s.slot, seq := s.st.nextSeq, ord := s.st.pushes } ∧ c.gkey = s.st.gkey ∧ c.ctx = s.st.ctx ∧ c.trap.tvec = s.st.trap.tvec ∧ c.queue = [] ∧
        c.wid = BitVec.ofNat 64 (s.st.wid.toNat / 2 ^ w * 2 ^ w + i) ∧ c.csr.lanea = BitVec.ofNat 4 (s.st.csr.lanea.toNat / 2) ∧
        c.csr.widf = s.st.csr.widf ∧ c.csr.xact = s.st.csr.xact ∧ c.csr.xflags = 0 ∧
        (∀ r, c.reg r = if (s.r b).getLsbD r.val then s.r r else 0) ∧
        GroupTo s t { g with live := g.live ++ [slot] } ∧ (∀ k, k ≠ slot → k ≠ s.slot → t.strand k = s.strand k) ∧
        ResultIn s t { s with
          others := t.others, groups := t.groups, st := { s.st with
            csr := { s.st.csr with lanea := BitVec.ofNat 4 (s.st.csr.lanea.toNat - s.st.csr.lanea.toNat / 2) },
            joins := s.st.joins ++ [{ slot := slot, done := none }] } } d (BitVec.ofNat 64 (slot + 1))) ∧
    (s.freeSlots (coreOf s.slot) = [] ∨ s.st.csr.lanea.toNat ≤ 1 ∨ 64 ≤ g.live.length →
      ∃ t, exec (.forkl d a b) s = .next t ∧ ScalarResult s t d 0)) ∧
  (∀ (s : State) (d a : SReg) (j : Join) (v : Nat), s.st.joins.find? (fun j => s.r a = BitVec.ofNat 64 (1 + j.slot)) = some j →
    (j.done = some v → (∀ p ∈ s.ending, ¬(p.1 = j.slot ∧ p.2.gkey = s.st.gkey)) → ∃ t, exec (.joinl d a) s = .next t ∧
      ResultIn s t { s with st := { s.st with park := s.st.vectorPark, joins := s.st.joins.erase j } } d (BitVec.ofNat 64 v)) ∧
    (j.done = none ∨ (∃ p ∈ s.ending, p.1 = j.slot ∧ p.2.gkey = s.st.gkey) → ∃ t, exec (.joinl d a) s = .next t ∧ t = { s with st := { s.st with park := .joinl } })) ∧
  (∀ (s : State) (d : SReg) (g : Group), s.group? s.st.gkey = some g → ∃ t, exec (.grpid d) s = .next t ∧
    ScalarResult s t d (BitVec.ofNat 64 (s.slot + g.live.length * 2 ^ 16 + g.num * 2 ^ 32))) ∧
  (∀ (s : State) (a b : SReg) (g : Group) (n : Fin 8) (x : Barrier), s.group? s.st.gkey = some g → (s.r a).toNat = n.val →
    x = g.bars[n] →
    (1 ≤ (s.r b).toNat → (s.r b).toNat ≤ 64 → x.n = 0 ∨ x.n = (s.r b).toNat ∨ x.arr = 0 → ∀ y : Barrier,
      y = (if x.n = 0 then { n := (s.r b).toNat, arr := 0, ph := 0 } else { x with n := (s.r b).toNat }) →
      ∃ t, exec (.binit a b) s = .next t ∧ MovedIn s t { s with groups := t.groups } ∧
        GroupTo s t { g with bars := g.bars.set n y }) ∧
    (HasHandler s → s.st.park = .none → (s.r b).toNat = 0 ∨ 64 < (s.r b).toNat ∨
      (x.n ≠ 0 ∧ x.n ≠ (s.r b).toNat ∧ x.arr ≠ 0) → ∃ t, exec (.binit a b) s = .next t ∧ Delivered s t 2 0) ∧
    (x.n ≠ 0 → s.st.park = .none → ∀ k, k = (x.ph - (s.r b).setWidth 32).toNat →
      (1 ≤ k → k ≤ 2 ^ 31 → ∃ t, exec (.bwait a b) s = .next t ∧ MovedIn s t s) ∧
      (k = 0 ∨ 2 ^ 31 < k → ∃ t, exec (.bwait a b) s = .next t ∧
        t = { s with st := { s.st with park := .bwait n.val ((s.r b).setWidth 32) } })) ∧
    (∀ ph k, s.st.stat = .running → s.st.park = .bwait n.val ph → k = (x.ph - ph).toNat →
      (1 ≤ k → k ≤ 2 ^ 31 → ∃ t, exec (.bwait a b) s = .next t ∧ MovedIn s t { s with st := { s.st with park := s.st.vectorPark } }) ∧
      (k = 0 ∨ 2 ^ 31 < k → exec (.bwait a b) s = .next s)) ∧
    (x.n = 0 → HasHandler s → s.st.park = .none → ∃ t, exec (.bwait a b) s = .next t ∧ Delivered s t 2 0)) ∧
  (∀ (s : State) (d a : SReg) (g : Group) (n : Fin 8) (x : Barrier), s.group? s.st.gkey = some g → x = g.bars[n] → x.n ≠ 0 →
    (Quiet s → (s.r a).toNat = n.val →
      (x.arr + 1 = x.n → ∃ t, exec (.barw d a) s = .next t ∧
        ResultIn s t { s with groups := t.groups, others := t.others } d (x.ph.setWidth 64) ∧
        GroupTo s t { g with bars := g.bars.set n (arrived x) } ∧ Woken s t g n.val x (arrived x)) ∧
      (x.arr + 1 ≠ x.n → ∃ t, exec (.barw d a) s = .next t ∧ GroupTo s t { g with bars := g.bars.set n (arrived x) } ∧
        Wrote s t d (x.ph.setWidth 64) ∧
        (t.st.clause.map fun c => (c.pos, c.len, c.cnt)) = s.st.clause.map (fun c => (c.pos, c.len, c.cnt)) ∧
        t = { s with groups := t.groups, st := { s.st with
          regs := t.st.regs, clause := t.st.clause, park := .barw n.val x.ph } }) ∧
      (∃ t, exec (.barv d a) s = .next t ∧
        ScalarFromVector s { t with groups := s.groups, others := s.others } d (x.ph.setWidth 64) ∧
        GroupTo s t { g with bars := g.bars.set n (arrived x) } ∧ Woken s t g n.val x (arrived x))) ∧
    (∀ ph, s.st.stat = .running → s.st.park = .barw n.val ph →
      (1 ≤ (x.ph - ph).toNat → (x.ph - ph).toNat ≤ 2 ^ 31 → ∃ t, exec (.barw d a) s = .next t ∧
        MovedIn s t { s with st := { s.st with park := s.st.vectorPark } }) ∧
      (x.ph = ph ∨ 2 ^ 31 < (x.ph - ph).toNat → exec (.barw d a) s = .next s)))

/-- R339, R347 to R353, R355, R383: the forms of the system context. CTXHALT stops a context in place, and
gives 0 for one that is halted; the SCRUBs zero a unit and tell its verdict; WAYSET sets or reads fill ways; PTCTL sets a root, invalidates
or walks; AUDIT appends, seals, frees or extends. In any other context each raises cause 0x02. WAYSET SET is refused with cause
0x02 for a strict context whose ways would meet another tenant's (R353), and for one that is not strict whose ways would
meet a strict one's (the model's reading, log 97). -/
def Obligations.SystemContextForms : Prop :=
  (∀ (i : Instr) (s : State) (d a b : SReg), systemForm i = some (d, a, b) → s.st.ctx ≠ 0 → HasHandler s →
    ∃ t, exec i s = .next t ∧ Delivered s t 2 0) ∧
  (∀ (s : State) (d a b : SReg), s.st.ctx = 0 →
    (∀ c x, (s.r a).toNat < 2 ^ 16 → c = (s.r a).setWidth 16 → c ≠ 0 → s.ctx? c = some x → x.st = .running →
      (x.halted = true → ∃ t, exec (.ctxhalt d a) s = .next t ∧ ScalarResult s t d 0) ∧
      (x.halted = false → Settled s c → ∃ t, exec (.ctxhalt d a) s = .next t ∧
        ResultIn s t { s with others := t.others, ctxs := t.ctxs, queues := s.queues.map fun (y : Queue) =>
            if y.ctx = c then { y with parked := y.parked.filter fun p => !(s.slotsOf c).contains p.slot } else y } d
          (BitVec.ofNat 64 (s.slotsOf c).length) ∧
        t.ctx? c = some { x with halted := true } ∧ (∀ e, e ≠ c → t.ctx? e = s.ctx? e) ∧
        (∀ k ∈ s.slotsOf c, t.strand k = stoppedAs .halted (s.strand k)) ∧
        ∀ k, k ∉ s.slotsOf c → k ≠ s.slot → t.strand k = s.strand k)) ∧
    (∀ n : Fin 32, s.r a = 0 → (s.r b).toNat = n.val → (∀ k ∈ s.liveSlots, clusterOf k ≠ n.val) → 0 < s.hamada.places →
      ∃ t, exec (.scrubCluster d a b) s = .next t ∧
        Scrubbed s t { s with
          mem := t.mem, acc := t.acc, oslots := t.oslots, claims := t.claims, caches := t.caches, admitted := t.admitted,
          ending := t.ending, soiled := s.soiled.filter (· ≠ n.val),
          groups := barsCleared (fun k => decide (k = n.val)) s.groups } d (.cluster n) ∧
        (∀ p ∈ t.ending, clusterOf p.1 = n.val → p.2.copies = []) ∧
        (∀ l, Memory.get t.mem l = if inCluster n.val l then 0 else Memory.get s.mem l) ∧
        (∀ k, lookup 0 k t.acc = if k / 32768 = n.val then 0 else lookup 0 k s.acc) ∧
        (∀ k, lookup .empty k t.oslots = if k / 128 = n.val then .empty else lookup .empty k s.oslots)) ∧
    (∀ (n : Fin 4) c x, (s.r a).toNat = 1 + c.toNat * 2 ^ 16 → (s.r b).toNat = n.val → s.ctx? c = some x → x.st = .releasing →
      0 < s.hamada.places → ∃ t, exec (.scrubL2 d a b) s = .next t ∧ Scrubbed s t { s with caches := t.caches } d (.l2 n) ∧
        ∀ l, l ∈ t.caches.l2 ↔ l ∈ s.caches.l2 ∧ ¬(l.slice / 128 = n.val ∧ l.ctx = c)) ∧
    (∀ n : Fin 8, s.r a = 2 → (s.r b).toNat = n.val → s.shadow[n] = none → 0 < s.hamada.places →
      ∃ t, exec (.scrubShadowSlot d a b) s = .next t ∧ Scrubbed s t s d (.shadow n)) ∧
    (∀ x c y, x = (s.r a).toNat → c = BitVec.ofNat 16 (x / 2 ^ 16) → x < 2 ^ 32 → x / 2 ^ 11 % 32 = 0 → c ≠ 0 → s.ctx? c = some y →
      (x % 2 = 0 → (s.r b).toNat < 2 ^ 16 → HasHandler s → meetsStrict s c y ((s.r b).setWidth 16) x →
        ∃ t, exec (.waysetSet d a b) s = .next t ∧ Delivered s t 2 0) ∧
      (x % 2 = 0 → (s.r b).toNat < 2 ^ 16 → ¬meetsStrict s c y ((s.r b).setWidth 16) x → ∃ t, exec (.waysetSet d a b) s = .next t ∧
        ResultIn s t { s with caches := t.caches } d
          ((s.wayMask (x / 512 % 4 * 128 + if x / 256 % 2 = 1 then 0 else x / 2 % 128) c).setWidth 64) ∧
        (∀ n, waySlice x n → t.wayMask n c = (s.r b).setWidth 16) ∧
        ∀ n e, e ≠ c ∨ ¬waySlice x n → t.wayMask n e = s.wayMask n e) ∧
      (x % 2 = 1 → x / 256 % 2 = 0 → s.r b = 0 → ∃ t, exec (.waysetRead d a b) s = .next t ∧
        ScalarResult s t d (BitVec.ofNat 64 ((s.wayMask (x / 512 % 4 * 128 + x / 2 % 128) c).toNat +
          min (s.caches.l2.filter fun l => l.slice = x / 512 % 4 * 128 + x / 2 % 128 && l.ctx = c).length 4096 * 2 ^ 16)))) ∧
    (∀ c y v n, (s.r a).toNat = n + c.toNat * 2 ^ 16 → s.ctx? c = some y → v = (s.r b).toNat → n < 48 →
      NoneParked s c → (n % 16 = 0 → v % 2 ^ 20 = 0 → v < Config.hbmBytes → ∃ t, exec (.setroot d a b) s = .next t ∧
        ResultIn s t { s with ctxs := t.ctxs, caches := t.caches } d 0 ∧ t.ctx? c = some { y with root := some v } ∧
        (∀ e, e ≠ c → t.ctx? e = s.ctx? e) ∧ ∀ x ∈ t.caches.tlb, x.ctx ≠ c) ∧
      (n % 16 = 1 → v < 2 ^ 56 → v % pageBytes (n / 16) = 0 → ∃ t, exec (.invva d a b) s = .next t ∧
        ResultIn s t { s with caches := t.caches } d 0 ∧
        ∀ x ∈ t.caches.tlb, x ∈ s.caches.tlb ∧ ¬(x.ctx = c ∧ x.va / x.size * x.size < v + pageBytes (n / 16) ∧
          v < (x.va / x.size + 1) * x.size)) ∧
      (n % 16 = 2 → v = 0 → ∃ t, exec (.invctx d a b) s = .next t ∧ ResultIn s t { s with caches := t.caches } d 0 ∧
        ∀ x, x ∈ t.caches.tlb ↔ x ∈ s.caches.tlb ∧ x.ctx ≠ c) ∧
      (n % 16 = 3 → v < 2 ^ 56 → ∃ t, exec (.walk d a b) s = .next t ∧ ScalarResult s t d (BitVec.ofNat 64
        ((s.walkIn c v).2.1.toNat % 2 ^ 48 + (s.walkIn c v).2.2.1 * 2 ^ 48 + (s.walkIn c v).2.1.toNat / 2 ^ 50 * 2 ^ 50))))) ∧
  (∀ (s : State) (d a b : SReg) (x : Nat) (h : Hamada), s.st.ctx = 0 → x = (s.r b).toNat → h = s.hamada →
    (∀ ls e, x < 2 ^ 16 → 2 ^ 15 ≤ x → RecordAt s (s.r a) .read ls → 0 < h.places → h.seg.isSealed = false →
      h.seg.entries.length + 1 < 4095 → e = auditEntry h.nextSeq x 1 0 (BitVec.ofNat 512 (s.get ls)) h.chain →
      ∃ t, exec (.auditAppend d a b) s = .next t ∧ SameMemory s t ∧
        ResultIn s t { s with hamada := t.hamada, caches := t.caches } d (BitVec.ofNat 64 h.nextSeq) ∧
        t.hamada.seg.entries = h.seg.entries ++ [e] ∧ t.hamada.chain = chainOf e ∧ t.hamada.nextSeq = h.nextSeq + 1) ∧
    (x = 2 ^ 16 → s.r a = 0 → h.seg.isSealed = false → h.seg.entries ≠ [] → ∃ t, exec (.auditSeal d a b) s = .next t ∧
      ResultIn s t { s with hamada := t.hamada } d (BitVec.ofNat 64 h.nextSeq) ∧ t.hamada.seg.isSealed = true ∧
      t.hamada.head = t.hamada.chain ∧ t.hamada.sealedUpTo = h.nextSeq + 1) ∧
    (∀ n, x = 2 ^ 17 → h.waiting = [] → h.sealedAt (s.r a).toNat = some n → ∃ t, exec (.auditFree d a b) s = .next t ∧
      ResultIn s t { s with hamada := { h with segs := h.segs.set n .free } } d (s.r a)) ∧
    (∀ ls (r : Fin 8), 2 ≤ r.val → 2 ^ 15 ≤ x % 2 ^ 16 → x / 2 ^ 16 = 3 + 4 * r.val → RecordAt s (s.r a) .read ls → 2 ≤ h.places →
      ∃ t v, exec (.auditExtend d a b) s = .next t ∧ SameMemory s t ∧
        ResultIn s t { s with hamada := t.hamada, caches := t.caches } d v ∧
        t.hamada.m = h.m.set r (shake256 (bvBytes 32 h.m[r] ++ natToBytes 64 (s.get ls))) ∧ t.hamada.nextSeq ≠ h.nextSeq ∧
        (h.seg.isSealed = false → h.seg.entries.length + 2 < 4095 → v = BitVec.ofNat 64 (h.nextSeq + 1))))

/-! ### What happens beside the strands (12, 16, 18, 22, 26) -/

/-- R215, R221, R223, R224, R287, R174, R175, R211, R255: a copy ends with all its elements, or with those before the first that
faults, going on from the record of what it has transferred: between memory and registers (CPYV), the registers of two strands
(CPYX), memory and a tile (CPYT), whose tag is recomputed at the end of a fill (R186; the places of the bits of the bitmap are the model's choice, log 50). A stream fetches its
strip, and none while an acquire waits, be it in the queue or a POP without its status. A lane group goes to a ready strand, whose head entry issues. A VWAIT reads
again, whatever its scalar side is parked for (R291). A line of text is filled through the home slices of what it reads; where the
image it is read from stands is a free value (log 114). -/
def Obligations.EngineEvents : Prop :=
  (∀ (s : State) (k : Nat) (t : Strand) (c : Copy) (ls : Nat → List Nat) (w n : Nat), OnSlot s k t → t.stat = .running →
    t.copies = [c] → CoherentFor s (engineOf k t.ctx) → c.status = none → c.kind = 0 → w = copyWidth c.desc → n = copyTotal c.desc → c.reg + c.regs ≤ 32 →
    n ≤ c.regs * (8192 / w) →
    (c.out = false → (∀ j ea, Left c n j → copyEa c.desc j = some ea →
        s.check (engineOf k t.ctx) ea (w / 8) (w / 8) .any .read = .ok (ls j)) →
      ∃ t' u, exec (.copyEnd k) s = .next t' ∧ StrandTo s t' k u ∧ SameMemory s t' ∧
        t' = { s with st := t'.st, others := t'.others, caches := t'.caches } ∧
        u = { t with
          copies := [{ c with done := n, status := some (BitVec.ofNat 64 (n % 2 ^ 32)) }],
          vec := { t.vec with v := u.vec.v, wext := u.vec.wext } } ∧
        (∀ j, Left c n j → u.vec.elem c.reg j w = if (copyEa c.desc j).isSome then s.get (ls j) else copyField c.desc 8 8 % 2 ^ w) ∧
        (∀ (r : Fin 32) (p : Nat), (∀ j, Left c n j → ¬(r.val = c.reg + j / (8192 / w) ∧ j % (8192 / w) * w ≤ p ∧
          p < (j % (8192 / w) + 1) * w)) → u.vec.v[r].getLsbD p = t.vec.v[r].getLsbD p)) ∧
    (c.out = true → (∀ j ea, Left c n j → copyEa c.desc j = some ea →
        s.check (engineOf k t.ctx) ea (w / 8) (w / 8) .any .write = .ok (ls j)) → (∀ j, copyEa c.desc j = none → ls j = []) →
      (∀ i j, Left c n i → Left c n j → i ≠ j → ∀ l ∈ ls i, l ∉ ls j) →
      TablesOfApart s t.ctx (fun l => ∃ j, Left c n j ∧ l ∈ ls j) →
      ∃ t', exec (.copyEnd k) s = .next t' ∧
        StrandTo s t' k { t with copies := [{ c with done := n, status := some (BitVec.ofNat 64 (n % 2 ^ 32)) }] } ∧
        (∀ j, Left c n j → Holds t' (ls j) (t.vec.elem c.reg j w)) ∧
        (∀ l, (∀ j, Left c n j → l ∉ ls j) → Memory.get t'.mem l = Memory.get s.mem l)) ∧
    (∀ i ea q b, c.out = false → Left c n i → copyEa c.desc i = some ea →
      s.check (engineOf k t.ctx) ea (w / 8) (w / 8) .any .read = .error (q, b) → q ≠ 9 →
      (∀ j ea, Left c i j → copyEa c.desc j = some ea →
        s.check (engineOf k t.ctx) ea (w / 8) (w / 8) .any .read = .ok (ls j)) →
      ∃ t' u, exec (.copyEnd k) s = .next t' ∧ StrandTo s t' k u ∧ SameMemory s t' ∧
        u.copies = [{ c with done := i, status := some (BitVec.ofNat 64 (i % 2 ^ 32 + q * 2 ^ 32)) }])) ∧
  (∀ (s : State) (k p v n r w : Nat) (t u : Strand) (c d : Copy), OnSlot s k t → t.stat = .running → t.copies = [c] →
    c.status = none → c.kind = 1 → w = copyWidth c.desc → n = copyLen c.desc 0 → r = copyCtl c.desc / 2 ^ 53 % 8 + 1 →
    p = copyCtl c.desc / 2 ^ 32 % 2 ^ 11 → v = copyCtl c.desc / 2 ^ 48 % 2 ^ 5 → p ≠ k → u = s.strand p → u.stat ≠ .absent →
    u.gkey = t.gkey → c.reg + r ≤ 32 → v + r ≤ 32 → n ≤ r * (8192 / w) →
    d = { c with done := n, status := some (BitVec.ofNat 64 (n % 2 ^ 32 + 2 ^ 40)) } →
    (c.out = false → ∃ t' x, exec (.copyEnd k) s = .next t' ∧ StrandTo s t' k { t with copies := [d], vec := x } ∧
      t' = { s with st := t'.st, others := t'.others } ∧ CopiedTo t.vec x c.reg w (Left c n) fun j => u.vec.elem v j w) ∧
    (c.out = true → ∃ t' x, exec (.copyEnd k) s = .next t' ∧ t'.strand k = { t with copies := [d] } ∧
      t'.strand p = { u with vec := x } ∧ (∀ j, j ≠ k → j ≠ p → t'.strand j = s.strand j) ∧
      t' = { s with st := t'.st, others := t'.others } ∧ CopiedTo u.vec x v w (Left c n) fun j => t.vec.elem c.reg j w)) ∧
  (∀ (s : State) (k n w : Nat) (t : Strand) (c d : Copy) (m : TReg) (e : Who) (x : TileDef) (ls : Nat → List Nat), OnSlot s k t →
    t.stat = .running → t.copies = [c] → c.status = none → c.kind = 2 → c.reg = m.val → x = c.tile → e = engineOf k t.ctx →
    w = copyWidth c.desc → n = copyTotal c.desc → CoherentFor s e → OnePlaceEach s e x →
    (∀ j, j < n → (copyTile c.desc j).1 < x.rows ∧ ((copyTile c.desc j).2 + 1) * w ≤ 8 * x.len) →
    (∀ j ea, Left c n j → copyEa c.desc j = some ea →
      s.check e ea (w / 8) (w / 8) .any (if c.out then .write else .read) = .ok (ls j)) →
    (∀ j, copyEa c.desc j = none → ls j = []) → (∀ i j, Left c n i → Left c n j → i ≠ j → c.out = true → ∀ l ∈ ls i, l ∉ ls j) →
    (∀ j i q, Left c n j → i < x.rows → q < x.len → s.tileByte e x i q ∉ ls j) →
    TablesOfApart s t.ctx (fun l => if c.out then ∃ j, Left c n j ∧ l ∈ ls j else
      ∃ i q, i < x.rows ∧ q < x.len ∧ l = s.tileByte e x i q) →
    d = { c with done := n, status := some (BitVec.ofNat 64 (n % 2 ^ 32 + 2 * 2 ^ 40)) } →
    (c.out = false → t.tiles[m].cur = x → x.rows ≤ 256 → x.len ≤ 1024 →
      ∃ t' y, exec (.copyEnd k) s = .next t' ∧
        StrandTo s t' k { t with copies := [d], tiles := t.tiles.set m { t.tiles[m] with cur := y, st := .ready } } ∧
        Recomputed t' e x y ∧
        (∀ j, Left c n j → t'.tileElem e x (copyTile c.desc j).1 (copyTile c.desc j).2 w =
          if (copyEa c.desc j).isSome then s.get (ls j) else copyField c.desc 8 8 % 2 ^ w) ∧
        (∀ l, (∀ j q, Left c n j → q < w / 8 → l ≠ s.tileByte e x (copyTile c.desc j).1 ((copyTile c.desc j).2 * (w / 8) + q)) →
          Memory.get t'.mem l = Memory.get s.mem l) ∧
        t' = { s with mem := t'.mem, st := t'.st, others := t'.others, caches := t'.caches }) ∧
    (c.out = true → ∃ t', exec (.copyEnd k) s = .next t' ∧
      StrandTo s t' k { t with
        copies := [d], tiles := t.tiles.set m { cur := t.tiles[m].pending.getD t.tiles[m].cur, st := .ready, pending := none } } ∧
      (∀ j, Left c n j → (copyEa c.desc j).isSome = true →
        Holds t' (ls j) (s.tileElem e x (copyTile c.desc j).1 (copyTile c.desc j).2 w)) ∧
      (∀ l, (∀ j, Left c n j → l ∉ ls j) → Memory.get t'.mem l = Memory.get s.mem l) ∧
      t' = { s with mem := t'.mem, st := t'.st, others := t'.others, caches := t'.caches })) ∧
  (∀ (s : State) (k : Nat) (p : OSlot) (t : Strand) (x : Stream) (n : Nat) (ls : Nat → List Nat), OnSlot s k t →
    CoherentFor s (engineOf k t.ctx) → t.stat = .running → p.val < t.csr.strmap.toNat / 2 ^ 5 % 2 ^ 5 → x = t.streams[p] → x.write = false → x.st = .running →
    x.fifo = [] → x.buf = [] → (∀ e ∈ t.queue, e.instr.acquires = false) → (∀ r ∈ t.sync, r.src.isPort = false) → x.cur ≤ x.count → n = min ((x.depth + 1) * x.slen) (x.count - x.cur) →
    (∀ j, j < n → s.check (engineOf k t.ctx) (x.base.toNat + (x.cur + j : Nat) * x.stride.toInt) (2 ^ x.width) (2 ^ x.width)
      .any .read = .ok (ls j)) →
    ∃ t', exec (.streamFetch k p) s = .next t' ∧ SameMemory s t' ∧
      StrandTo s t' k { t with streams := t.streams.set p { x with
        buf := (List.range n).map fun j => (x.cur + j, BitVec.ofNat 64 (s.get (ls j))) } } ∧
      t' = { s with st := t'.st, others := t'.others, caches := t'.caches }) ∧
  (∀ (s : State) (k : Nat) (p : OSlot) (t : Strand), OnSlot s k t → t.streams[p].write = false → t.streams[p].fifo = [] →
    (∃ e ∈ t.queue, e.instr.acquires = true) ∨ (∃ r ∈ t.sync, r.src.isPort = true) → exec (.streamFetch k p) s = .next s) ∧
  (∀ (s : State) (e : Entry) (rest : List Entry) (a : SReg) (w : Int), (∀ j, j / 8 = s.slot / 8 → j ≠ s.slot →
      (s.strand j).stat = .absent) → s.st.stat = .running → s.st.trap.inh = false → s.st.park = .none → s.st.copies = [] →
    s.st.sync = [] → s.st.queue = e :: rest → e.instr = .setls a → -128 ≤ e.opd.a.toInt → e.opd.a.toInt ≤ 127 →
    1 ≤ s.st.csr.lanea.toNat → w = s.st.csr.lanew.toNat →
    ∃ t, exec (.laneGroupBind (s.slot / 8)) s = .next t ∧ t = { s with st := { s.st with
      credit := min (s.st.credit - w * min 8 (s.st.csr.lanea.toNat : Int) + w) w, queue := rest, prog := 0,
      csr := { s.st.csr with lscale := BitVec.ofInt 8 e.opd.a.toInt, vstart := 0 } } }) ∧
  (∀ (i : Instr) (s u : State) (f : ElemForm) (w : Int), Quiet s → Granted s → intForm i s = some f ∨ floatForm i s = some f →
    f.legal = true → (f.xm = 0 → ∀ k, Executes s f.start f.m k → ¬Acts s (f.val k).2) →
    (∀ j, j / 8 = s.slot / 8 → j ≠ s.slot → (s.strand j).stat = .absent) → 1 ≤ s.st.csr.lanea.toNat →
    w = s.st.csr.lanew.toNat →
    u = { s with st := { s.st with queue := [s.entry i], nextSeq := s.st.nextSeq + 1, runAhead := true } } →
    ∃ t c, exec (.laneGroupBind (s.slot / 8)) u = .next t ∧ UnionOf (Executes s f.start f.m) (fun k => (f.val k).2) c ∧
      t = { u with st := { u.st with
        credit := min (s.st.credit - w * min 8 (s.st.csr.lanea.toNat : Int) + w) w, queue := [], vec := t.st.vec,
        csr := { s.st.csr with
          al := BitVec.ofNat 32 s.st.vlNow, vstart := 0, xflags := s.st.csr.xflags ||| c } } } ∧
      VecRest s t ∧ ElemsAfter s t f.d f.w (Executes s f.start f.m) (fun k => (f.val k).1) ∧
      MasksAfter s t f.xm (Executes s f.start f.m) fun k => (f.val k).2) ∧
  (∀ (s : State) (e : Entry) (d : VReg) (a : SReg) (b : VReg) (m : MReg) (c : VCond) (w : MW) (vl : Nat) (ls : Nat → List Nat),
    (∀ p ∈ s.ending, p.1 ≠ s.slot) → s.st.queue = [e] → e.instr = .vwait d a b m c w → s.st.stat = .running → s.st.trap.inh = false → s.st.copies = [] →
    s.st.sync = [] → vl = s.st.effLen e → s.st.csr.vstart.toNat < vl → (e.group d w.bits).ok = true →
    (e.group b (if w.bits = 64 then 64 else 32)).ok = true →
    (∀ k, s.st.csr.vstart.toNat ≤ k → k < vl → allows s m k = true → e.done.getLsbD k = false → s.check s.me
      ((e.opd.a.toNat : Int) + (el s b k (if w.bits = 64 then 64 else 32) : Nat)) (w.bits / 8) (w.bits / 8) .memory .read = .ok (ls k)) →
    (∀ k, s.st.csr.vstart.toNat ≤ k → k < vl → allows s m k = true → e.done.getLsbD k = false →
      condOf c w.bits (s.get (ls k)) (el s d k w.bits)) →
    ∃ t, exec (.monitorWake s.slot) s = .next t ∧ t = { s with caches := t.caches, st := { s.st with
      queue := [], park := if s.st.park = .vwait then .none else s.st.park, prog := 0, csr := { s.st.csr with al := BitVec.ofNat 32 vl, vstart := 0 } } }) ∧
  (∀ (s : State) (core : Nat) (c : BitVec 16) (va : BitVec 56) (o : Obj) (line : Nat), line = va.toNat / 64 * 64 →
    s.objAt c line = some o → (∀ x ∈ s.caches.l1i, ¬(x.core = core ∧ x.ctx = c ∧ x.line = line)) →
    ∃ t x, exec (.l1iLineFill core c va) s = .next t ∧ x ∈ t.caches.l1i ∧ x.core = core ∧ x.ctx = c ∧ x.line = line ∧
      x.words = o.expand ((line - o.cbase) / 64) ∧
      t = ({ s with caches := { s.caches with l1i := t.caches.l1i } }).l2Lines c (globalLines (o.fillLocs ((line - o.cbase) / 64))))

/-- R318 to R323, R368 to R370: the commands of a strand's ports. Of the Playa commands that may act under R321, the row of the
table moves one of its OP; of several, which is a free value, and the lines that SCADD may write are those that its pairs name at
the time (the model's choice, log 62). It writes each element of A (and m) as R318
says and ends with its count, whatever the order of its lines; SCADD of integers adds every pair whatever the order. A collective
queues its contributions on the ports of their routes, one CONTRIB or PSUM flit for each part of a chunk that another member
owns, and a flit without data to each member to whom it has nothing else to send (R363); the owner of a chunk sums it in
ascending rank; at the end it counts itself done and gives its status.
SATR of a member that owns no chunk reaches the others by no flit: its bits are a free value (log 29). -/
def Obligations.PortCommands : Prop :=
  (∀ (s : State) (k : Nat) (t : Strand) (i : Nat) (c : Cmd) (as bs ms : Nat → List Nat), OnSlot s k t → NothingBefore t →
    CoherentFor s (playaOf k t.ctx) → ActsAlone s k t i c → c.bad = none →
    (∀ j, j < c.n → s.cmdElem (playaOf k t.ctx) c j = .ok (as j, bs j, ms j)) →
    TablesOfApart s t.ctx (fun l => ∃ j, j < c.n ∧ l ∈ as j ++ ms j) →
    (1 ≤ c.op → c.op ≤ 4 → (∀ j, j < c.n → (as j ++ ms j).Nodup) →
      (∀ i j, i < c.n → j < c.n → i ≠ j → ∀ l ∈ as i ++ ms i, l ∉ as j ++ bs j ++ ms j) →
      ∃ t' w, exec (playaRowOf c.op k) s = .next t' ∧
        StrandTo s t' k { t with cmds := t.cmds.set i { c with status := some w } } ∧ (w : Word).toNat % 2 ^ 40 = c.n ∧
        (3 ≤ c.op → w = BitVec.ofNat 64 (c.n + min c.trans 15 * 2 ^ 48)) ∧
        t' = { s with mem := t'.mem, st := t'.st, others := t'.others, caches := t'.caches, freeCtr := t'.freeCtr } ∧
        (∀ j, j < c.n → Holds t' (as j) (playaValue c (s.get (as j)) (s.get (bs j)) (s.get (ms j))).1 ∧
          Holds t' (ms j) (playaValue c (s.get (as j)) (s.get (bs j)) (s.get (ms j))).2) ∧
        (∀ l, (∀ j, j < c.n → l ∉ as j ++ ms j) → Memory.get t'.mem l = Memory.get s.mem l)) ∧
    (c.op = 5 → c.ty = 2 → (∀ j, j < c.n → (ms j).Nodup) → (∀ i j, i < c.n → j < c.n → ms i = ms j ∨ ∀ l ∈ ms i, l ∉ ms j) →
      ∃ t', exec (.scadd k) s = .next t' ∧ StrandTo s t' k { t with
          cmds := t.cmds.set i { c with status := some (BitVec.ofNat 64 (c.n + min c.trans 15 * 2 ^ 48)) } } ∧
        (∀ j, j < c.n → Holds t' (ms j) ((s.get (ms j) + ((List.range c.n).map fun i =>
          if ms i = ms j then s.get (bs i) / 2 ^ 32 else 0).sum) % 2 ^ 32)) ∧
        (∀ l, (∀ j, j < c.n → l ∉ ms j) → Memory.get t'.mem l = Memory.get s.mem l))) ∧
  (∀ (s : State) (k : Nat) (t : Strand) (op : Nat), OnSlot s k t → NothingBefore t → 1 ≤ op → op ≤ 5 →
    (∃ i c, MayAct s k t i c ∧ c.op = op) → (∀ i c, MayAct s k t i c → 1 ≤ c.op ∧ c.op ≤ 5) →
    (∀ i c, MayAct s k t i c → c.op = op → c.bad = none ∧ ∀ j, j < c.n → ∃ p, s.cmdElem (playaOf k t.ctx) c j = .ok p) →
    ∃ t' i c w, exec (playaRowOf op k) s = .next t' ∧ MayAct s k t i c ∧ c.op = op ∧ (w : Word).toNat % 2 ^ 40 = c.n ∧
      StrandTo s t' k { t with cmds := t.cmds.set i { c with status := some w } }) ∧
  (∀ (s : State) (k : Nat) (t : Strand) (i : Nat) (c : Coll) (v : CollEnv), OnSlot s k t → NothingBefore t → OldestColl t i c →
    NobodyLeft (s.collFlits t.ctx c) → s.collEnv k i t c = .ok (some v) →
    (∀ vals : Nat → List Nat, 1 ≤ c.op → c.op ≤ 3 → c.sent = false → 2 ≤ v.ms.length → v.ms.Nodup → (∀ m ∈ v.ms, m < 4096) →
      (∀ p : Fin 16, s.link.ports[p].st ≠ .quarantined ∧ (Carries s.link.ports[p] → s.link.ports[p].tx = [])) →
      (∀ m ∈ v.ms, m ≠ s.link.chip.toNat → ∃ n : Fin 16, routeTo s m = some n.val) →
      (∀ ch, ch < v.chunks c → s.ownValues v c ch = .ok (vals ch)) → ∃ t' y, exec (collRowOf c.op k) s = .next t' ∧ SameMemory s t' ∧
        StrandTo s t' k { t with colls := t.colls.set i { c with sent := true, satr := BitVec.ofNat 8 (v.head.satr ||| y) } } ∧
        (c.op ≠ 3 ∨ v.ms.length ≤ v.chunks c → y = 0) ∧ y < 2 ^ v.head.d ∧
        (∀ p : Fin 16, onPort t'.link.ports[p] = onPort s.link.ports[p] ++
          (contributions s.link.chip v c vals).filter fun f => routeTo s f.dst.toNat = some p.val) ∧
        t' = { s with
          link := { s.link with ports := t'.link.ports }, st := t'.st, others := t'.others, caches := t'.caches,
          freeCtr := s.freeCtr + 1 }) ∧
    (s.collDone v c = true → ∀ ls,
      (if c.w3 = 0 then ls = [] else s.locsI (walkerOf k t.ctx) c.w3.toNat 8 .rw = .ok ls) → ls.Nodup →
      ∃ t', exec (.collectiveComplete k) s = .next t' ∧ Holds t' ls (s.get ls + 1) ∧ SameOutside ls s t' ∧
        StrandTo s t' k { t with colls := t.colls.set i { c with
          status := some (BitVec.ofNat 64 (c.chunks.length + c.xf.toNat * 2 ^ 40)) } } ∧
        ∀ f, f ∈ t'.link.rx ↔ f ∈ s.link.rx ∧ f ∉ s.collFlits t.ctx c)) ∧
  (∀ (s : State) (k : Nat) (t : Strand) (i : Nat) (c : Coll) (r : List Nat) (fs : List Flit) (vs : Nat → List Nat)
      (ls ds bs : List Nat), OnSlot s k t → NothingBefore t → OldestColl t i c → c.op = 1 ∨ c.op = 2 → c.sent = true →
    c.chunks = [] → 1 ≤ c.n → c.n ≤ 2 ^ c.chl → s.cgroup? t.ctx c.grp = some (s.link.chip.toNat :: r) →
    (s.link.chip.toNat :: r).Nodup → r ≠ [] → r.length < 64 → fs = s.collFlits t.ctx c → NobodyLeft fs →
    (∀ p : Fin 16, s.link.ports[p].st ≠ .quarantined) →
    (∀ m ∈ r, ∃ w, memberWord fs m = some w ∧ wordsDiffer w c.w0.toNat = false) →
    (∀ m ∈ r, gather fs 1 m 0 (8 * c.e) c.n = some (vs m)) →
    s.locsI (walkerOf k t.ctx) c.w1.toNat (c.e * c.n) .read = .ok ls →
    s.locsI (walkerOf k t.ctx) c.w2.toNat (c.e * c.n) .write = .ok ds →
    s.locsI (walkerOf k t.ctx) (c.w2.toNat + (c.e * c.n + 7) / 8 * 8 : Nat) 8 .write = .ok bs → (ds ++ bs).Nodup →
    ∃ t' u, exec (collRowOf c.op k) s = .next t' ∧ StrandTo s t' k u ∧
      (u.colls[i]?).map (·.chunks) = some [(0, BitVec.ofNat 64 (2 ^ (r.length + 1) - 1))] ∧
      (∀ j, j < c.n → t'.get ((ds.drop (c.e * j)).take c.e) =
        (collElem (c.ty = 1) (s.get ls / 2 ^ (8 * c.e * j) % 2 ^ (8 * c.e) :: r.map fun m => (vs m).getD j 0)).1) ∧
      Holds t' bs (2 ^ (r.length + 1) - 1) ∧ SameOutside (ds ++ bs) s t')

/-- R362 to R366, R371: flits, port states and link requests. A flit that is next in order is taken and acknowledged: one for this
chip is kept, one for another goes out over the port of its route, one with an unassigned type is discarded and counted. A flit
ahead of a missing one is held and the missing one asked for; one that comes a second time is acknowledged again and not
delivered. A LEAVE that arrives holds for every other collective of its group that this chip has in progress (R371). After a
lasting error the member of higher rank at the two ends of the port leaves the collective that had a flit
there, and where that is the other chip the other members are told so (R365, R371; whose end is no member is log 99). The model's
choices: that ACK and NACK bear no number of their own and are not acknowledged (log 91); that each accepted flit gets one ACK at
once and each missing one a NACK, that numbers go on at training and flits not acknowledged are then sent again, that a disable
keeps them, and that numbers start again at 0 after a lasting error (log 32). -/
def Obligations.LinkEvents : Prop :=
  (∀ (i : Instr) (s : State) (p : OSlot) (f : Flit) (ty : Nat) (x : BPort), flitTypeOf i = some (p, f, ty) →
    f.type.toNat = ty →
    (Arrives s p x f → f.dst = s.link.chip →
      (ty = 6 → (∀ ms, s.cgroup? (f.payload.setWidth 16) (flitField f 2 1) = some ms → f.src.toNat ∈ ms) ∧
        ∀ n ∈ s.openNums (f.payload.setWidth 16) (flitField f 2 1), n = flitField f 4 4) →
      (∀ y, s.ctx? (BitVec.ofNat 16 (f.payload.toNat % 2 ^ 16)) = some y → Stays y ∧
        lookup 0 (f.payload.toNat / 2 ^ 16 % 2 ^ 8) y.collNum ≤ f.payload.toNat / 2 ^ 32 % 2 ^ 32) →
      ∃ t, exec i s = .next t ∧
        t = { withPort s p (tookOne x s.link.chip f) with
          link := { (withPort s p (tookOne x s.link.chip f)).link with rx := s.link.rx ++ [f] } }) ∧
    (∀ (n : Fin 16) (y : BPort), Arrives s p x f → f.dst ≠ s.link.chip → routeTo s f.dst.toNat = some n.val → n ≠ p →
      y = s.link.ports[n] → y.tx = [] → y.st ≠ .quarantined →
      ∃ t, exec i s = .next t ∧ t = withPort (withPort s p (tookOne x s.link.chip f)) n (sends y f)) ∧
    (x = s.link.ports[p] → Carries x → f.seq ≠ x.rxSeq → (f.seq - x.rxSeq).toNat < 2 ^ 15 → (∀ g ∈ x.held, g.seq ≠ f.seq) →
      x.rxSeq ∉ x.retry → ∃ t, exec i s = .next t ∧
        t = withPort s p { replied x 5 s.link.chip f.src x.rxSeq with held := x.held ++ [f], retry := x.retry ++ [x.rxSeq] }) ∧
    (x = s.link.ports[p] → Carries x → 2 ^ 15 ≤ (f.seq - x.rxSeq).toNat → ∃ t, exec i s = .next t ∧
      t = withPort s p (replied x 4 s.link.chip f.src (x.rxSeq - 1)))) ∧
  (∀ (s : State) (p : OSlot) (f : Flit) (x : BPort) (y : Context) (c : BitVec 16), Arrives s p x f → f.dst = s.link.chip →
    f.type = 6 → c = f.payload.setWidth 16 → s.ctx? c = some y → Stays y → lookup 0 (flitField f 2 1) y.collNum ≤ flitField f 4 4 →
    (∀ g ∈ s.link.rx, g.type ≠ 6) → ∃ t, exec (.leave p f) s = .next t ∧
      ∀ n, n = flitField f 4 4 ∨ (n ∈ s.openNums c (flitField f 2 1) ∧ n < 2 ^ 32) → ∃ g ∈ t.link.rx, g.type = 6 ∧
        flitField g 0 2 = flitField f 0 2 ∧ flitField g 2 1 = flitField f 2 1 ∧ flitField g 4 4 = n ∧
        flitField g 8 2 = flitField f 8 2) ∧
  (∀ (s : State) (p : OSlot) (f : Flit) (x : BPort), Arrives s p x f → 8 ≤ f.type.toNat →
    ∃ t, exec (.malformedFlit p f) s = .next t ∧
      t = withPort s p { tookOne x s.link.chip f with malformed := x.malformed + 1 }) ∧
  (∀ (s : State) (p : OSlot) (f : Flit) (x : BPort), x = s.link.ports[p] → Carries x →
    (f.type = 4 → ∃ t, exec (.ack p f) s = .next t ∧ t = withPort s p { x with
      recv := x.recv + 1, peer := some f.src,
      unacked := x.unacked.filter fun g => decide (2 ^ 15 ≤ (f.payload.setWidth 16 - g.seq).toNat) }) ∧
    (f.type = 5 → ∃ t, exec (.nack p f) s = .next t ∧ t = withPort s p { x with
      recv := x.recv + 1, peer := some f.src,
      sent := x.sent + if ∃ g ∈ x.unacked, g.seq = f.payload.setWidth 16 then 1 else 0 })) ∧
  (∀ (s : State) (p : OSlot), ∃ t, exec (.idle p) s = .next t ∧ t = s) ∧
  (∀ (s : State) (p : OSlot) (good : Nat) (x : BPort), x = s.link.ports[p] → x.st = .training → x.tx = [] →
    ∃ t st n, exec (.portTrainingDone p good) s = .next t ∧
      (8 ≤ good → st = PortSt.up ∧ n = 8) ∧ (4 ≤ good → good < 8 → st = PortSt.degraded ∧ n = 4) ∧
      (good < 4 → st = PortSt.down ∧ n = 0) ∧
      t = told (withPort s p { x with st := st, lanes := n, sent := x.sent + if 4 ≤ good then x.unacked.length else 0 })
        [portRecord p (if 8 ≤ good then 2 else if 4 ≤ good then 3 else 0) n]) ∧
  (∀ (s : State) (p : OSlot) (x : BPort), x = s.link.ports[p] → Carries x →
    (∀ q, q ∉ x.retry → ∃ t, exec (.flitCrcFailure p q) s = .next t ∧
      t = withPort s p { replied x 5 s.link.chip 0 q with retry := x.retry ++ [q] }) ∧
    (∀ (f : Flit) (ms : List Nat) (q : BitVec 12) (mine theirs : Nat), x.unacked ++ x.tx ++ x.held = [f] →
      f.type.toNat ∈ [1, 2, 3, 6, 7] → (∀ g ∈ s.link.rx, g.type ≠ 6) → s.cgroup? (f.payload.setWidth 16) (flitField f 2 1) = some ms →
      ms.findIdx? (fun m => m = s.link.chip.toNat) = some mine → x.peer = some q → ms.findIdx? (fun m => m = q.toNat) = some theirs →
      ∃ t g, exec (.lastingLinkError p) s = .next t ∧ g ∈ t.link.rx ∧ g.type = 6 ∧
        g.payload.setWidth 64 = f.payload.extractLsb' 32 32 ++ (0 : BitVec 8) ++ f.payload.setWidth 24 ∧
        flitField g 8 2 = (if theirs < mine then s.link.chip.toNat else q.toNat) ∧
        ∀ m ∈ ms, ∀ n : Fin 16, mine < theirs → m < 4096 → m ≠ s.link.chip.toNat → m ≠ q.toNat → routeTo s m = some n.val → n ≠ p →
          s.link.ports[n].st ≠ .quarantined → s.link.ports[n].tx = [] →
          ∃ h ∈ onPort t.link.ports[n], h.type = 6 ∧ h.dst.toNat = m ∧ flitField h 8 2 = q.toNat) ∧
    ((∀ f ∈ x.unacked ++ x.tx ++ x.held, f.type.toNat ∈ [0, 4, 5] ∨ 8 ≤ f.type.toNat) → s.link.rx = [] →
      (∀ y ∈ s.allStrands ++ s.ending, y.2.colls = []) → ∀ i, (i = .lastingLinkError p ∨ ∃ q ∈ x.retry, i = .flitCrcFailure p q) → ∃ t, exec i s = .next t ∧
        t = told (withPort s p { x with
          st := .quarantined, lanes := 0, txSeq := 0, rxSeq := 0, tx := [], unacked := [], held := [], retry := [] })
            [portRecord p 4 0])) ∧
  (∀ (s : State) (q : Req) (p : OSlot) (x : BPort), Served s q [(8, 1), (9, 1)] → Req.arg q 9 1 = p.val → x = s.link.ports[p] →
    (Req.arg q 8 1 = 1 → x.st = .down → ∃ t, exec (.enablePort q) s = .next t ∧
      t = told (withPort s p { x with st := .training, lanes := 0 }) [granted q 0x41 0, portRecord p 1 0]) ∧
    (Req.arg q 8 1 = 2 → Carries x ∨ x.st = .quarantined → ∃ t, exec (.disablePort q) s = .next t ∧
      t = told (withPort s p { x with st := .down, lanes := 0 }) [granted q 0x41 0, portRecord p 0 0]) ∧
    (Req.arg q 8 1 = 3 → x.st = .quarantined → ∃ t, exec (.retrainPort q) s = .next t ∧
      t = told (withPort s p { x with st := .training, lanes := 0 }) [granted q 0x41 0, portRecord p 1 0]) ∧
    (∀ c : Nat, Req.arg q 8 1 = 4 → (x.st, c) ∈ [(PortSt.down, 0), (.training, 1), (.up, 2), (.degraded, 3), (.quarantined, 4)] →
      ∃ t, exec (.readPortCounters q) s = .next t ∧ t = told s [granted q 0x41 (c + x.lanes * 2 ^ 8 +
        x.trans % 2 ^ 64 * 2 ^ 64 + x.sent % 2 ^ 64 * 2 ^ 128 + x.recv % 2 ^ 64 * 2 ^ 192 + x.malformed % 2 ^ 64 * 2 ^ 256)])) ∧
  (∀ (s : State) (q : Req) (p : OSlot), Served s q [(8, 1), (9, 1), (10, 2)] → Req.arg q 9 1 = p.val → Req.arg q 10 2 < 4096 →
    (Req.arg q 8 1 = 0 → ∃ t, exec (.setChipNumber q) s = .next t ∧
      t = told { s with link := { s.link with chip := BitVec.ofNat 12 (Req.arg q 10 2) } } [granted q 0x41 0]) ∧
    (Req.arg q 8 1 = 5 → ∃ t, exec (.setRoute q) s = .next t ∧
      t = told { s with link := { s.link with routes := t.link.routes } } [granted q 0x41 0] ∧
      ∀ c, routeTo t c = if c = Req.arg q 10 2 then some p.val else routeTo s c)) ∧
  (∀ (s : State) (q : Req) (x : Context) (n : Nat) (h : List Byte) (chips : List Nat), About s q [(8, 1), (9, 1), (16, 8)] x →
    Stays x → n = Req.arg q 9 1 → 2 ≤ n → n ≤ 64 → q.block = some h → Req.arg q 16 8 % 64 = 0 → 2 * n ≤ h.length →
    chips = ((List.range n).map fun i => blockField h (2 * i) 2) → (∀ c ∈ chips, c < 4096) → chips.Nodup →
    ∃ t y, exec (.defineCollectiveGroup q) s = .next t ∧ CtxTo s t q.ctx y ∧ t.host = (told s [granted q 0x40 0]).host ∧
      t = { s with ctxs := t.ctxs, host := t.host } ∧ y = { x with cgroups := y.cgroups } ∧
      t.cgroup? q.ctx (Req.arg q 8 1) = some chips ∧
      ∀ g, g ≠ Req.arg q 8 1 → t.cgroup? q.ctx g = s.cgroup? q.ctx g)

/-- R335 to R345, R350, R351, R356 to R359, R393: requests about contexts, their images and their memory, each with its completion. A
released context is scrubbed and told free with report 0x84; a swapped or saved one gives up its clusters to images, and a
resumed one gets them back; a mapped page stands in frames that nobody held. Identities and frames are the least free ones, and
root tables come from the top of HBM (the model's choices, logs 8 and 70). A step that writes audit entries is over once the log
has taken them (R384): until then a new context is creating and a released one releasing. A context with an image that fails its
check is killed (R345); its request is answered with status 7 (the model's choice, log 100). Clusters that a strand of the system
context has used are scrubbed before a context comes there, and one that fails takes none (the model's choice, log 98). -/
def Obligations.ContextRequests : Prop :=
  (∀ (s : State) (q : Req), s.host.trained = true → s.pkg.state = 4 →
    ∃ t, exec (.unassignedRequest q) s = .next t ∧ t = told s [record q.code.toNat q.tag q.ctx 1 0]) ∧
  (∀ (s : State) (q : Req) (b : List Byte) (fl : Nat) (gr : Vector (Nat × Nat) 4), Served s q [(8, 8)] → q.ctx = 0 →
    BlockOf q 64 b → fl = blockField b 6 1 → fl < 16 → blockField b 0 4 ≠ 0 → blockField b 7 1 = 0 → blockField b 60 4 = 0 →
    (∀ d, d < 4 → blockField b (16 + 2 * d) 2 ≤ 16384 ∧
      (blockField b (16 + 2 * d) 2 ≠ 0 → blockField b 0 4 / 2 ^ (8 * d) % 256 ≠ 0)) →
    s.strictConflict (fl / 2 % 2 == 1) (fl % 2 == 1) (BitVec.ofNat 16 (blockField b 4 2)) = false →
    (∃ t, exec (.createContext q) s = .next t ∧ ∀ n : Fin 32, (blockField b 0 4).testBit n.val = true → n.val ∈ s.soiled →
      (∀ k ∈ s.liveSlots, clusterOf k ≠ n.val) → n.val ∉ t.soiled ∧ Zeroed t n.val ∧
        (.cluster n ∈ s.pkg.failing → .cluster n ∈ t.pkg.badUnits ∧ t.ctxs = s.ctxs)) ∧
    (NoneSoiled s (BitVec.ofNat 32 (blockField b 0 4)) → s.pcgConflict (fl % 2 == 1) (if fl / 8 % 2 = 1 then BitVec.allOnes 288 else BitVec.ofNat 288 (blockField b 24 36)) = false →
    s.badCluster (BitVec.ofNat 32 (blockField b 0 4)) = false → s.ctxs.length < 65535 → s.findGrants 0 ((List.range 4).map fun d => blockField b (16 + 2 * d) 2) = some gr →
    (s.kplace (2 ^ 20) (2 ^ 20)).isSome = true → ∃ t n r x, exec (.createContext q) s = .next t ∧ 1 ≤ n ∧ n < 65536 ∧ (∀ p ∈ s.ctxs, p.1 ≠ n) ∧
      t.ctxs = s.ctxs ++ [(n, x)] ∧ (LogRoom s 1 → x.st = .loading ∧ t.held = s.held ∧
        t.host = (told s [record 1 q.tag (BitVec.ofNat 16 n) 0 0]).host) ∧
      (s.hamada.places = 0 → x.st = .creating ∧ t.host = s.host ∧
        t.held = s.held ++ [.enter (BitVec.ofNat 16 n) .loading (record 1 q.tag (BitVec.ofNat 16 n) 0 0)]) ∧
      x.halted = false ∧ x.excl = (fl % 2 == 1) ∧ x.strict = (fl / 2 % 2 == 1) ∧ x.root = some r ∧ x.clu.toNat = blockField b 0 4 ∧ x.ways.toNat = blockField b 4 2 ∧
      x.pcg = (if fl / 8 % 2 = 1 then BitVec.allOnes 288 else BitVec.ofNat 288 (blockField b 24 36)) ∧
      x.grants = gr ∧ (∀ d : Fin 4, gr[d].2 = blockField b (16 + 2 * d) 2) ∧ (fl / 4 % 2 = 0 → x.gseed.toNat = blockField b 8 8) ∧
      (∀ f, r < (f + 1) * 65536 → f * 65536 < r + 2 ^ 20 → f ∉ s.retired ∧
        (∀ h ∈ s.holds, ¬(h.frame ≤ f ∧ f < h.frame + h.n)) ∧ f * 65536 / Config.stackBytes ∉ s.pkg.badStacks) ∧
      (∀ l, r ≤ l → l < r + 2 ^ 20 → Memory.get t.mem l = 0) ∧
      (∀ l, l < r ∨ r + 2 ^ 20 ≤ l → Memory.get t.mem l = Memory.get s.mem l) ∧
      t = { s with ctxs := t.ctxs, ktop := r, mem := t.mem, hamada := t.hamada, host := t.host, held := t.held })) ∧
  (∀ (s : State) (q : Req) (x : Context), About s q [] x →
    (x.st = .creating ∨ ¬Stays x → ∃ t, exec (.releaseContext q) s = .next t ∧ t = told s [record 2 q.tag q.ctx 7 0]) ∧
    (Stays x → x.st ≠ .creating → s.hamada.places = 0 → ∃ t y, exec (.releaseContext q) s = .next t ∧
      t.host.waiting = s.host.waiting ++ [granted q 2 0] ∧ t.ctx? q.ctx = some y ∧ y.st = .releasing) ∧
    (Stays x → x.st ≠ .creating → LogRoom s 64 →
    ∃ t r y, exec (.releaseContext q) s = .next t ∧ t.host.waiting = s.host.waiting ++ [granted q 2 0, r] ∧
      r.toNat % 2 ^ 16 = 0x84 ∧ r.toNat / 2 ^ 32 % 2 ^ 16 = q.ctx.toNat ∧
      (∀ n, n < 32 → x.st = .running → x.clu.getLsbD n = true → (∀ k, k / 64 = n → (t.strand k).stat = .absent) ∧
        (s.objs = [] → ∀ l, inCluster n l = true → Memory.get t.mem l = 0)) ∧
      (∀ u ∈ s.unitsOf q.ctx x, u ∈ s.pkg.failing → u ∈ t.pkg.badUnits) ∧ t.ctx? q.ctx = some y ∧
      y.st = .released ∧ y.root = none ∧ (∀ g ∈ t.groups, g.2.ctx ≠ q.ctx) ∧ (∀ l ∈ t.launches, l.ctx ≠ q.ctx) ∧
      (∀ k ∈ t.queues, k.ctx ≠ q.ctx) ∧ (∀ h ∈ t.holds, h.ctx ≠ q.ctx) ∧ (∀ k ∈ t.caches.tlb, k.ctx ≠ q.ctx) ∧
      (∀ i ∈ t.spill, i.ctx ≠ q.ctx) ∧ (∀ o ∈ t.objs, q.ctx ∉ o.atts))) ∧
  (∀ (s : State) (q : Req) (x : Context), About s q [] x →
    (x.st = .running → Settled s q.ctx → ∃ t a b, exec (.swapOut q) s = .next t ∧ t.host = (told s [granted q 3 (a + b * 2 ^ 32)]).host ∧
      Imaged s t q.ctx x ∧ b = (t.spill.filter fun i => i.ctx = q.ctx).length ∧
      CtxTo s t q.ctx { x with halted := true, st := if b = 0 then .swapped else .saved }) ∧
    (x.st = .running ∧ Settled s q.ctx ∨ x.st = .swapped → ∃ t n y, exec (.save q) s = .next t ∧ t.host = (told s [granted q 4 n]).host ∧
      (x.st = .running → Imaged s t q.ctx x) ∧ CtxTo s t q.ctx y ∧ y.st = .saved ∧
      (∀ (i : Image) (j : Fin 8), t.shadow[j] = some i → i.ctx ≠ q.ctx) ∧
      (∀ (i : Image) (j : Fin 8), s.shadow[j] = some i → i.ctx = q.ctx → i ∈ t.spill) ∧
      (∀ d : Fin 4, x.grants[d].2 ≠ 0 → y.grants[d].2 = x.grants[d].2 ∧
        (q.ctx.toNat, d.val, Memory.readList s.mem (dieAt d.val + x.grants[d].1 * 4096) (x.grants[d].2 * 4096)) ∈ t.spillGrants ∧
        ∀ l, l < x.grants[d].2 * 4096 → Memory.get t.mem (dieAt d.val + x.grants[d].1 * 4096 + l) = 0)) ∧
    (x.st = .running → x.halted = true →
      ∃ t, exec (.resume q) s = .next t ∧ t = told { s with st := t.st, others := t.others, ctxs := t.ctxs } [granted q 6 0] ∧
        CtxTo s t q.ctx { x with halted := false } ∧ (∀ k ∈ s.slotsOf q.ctx, t.strand k = { s.strand k with
          stat := if (s.strand k).stat = .halted then .running else (s.strand k).stat }) ∧
        ∀ k, k ∉ s.slotsOf q.ctx → t.strand k = s.strand k) ∧
    (x.st = .swapped ∨ x.st = .saved → s.clustersFree q.ctx x.clu = true → (∀ k ∈ s.liveSlots, x.clu.getLsbD (clusterOf k) = false) →
      ∃ t, exec (.resume q) s = .next t ∧ NoneSoiled t x.clu ∧ ∀ n : Fin 32, x.clu.getLsbD n.val = true → n.val ∈ s.soiled →
        .cluster n ∈ s.pkg.failing → .cluster n ∈ t.pkg.badUnits ∧ t.ctxs = s.ctxs) ∧
    (∀ is, x.st = .swapped ∨ x.st = .saved → s.clustersFree q.ctx x.clu = true → s.badCluster x.clu = false → NoneSoiled s x.clu →
      (∀ e ∈ s.spillGrants, e.1 ≠ q.ctx.toNat) → is = s.shadowImages q.ctx ++ s.spill.filter (fun i => i.ctx = q.ctx) →
      (∃ i ∈ is, i.hash ≠ imageHash i) → LogRoom s 64 →
      ∃ t y l, exec (.resume q) s = .next t ∧ t.ctx? q.ctx = some y ∧ y.st = .released ∧
        t.host.waiting = s.host.waiting ++ record 6 q.tag q.ctx 7 0 :: l ∧ (∀ i ∈ t.spill, i.ctx ≠ q.ctx) ∧
        ∃ n : Fin 2, ∃ e ∈ (t.hamada.segs[n]).entries, (e : BitVec 1024).toNat / 2 ^ 64 % 2 ^ 16 = 0x000D) ∧
    (∀ is, x.st = .swapped ∨ x.st = .saved → s.clustersFree q.ctx x.clu = true → s.badCluster x.clu = false → NoneSoiled s x.clu →
      (∀ e ∈ s.spillGrants, e.1 ≠ q.ctx.toNat) →
      is = s.shadowImages q.ctx ++ s.spill.filter (fun i => i.ctx = q.ctx) → (∀ i ∈ is, i.hash = imageHash i) →
      (is.map Image.cluster).Nodup → (∀ i ∈ is, (i.strands.map Prod.fst).Nodup ∧ ∀ p ∈ i.strands, p.1 / 64 = i.cluster ∧ p.2.ctx = q.ctx) →
      ∃ t, exec (.resume q) s = .next t ∧ t.host = (told s [granted q 6 0]).host ∧ CtxTo s t q.ctx { x with st := .running, halted := false } ∧
        (∀ i ∈ is, ∀ p ∈ i.strands, t.strand p.1 = { p.2 with stat := if p.2.stat = .halted then .running else p.2.stat }) ∧
        (∀ i ∈ t.spill, i.ctx ≠ q.ctx) ∧ (∀ (i : Image) (j : Fin 8), t.shadow[j] = some i → i.ctx ≠ q.ctx))) ∧
  (∀ (s : State) (q : Req) (x : Context) (n : Fin 16), About s q [(8, 1), (9, 1), (16, 8)] x → Req.arg q 8 1 = n.val →
    (Req.arg q 9 1 = 0 → Req.arg q 16 8 % 2 ^ 36 = 0 → Req.arg q 16 8 < 2 ^ 56 → ∃ t, exec (.bindAperture q) s = .next t ∧
      t = told { s with host := { s.host with apertures := s.host.apertures.set n (some (q.ctx, Req.arg q 16 8)) } }
        [granted q 5 0]) ∧
    (Req.arg q 9 1 = 1 → Req.arg q 16 8 = 0 → ∃ t, exec (.bindAperture q) s = .next t ∧
      t = told { s with host := { s.host with apertures := s.host.apertures.set n none } } [granted q 5 0])) ∧
  (∀ (s : State) (q : Req) (x : Context) (size : Nat), About s q [(8, 8), (16, 8), (24, 1), (25, 1)] x → Stays x →
    MapFields q size →
    (∀ s', (∀ k ∈ s.queues, k.ctx ≠ q.ctx) → NoneWaits s q.ctx →
      s.allUnmapped q.ctx (Req.arg q 8 8) (Req.arg q 16 8 / 65536) = true →
      s.mapPages q.ctx (Req.arg q 8 8) (Req.arg q 24 1) (Req.arg q 25 1) false (Req.arg q 16 8 / size) = some s' →
      ∃ t hs, exec (.map q) s = .next t ∧ t = told s' [granted q 0x10 0] ∧ t.holds = hs ++ s.holds ∧
        hs.length = Req.arg q 16 8 / size ∧ ∀ h ∈ hs, h.ctx = q.ctx ∧ h.n = size / 65536 ∧
          ∀ f, h.frame ≤ f → f < h.frame + h.n → f ∉ s.retired ∧ (∀ g ∈ s.holds, ¬(g.frame ≤ f ∧ f < g.frame + g.n)) ∧
            x.pcg.getLsbD (f * 65536 / Config.stackBytes * 24 + f % 24) = true) ∧
    (∀ r, (∀ k ∈ s.queues, k.ctx ≠ q.ctx) → Req.arg q 16 8 = size → x.root = some r → (∀ l, r ≤ l → l < r + 2 ^ 20 → Memory.get s.mem l = 0) →
      s.ktop ≤ r → s.ktop ≤ Config.hbmBytes → s.takeFrames q.ctx (size / 65536) ≠ none →
      (∀ u f, s.takeFrames q.ctx (size / 65536) = some (u, f) → (u.kplace 12288 4096).isSome = true) →
      ∃ t e, exec (.map q) s = .next t ∧ t.host = (told s [granted q 0x10 0]).host ∧
        (t.walkIn q.ctx (Req.arg q 8 8)).1 = .leaf e size ∧ ptePerm e = Req.arg q 25 1 ∧ pteQ e = false ∧ pteSt e = 0) ∧
    ∃ t, exec (.demandFilledRange q) s = .next t ∧ t.host = (told s [granted q 0x12 0]).host ∧ CtxTo s t q.ctx { x with
        demand := { va := Req.arg q 8 8, len := Req.arg q 16 8, perm := Req.arg q 25 1, size := Req.arg q 24 1 } :: x.demand } ∧
      t = { s with ctxs := t.ctxs, host := t.host }) ∧
  (∀ (s : State) (q : Req) (x : Context) (r : Nat) (e w : Word) (size lv p : Nat), About s q [(8, 8), (16, 8)] x → Stays x →
    Req.arg q 8 8 % 65536 = 0 → Req.arg q 16 8 = 65536 → Req.arg q 8 8 + 65536 ≤ 2 ^ 56 → (∀ k ∈ s.queues, k.ctx ≠ q.ctx) →
    NoneWaits s q.ctx → x.root = some r → r % 8 = 0 → s.walkIn q.ctx (Req.arg q 8 8) = (.leaf e size, w, lv, p) →
    ∃ t, exec (.unmap q) s = .next t ∧ (t.walkIn q.ctx (Req.arg q 8 8)).1 = .unmapped ∧
      Holds t ((List.range 8).map (p + ·)) 0 ∧ SameOutside ((List.range 8).map (p + ·)) s t ∧
      t.holds = s.holds.filter (fun h => !(h.frame = ptePa e / 65536 && h.n = size / 65536)) ∧
      (∀ k ∈ t.caches.tlb, k.ctx = q.ctx → ¬(k.va / k.size * k.size ≤ Req.arg q 8 8 ∧ Req.arg q 8 8 < (k.va / k.size + 1) * k.size)) ∧
      t = told { s with mem := t.mem, holds := t.holds, caches := t.caches } [granted q 0x11 0])

/-- R248, R249, R257 to R264, R268, R395: requests about code objects, launches and queues, each with its completion. A new queue
numbers its appends from 1 (R270). Where a queue has parked QPOPs, sealing and destroying it complete them; the pages of a
destroyed queue stay as they are (R337). An object that a strand or a pending group holds is retired first. An attach whose
ranges are not unmapped in the further context fails with status 4 (R395). A load and a forced unload are complete once the log
has taken their entries (R384). A fetch from the former text of an unloaded object has cause 0x08 in the contexts it was attached
to (R248). The model's choices: what the words of a loaded text are (log 40), where it stands (log 41), what
the check of R247 on where kernel ranges begin means (log 42), and where a new queue's append window stands (logs 70, 75). -/
def Obligations.KernelRequests : Prop :=
  (∀ (s s' : State) (q : Req) (x : Context) (capl depn depb cvb cvn va w : Nat),
    About s q [(8, 1), (9, 1), (12, 4), (16, 8), (24, 4), (28, 4), (32, 8)] x → Stays x → Req.arg q 8 1 < 2 → capl = Req.arg q 9 1 →
    3 ≤ capl → capl ≤ 20 → depn = Req.arg q 12 4 → 1 ≤ depn → depn ≤ 65536 → depb = Req.arg q 16 8 → depb % 8 = 0 →
    depb + 8 * depn ≤ 2 ^ 56 → cvb = Req.arg q 24 4 → cvn = Req.arg q 28 4 → cvn ≤ 4096 → cvb + cvn ≤ depn → va = Req.arg q 32 8 →
    va % 128 = 0 → va + 128 + 8 * 2 ^ capl * 64 ≤ 2 ^ 56 → s.countersMapped q.ctx depb depn = true →
    s.allUnmapped q.ctx (va / 65536 * 65536) (pages64 (va % 65536 + 128 + 8 * 2 ^ capl * 64)) = true → s.freeWindow = some w →
    s.mapPages q.ctx (va / 65536 * 65536) 0 0 true (pages64 (va % 65536 + 128 + 8 * 2 ^ capl * 64)) = some s' →
    s.queue? q.ctx va = none →
    ∃ t k, exec (.createQueue q) s = .next t ∧ t.queue? q.ctx va = some k ∧ (∀ c v, c ≠ q.ctx ∨ v ≠ va → t.queue? c v = s.queue? c v) ∧
      t = told { s' with mem := t.mem, queues := t.queues, graves := t.graves } [granted q 0x20 (va + w * 2 ^ 64)] ∧ 2 ^ 20 ≤ w ∧ w < 2 ^ 26 ∧
      (∀ y ∈ s.queues, y.window ≠ w) ∧ (cvn = 0 → t.mem = s'.mem) ∧
      k = { ctx := q.ctx, va := va, deque := Req.arg q 8 1 == 1, capl := capl, depb := depb, depn := depn, cvb := cvb, cvn := cvn,
            cvnext := 0, isSealed := false, levels := Vector.replicate 8 [], parked := [], drop := 0, owner := none,
            nextSeq := 1, window := w } ∧
      ∀ ls, cvn = 1 → s'.counterAt k cvb = some ls → ls.Nodup → Holds t ls (2 ^ 63)) ∧
  (∀ (s : State) (q : Req) (x : Context) (k : Queue), About s q [(8, 8)] x → s.queue? q.ctx (Req.arg q 8 8) = some k →
    k.parked = [] →
    (k.isSealed = false → ∃ t, exec (.sealQueue q) s = .next t ∧ QueueTo s t k { k with isSealed := true } ∧
      t = told { s with queues := t.queues } [granted q 0x21 0]) ∧
    ∃ t, exec (.destroyQueue q) s = .next t ∧ t = told { s with queues := t.queues, graves := t.graves } [granted q 0x22 0] ∧
      t.queue? k.ctx k.va = none ∧ (∀ c v, c ≠ k.ctx ∨ v ≠ k.va → t.queue? c v = s.queue? c v)) ∧
  (∀ (s : State) (q : Req) (x : Context) (k : Queue) (p : Nat) (d : SReg) (b : Nat) (ls : List Nat), About s q [(8, 8)] x →
    s.queue? q.ctx (Req.arg q 8 8) = some k → k.parked = [{ slot := p, dst := d, buf := b, locs := ls }] → (∀ l : Fin 8, k.levels[l] = []) → k.isSealed = false →
    (s.strand p).stat = .running → (s.strand p).ctx = q.ctx → (s.strand p).park = .qpop →
    ∀ i, i = .sealQueue q ∨ i = .destroyQueue q → ∃ t, exec i s = .next t ∧ (t.strand p).park = (s.strand p).vectorPark ∧
      (t.strand p).pc = (s.strand p).pc + 4 ∧ (d ≠ 0 → (t.strand p).reg d = BitVec.ofNat 64 (2 ^ 48 + 2 ^ 49)) ∧
      (∀ j, j ≠ p → t.strand j = s.strand j)) ∧
  (∀ (s s' : State) (q : Req) (x : Context) (b : List Byte) (po : Portable) (base : Nat), About s q [(8, 8), (16, 8)] x → Stays x →
    s.readObject q.ctx (Req.arg q 8 8) (Req.arg q 16 8) = some b → parseObject b = some po → loadStatus po po.finalize = 0 →
    s.nextHandle < 2 ^ 32 →
    s.findBase q.ctx ((po.object po.finalize s.nextHandle q.ctx 0).1.textPages +
        pages64 (po.object po.finalize s.nextHandle q.ctx 0).2.length)
      (pages64 (po.object po.finalize s.nextHandle q.ctx 0).1.datab) = some base →
    s.mapObject q.ctx (po.object po.finalize s.nextHandle q.ctx base).1 (po.object po.finalize s.nextHandle q.ctx base).2 = some s' →
    LogRoom s 2 → ∃ t o, exec (.load q) s = .next t ∧ t.host = (told s [granted q 0x30 (o.handle + o.dbase * 2 ^ 64)]).host ∧
      t.objs = s.objs ++ [o] ∧ o = (po.object po.finalize s.nextHandle q.ctx base).1 ∧ o.handle = s.nextHandle ∧ o.st = .resident ∧
      o.atts = [q.ctx] ∧ t.nextHandle = s.nextHandle + 1 ∧ t.mem = s'.mem ∧ t.st = s.st ∧ t.others = s.others) ∧
  (∀ (s : State) (q : Req) (x : Context) (b : List Byte), About s q [(8, 8), (16, 8)] x → Stays x → LogRoom s 1 →
    s.readObject q.ctx (Req.arg q 8 8) (Req.arg q 16 8) = some b → parseObject b = none →
    ∃ t, exec (.load q) s = .next t ∧ t = told { s with hamada := t.hamada } [record 0x30 q.tag q.ctx 1 0]) ∧
  (∀ (s : State) (q : Req) (x : Context) (o : Obj), About s q [(8, 4)] x → Stays x → s.objOf q.ctx (Req.arg q 8 4) = some o →
    o.st = .resident → (∀ y ∈ s.objs, y.handle = o.handle → y = o) →
    (s.refs o = true → ∃ t, exec (.unload q) s = .next t ∧ t.host = (told s [granted q 0x31 0]).host ∧
      t = { s with objs := s.objs.map (fun y => if y = o then { o with st := .retiring } else y), host := t.host }) ∧
    (s.refs o = false → ∃ t, exec (.unload q) s = .next t ∧ t.host = (told s [granted q 0x31 0]).host ∧
      (∀ y ∈ t.objs, y.handle = o.handle → y.st = .unloaded ∧ y.atts = o.atts) ∧
      (∀ c a, c ∈ o.atts → o.holds a = true → t.formerText c a = true) ∧ t.st = s.st ∧ t.others = s.others ∧
      (∀ y ∈ s.objs, y ≠ o → y ∈ t.objs) ∧ (∀ l ∈ t.caches.l1i, l.ctx ∈ o.atts → o.holds l.line = false)) ∧
    (s.holdersOf o = [] → LogRoom s 1 → ∃ t, exec (.forceUnload q) s = .next t ∧ t.host = (told s [granted q 0x32 0]).host ∧
      (∀ y ∈ t.objs, y.handle = o.handle → y.st = .unloaded ∧ y.atts = o.atts) ∧
      (∀ c a, c ∈ o.atts → o.holds a = true → t.formerText c a = true) ∧ t.st = s.st ∧ t.others = s.others) ∧
    (LogRoom s (64 * (s.holdersOf o).length + 1) → ∃ t, exec (.forceUnload q) s = .next t ∧
      ∀ c ∈ s.holdersOf o, ∀ z, s.ctx? c = some z → (∃ y, t.ctx? c = some y ∧ y.st = .released) ∧
        ∀ n k, n < 32 → z.st = .running → z.clu.getLsbD n = true → k / 64 = n → (t.strand k).stat = .absent)) ∧
  (∀ (s : State) (q : Req) (x y : Context) (o : Obj) (c : BitVec 16), About s q [(8, 4), (12, 2)] x → Stays x →
    c.toNat = Req.arg q 12 2 → c ≠ 0 → s.ctx? c = some y → Stays y → s.objOf q.ctx (Req.arg q 8 4) = some o → o.st = .resident →
    (¬(s.allUnmapped c o.cbase (o.textPages + o.mpages) = true ∧ s.allUnmapped c o.dbase (pages64 o.datab) = true) →
      ∃ t, exec (.attach q) s = .next t ∧ t = told s [record 0x33 q.tag q.ctx 4 0]) ∧
    (∀ s', o.atts.contains c = false → s.allUnmapped c o.cbase (o.textPages + o.mpages) = true →
      s.allUnmapped c o.dbase (pages64 o.datab) = true → s.mapObject c o (s.tablesOf o) = some s' →
      (∀ z ∈ s.objs, z.handle = o.handle → z = o) →
      ∃ t, exec (.attach q) s = .next t ∧
        t = told { s' with objs := s.objs.map (fun z => if z = o then { o with atts := o.atts ++ [c] } else z) } [granted q 0x33 0])) ∧
  (∀ (s : State) (q : Req) (x : Context) (b : List Byte) (o : Obj) (k : Kernel) (lane g : Nat), About s q [(8, 8)] x → Stays x →
    BlockOf q 144 b → lane = blockField b 7 1 → g = blockField b 8 8 → blockField b 6 1 < 8 → lane % 16 ≠ 0 → lane < 64 → 1 ≤ g →
    g ≤ 2 ^ 32 → blockField b 136 8 = 0 → s.objOf q.ctx (blockField b 0 4) = some o → o.st = .resident →
    o.kernels[blockField b 4 2]? = some k → k.strands ≤ 2 ^ widW k.widf 0 → g ≤ 2 ^ (64 - widW k.widf 0) →
    k.strands ≤ k.perCluster →
    ∃ t l, exec (.launch q) s = .next t ∧ t.host = (told s [granted q 0x34 x.nextLid]).host ∧ t.launches = s.launches ++ [l] ∧
      CtxTo s t q.ctx { x with nextLid := x.nextLid + 1 } ∧
      t = { s with launches := t.launches, ctxs := t.ctxs, host := t.host } ∧
      l.ctx = q.ctx ∧ l.lid = x.nextLid ∧ l.obj = o.handle ∧ l.kix = blockField b 4 2 ∧ l.prio = blockField b 6 1 ∧
      l.lane.toNat = lane ∧ l.groups = g ∧ l.next = 0 ∧ l.ended = 0 ∧ l.failed = none ∧
      ∀ n : Fin 15, (l.s[n]).toNat = blockField b (16 + 8 * n.val) 8)

/-- R20, R235, R268, R284, R324, R335, R337, R338, R356, R357, R376, R378, R382, R387 to R390: the host's accesses, the ring, the
Oasis kernel's service of faults, migration in its three steps, pre-emption at a YIELD and admission, and what befalls the
package; there are twelve stacks of 96 GiB (R20). The model's choices: that pre-emption does nothing unless the last word of the
strand was YIELD (log 59); a lasting error in a frame where no page is found, and the address it reports (log 63); thermal
shutdown from every state (log 56); what the machine holds after module reset and loss of power where the spec gives no value
(logs 1 and 3); the address in the report of an access through an aperture that is not bound (a free value, log 60); the scrub of a
cluster that a service strand has used, before the first group of a context comes there (log 98). The check
of a boot image's signature is the one that R377 names, with the functions of NIST SP 800-208 (PRESUMED, log 126); the fuses have
no value in the spec (log 72), so no accepted image can be shown. -/
def Obligations.HostAndPackageEvents : Prop :=
  (∀ (s : State) (p : OSlot) (off : Nat) (c : BitVec 16) (base : Nat), s.host.trained = true →
    s.host.apertures[p] = some (c, base) →
    (∀ (data : List Byte) (ls : List Nat), off + data.length ≤ 2 ^ 36 →
      s.locs (walkerOf 0 c) (base + off) data.length .write = .ok ls → ls.Nodup →
      ∃ t, exec (.hostMemoryWrite p off data) s = .next t ∧ t = { s with mem := t.mem, caches := t.caches } ∧
        Holds t ls (bytesToNat data) ∧ SameOutside ls s t) ∧
    (∀ (n : Nat) (ls : List Nat), off + n ≤ 2 ^ 36 → s.locs (walkerOf 0 c) (base + off) n .read = .ok ls →
      ∃ t, exec (.hostMemoryRead p off n) s = .next t ∧
        t = { s with caches := t.caches, host := { s.host with hostRead := natToBytes n (s.get ls) } }) ∧
    (∀ (data : List Byte) (e : Nat × Nat), off + data.length ≤ 2 ^ 36 →
      s.locs (walkerOf 0 c) (base + off) data.length .write = .error e → ∃ t, exec (.hostMemoryWrite p off data) s = .next t ∧
        SameMemory s t ∧ t.host = (told s [record 0x82 0 c 0 (base + off + (0xFFFF + 2 ^ 16 + 2 * 2 ^ 24) * 2 ^ 64)]).host)) ∧
  (∀ (s : State) (p : OSlot) (off n : Nat), s.host.trained = true → s.host.apertures[p] = none →
    ∃ t va, exec (.hostMemoryRead p off n) s = .next t ∧ SameMemory s t ∧ t.host = { s.host with
      hostRead := List.replicate n 0xFF
      waiting := s.host.waiting ++ [record 0x82 0 0 0 (va + (0xFFFF + 3 * 2 ^ 24) * 2 ^ 64)] }) ∧
  (∀ (s : State) (off : Nat) (data : List Byte) (q : Queue) (r : Nat) (l : Fin 8), s.host.trained = true →
    (s.queues.find? fun y => y.window = off / 64 * 64) = some q → s.queue? q.ctx q.va = some q → r = bytesToNat data →
    l.val = (if q.deque then 0 else r / 2 ^ 16 % 8) →
    (off % 64 = 0 → data.length = 64 → recValid q r = true → (q.levels[l]).length < 2 ^ q.capl → q.isSealed = false → q.parked = [] →
      ∃ t, exec (.taskRecordAppend off data) s = .next t ∧ t = { s with queues := t.queues } ∧ QueueTo s t q { q with
        levels := q.levels.set l (q.levels[l] ++ [{ seq := q.nextSeq, data := BitVec.ofNat 512 r }]), nextSeq := q.nextSeq + 1 }) ∧
    (off % 64 ≠ 0 ∨ data.length ≠ 64 ∨ recValid q r = false ∨ 2 ^ q.capl ≤ (q.levels[l]).length ∨ q.isSealed = true →
      ∃ t, exec (.taskRecordAppend off data) s = .next t ∧ t = { s with queues := t.queues } ∧
        QueueTo s t q { q with drop := min (q.drop + 1) 65535 })) ∧
  (∀ (s : State) (v : Word), s.host.trained = true →
    (∃ t, exec (.hostRegisterWrite 0 v) s = .next t ∧ t = { s with host := { s.host with base := v, based := true } }) ∧
    (∃ t, exec (.hostRegisterWrite 8 v) s = .next t ∧ t = { s with host := { s.host with sizel := v.setWidth 32 } }) ∧
    (∀ n, n = (v.setWidth 32 - s.host.head).toNat → n ≤ (s.host.tail - s.host.head).toNat →
      ∃ t, exec (.hostRegisterWrite 12 v) s = .next t ∧
        t = { s with ctxs := t.ctxs, host := { s.host with head := v.setWidth 32, consumed := s.host.consumed + n } } ∧
        ((∀ p ∈ (s.host.sent.drop s.host.consumed).take n, p.2.toNat % 2 ^ 16 ≠ 0x84) → t.ctxs = s.ctxs) ∧
        (∀ p ∈ (s.host.sent.drop s.host.consumed).take n, p.2.toNat % 2 ^ 16 = 0x84 →
          (∀ e ∈ s.ctxs, e.1 = p.2.toNat / 2 ^ 32 % 2 ^ 16 → e.2.st = .released) →
          t.ctx? (BitVec.ofNat 16 (p.2.toNat / 2 ^ 32 % 2 ^ 16)) = none))) ∧
  (∀ (s : State) (r : Report) (rest : List Report), s.host.waiting = r :: rest → s.host.trained = true →
    s.host.based = true → 4 ≤ s.host.sizel.toNat → s.host.sizel.toNat ≤ 16 → (s.host.tail - s.host.head).toNat < 2 ^ s.host.sizel.toNat →
    ∃ t, exec .reportRingWrite s = .next t ∧ t = { s with host := { s.host with
      waiting := rest
      sent := s.host.sent ++ [(BitVec.ofNat 64 (s.host.base.toNat + 64 * (s.host.tail.toNat % 2 ^ s.host.sizel.toNat)), r)]
      tail := s.host.tail + 1
      msi := s.host.msi + if s.host.msix then 1 else 0 } }) ∧
  (∀ (s : State) (k : Nat) (f : OFault), (s.strand k).stat = .waiting f → f.vec = false → f.va = (s.strand k).pc.setWidth 64 →
    s.formerText (s.strand k).ctx f.va.toNat = true → ∃ t r l, exec (.oasisFaultService k) s = .next t ∧
      (t.strand k).stat = .absent ∧ t.host.waiting = s.host.waiting ++ r :: l ∧ r.toNat % 2 ^ 16 = 0x81 ∧
      r.toNat / 2 ^ 64 % 2 ^ 8 = f.cause % 2 ^ 8) ∧
  (∀ (s : State) (k : Nat) (f : OFault), (s.strand k).stat = .waiting f →
    f.vec = true ∨ f.va ≠ (s.strand k).pc.setWidth 64 ∨ s.formerText (s.strand k).ctx f.va.toNat = false →
    ((∃ e n, (s.walkIn (s.strand k).ctx f.va.toNat).1 = .leaf e n ∧ pteSt e = 0) →
      ∃ t, exec (.oasisFaultService k) s = .next t ∧ t.strand k = { s.strand k with stat := .running } ∧
        t = { s with st := t.st, others := t.others }) ∧
    (∀ (r : DRange) (x : Context) (s' : State), (s.walkIn (s.strand k).ctx f.va.toNat).1 = .unmapped →
      s.ctx? (s.strand k).ctx = some x →
      x.demand.find? (fun r => decide (r.va ≤ f.va.toNat) && decide (f.va.toNat < r.va + r.len)) = some r →
      s.slotFree (s.strand k).ctx f.va.toNat r.size = true →
      s.mapPage (s.strand k).ctx (f.va.toNat / pageBytes r.size * pageBytes r.size) r.size r.perm false = some s' →
      ∃ t, exec (.oasisFaultService k) s = .next t ∧ t = { s' with st := t.st, others := t.others } ∧
        ((∃ e n, (s'.walkIn (s.strand k).ctx f.va.toNat).1 = .leaf e n ∧ pteSt e = 0) →
          t.strand k = { s.strand k with stat := .running })) ∧
    ((∃ e n, (s.walkIn (s.strand k).ctx f.va.toNat).1 = .leaf e n ∧ pteSt e = 1) → exec (.oasisFaultService k) s = .next s) ∧
    ((s.walkIn (s.strand k).ctx f.va.toNat).1 = .malformed ∨
      (∃ e n, (s.walkIn (s.strand k).ctx f.va.toNat).1 = .leaf e n ∧ pteSt e = 2) →
      ∃ t r l, exec (.oasisFaultService k) s = .next t ∧ (t.strand k).stat = .absent ∧
        t.host.waiting = s.host.waiting ++ r :: l ∧ r.toNat % 2 ^ 16 = 0x81 ∧ r.toNat / 2 ^ 64 % 2 ^ 8 = f.cause % 2 ^ 8)) ∧
  (∀ (s : State) (c : BitVec 16) (va : BitVec 56) (e w : Word) (size lv p : Nat), Memory.wf s.mem = true →
    s.walkIn c va.toNat = (.leaf e size, w, lv, p) → TablesOfApart s c (fun l => l < s.ktop) →
    NoneParked s c →
    (pteSt e = 0 → s.takeFrames c (size / 65536) ≠ none → ∃ t, exec (.pageMigration c va) s = .next t ∧
      Holds t ((List.range 8).map (p + ·)) (e.toNat + 2 ^ 6) ∧ SameOutside ((List.range 8).map (p + ·)) s t ∧
      t = { s with mem := t.mem }) ∧
    (pteSt e = 1 → s.cached c va.toNat size = true → ∃ t, exec (.pageMigration c va) s = .next t ∧
      t = { s with caches := t.caches } ∧ t.cached c va.toNat size = false) ∧
    (pteSt e = 1 → s.cached c va.toNat size = false → s.takeFrames c (size / 65536) ≠ none →
      (∃ h ∈ s.holds, h.frame = ptePa e / 65536 ∧ h.n = size / 65536) →
      ∃ t f, exec (.pageMigration c va) s = .next t ∧ { frame := f, n := size / 65536, ctx := c } ∈ t.holds ∧
        (∀ h ∈ t.holds, ¬(h.frame = ptePa e / 65536 ∧ h.n = size / 65536)) ∧
        (∀ l, l < size → Memory.get t.mem (f * 65536 + l) = Memory.get s.mem (ptePa e + l)) ∧
        Holds t ((List.range 8).map (p + ·)) (3 + ptePerm e * 4 + (if pteQ e then 32 else 0) + f * 65536) ∧
        t = { s with mem := t.mem, holds := t.holds, st := t.st, others := t.others } ∧
        (NoneWaits s c → t.st = s.st ∧ t.others = s.others) ∧
        ∀ k ∈ s.slotsOf c, ∀ x, (s.strand k).stat = .waiting x → x.va.toNat = va.toNat →
          t.strand k = { s.strand k with stat := .running })) ∧
  (∀ (s : State) (k : Nat), (s.strand k).ir ≠ 0x50080000 → exec (.preemption k) s = .next s) ∧
  (∀ (s : State) (k : Nat) (g : Group), s.group? (s.strand k).gkey = some g → (s.strand k).stat = .running →
    (s.strand k).ir = 0x50080000 → (s.strand k).park = .none → k ∈ g.live → g.saved = [] → g.live.Nodup →
    (∀ j ∈ g.live, (s.strand j).late = [] ∧ (s.strand j).ctx = g.ctx) →
    ∃ t h, exec (.preemption k) s = .next t ∧ (∀ j ∈ g.live, (t.strand j).stat = .absent) ∧ (∀ j, j ∉ g.live → t.strand j = s.strand j) ∧
      t.group? (s.strand k).gkey = some { g with saved := h } ∧ (h.map Prod.fst) = g.live ∧
      (∀ u ∈ h, u.2 = stoppedAs (match (s.strand u.1).stat with | .waiting _ => .running | y => y) (s.strand u.1)) ∧
      (∀ q ∈ t.queues, q.ctx = g.ctx → ∀ y ∈ q.parked, y.slot ∉ g.live) ∧ t.acc = s.acc ∧ SameMemory s t) ∧
  (∀ (s : State) (c : BitVec 16) (x : Context) (l : Launch) (o : Obj) (k : Kernel) (n : Nat), s.ctx? c = some x →
    x.st = .loading ∨ x.st = .running → (x.st = .loading → NoneSoiled s x.clu) → x.halted = false →
    s.clustersFree c x.clu = true → s.pkg.badUnits = [] →
    s.st.stat = .absent → s.others = [] → s.groups = [] → s.launches = [l] → l.ctx = c →
    l.next < l.groups → (s.objs.find? fun y => y.handle = l.obj) = some o → o.kernels[l.kix]? = some k →
    (∀ y ∈ s.objs, y.st ≠ .retiring) → k.strands ≤ 8 → k.accrows ≤ 4096 → k.streams ≤ 32 → n < 32 → x.clu.getLsbD n = true →
    (∀ j, j < n → x.clu.getLsbD j = false) →
    ∃ t g, exec (.groupAdmission c) s = .next t ∧ CtxTo s t c { x with st := .running } ∧
      (∀ i, i < k.strands → Started s l k s.nextGroup l.next i 0 0 (t.strand (64 * n + 8 * i))) ∧
      (∀ j, (∀ i, i < k.strands → j ≠ 64 * n + 8 * i) → (t.strand j).stat = .absent) ∧
      t.group? s.nextGroup = some g ∧ g.ctx = c ∧ g.lid = l.lid ∧ g.num = l.next ∧ g.cluster = n ∧
      g.live = (List.range k.strands).map (fun i => 64 * n + 8 * i) ∧ t.launches = [{ l with next := l.next + 1 }] ∧ SameMemory s t) ∧
  (∀ (s : State) (c : BitVec 16) (x : Context), s.ctx? c = some x → x.st = .loading → x.halted = false → (∀ g ∈ s.groups, g.2.ctx ≠ c) →
    s.clustersFree c x.clu = true → (∀ k ∈ s.liveSlots, x.clu.getLsbD (clusterOf k) = false) → (∀ y ∈ s.objs, y.st ≠ .retiring) →
    ∃ t, exec (.groupAdmission c) s = .next t ∧ NoneSoiled t x.clu ∧
      ∀ n ∈ s.soiled, x.clu.getLsbD n = true → ∀ l, inCluster n l = true → Memory.get t.mem l = 0) ∧
  (∀ s : State, ∃ t, exec .moduleReset s = .next t ∧ t = { State.reset with
        hamada := t.hamada, pkg := { Package.reset with powered := true }, inputs := s.inputs, ticks := s.ticks, freeCtr := s.freeCtr } ∧
      t.hamada.idx = s.hamada.idx ∧ t.hamada.seqf = s.hamada.seqf ∧ t.hamada.head = s.hamada.head) ∧
  (∀ s : State, ∃ t, exec .lossOfPower s = .next t ∧ t = { State.reset with
        hamada := t.hamada, pkg := { Package.reset with powered := false }, inputs := s.inputs, ticks := s.ticks, freeCtr := s.freeCtr + 1 } ∧
      (t.hamada.idx = s.hamada.idx ∧ t.hamada.seqf = s.hamada.seqf ∧ t.hamada.head = s.hamada.head ∨
        t.hamada.idx = s.hamada.idx + 1 ∧ t.hamada.seqf = s.hamada.seqf ∧ s.hamada.seg.isSealed = false ∧ s.hamada.seg.entries ≠ [])) ∧
  (∀ (s : State) (a b : Option BootImage), s.pkg.powered = true → s.pkg.state ≤ 1 →
    ∃ t, exec (.measuredBoot a b) s = .next t ∧ t = { s with hamada := t.hamada, pkg := t.pkg } ∧
      t.hamada.m[0] = shake256 (bvBytes 32 (shake256 (bvBytes 32 (0 : BitVec 256) ++ bvBytes 32 Config.romHash)) ++
        bvBytes 32 Config.fuseHash) ∧
      (∀ i, a = some i → Accepts i → t.pkg.state = 3 ∧ t.pkg.bootport = 0 ∧ t.pkg.svn = i.svn ∧ t.pkg.oasis = i.body) ∧
      (∀ i, (∀ j, a = some j → ¬Accepts j) → b = some i → Accepts i →
        t.pkg.state = 3 ∧ t.pkg.bootport = 1 ∧ t.pkg.svn = i.svn ∧ t.pkg.oasis = i.body) ∧
      ((∀ j, a = some j ∨ b = some j → ¬Accepts j) → t.pkg = { s.pkg with state := 2 })) ∧
  (∀ (s : State) (bs : List (Fin 12)) (us : List ScrubUnit), s.pkg.state = 3 → ∃ t gone, exec (.bringUp bs us) s = .next t ∧
    t = { s with
      hamada := t.hamada, pkg := t.pkg, link := { s.link with ports := t.link.ports }, st := t.st, others := t.others,
      groups := barsCleared (fun k => decide (k < 32)) s.groups, soiled := t.soiled, ending := t.ending, mem := t.mem, acc := t.acc, oslots := t.oslots, claims := t.claims, shadow := t.shadow,
      caches := t.caches, admitted := t.admitted } ∧
    (∀ n ∈ t.soiled, 32 ≤ n) ∧ (∀ n l, n < 32 → inCluster n l = true → Memory.get t.mem l = 0) ∧ (∀ k, k < 32 * 32768 → lookup 0 k t.acc = 0) ∧
    (∀ l, (∀ n, n < 32 → inCluster n l = false) → Memory.get t.mem l = Memory.get s.mem l) ∧ (∀ i : Fin 8, t.shadow[i] = none) ∧
    (∀ p : Fin 16, t.link.ports[p] = { s.link.ports[p] with st := .down, lanes := 0 }) ∧
    t.pkg = { s.pkg with
      state := 4, readied := true, badstk := gone.length, badStacks := gone, badUnits := t.pkg.badUnits,
      failing := t.pkg.failing } ∧ gone.Nodup ∧ (∀ n, n ∈ gone ↔ ∃ y ∈ bs, y.val = n) ∧
    ∀ u : ScrubUnit, u ∈ t.pkg.badUnits ↔ u ∈ s.pkg.badUnits ∨ ((u ∈ us ∨ u ∈ s.pkg.failing) ∧ ∀ d, u ≠ .l2 d)) ∧
  (∀ (s : State) (i : Instr) (w : BitVec 16), i = .powerCap w ∨ i = .powerCapEnd w → ∃ t, exec i s = .next t ∧
    t = { s with pkg := { s.pkg with watts := BitVec.ofNat 16 (min w.toNat 2800), capped := decide (2800 < w.toNat) } }) ∧
  (∀ (s : State) (i : Instr) (a b : Byte) (hot : Nat), i = .thermalThrottle a b ∨ i = .thermalThrottleEnd a b ∨ i = .thermalShutdown a b →
    hot = max a.toNat b.toNat →
    (hot < 115 → ∃ t, exec i s = .next t ∧ t = { s with pkg := { s.pkg with tdie := a, tstk := b, thr := decide (105 ≤ hot) } }) ∧
    (115 ≤ hot → ∃ t, exec i s = .next t ∧ t.pkg = { s.pkg with tdie := a, tstk := b, thr := true, state := 5 } ∧
      (∀ k, (t.strand k).stat = .absent) ∧ t.groups = [] ∧ t.launches = [] ∧ t.ending = [] ∧
      (∀ p : Fin 16, t.link.ports[p].tx = [] ∧ t.link.ports[p].unacked = []))) ∧
  (∀ s : State, s.pkg.powered = true → ∃ t, exec .hostLinkTrained s = .next t ∧ t = { s with host := { s.host with trained := true } }) ∧
  (∀ (s : State) (pa : Nat) (n : Fin 12), pa < 12 * (96 * 2 ^ 30) → n.val = pa / (96 * 2 ^ 30) →
    ((∀ p ∈ (s.slot, s.st) :: s.others ++ s.ending ++ s.stored, p.2.cmds = []) →
      ∃ t, exec (.transientMemoryError pa) s = .next t ∧
        t = { s with pkg := { s.pkg with trans := s.pkg.trans.set n (min (s.pkg.trans[n] + 1) (2 ^ 32 - 1)) } }) ∧
    (∀ (k : Nat) (t : Strand) (i : Nat) (c : Cmd) (j l : Nat) (as bs ms : List Nat), k < 2048 → OnSlot s k t → NothingBefore t →
      MayAct s k t i c → (∀ n x, n ≠ i → MayAct s k t n x → s.cmdReads (playaOf k t.ctx) x pa = false) → c.bad = none → j < c.n → (∀ n, n < j → ∃ r, s.cmdElem (playaOf k t.ctx) c n = .ok r) →
      s.cmdElem (playaOf k t.ctx) c j = .ok (as, bs, ms) → l ∈ as ++ bs ++ ms →
      l / 128 = pa / 128 → (∀ x, x ≠ k → (s.strand x).cmds = []) → (∀ p ∈ s.ending ++ s.stored, p.2.cmds = []) →
      ∃ t', exec (.transientMemoryError pa) s = .next t' ∧
        StrandTo s t' k { t with cmds := t.cmds.set i { c with trans := c.trans + 1 } }) ∧
    (s.pageAt pa = none → pa / 65536 ∉ s.retired → LogRoom s 1 →
      ∃ t va, exec (.lastingMemoryError pa) s = .next t ∧ t.retired = pa / 65536 :: s.retired ∧ SameMemory s t ∧
        t.pkg = { s.pkg with retd := s.pkg.retd.set n (min (s.pkg.retd[n] + 1) 65535) } ∧
        t.host = (told s [record 0x85 0 0 0 (pa / 65536 + va * 2 ^ 64 + n.val * 2 ^ 128)]).host) ∧
    (∀ c va size e m w lv p, s.pageAt pa = some (c, va, size) → s.walkIn c va = (.leaf e m, w, lv, p) → pteSt e = 0 → s.groups = [] →
      s.slotsOf c = [] → LogRoom s 1 → (∀ x r, s.ctx? c = some x → x.root = some r → r % 8 = 0) → ∃ t, exec (.lastingMemoryError pa) s = .next t ∧ Holds t ((List.range 8).map (p + ·)) (e.toNat + 2 * 2 ^ 6) ∧
        SameOutside ((List.range 8).map (p + ·)) s t ∧
        (∀ f, f ∈ t.retired ↔ f ∈ s.retired ∨ (pa / size * size / 65536 ≤ f ∧ f < pa / size * size / 65536 + size / 65536)) ∧
        t.host = (told s [record 0x85 0 c 0 (pa / 65536 + va * 2 ^ 64 + n.val * 2 ^ 128)]).host)) ∧
  (∀ (s : State) (pa : Nat), 12 * (96 * 2 ^ 30) ≤ pa → exec (.transientMemoryError pa) s = .fault .noSuchPhysicalAddress ∧
    exec (.lastingMemoryError pa) s = .fault .noSuchPhysicalAddress)

/-! ### The step, the decoder and the reset state -/

/-- A step runs the decoded instruction: the word at pc, which comes from a line in the instruction cache or from the text of an
object (R254, R255), or, where no object holds the line, from the four bytes in memory (the model's choice, log 15), decodes to
i; nothing is waited for and no rule on payloads or clauses stops it; then the step is exec of i, in a state where only time, the
instruction register and the caches have moved. A strand whose scalar side is parked executes the instruction in its register
again, without a fetch. A fetch from the former text of an unloaded object has cause 0x08 (R248). An event that the environment
supplies runs its own row. In all of these no step of the Oasis kernel waits, no accepted store of a strand has still to perform
and no object retires. -/
def Obligations.StepRunsDecodedInstruction : Prop :=
  (∀ (s : State) (i : Instr) (w : BitVec 32) (a l : Nat), s.inputs = [] → s.held = [] → (∀ k, (s.strand k).late = []) →
    (∀ o ∈ s.objs, o.st ≠ .retiring) → s.st.stat = .running → s.st.startAfter = none →
    s.st.sync = [] → NothingBefore s.st → s.st.cmds = [] → s.st.colls = [] → s.st.park.scalar = false →
    a = s.st.pc.toNat → a % 4 = 0 → s.formerText s.st.ctx a = false → s.place s.me a .fetch = .ok l →
    ((∃ x, (s.caches.l1i.find? fun x => x.core = coreOf s.slot && x.ctx = s.st.ctx && x.line = a / 64 * 64) = some x ∧
        x.words.toList[a % 64 / 4]? = some w) ∨
      ((∀ x ∈ s.caches.l1i, ¬(x.core = coreOf s.slot ∧ x.ctx = s.st.ctx ∧ x.line = a / 64 * 64)) ∧
        ((∃ o, s.objAt s.st.ctx (a / 64 * 64) = some o ∧ w = expandWord (o.dicts.getD
            ((o.latt.getD ((a / 64 * 64 - o.cbase) / 64) 0).toNat / 2 ^ 40 % 2 ^ 6) [])
            (o.text.drop ((o.latt.getD ((a / 64 * 64 - o.cbase) / 64) 0).toNat % 2 ^ 40)) (a % 64 / 4)) ∨
          (s.objAt s.st.ctx (a / 64 * 64) = none ∧ w = BitVec.ofNat 32 (s.get [l, l + 1, l + 2, l + 3]))))) →
    decode w.toNat = .ok i → (s.st.pfx = none ∨ ∃ p, s.st.pfx = some p ∧ payOk i.pay p.toNat = true) →
    s.st.pend = 0 → s.st.clause = none ∨ s.st.csr.chkstall = false →
    ∃ u, step s = exec i u ∧ s.elapsed < u.elapsed ∧
      u = { s with st := { s.st with ir := w }, caches := u.caches, elapsed := u.elapsed, ticks := s.ticks + 1, passed := false }) ∧
  (∀ (s : State) (i : Instr), s.inputs = [] → s.held = [] → (∀ k, (s.strand k).late = []) → (∀ o ∈ s.objs, o.st ≠ .retiring) →
    s.st.stat = .running → s.st.startAfter = none → s.st.queue = [] → s.st.sync = [] → s.st.park.scalar = true →
    decode s.st.ir.toNat = .ok i → ∃ u, step s = exec i u ∧ s.elapsed < u.elapsed ∧
      u = { s with elapsed := u.elapsed, ticks := s.ticks + 1, passed := false }) ∧
  (∀ (s : State), s.inputs = [] → s.held = [] → (∀ k, (s.strand k).late = []) → (∀ o ∈ s.objs, o.st ≠ .retiring) →
    s.st.stat = .running → s.st.startAfter = none → s.st.queue = [] → s.st.sync = [] → s.st.park.scalar = false →
    s.st.pc.toNat % 4 = 0 → s.formerText s.st.ctx s.st.pc.toNat = true → ∃ t, step s = .next t ∧ s.elapsed < t.elapsed ∧
      t = { s with
        elapsed := t.elapsed, ticks := s.ticks + 1, passed := false,
        st := { s.st with ir := 0, stat := .waiting { cause := 8, va := s.st.pc.setWidth 64, vec := false } } }) ∧
  (∀ (s : State) (i : Instr) (rest : List Input), s.inputs = .row i :: rest → encode i = none → s.held = [] →
    (∀ k, (s.strand k).late = []) → (∀ o ∈ s.objs, o.st ≠ .retiring) → (∀ q ∈ s.queues, q.parked = []) → (∀ w, i ≠ .reservedEncoding w) →
    ∃ u, step s = exec i u ∧ s.elapsed < u.elapsed ∧
      u = { s with inputs := rest, elapsed := u.elapsed, ticks := s.ticks + 1, passed := false })

/-- R60 to R64: words written out from the encoding tables decode to the instructions they stand for. -/
def Obligations.DecodingSanity : Prop :=
  decode 0x1C801235 = .ok (.lih 4 0x1235) ∧ decode 0x10848000 = .ok (.addImm 4 4 0x8000) ∧
  decode 0x50060000 = .ok .rett ∧ decode 0x500A0000 = .ok .exit ∧ decode 0x54002000 = .ok .vfence ∧
  decode 0x20A28008 = .ok (.ld 5 2 .w32 8) ∧ decode 0xE5022001 = .ok (.skupd 8 2 4 0) ∧ decode 0xE8070000 = .ok (.setls 7)

/-- Decode and encode agree: for every instruction that the encoding admits, with every operand at every value, the word that
the encoder writes decodes to the instruction again; and a word that decodes is the word of what it decodes to. The nine rows
that share the word of another row (an operand in a register tells them apart) are left out of the first half; the decoder gives
the first row of such a word. -/
def Obligations.DecodeAndEncodeAgree : Prop :=
  (∀ (i : Instr) (w : Nat), i.wf = true → i.sharesWord = false → encode i = some w → w < 2 ^ 32 ∧ decode w = .ok i) ∧
  (∀ (i : Instr) (w : Nat), w < 2 ^ 32 → decode w = .ok i → encode i = some w ∧ i.wf = true ∧ i.sharesWord = false)

/-- Every step keeps the invariant, from every state that has it, reached or not. -/
def Obligations.StepKeepsInvariant : Prop := ∀ s t : State, Inv s → step s = .next t → Inv t

/-- R357, R364, R378, R389, R392: what reset leaves: HKSTAT.STATE 0 and BOOTPORT 0xF, measurement registers 0, every port down,
TAIL and HEAD 0, no context but the system context, no strand, and the invariant. -/
def Obligations.ResetState : Prop :=
  State.reset.pkg.state = 0 ∧ State.reset.pkg.bootport = 15 ∧ State.reset.pkg.early = 0 ∧
  (∀ n : Fin 8, State.reset.hamada.m[n] = 0) ∧ (∀ p : Fin 16, State.reset.link.ports[p].st = .down) ∧
  State.reset.host.head = 0 ∧ State.reset.host.tail = 0 ∧ State.reset.host.trained = false ∧
  (∀ c, (State.reset.ctx? c).isSome = true ↔ c = 0) ∧ (∀ k, (State.reset.strand k).stat = .absent) ∧
  (∀ a, Memory.get State.reset.mem a = 0) ∧ (∀ r : SReg, State.reset.st.reg r = 0) ∧ Inv State.reset
end

