-- ==== Sys2Proof/Laws/Memory.lean ====
section
/-! SUPPORT. Laws of sparse maps and of memory: a read after a write, and that every operation keeps the canonical form. The
reading laws hold of every list; the form is needed for equality of memories alone. -/

namespace Sys2Proof.Machine

/-! ### Sparse maps -/

/-- The order of rising, pair by pair. -/
theorem rising_iff {α : Type} (l : List (Nat × α)) : rising l = true ↔ l.Pairwise fun p q => p.1 < q.1 := by
  induction l with
  | nil => simp [rising]
  | cons x r ih =>
    cases r with
    | nil => simp [rising]
    | cons y r =>
      simp only [rising, Bool.and_eq_true, decide_eq_true_eq, ih, List.pairwise_cons]
      constructor
      · rintro ⟨h, hy, hr⟩
        refine ⟨?_, hy, hr⟩
        intro q hq
        rcases List.mem_cons.mp hq with rfl | hq
        · exact h
        · exact lt_trans h (hy q hq)
      · rintro ⟨h, hy, hr⟩
        exact ⟨h y (by simp), hy, hr⟩

theorem mem_insertKey {α : Type} (k : Nat) (v : α) (l : List (Nat × α)) (p : Nat × α) :
    p ∈ insertKey k v l ↔ p = (k, v) ∨ p ∈ l := by
  induction l with
  | nil => simp [insertKey]
  | cons x r ih => unfold insertKey; split <;> simp [ih]; tauto

theorem eraseKey_eq_filter {α : Type} (k : Nat) (l : List (Nat × α)) : eraseKey k l = l.filter fun p => p.1 ≠ k := by
  induction l with
  | nil => rfl
  | cons x r ih => obtain ⟨a, b⟩ := x; by_cases h : a = k <;> simp [eraseKey, h, ih]

theorem mem_eraseKey {α : Type} (k : Nat) (l : List (Nat × α)) (p : Nat × α) :
    p ∈ eraseKey k l ↔ p ∈ l ∧ p.1 ≠ k := by simp [eraseKey_eq_filter]

theorem rising_filter {α : Type} (f : Nat × α → Bool) {l : List (Nat × α)} (h : rising l = true) :
    rising (l.filter f) = true := by
  rw [rising_iff] at *; exact h.filter f

theorem rising_eraseKey {α : Type} (k : Nat) {l : List (Nat × α)} (h : rising l = true) : rising (eraseKey k l) = true := by
  rw [eraseKey_eq_filter]; exact rising_filter _ h

theorem rising_insertKey {α : Type} (k : Nat) (v : α) {l : List (Nat × α)} (h : rising l = true) (hk : ∀ p ∈ l, p.1 ≠ k) :
    rising (insertKey k v l) = true := by
  rw [rising_iff] at *
  induction l with
  | nil => simp [insertKey]
  | cons x r ih =>
    obtain ⟨hx, hr⟩ := List.pairwise_cons.mp h
    have hxk := hk x (by simp)
    unfold insertKey
    split
    · next hlt =>
      refine List.pairwise_cons.mpr ⟨?_, h⟩
      intro q hq
      rcases List.mem_cons.mp hq with rfl | hq
      · exact hlt
      · exact lt_trans hlt (hx q hq)
    · next hge =>
      refine List.pairwise_cons.mpr ⟨?_, ih hr fun p hp => hk p (by simp [hp])⟩
      intro q hq
      rcases (mem_insertKey _ _ _ _).mp hq with rfl | hq
      · simp only; omega
      · exact hx q hq

theorem rising_store {α : Type} [DecidableEq α] (d : α) (k : Nat) (v : α) {l : List (Nat × α)} (h : rising l = true) :
    rising (store d k v l) = true := by
  unfold store
  split
  · exact rising_eraseKey k h
  · exact rising_insertKey k v (rising_eraseKey k h) fun p hp => ((mem_eraseKey k l p).mp hp).2

theorem lookup_eraseKey_same {α : Type} (d : α) (k : Nat) (l : List (Nat × α)) : lookup d k (eraseKey k l) = d := by
  induction l with
  | nil => rfl
  | cons x r ih => obtain ⟨a, b⟩ := x; by_cases h : a = k <;> simp [eraseKey, h, lookup, ih]

theorem lookup_eraseKey_ne {α : Type} (d : α) {k j : Nat} (h : j ≠ k) (l : List (Nat × α)) :
    lookup d j (eraseKey k l) = lookup d j l := by
  induction l with
  | nil => rfl
  | cons x r ih =>
    obtain ⟨a, b⟩ := x
    by_cases ha : a = k
    · have : a ≠ j := by omega
      simp [eraseKey, lookup, ha, ih]
      omega
    · simp [eraseKey, lookup, ha, ih]

theorem lookup_insertKey_same {α : Type} (d : α) (k : Nat) (v : α) (l : List (Nat × α)) (h : ∀ p ∈ l, p.1 ≠ k) :
    lookup d k (insertKey k v l) = v := by
  induction l with
  | nil => simp [insertKey, lookup]
  | cons x r ih =>
    obtain ⟨a, b⟩ := x
    have ha : a ≠ k := h (a, b) (by simp)
    unfold insertKey
    split
    · simp [lookup]
    · simp [lookup, ha, ih fun p hp => h p (by simp [hp])]

theorem lookup_insertKey_ne {α : Type} (d : α) {k j : Nat} (h : j ≠ k) (v : α) (l : List (Nat × α)) :
    lookup d j (insertKey k v l) = lookup d j l := by
  induction l with
  | nil => simp [insertKey, lookup, Ne.symm h]
  | cons x r ih =>
    obtain ⟨a, b⟩ := x
    unfold insertKey
    split
    · simp [lookup, Ne.symm h]
    · simp [lookup, ih]

/-- What a map holds after a store. -/
theorem lookup_store {α : Type} [DecidableEq α] (d : α) (k j : Nat) (v : α) (l : List (Nat × α)) :
    lookup d j (store d k v l) = if j = k then v else lookup d j l := by
  unfold store
  by_cases h : j = k
  · subst h
    split
    · next hv => simp [lookup_eraseKey_same, hv]
    · simp [lookup_insertKey_same d j v _ fun p hp => ((mem_eraseKey j l p).mp hp).2]
  · rw [if_neg h]
    split
    · exact lookup_eraseKey_ne d h l
    · rw [lookup_insertKey_ne d h, lookup_eraseKey_ne d h]

theorem lookup_filter {α : Type} (d : α) (j : Nat) (f : Nat → Bool) (l : List (Nat × α)) :
    lookup d j (l.filter fun p => f p.1) = if f j then lookup d j l else d := by
  induction l with
  | nil => simp [lookup]
  | cons x r ih =>
    obtain ⟨a, b⟩ := x
    by_cases hf : f a = true
    · by_cases ha : a = j
      · subst ha; simp [hf, lookup]
      · simp [hf, lookup, ha, ih]
    · by_cases ha : a = j
      · subst ha; simp [hf, ih]
      · simp [hf, lookup, ha, ih]

/-! ### Bytes -/

/-- A read after a write. -/
theorem get_set (m : List Host.Cell) (a b : Nat) (v : Byte) :
    Memory.get (Memory.set m a v) b = if b = a then v else Memory.get m b := lookup_store _ _ _ _ _

@[simp] theorem get_set_same (m : List Host.Cell) (a : Nat) (v : Byte) : Memory.get (Memory.set m a v) a = v := by
  simp [get_set]

theorem get_set_ne (m : List Host.Cell) {a b : Nat} (v : Byte) (h : b ≠ a) :
    Memory.get (Memory.set m a v) b = Memory.get m b := by simp [get_set, h]

/-- A byte outside the written ones reads as before. -/
theorem get_write_outside (n : Nat) : ∀ (m : List Host.Cell) (a v b : Nat), b < a ∨ a + n ≤ b →
    Memory.get (Memory.write m a n v) b = Memory.get m b := by
  induction n with
  | zero => intros; rfl
  | succ n ih =>
    intro m a v b h
    rw [Memory.write, ih _ _ _ _ (by omega), get_set_ne _ _ (by omega)]

/-- A written byte. -/
theorem get_write_inside (n : Nat) : ∀ (m : List Host.Cell) (a v i : Nat), i < n →
    Memory.get (Memory.write m a n v) (a + i) = BitVec.ofNat 8 (v / 256 ^ i) := by
  induction n with
  | zero => intro _ _ _ _ h; omega
  | succ n ih =>
    intro m a v i h
    rw [Memory.write]
    cases i with
    | zero => rw [get_write_outside n _ _ _ _ (by omega)]; simp
    | succ i =>
      have := ih (Memory.set m a (BitVec.ofNat 8 v)) (a + 1) (v / 256) i (by omega)
      rw [show a + (i + 1) = a + 1 + i by omega, this, Nat.div_div_eq_div_mul, Nat.pow_succ, Nat.mul_comm]

/-- A byte that is no place of a store reads as before. -/
theorem get_putBytes_outside (ls : List Nat) : ∀ (m : List Host.Cell) (v a : Nat), a ∉ ls →
    Memory.get (putBytes m ls v) a = Memory.get m a := by
  induction ls with
  | nil => intros; rfl
  | cons l r ih =>
    intro m v a h
    simp only [List.mem_cons, not_or] at h
    rw [putBytes, ih _ _ _ h.2, get_set_ne _ _ h.1]

/-- The places of a store hold the bytes of its value. -/
theorem get_putBytes_inside (ls : List Nat) : ∀ (m : List Host.Cell) (v i : Nat), ls.Nodup → (h : i < ls.length) →
    Memory.get (putBytes m ls v) ls[i] = BitVec.ofNat 8 (v / 256 ^ i) := by
  induction ls with
  | nil => intro _ _ _ _ h; simp at h
  | cons l r ih =>
    intro m v i hn h
    obtain ⟨hl, hr⟩ := List.nodup_cons.mp hn
    rw [putBytes]
    cases i with
    | zero => simp only [List.getElem_cons_zero]; rw [get_putBytes_outside r _ _ _ hl]; simp
    | succ i =>
      simp only [List.getElem_cons_succ]
      rw [ih _ _ _ hr (by simpa using h), Nat.div_div_eq_div_mul, Nat.pow_succ, Nat.mul_comm]

/-- Bytes that are cleared read as fresh; every other byte reads as before. -/
theorem get_clear (m : List Host.Cell) (a n b : Nat) :
    Memory.get (Memory.clear m a n) b = if a ≤ b ∧ b < a + n then Memory.fresh else Memory.get m b := by
  unfold Memory.get Memory.clear
  rw [lookup_filter Memory.fresh b (fun x => !(decide (a ≤ x) && decide (x < a + n))) m]
  by_cases h : a ≤ b ∧ b < a + n
  · simp [h]
  · simp [h]

/-- The bytes a number is read from decide it: two memories that agree there give the same number. -/
theorem State.get_congr (s t : State) : ∀ ls : List Nat, (∀ a ∈ ls, Memory.get t.mem a = Memory.get s.mem a) →
    t.get ls = s.get ls := by
  intro ls
  induction ls with
  | nil => intros; rfl
  | cons l r ih => intro h; simp [State.get, h l, ih fun a ha => h a (by simp [ha])]

/-- A number read back from the places it was stored to. -/
theorem State.get_put (ls : List Nat) : ∀ (s : State) (v : Nat), ls.Nodup → (s.put ls v).get ls = v % 256 ^ ls.length := by
  induction ls with
  | nil => intro s v _; simp [State.get, Nat.mod_one]
  | cons l r ih =>
    intro s v h
    obtain ⟨hl, hr⟩ := List.nodup_cons.mp h
    have h1 : (s.put (l :: r) v) = ({ s with mem := Memory.set s.mem l (BitVec.ofNat 8 v) }.put r (v / 256)) := rfl
    rw [h1, State.get, ih _ _ hr]
    have h2 : Memory.get (({ s with mem := Memory.set s.mem l (BitVec.ofNat 8 v) } : State).put r (v / 256)).mem l =
        BitVec.ofNat 8 v := by
      show Memory.get (putBytes _ r _) l = _
      rw [get_putBytes_outside r _ _ _ hl]; simp
    rw [h2, List.length_cons, Nat.pow_succ, Nat.mul_comm (256 ^ r.length), Nat.mod_mul]
    simp [BitVec.toNat_ofNat]

/-! ### The canonical form -/

theorem wf_nil : Memory.wf [] = true := rfl

theorem wf_iff (m : List Host.Cell) : Memory.wf m = true ↔ rising m = true ∧ ∀ c ∈ m, c.2 ≠ Memory.fresh := by
  simp [Memory.wf, List.all_eq_true]

theorem wf_filter (f : Host.Cell → Bool) {m : List Host.Cell} (h : Memory.wf m = true) : Memory.wf (m.filter f) = true := by
  rw [wf_iff] at *
  exact ⟨rising_filter f h.1, fun c hc => h.2 c (List.mem_of_mem_filter hc)⟩

theorem wf_set {m : List Host.Cell} (a : Nat) (v : Byte) (h : Memory.wf m = true) : Memory.wf (Memory.set m a v) = true := by
  rw [wf_iff] at *
  refine ⟨rising_store _ a v h.1, ?_⟩
  intro c hc
  unfold Memory.set store at hc
  split at hc
  · exact h.2 c ((mem_eraseKey a m c).mp hc).1
  · next hv =>
    rcases (mem_insertKey _ _ _ _).mp hc with rfl | hc
    · exact hv
    · exact h.2 c ((mem_eraseKey a m c).mp hc).1

theorem wf_write (n : Nat) : ∀ {m : List Host.Cell} (a v : Nat), Memory.wf m = true → Memory.wf (Memory.write m a n v) = true := by
  induction n with
  | zero => intro m a v h; exact h
  | succ n ih => intro m a v h; exact ih _ _ (wf_set _ _ h)

theorem wf_writeList (bs : List Byte) : ∀ {m : List Host.Cell} (a : Nat), Memory.wf m = true →
    Memory.wf (Memory.writeList m a bs) = true := by
  induction bs with
  | nil => intro m a h; exact h
  | cons b r ih => intro m a h; exact ih _ (wf_set _ _ h)

theorem wf_putBytes (ls : List Nat) : ∀ {m : List Host.Cell} (v : Nat), Memory.wf m = true →
    Memory.wf (putBytes m ls v) = true := by
  induction ls with
  | nil => intro m v h; exact h
  | cons l r ih => intro m v h; exact ih _ (wf_set _ _ h)

theorem wf_paste (cs : List Host.Cell) : ∀ {m : List Host.Cell}, Memory.wf m = true → Memory.wf (Memory.paste m cs) = true := by
  induction cs with
  | nil => intro m h; exact h
  | cons c r ih => intro m h; exact ih (wf_set _ _ h)

theorem wf_clear (a n : Nat) {m : List Host.Cell} (h : Memory.wf m = true) : Memory.wf (Memory.clear m a n) = true :=
  wf_filter _ h

theorem State.wf_put (s : State) (ls : List Nat) (v : Nat) (h : Memory.wf s.mem = true) : Memory.wf (s.put ls v).mem = true :=
  wf_putBytes ls v h

/-- The memory of the machine after reset has the canonical form. -/
theorem wf_reset : Memory.wf State.reset.mem = true := rfl

/-- Memories in canonical form that read alike are the same list. -/
theorem wf_ext : ∀ {m n : List Host.Cell}, Memory.wf m = true → Memory.wf n = true →
    (∀ a, Memory.get m a = Memory.get n a) → m = n := by
  have low : ∀ {l : List Host.Cell} {a : Nat}, (∀ p ∈ l, a < p.1) → Memory.get l a = Memory.fresh := by
    intro l
    induction l with
    | nil => intros; rfl
    | cons x r ih =>
      intro a h
      obtain ⟨k, v⟩ := x
      have hk : a < k := h (k, v) (by simp)
      have : k ≠ a := by omega
      show lookup _ _ _ = _
      simp only [lookup, this, if_false]
      exact ih fun p hp => h p (by simp [hp])
  have head : ∀ {x : Host.Cell} {r : List Host.Cell}, Memory.get (x :: r) x.1 = x.2 := by
    intro x r; obtain ⟨k, v⟩ := x; simp [Memory.get, lookup]
  intro m
  induction m with
  | nil =>
    intro n _ hn h
    cases n with
    | nil => rfl
    | cons y r =>
      have := h y.1
      rw [head] at this
      exact absurd this.symm (((wf_iff _).mp hn).2 y (by simp))
  | cons x r ih =>
    intro n hm hn h
    cases n with
    | nil =>
      have := h x.1
      rw [head] at this
      exact absurd this (((wf_iff _).mp hm).2 x (by simp))
    | cons y q =>
      have hm' := (wf_iff _).mp hm
      have hn' := (wf_iff _).mp hn
      obtain ⟨hx, hr⟩ := List.pairwise_cons.mp ((rising_iff _).mp hm'.1)
      obtain ⟨hy, hq⟩ := List.pairwise_cons.mp ((rising_iff _).mp hn'.1)
      have hk : x.1 = y.1 := by
        rcases Nat.lt_trichotomy x.1 y.1 with hlt | heq | hgt
        · have h1 := h x.1
          rw [head, low] at h1
          · exact absurd h1 (hm'.2 x (by simp))
          · intro p hp
            rcases List.mem_cons.mp hp with rfl | hp
            · exact hlt
            · exact lt_trans hlt (hy p hp)
        · exact heq
        · have h1 := h y.1
          rw [head, low] at h1
          · exact absurd h1.symm (hn'.2 y (by simp))
          · intro p hp
            rcases List.mem_cons.mp hp with rfl | hp
            · exact hgt
            · exact lt_trans hgt (hx p hp)
      have hv : x.2 = y.2 := by
        have h1 := h x.1
        rw [head, hk, head] at h1
        exact h1
      have hxy : x = y := Prod.ext hk hv
      subst hxy
      congr 1
      refine ih ((wf_iff _).mpr ⟨(rising_iff _).mpr hr, fun c hc => hm'.2 c (by simp [hc])⟩)
        ((wf_iff _).mpr ⟨(rising_iff _).mpr hq, fun c hc => hn'.2 c (by simp [hc])⟩) ?_
      intro a
      by_cases ha : a = x.1
      · subst ha; rw [low hx, low hy]
      · have h1 := h a
        simp only [Memory.get, lookup] at h1 ⊢
        obtain ⟨k, v⟩ := x
        have : k ≠ a := fun e => ha e.symm
        simpa [lookup, this] using h1

end Sys2Proof.Machine
end

