-- ==== Sys2Proof/Laws/State.lean ====
section
/-! SUPPORT. What each update of the state leaves in each field: one lemma per field and update, true by unfolding the update
once, so that no later proof unfolds a record. -/

namespace Sys2Proof.Machine

/-! ### State.mod -/

@[simp] theorem State.mod_slot (s : State) (f : Strand → Strand) : (s.mod f).slot = s.slot := rfl
@[simp] theorem State.mod_st (s : State) (f : Strand → Strand) : (s.mod f).st = f s.st := rfl
@[simp] theorem State.mod_others (s : State) (f : Strand → Strand) : (s.mod f).others = s.others := rfl
@[simp] theorem State.mod_ending (s : State) (f : Strand → Strand) : (s.mod f).ending = s.ending := rfl
@[simp] theorem State.mod_mem (s : State) (f : Strand → Strand) : (s.mod f).mem = s.mem := rfl
@[simp] theorem State.mod_acc (s : State) (f : Strand → Strand) : (s.mod f).acc = s.acc := rfl
@[simp] theorem State.mod_oslots (s : State) (f : Strand → Strand) : (s.mod f).oslots = s.oslots := rfl
@[simp] theorem State.mod_claims (s : State) (f : Strand → Strand) : (s.mod f).claims = s.claims := rfl
@[simp] theorem State.mod_groups (s : State) (f : Strand → Strand) : (s.mod f).groups = s.groups := rfl
@[simp] theorem State.mod_nextGroup (s : State) (f : Strand → Strand) : (s.mod f).nextGroup = s.nextGroup := rfl
@[simp] theorem State.mod_launches (s : State) (f : Strand → Strand) : (s.mod f).launches = s.launches := rfl
@[simp] theorem State.mod_objs (s : State) (f : Strand → Strand) : (s.mod f).objs = s.objs := rfl
@[simp] theorem State.mod_nextHandle (s : State) (f : Strand → Strand) : (s.mod f).nextHandle = s.nextHandle := rfl
@[simp] theorem State.mod_queues (s : State) (f : Strand → Strand) : (s.mod f).queues = s.queues := rfl
@[simp] theorem State.mod_graves (s : State) (f : Strand → Strand) : (s.mod f).graves = s.graves := rfl
@[simp] theorem State.mod_passed (s : State) (f : Strand → Strand) : (s.mod f).passed = s.passed := rfl
@[simp] theorem State.mod_ctxs (s : State) (f : Strand → Strand) : (s.mod f).ctxs = s.ctxs := rfl
@[simp] theorem State.mod_holds (s : State) (f : Strand → Strand) : (s.mod f).holds = s.holds := rfl
@[simp] theorem State.mod_ktop (s : State) (f : Strand → Strand) : (s.mod f).ktop = s.ktop := rfl
@[simp] theorem State.mod_retired (s : State) (f : Strand → Strand) : (s.mod f).retired = s.retired := rfl
@[simp] theorem State.mod_shadow (s : State) (f : Strand → Strand) : (s.mod f).shadow = s.shadow := rfl
@[simp] theorem State.mod_spill (s : State) (f : Strand → Strand) : (s.mod f).spill = s.spill := rfl
@[simp] theorem State.mod_spillGrants (s : State) (f : Strand → Strand) : (s.mod f).spillGrants = s.spillGrants := rfl
@[simp] theorem State.mod_caches (s : State) (f : Strand → Strand) : (s.mod f).caches = s.caches := rfl
@[simp] theorem State.mod_host (s : State) (f : Strand → Strand) : (s.mod f).host = s.host := rfl
@[simp] theorem State.mod_link (s : State) (f : Strand → Strand) : (s.mod f).link = s.link := rfl
@[simp] theorem State.mod_hamada (s : State) (f : Strand → Strand) : (s.mod f).hamada = s.hamada := rfl
@[simp] theorem State.mod_pkg (s : State) (f : Strand → Strand) : (s.mod f).pkg = s.pkg := rfl
@[simp] theorem State.mod_admitted (s : State) (f : Strand → Strand) : (s.mod f).admitted = s.admitted := rfl
@[simp] theorem State.mod_soiled (s : State) (f : Strand → Strand) : (s.mod f).soiled = s.soiled := rfl
@[simp] theorem State.mod_held (s : State) (f : Strand → Strand) : (s.mod f).held = s.held := rfl
@[simp] theorem State.mod_inputs (s : State) (f : Strand → Strand) : (s.mod f).inputs = s.inputs := rfl
@[simp] theorem State.mod_elapsed (s : State) (f : Strand → Strand) : (s.mod f).elapsed = s.elapsed := rfl
@[simp] theorem State.mod_ticks (s : State) (f : Strand → Strand) : (s.mod f).ticks = s.ticks := rfl
@[simp] theorem State.mod_freeCtr (s : State) (f : Strand → Strand) : (s.mod f).freeCtr = s.freeCtr := rfl

/-! ### State.modCsr -/

@[simp] theorem State.modCsr_slot (s : State) (f : Csrs → Csrs) : (s.modCsr f).slot = s.slot := rfl
@[simp] theorem State.modCsr_st (s : State) (f : Csrs → Csrs) : (s.modCsr f).st = { s.st with csr := f s.st.csr } := rfl
@[simp] theorem State.modCsr_others (s : State) (f : Csrs → Csrs) : (s.modCsr f).others = s.others := rfl
@[simp] theorem State.modCsr_ending (s : State) (f : Csrs → Csrs) : (s.modCsr f).ending = s.ending := rfl
@[simp] theorem State.modCsr_mem (s : State) (f : Csrs → Csrs) : (s.modCsr f).mem = s.mem := rfl
@[simp] theorem State.modCsr_acc (s : State) (f : Csrs → Csrs) : (s.modCsr f).acc = s.acc := rfl
@[simp] theorem State.modCsr_oslots (s : State) (f : Csrs → Csrs) : (s.modCsr f).oslots = s.oslots := rfl
@[simp] theorem State.modCsr_claims (s : State) (f : Csrs → Csrs) : (s.modCsr f).claims = s.claims := rfl
@[simp] theorem State.modCsr_groups (s : State) (f : Csrs → Csrs) : (s.modCsr f).groups = s.groups := rfl
@[simp] theorem State.modCsr_nextGroup (s : State) (f : Csrs → Csrs) : (s.modCsr f).nextGroup = s.nextGroup := rfl
@[simp] theorem State.modCsr_launches (s : State) (f : Csrs → Csrs) : (s.modCsr f).launches = s.launches := rfl
@[simp] theorem State.modCsr_objs (s : State) (f : Csrs → Csrs) : (s.modCsr f).objs = s.objs := rfl
@[simp] theorem State.modCsr_nextHandle (s : State) (f : Csrs → Csrs) : (s.modCsr f).nextHandle = s.nextHandle := rfl
@[simp] theorem State.modCsr_queues (s : State) (f : Csrs → Csrs) : (s.modCsr f).queues = s.queues := rfl
@[simp] theorem State.modCsr_graves (s : State) (f : Csrs → Csrs) : (s.modCsr f).graves = s.graves := rfl
@[simp] theorem State.modCsr_passed (s : State) (f : Csrs → Csrs) : (s.modCsr f).passed = s.passed := rfl
@[simp] theorem State.modCsr_ctxs (s : State) (f : Csrs → Csrs) : (s.modCsr f).ctxs = s.ctxs := rfl
@[simp] theorem State.modCsr_holds (s : State) (f : Csrs → Csrs) : (s.modCsr f).holds = s.holds := rfl
@[simp] theorem State.modCsr_ktop (s : State) (f : Csrs → Csrs) : (s.modCsr f).ktop = s.ktop := rfl
@[simp] theorem State.modCsr_retired (s : State) (f : Csrs → Csrs) : (s.modCsr f).retired = s.retired := rfl
@[simp] theorem State.modCsr_shadow (s : State) (f : Csrs → Csrs) : (s.modCsr f).shadow = s.shadow := rfl
@[simp] theorem State.modCsr_spill (s : State) (f : Csrs → Csrs) : (s.modCsr f).spill = s.spill := rfl
@[simp] theorem State.modCsr_spillGrants (s : State) (f : Csrs → Csrs) : (s.modCsr f).spillGrants = s.spillGrants := rfl
@[simp] theorem State.modCsr_caches (s : State) (f : Csrs → Csrs) : (s.modCsr f).caches = s.caches := rfl
@[simp] theorem State.modCsr_host (s : State) (f : Csrs → Csrs) : (s.modCsr f).host = s.host := rfl
@[simp] theorem State.modCsr_link (s : State) (f : Csrs → Csrs) : (s.modCsr f).link = s.link := rfl
@[simp] theorem State.modCsr_hamada (s : State) (f : Csrs → Csrs) : (s.modCsr f).hamada = s.hamada := rfl
@[simp] theorem State.modCsr_pkg (s : State) (f : Csrs → Csrs) : (s.modCsr f).pkg = s.pkg := rfl
@[simp] theorem State.modCsr_admitted (s : State) (f : Csrs → Csrs) : (s.modCsr f).admitted = s.admitted := rfl
@[simp] theorem State.modCsr_soiled (s : State) (f : Csrs → Csrs) : (s.modCsr f).soiled = s.soiled := rfl
@[simp] theorem State.modCsr_held (s : State) (f : Csrs → Csrs) : (s.modCsr f).held = s.held := rfl
@[simp] theorem State.modCsr_inputs (s : State) (f : Csrs → Csrs) : (s.modCsr f).inputs = s.inputs := rfl
@[simp] theorem State.modCsr_elapsed (s : State) (f : Csrs → Csrs) : (s.modCsr f).elapsed = s.elapsed := rfl
@[simp] theorem State.modCsr_ticks (s : State) (f : Csrs → Csrs) : (s.modCsr f).ticks = s.ticks := rfl
@[simp] theorem State.modCsr_freeCtr (s : State) (f : Csrs → Csrs) : (s.modCsr f).freeCtr = s.freeCtr := rfl

/-! ### State.modTrap -/

@[simp] theorem State.modTrap_slot (s : State) (f : TrapRegs → TrapRegs) : (s.modTrap f).slot = s.slot := rfl
@[simp] theorem State.modTrap_st (s : State) (f : TrapRegs → TrapRegs) : (s.modTrap f).st = { s.st with trap := f s.st.trap } := rfl
@[simp] theorem State.modTrap_others (s : State) (f : TrapRegs → TrapRegs) : (s.modTrap f).others = s.others := rfl
@[simp] theorem State.modTrap_ending (s : State) (f : TrapRegs → TrapRegs) : (s.modTrap f).ending = s.ending := rfl
@[simp] theorem State.modTrap_mem (s : State) (f : TrapRegs → TrapRegs) : (s.modTrap f).mem = s.mem := rfl
@[simp] theorem State.modTrap_acc (s : State) (f : TrapRegs → TrapRegs) : (s.modTrap f).acc = s.acc := rfl
@[simp] theorem State.modTrap_oslots (s : State) (f : TrapRegs → TrapRegs) : (s.modTrap f).oslots = s.oslots := rfl
@[simp] theorem State.modTrap_claims (s : State) (f : TrapRegs → TrapRegs) : (s.modTrap f).claims = s.claims := rfl
@[simp] theorem State.modTrap_groups (s : State) (f : TrapRegs → TrapRegs) : (s.modTrap f).groups = s.groups := rfl
@[simp] theorem State.modTrap_nextGroup (s : State) (f : TrapRegs → TrapRegs) : (s.modTrap f).nextGroup = s.nextGroup := rfl
@[simp] theorem State.modTrap_launches (s : State) (f : TrapRegs → TrapRegs) : (s.modTrap f).launches = s.launches := rfl
@[simp] theorem State.modTrap_objs (s : State) (f : TrapRegs → TrapRegs) : (s.modTrap f).objs = s.objs := rfl
@[simp] theorem State.modTrap_nextHandle (s : State) (f : TrapRegs → TrapRegs) : (s.modTrap f).nextHandle = s.nextHandle := rfl
@[simp] theorem State.modTrap_queues (s : State) (f : TrapRegs → TrapRegs) : (s.modTrap f).queues = s.queues := rfl
@[simp] theorem State.modTrap_graves (s : State) (f : TrapRegs → TrapRegs) : (s.modTrap f).graves = s.graves := rfl
@[simp] theorem State.modTrap_passed (s : State) (f : TrapRegs → TrapRegs) : (s.modTrap f).passed = s.passed := rfl
@[simp] theorem State.modTrap_ctxs (s : State) (f : TrapRegs → TrapRegs) : (s.modTrap f).ctxs = s.ctxs := rfl
@[simp] theorem State.modTrap_holds (s : State) (f : TrapRegs → TrapRegs) : (s.modTrap f).holds = s.holds := rfl
@[simp] theorem State.modTrap_ktop (s : State) (f : TrapRegs → TrapRegs) : (s.modTrap f).ktop = s.ktop := rfl
@[simp] theorem State.modTrap_retired (s : State) (f : TrapRegs → TrapRegs) : (s.modTrap f).retired = s.retired := rfl
@[simp] theorem State.modTrap_shadow (s : State) (f : TrapRegs → TrapRegs) : (s.modTrap f).shadow = s.shadow := rfl
@[simp] theorem State.modTrap_spill (s : State) (f : TrapRegs → TrapRegs) : (s.modTrap f).spill = s.spill := rfl
@[simp] theorem State.modTrap_spillGrants (s : State) (f : TrapRegs → TrapRegs) : (s.modTrap f).spillGrants = s.spillGrants := rfl
@[simp] theorem State.modTrap_caches (s : State) (f : TrapRegs → TrapRegs) : (s.modTrap f).caches = s.caches := rfl
@[simp] theorem State.modTrap_host (s : State) (f : TrapRegs → TrapRegs) : (s.modTrap f).host = s.host := rfl
@[simp] theorem State.modTrap_link (s : State) (f : TrapRegs → TrapRegs) : (s.modTrap f).link = s.link := rfl
@[simp] theorem State.modTrap_hamada (s : State) (f : TrapRegs → TrapRegs) : (s.modTrap f).hamada = s.hamada := rfl
@[simp] theorem State.modTrap_pkg (s : State) (f : TrapRegs → TrapRegs) : (s.modTrap f).pkg = s.pkg := rfl
@[simp] theorem State.modTrap_admitted (s : State) (f : TrapRegs → TrapRegs) : (s.modTrap f).admitted = s.admitted := rfl
@[simp] theorem State.modTrap_soiled (s : State) (f : TrapRegs → TrapRegs) : (s.modTrap f).soiled = s.soiled := rfl
@[simp] theorem State.modTrap_held (s : State) (f : TrapRegs → TrapRegs) : (s.modTrap f).held = s.held := rfl
@[simp] theorem State.modTrap_inputs (s : State) (f : TrapRegs → TrapRegs) : (s.modTrap f).inputs = s.inputs := rfl
@[simp] theorem State.modTrap_elapsed (s : State) (f : TrapRegs → TrapRegs) : (s.modTrap f).elapsed = s.elapsed := rfl
@[simp] theorem State.modTrap_ticks (s : State) (f : TrapRegs → TrapRegs) : (s.modTrap f).ticks = s.ticks := rfl
@[simp] theorem State.modTrap_freeCtr (s : State) (f : TrapRegs → TrapRegs) : (s.modTrap f).freeCtr = s.freeCtr := rfl

/-! ### State.setR -/

@[simp] theorem State.setR_slot (s : State) (r : SReg) (v : Word) (n : Nat) : (s.setR r v n).slot = s.slot := rfl
@[simp] theorem State.setR_st (s : State) (r : SReg) (v : Word) (n : Nat) : (s.setR r v n).st = s.st.setR r v n := rfl
@[simp] theorem State.setR_others (s : State) (r : SReg) (v : Word) (n : Nat) : (s.setR r v n).others = s.others := rfl
@[simp] theorem State.setR_ending (s : State) (r : SReg) (v : Word) (n : Nat) : (s.setR r v n).ending = s.ending := rfl
@[simp] theorem State.setR_mem (s : State) (r : SReg) (v : Word) (n : Nat) : (s.setR r v n).mem = s.mem := rfl
@[simp] theorem State.setR_acc (s : State) (r : SReg) (v : Word) (n : Nat) : (s.setR r v n).acc = s.acc := rfl
@[simp] theorem State.setR_oslots (s : State) (r : SReg) (v : Word) (n : Nat) : (s.setR r v n).oslots = s.oslots := rfl
@[simp] theorem State.setR_claims (s : State) (r : SReg) (v : Word) (n : Nat) : (s.setR r v n).claims = s.claims := rfl
@[simp] theorem State.setR_groups (s : State) (r : SReg) (v : Word) (n : Nat) : (s.setR r v n).groups = s.groups := rfl
@[simp] theorem State.setR_nextGroup (s : State) (r : SReg) (v : Word) (n : Nat) : (s.setR r v n).nextGroup = s.nextGroup := rfl
@[simp] theorem State.setR_launches (s : State) (r : SReg) (v : Word) (n : Nat) : (s.setR r v n).launches = s.launches := rfl
@[simp] theorem State.setR_objs (s : State) (r : SReg) (v : Word) (n : Nat) : (s.setR r v n).objs = s.objs := rfl
@[simp] theorem State.setR_nextHandle (s : State) (r : SReg) (v : Word) (n : Nat) : (s.setR r v n).nextHandle = s.nextHandle := rfl
@[simp] theorem State.setR_queues (s : State) (r : SReg) (v : Word) (n : Nat) : (s.setR r v n).queues = s.queues := rfl
@[simp] theorem State.setR_graves (s : State) (r : SReg) (v : Word) (n : Nat) : (s.setR r v n).graves = s.graves := rfl
@[simp] theorem State.setR_passed (s : State) (r : SReg) (v : Word) (n : Nat) : (s.setR r v n).passed = s.passed := rfl
@[simp] theorem State.setR_ctxs (s : State) (r : SReg) (v : Word) (n : Nat) : (s.setR r v n).ctxs = s.ctxs := rfl
@[simp] theorem State.setR_holds (s : State) (r : SReg) (v : Word) (n : Nat) : (s.setR r v n).holds = s.holds := rfl
@[simp] theorem State.setR_ktop (s : State) (r : SReg) (v : Word) (n : Nat) : (s.setR r v n).ktop = s.ktop := rfl
@[simp] theorem State.setR_retired (s : State) (r : SReg) (v : Word) (n : Nat) : (s.setR r v n).retired = s.retired := rfl
@[simp] theorem State.setR_shadow (s : State) (r : SReg) (v : Word) (n : Nat) : (s.setR r v n).shadow = s.shadow := rfl
@[simp] theorem State.setR_spill (s : State) (r : SReg) (v : Word) (n : Nat) : (s.setR r v n).spill = s.spill := rfl
@[simp] theorem State.setR_spillGrants (s : State) (r : SReg) (v : Word) (n : Nat) : (s.setR r v n).spillGrants = s.spillGrants := rfl
@[simp] theorem State.setR_caches (s : State) (r : SReg) (v : Word) (n : Nat) : (s.setR r v n).caches = s.caches := rfl
@[simp] theorem State.setR_host (s : State) (r : SReg) (v : Word) (n : Nat) : (s.setR r v n).host = s.host := rfl
@[simp] theorem State.setR_link (s : State) (r : SReg) (v : Word) (n : Nat) : (s.setR r v n).link = s.link := rfl
@[simp] theorem State.setR_hamada (s : State) (r : SReg) (v : Word) (n : Nat) : (s.setR r v n).hamada = s.hamada := rfl
@[simp] theorem State.setR_pkg (s : State) (r : SReg) (v : Word) (n : Nat) : (s.setR r v n).pkg = s.pkg := rfl
@[simp] theorem State.setR_admitted (s : State) (r : SReg) (v : Word) (n : Nat) : (s.setR r v n).admitted = s.admitted := rfl
@[simp] theorem State.setR_soiled (s : State) (r : SReg) (v : Word) (n : Nat) : (s.setR r v n).soiled = s.soiled := rfl
@[simp] theorem State.setR_held (s : State) (r : SReg) (v : Word) (n : Nat) : (s.setR r v n).held = s.held := rfl
@[simp] theorem State.setR_inputs (s : State) (r : SReg) (v : Word) (n : Nat) : (s.setR r v n).inputs = s.inputs := rfl
@[simp] theorem State.setR_elapsed (s : State) (r : SReg) (v : Word) (n : Nat) : (s.setR r v n).elapsed = s.elapsed := rfl
@[simp] theorem State.setR_ticks (s : State) (r : SReg) (v : Word) (n : Nat) : (s.setR r v n).ticks = s.ticks := rfl
@[simp] theorem State.setR_freeCtr (s : State) (r : SReg) (v : Word) (n : Nat) : (s.setR r v n).freeCtr = s.freeCtr := rfl

/-! ### State.advance -/

@[simp] theorem State.advance_slot (s : State) : (s.advance).slot = s.slot := rfl
@[simp] theorem State.advance_st (s : State) : (s.advance).st = s.st.advance := rfl
@[simp] theorem State.advance_others (s : State) : (s.advance).others = s.others := rfl
@[simp] theorem State.advance_ending (s : State) : (s.advance).ending = s.ending := rfl
@[simp] theorem State.advance_mem (s : State) : (s.advance).mem = s.mem := rfl
@[simp] theorem State.advance_acc (s : State) : (s.advance).acc = s.acc := rfl
@[simp] theorem State.advance_oslots (s : State) : (s.advance).oslots = s.oslots := rfl
@[simp] theorem State.advance_claims (s : State) : (s.advance).claims = s.claims := rfl
@[simp] theorem State.advance_groups (s : State) : (s.advance).groups = s.groups := rfl
@[simp] theorem State.advance_nextGroup (s : State) : (s.advance).nextGroup = s.nextGroup := rfl
@[simp] theorem State.advance_launches (s : State) : (s.advance).launches = s.launches := rfl
@[simp] theorem State.advance_objs (s : State) : (s.advance).objs = s.objs := rfl
@[simp] theorem State.advance_nextHandle (s : State) : (s.advance).nextHandle = s.nextHandle := rfl
@[simp] theorem State.advance_queues (s : State) : (s.advance).queues = s.queues := rfl
@[simp] theorem State.advance_graves (s : State) : (s.advance).graves = s.graves := rfl
@[simp] theorem State.advance_passed (s : State) : (s.advance).passed = s.passed := rfl
@[simp] theorem State.advance_ctxs (s : State) : (s.advance).ctxs = s.ctxs := rfl
@[simp] theorem State.advance_holds (s : State) : (s.advance).holds = s.holds := rfl
@[simp] theorem State.advance_ktop (s : State) : (s.advance).ktop = s.ktop := rfl
@[simp] theorem State.advance_retired (s : State) : (s.advance).retired = s.retired := rfl
@[simp] theorem State.advance_shadow (s : State) : (s.advance).shadow = s.shadow := rfl
@[simp] theorem State.advance_spill (s : State) : (s.advance).spill = s.spill := rfl
@[simp] theorem State.advance_spillGrants (s : State) : (s.advance).spillGrants = s.spillGrants := rfl
@[simp] theorem State.advance_caches (s : State) : (s.advance).caches = s.caches := rfl
@[simp] theorem State.advance_host (s : State) : (s.advance).host = s.host := rfl
@[simp] theorem State.advance_link (s : State) : (s.advance).link = s.link := rfl
@[simp] theorem State.advance_hamada (s : State) : (s.advance).hamada = s.hamada := rfl
@[simp] theorem State.advance_pkg (s : State) : (s.advance).pkg = s.pkg := rfl
@[simp] theorem State.advance_admitted (s : State) : (s.advance).admitted = s.admitted := rfl
@[simp] theorem State.advance_soiled (s : State) : (s.advance).soiled = s.soiled := rfl
@[simp] theorem State.advance_held (s : State) : (s.advance).held = s.held := rfl
@[simp] theorem State.advance_inputs (s : State) : (s.advance).inputs = s.inputs := rfl
@[simp] theorem State.advance_elapsed (s : State) : (s.advance).elapsed = s.elapsed := rfl
@[simp] theorem State.advance_ticks (s : State) : (s.advance).ticks = s.ticks := rfl
@[simp] theorem State.advance_freeCtr (s : State) : (s.advance).freeCtr = s.freeCtr := rfl

/-! ### State.jump -/

@[simp] theorem State.jump_slot (s : State) (t : BitVec 56) : (s.jump t).slot = s.slot := rfl
@[simp] theorem State.jump_st (s : State) (t : BitVec 56) : (s.jump t).st = { s.st with pc := t, pfx := none, pfxLive := false, clause := none } := rfl
@[simp] theorem State.jump_others (s : State) (t : BitVec 56) : (s.jump t).others = s.others := rfl
@[simp] theorem State.jump_ending (s : State) (t : BitVec 56) : (s.jump t).ending = s.ending := rfl
@[simp] theorem State.jump_mem (s : State) (t : BitVec 56) : (s.jump t).mem = s.mem := rfl
@[simp] theorem State.jump_acc (s : State) (t : BitVec 56) : (s.jump t).acc = s.acc := rfl
@[simp] theorem State.jump_oslots (s : State) (t : BitVec 56) : (s.jump t).oslots = s.oslots := rfl
@[simp] theorem State.jump_claims (s : State) (t : BitVec 56) : (s.jump t).claims = s.claims := rfl
@[simp] theorem State.jump_groups (s : State) (t : BitVec 56) : (s.jump t).groups = s.groups := rfl
@[simp] theorem State.jump_nextGroup (s : State) (t : BitVec 56) : (s.jump t).nextGroup = s.nextGroup := rfl
@[simp] theorem State.jump_launches (s : State) (t : BitVec 56) : (s.jump t).launches = s.launches := rfl
@[simp] theorem State.jump_objs (s : State) (t : BitVec 56) : (s.jump t).objs = s.objs := rfl
@[simp] theorem State.jump_nextHandle (s : State) (t : BitVec 56) : (s.jump t).nextHandle = s.nextHandle := rfl
@[simp] theorem State.jump_queues (s : State) (t : BitVec 56) : (s.jump t).queues = s.queues := rfl
@[simp] theorem State.jump_graves (s : State) (t : BitVec 56) : (s.jump t).graves = s.graves := rfl
@[simp] theorem State.jump_passed (s : State) (t : BitVec 56) : (s.jump t).passed = s.passed := rfl
@[simp] theorem State.jump_ctxs (s : State) (t : BitVec 56) : (s.jump t).ctxs = s.ctxs := rfl
@[simp] theorem State.jump_holds (s : State) (t : BitVec 56) : (s.jump t).holds = s.holds := rfl
@[simp] theorem State.jump_ktop (s : State) (t : BitVec 56) : (s.jump t).ktop = s.ktop := rfl
@[simp] theorem State.jump_retired (s : State) (t : BitVec 56) : (s.jump t).retired = s.retired := rfl
@[simp] theorem State.jump_shadow (s : State) (t : BitVec 56) : (s.jump t).shadow = s.shadow := rfl
@[simp] theorem State.jump_spill (s : State) (t : BitVec 56) : (s.jump t).spill = s.spill := rfl
@[simp] theorem State.jump_spillGrants (s : State) (t : BitVec 56) : (s.jump t).spillGrants = s.spillGrants := rfl
@[simp] theorem State.jump_caches (s : State) (t : BitVec 56) : (s.jump t).caches = s.caches := rfl
@[simp] theorem State.jump_host (s : State) (t : BitVec 56) : (s.jump t).host = s.host := rfl
@[simp] theorem State.jump_link (s : State) (t : BitVec 56) : (s.jump t).link = s.link := rfl
@[simp] theorem State.jump_hamada (s : State) (t : BitVec 56) : (s.jump t).hamada = s.hamada := rfl
@[simp] theorem State.jump_pkg (s : State) (t : BitVec 56) : (s.jump t).pkg = s.pkg := rfl
@[simp] theorem State.jump_admitted (s : State) (t : BitVec 56) : (s.jump t).admitted = s.admitted := rfl
@[simp] theorem State.jump_soiled (s : State) (t : BitVec 56) : (s.jump t).soiled = s.soiled := rfl
@[simp] theorem State.jump_held (s : State) (t : BitVec 56) : (s.jump t).held = s.held := rfl
@[simp] theorem State.jump_inputs (s : State) (t : BitVec 56) : (s.jump t).inputs = s.inputs := rfl
@[simp] theorem State.jump_elapsed (s : State) (t : BitVec 56) : (s.jump t).elapsed = s.elapsed := rfl
@[simp] theorem State.jump_ticks (s : State) (t : BitVec 56) : (s.jump t).ticks = s.ticks := rfl
@[simp] theorem State.jump_freeCtr (s : State) (t : BitVec 56) : (s.jump t).freeCtr = s.freeCtr := rfl

/-! ### State.put -/

@[simp] theorem State.put_slot (s : State) (ls : List Nat) (v : Nat) : (s.put ls v).slot = s.slot := rfl
@[simp] theorem State.put_st (s : State) (ls : List Nat) (v : Nat) : (s.put ls v).st = s.st := rfl
@[simp] theorem State.put_others (s : State) (ls : List Nat) (v : Nat) : (s.put ls v).others = s.others := rfl
@[simp] theorem State.put_ending (s : State) (ls : List Nat) (v : Nat) : (s.put ls v).ending = s.ending := rfl
@[simp] theorem State.put_mem (s : State) (ls : List Nat) (v : Nat) : (s.put ls v).mem = putBytes s.mem ls v := rfl
@[simp] theorem State.put_acc (s : State) (ls : List Nat) (v : Nat) : (s.put ls v).acc = s.acc := rfl
@[simp] theorem State.put_oslots (s : State) (ls : List Nat) (v : Nat) : (s.put ls v).oslots = s.oslots := rfl
@[simp] theorem State.put_claims (s : State) (ls : List Nat) (v : Nat) : (s.put ls v).claims = s.claims := rfl
@[simp] theorem State.put_groups (s : State) (ls : List Nat) (v : Nat) : (s.put ls v).groups = s.groups := rfl
@[simp] theorem State.put_nextGroup (s : State) (ls : List Nat) (v : Nat) : (s.put ls v).nextGroup = s.nextGroup := rfl
@[simp] theorem State.put_launches (s : State) (ls : List Nat) (v : Nat) : (s.put ls v).launches = s.launches := rfl
@[simp] theorem State.put_objs (s : State) (ls : List Nat) (v : Nat) : (s.put ls v).objs = s.objs := rfl
@[simp] theorem State.put_nextHandle (s : State) (ls : List Nat) (v : Nat) : (s.put ls v).nextHandle = s.nextHandle := rfl
@[simp] theorem State.put_queues (s : State) (ls : List Nat) (v : Nat) : (s.put ls v).queues = s.queues := rfl
@[simp] theorem State.put_graves (s : State) (ls : List Nat) (v : Nat) : (s.put ls v).graves = s.graves := rfl
@[simp] theorem State.put_passed (s : State) (ls : List Nat) (v : Nat) : (s.put ls v).passed = s.passed := rfl
@[simp] theorem State.put_ctxs (s : State) (ls : List Nat) (v : Nat) : (s.put ls v).ctxs = s.ctxs := rfl
@[simp] theorem State.put_holds (s : State) (ls : List Nat) (v : Nat) : (s.put ls v).holds = s.holds := rfl
@[simp] theorem State.put_ktop (s : State) (ls : List Nat) (v : Nat) : (s.put ls v).ktop = s.ktop := rfl
@[simp] theorem State.put_retired (s : State) (ls : List Nat) (v : Nat) : (s.put ls v).retired = s.retired := rfl
@[simp] theorem State.put_shadow (s : State) (ls : List Nat) (v : Nat) : (s.put ls v).shadow = s.shadow := rfl
@[simp] theorem State.put_spill (s : State) (ls : List Nat) (v : Nat) : (s.put ls v).spill = s.spill := rfl
@[simp] theorem State.put_spillGrants (s : State) (ls : List Nat) (v : Nat) : (s.put ls v).spillGrants = s.spillGrants := rfl
@[simp] theorem State.put_caches (s : State) (ls : List Nat) (v : Nat) : (s.put ls v).caches = s.caches := rfl
@[simp] theorem State.put_host (s : State) (ls : List Nat) (v : Nat) : (s.put ls v).host = s.host := rfl
@[simp] theorem State.put_link (s : State) (ls : List Nat) (v : Nat) : (s.put ls v).link = s.link := rfl
@[simp] theorem State.put_hamada (s : State) (ls : List Nat) (v : Nat) : (s.put ls v).hamada = s.hamada := rfl
@[simp] theorem State.put_pkg (s : State) (ls : List Nat) (v : Nat) : (s.put ls v).pkg = s.pkg := rfl
@[simp] theorem State.put_admitted (s : State) (ls : List Nat) (v : Nat) : (s.put ls v).admitted = s.admitted := rfl
@[simp] theorem State.put_soiled (s : State) (ls : List Nat) (v : Nat) : (s.put ls v).soiled = s.soiled := rfl
@[simp] theorem State.put_held (s : State) (ls : List Nat) (v : Nat) : (s.put ls v).held = s.held := rfl
@[simp] theorem State.put_inputs (s : State) (ls : List Nat) (v : Nat) : (s.put ls v).inputs = s.inputs := rfl
@[simp] theorem State.put_elapsed (s : State) (ls : List Nat) (v : Nat) : (s.put ls v).elapsed = s.elapsed := rfl
@[simp] theorem State.put_ticks (s : State) (ls : List Nat) (v : Nat) : (s.put ls v).ticks = s.ticks := rfl
@[simp] theorem State.put_freeCtr (s : State) (ls : List Nat) (v : Nat) : (s.put ls v).freeCtr = s.freeCtr := rfl

/-! ### State.setQueue -/

@[simp] theorem State.setQueue_slot (s : State) (q : Queue) : (s.setQueue q).slot = s.slot := rfl
@[simp] theorem State.setQueue_st (s : State) (q : Queue) : (s.setQueue q).st = s.st := rfl
@[simp] theorem State.setQueue_others (s : State) (q : Queue) : (s.setQueue q).others = s.others := rfl
@[simp] theorem State.setQueue_ending (s : State) (q : Queue) : (s.setQueue q).ending = s.ending := rfl
@[simp] theorem State.setQueue_mem (s : State) (q : Queue) : (s.setQueue q).mem = s.mem := rfl
@[simp] theorem State.setQueue_acc (s : State) (q : Queue) : (s.setQueue q).acc = s.acc := rfl
@[simp] theorem State.setQueue_oslots (s : State) (q : Queue) : (s.setQueue q).oslots = s.oslots := rfl
@[simp] theorem State.setQueue_claims (s : State) (q : Queue) : (s.setQueue q).claims = s.claims := rfl
@[simp] theorem State.setQueue_groups (s : State) (q : Queue) : (s.setQueue q).groups = s.groups := rfl
@[simp] theorem State.setQueue_nextGroup (s : State) (q : Queue) : (s.setQueue q).nextGroup = s.nextGroup := rfl
@[simp] theorem State.setQueue_launches (s : State) (q : Queue) : (s.setQueue q).launches = s.launches := rfl
@[simp] theorem State.setQueue_objs (s : State) (q : Queue) : (s.setQueue q).objs = s.objs := rfl
@[simp] theorem State.setQueue_nextHandle (s : State) (q : Queue) : (s.setQueue q).nextHandle = s.nextHandle := rfl
@[simp] theorem State.setQueue_graves (s : State) (q : Queue) : (s.setQueue q).graves = s.graves := rfl
@[simp] theorem State.setQueue_passed (s : State) (q : Queue) : (s.setQueue q).passed = s.passed := rfl
@[simp] theorem State.setQueue_ctxs (s : State) (q : Queue) : (s.setQueue q).ctxs = s.ctxs := rfl
@[simp] theorem State.setQueue_holds (s : State) (q : Queue) : (s.setQueue q).holds = s.holds := rfl
@[simp] theorem State.setQueue_ktop (s : State) (q : Queue) : (s.setQueue q).ktop = s.ktop := rfl
@[simp] theorem State.setQueue_retired (s : State) (q : Queue) : (s.setQueue q).retired = s.retired := rfl
@[simp] theorem State.setQueue_shadow (s : State) (q : Queue) : (s.setQueue q).shadow = s.shadow := rfl
@[simp] theorem State.setQueue_spill (s : State) (q : Queue) : (s.setQueue q).spill = s.spill := rfl
@[simp] theorem State.setQueue_spillGrants (s : State) (q : Queue) : (s.setQueue q).spillGrants = s.spillGrants := rfl
@[simp] theorem State.setQueue_caches (s : State) (q : Queue) : (s.setQueue q).caches = s.caches := rfl
@[simp] theorem State.setQueue_host (s : State) (q : Queue) : (s.setQueue q).host = s.host := rfl
@[simp] theorem State.setQueue_link (s : State) (q : Queue) : (s.setQueue q).link = s.link := rfl
@[simp] theorem State.setQueue_hamada (s : State) (q : Queue) : (s.setQueue q).hamada = s.hamada := rfl
@[simp] theorem State.setQueue_pkg (s : State) (q : Queue) : (s.setQueue q).pkg = s.pkg := rfl
@[simp] theorem State.setQueue_admitted (s : State) (q : Queue) : (s.setQueue q).admitted = s.admitted := rfl
@[simp] theorem State.setQueue_soiled (s : State) (q : Queue) : (s.setQueue q).soiled = s.soiled := rfl
@[simp] theorem State.setQueue_held (s : State) (q : Queue) : (s.setQueue q).held = s.held := rfl
@[simp] theorem State.setQueue_inputs (s : State) (q : Queue) : (s.setQueue q).inputs = s.inputs := rfl
@[simp] theorem State.setQueue_elapsed (s : State) (q : Queue) : (s.setQueue q).elapsed = s.elapsed := rfl
@[simp] theorem State.setQueue_ticks (s : State) (q : Queue) : (s.setQueue q).ticks = s.ticks := rfl
@[simp] theorem State.setQueue_freeCtr (s : State) (q : Queue) : (s.setQueue q).freeCtr = s.freeCtr := rfl

/-! ### State.modGroup -/

@[simp] theorem State.modGroup_slot (s : State) (g : Nat) (f : Group → Group) : (s.modGroup g f).slot = s.slot := rfl
@[simp] theorem State.modGroup_st (s : State) (g : Nat) (f : Group → Group) : (s.modGroup g f).st = s.st := rfl
@[simp] theorem State.modGroup_others (s : State) (g : Nat) (f : Group → Group) : (s.modGroup g f).others = s.others := rfl
@[simp] theorem State.modGroup_ending (s : State) (g : Nat) (f : Group → Group) : (s.modGroup g f).ending = s.ending := rfl
@[simp] theorem State.modGroup_mem (s : State) (g : Nat) (f : Group → Group) : (s.modGroup g f).mem = s.mem := rfl
@[simp] theorem State.modGroup_acc (s : State) (g : Nat) (f : Group → Group) : (s.modGroup g f).acc = s.acc := rfl
@[simp] theorem State.modGroup_oslots (s : State) (g : Nat) (f : Group → Group) : (s.modGroup g f).oslots = s.oslots := rfl
@[simp] theorem State.modGroup_claims (s : State) (g : Nat) (f : Group → Group) : (s.modGroup g f).claims = s.claims := rfl
@[simp] theorem State.modGroup_nextGroup (s : State) (g : Nat) (f : Group → Group) : (s.modGroup g f).nextGroup = s.nextGroup := rfl
@[simp] theorem State.modGroup_launches (s : State) (g : Nat) (f : Group → Group) : (s.modGroup g f).launches = s.launches := rfl
@[simp] theorem State.modGroup_objs (s : State) (g : Nat) (f : Group → Group) : (s.modGroup g f).objs = s.objs := rfl
@[simp] theorem State.modGroup_nextHandle (s : State) (g : Nat) (f : Group → Group) : (s.modGroup g f).nextHandle = s.nextHandle := rfl
@[simp] theorem State.modGroup_queues (s : State) (g : Nat) (f : Group → Group) : (s.modGroup g f).queues = s.queues := rfl
@[simp] theorem State.modGroup_graves (s : State) (g : Nat) (f : Group → Group) : (s.modGroup g f).graves = s.graves := rfl
@[simp] theorem State.modGroup_passed (s : State) (g : Nat) (f : Group → Group) : (s.modGroup g f).passed = s.passed := rfl
@[simp] theorem State.modGroup_ctxs (s : State) (g : Nat) (f : Group → Group) : (s.modGroup g f).ctxs = s.ctxs := rfl
@[simp] theorem State.modGroup_holds (s : State) (g : Nat) (f : Group → Group) : (s.modGroup g f).holds = s.holds := rfl
@[simp] theorem State.modGroup_ktop (s : State) (g : Nat) (f : Group → Group) : (s.modGroup g f).ktop = s.ktop := rfl
@[simp] theorem State.modGroup_retired (s : State) (g : Nat) (f : Group → Group) : (s.modGroup g f).retired = s.retired := rfl
@[simp] theorem State.modGroup_shadow (s : State) (g : Nat) (f : Group → Group) : (s.modGroup g f).shadow = s.shadow := rfl
@[simp] theorem State.modGroup_spill (s : State) (g : Nat) (f : Group → Group) : (s.modGroup g f).spill = s.spill := rfl
@[simp] theorem State.modGroup_spillGrants (s : State) (g : Nat) (f : Group → Group) : (s.modGroup g f).spillGrants = s.spillGrants := rfl
@[simp] theorem State.modGroup_caches (s : State) (g : Nat) (f : Group → Group) : (s.modGroup g f).caches = s.caches := rfl
@[simp] theorem State.modGroup_host (s : State) (g : Nat) (f : Group → Group) : (s.modGroup g f).host = s.host := rfl
@[simp] theorem State.modGroup_link (s : State) (g : Nat) (f : Group → Group) : (s.modGroup g f).link = s.link := rfl
@[simp] theorem State.modGroup_hamada (s : State) (g : Nat) (f : Group → Group) : (s.modGroup g f).hamada = s.hamada := rfl
@[simp] theorem State.modGroup_pkg (s : State) (g : Nat) (f : Group → Group) : (s.modGroup g f).pkg = s.pkg := rfl
@[simp] theorem State.modGroup_admitted (s : State) (g : Nat) (f : Group → Group) : (s.modGroup g f).admitted = s.admitted := rfl
@[simp] theorem State.modGroup_soiled (s : State) (g : Nat) (f : Group → Group) : (s.modGroup g f).soiled = s.soiled := rfl
@[simp] theorem State.modGroup_held (s : State) (g : Nat) (f : Group → Group) : (s.modGroup g f).held = s.held := rfl
@[simp] theorem State.modGroup_inputs (s : State) (g : Nat) (f : Group → Group) : (s.modGroup g f).inputs = s.inputs := rfl
@[simp] theorem State.modGroup_elapsed (s : State) (g : Nat) (f : Group → Group) : (s.modGroup g f).elapsed = s.elapsed := rfl
@[simp] theorem State.modGroup_ticks (s : State) (g : Nat) (f : Group → Group) : (s.modGroup g f).ticks = s.ticks := rfl
@[simp] theorem State.modGroup_freeCtr (s : State) (g : Nat) (f : Group → Group) : (s.modGroup g f).freeCtr = s.freeCtr := rfl

/-! ### State.modCtx -/

@[simp] theorem State.modCtx_slot (s : State) (c : BitVec 16) (f : Context → Context) : (s.modCtx c f).slot = s.slot := rfl
@[simp] theorem State.modCtx_st (s : State) (c : BitVec 16) (f : Context → Context) : (s.modCtx c f).st = s.st := rfl
@[simp] theorem State.modCtx_others (s : State) (c : BitVec 16) (f : Context → Context) : (s.modCtx c f).others = s.others := rfl
@[simp] theorem State.modCtx_ending (s : State) (c : BitVec 16) (f : Context → Context) : (s.modCtx c f).ending = s.ending := rfl
@[simp] theorem State.modCtx_mem (s : State) (c : BitVec 16) (f : Context → Context) : (s.modCtx c f).mem = s.mem := rfl
@[simp] theorem State.modCtx_acc (s : State) (c : BitVec 16) (f : Context → Context) : (s.modCtx c f).acc = s.acc := rfl
@[simp] theorem State.modCtx_oslots (s : State) (c : BitVec 16) (f : Context → Context) : (s.modCtx c f).oslots = s.oslots := rfl
@[simp] theorem State.modCtx_claims (s : State) (c : BitVec 16) (f : Context → Context) : (s.modCtx c f).claims = s.claims := rfl
@[simp] theorem State.modCtx_groups (s : State) (c : BitVec 16) (f : Context → Context) : (s.modCtx c f).groups = s.groups := rfl
@[simp] theorem State.modCtx_nextGroup (s : State) (c : BitVec 16) (f : Context → Context) : (s.modCtx c f).nextGroup = s.nextGroup := rfl
@[simp] theorem State.modCtx_launches (s : State) (c : BitVec 16) (f : Context → Context) : (s.modCtx c f).launches = s.launches := rfl
@[simp] theorem State.modCtx_objs (s : State) (c : BitVec 16) (f : Context → Context) : (s.modCtx c f).objs = s.objs := rfl
@[simp] theorem State.modCtx_nextHandle (s : State) (c : BitVec 16) (f : Context → Context) : (s.modCtx c f).nextHandle = s.nextHandle := rfl
@[simp] theorem State.modCtx_queues (s : State) (c : BitVec 16) (f : Context → Context) : (s.modCtx c f).queues = s.queues := rfl
@[simp] theorem State.modCtx_graves (s : State) (c : BitVec 16) (f : Context → Context) : (s.modCtx c f).graves = s.graves := rfl
@[simp] theorem State.modCtx_passed (s : State) (c : BitVec 16) (f : Context → Context) : (s.modCtx c f).passed = s.passed := rfl
@[simp] theorem State.modCtx_holds (s : State) (c : BitVec 16) (f : Context → Context) : (s.modCtx c f).holds = s.holds := rfl
@[simp] theorem State.modCtx_ktop (s : State) (c : BitVec 16) (f : Context → Context) : (s.modCtx c f).ktop = s.ktop := rfl
@[simp] theorem State.modCtx_retired (s : State) (c : BitVec 16) (f : Context → Context) : (s.modCtx c f).retired = s.retired := rfl
@[simp] theorem State.modCtx_shadow (s : State) (c : BitVec 16) (f : Context → Context) : (s.modCtx c f).shadow = s.shadow := rfl
@[simp] theorem State.modCtx_spill (s : State) (c : BitVec 16) (f : Context → Context) : (s.modCtx c f).spill = s.spill := rfl
@[simp] theorem State.modCtx_spillGrants (s : State) (c : BitVec 16) (f : Context → Context) : (s.modCtx c f).spillGrants = s.spillGrants := rfl
@[simp] theorem State.modCtx_caches (s : State) (c : BitVec 16) (f : Context → Context) : (s.modCtx c f).caches = s.caches := rfl
@[simp] theorem State.modCtx_host (s : State) (c : BitVec 16) (f : Context → Context) : (s.modCtx c f).host = s.host := rfl
@[simp] theorem State.modCtx_link (s : State) (c : BitVec 16) (f : Context → Context) : (s.modCtx c f).link = s.link := rfl
@[simp] theorem State.modCtx_hamada (s : State) (c : BitVec 16) (f : Context → Context) : (s.modCtx c f).hamada = s.hamada := rfl
@[simp] theorem State.modCtx_pkg (s : State) (c : BitVec 16) (f : Context → Context) : (s.modCtx c f).pkg = s.pkg := rfl
@[simp] theorem State.modCtx_admitted (s : State) (c : BitVec 16) (f : Context → Context) : (s.modCtx c f).admitted = s.admitted := rfl
@[simp] theorem State.modCtx_soiled (s : State) (c : BitVec 16) (f : Context → Context) : (s.modCtx c f).soiled = s.soiled := rfl
@[simp] theorem State.modCtx_held (s : State) (c : BitVec 16) (f : Context → Context) : (s.modCtx c f).held = s.held := rfl
@[simp] theorem State.modCtx_inputs (s : State) (c : BitVec 16) (f : Context → Context) : (s.modCtx c f).inputs = s.inputs := rfl
@[simp] theorem State.modCtx_elapsed (s : State) (c : BitVec 16) (f : Context → Context) : (s.modCtx c f).elapsed = s.elapsed := rfl
@[simp] theorem State.modCtx_ticks (s : State) (c : BitVec 16) (f : Context → Context) : (s.modCtx c f).ticks = s.ticks := rfl
@[simp] theorem State.modCtx_freeCtr (s : State) (c : BitVec 16) (f : Context → Context) : (s.modCtx c f).freeCtr = s.freeCtr := rfl

/-! ### State.modLaunch -/

@[simp] theorem State.modLaunch_slot (s : State) (c : BitVec 16) (n : Nat) (f : Launch → Launch) : (s.modLaunch c n f).slot = s.slot := rfl
@[simp] theorem State.modLaunch_st (s : State) (c : BitVec 16) (n : Nat) (f : Launch → Launch) : (s.modLaunch c n f).st = s.st := rfl
@[simp] theorem State.modLaunch_others (s : State) (c : BitVec 16) (n : Nat) (f : Launch → Launch) : (s.modLaunch c n f).others = s.others := rfl
@[simp] theorem State.modLaunch_ending (s : State) (c : BitVec 16) (n : Nat) (f : Launch → Launch) : (s.modLaunch c n f).ending = s.ending := rfl
@[simp] theorem State.modLaunch_mem (s : State) (c : BitVec 16) (n : Nat) (f : Launch → Launch) : (s.modLaunch c n f).mem = s.mem := rfl
@[simp] theorem State.modLaunch_acc (s : State) (c : BitVec 16) (n : Nat) (f : Launch → Launch) : (s.modLaunch c n f).acc = s.acc := rfl
@[simp] theorem State.modLaunch_oslots (s : State) (c : BitVec 16) (n : Nat) (f : Launch → Launch) : (s.modLaunch c n f).oslots = s.oslots := rfl
@[simp] theorem State.modLaunch_claims (s : State) (c : BitVec 16) (n : Nat) (f : Launch → Launch) : (s.modLaunch c n f).claims = s.claims := rfl
@[simp] theorem State.modLaunch_groups (s : State) (c : BitVec 16) (n : Nat) (f : Launch → Launch) : (s.modLaunch c n f).groups = s.groups := rfl
@[simp] theorem State.modLaunch_nextGroup (s : State) (c : BitVec 16) (n : Nat) (f : Launch → Launch) : (s.modLaunch c n f).nextGroup = s.nextGroup := rfl
@[simp] theorem State.modLaunch_objs (s : State) (c : BitVec 16) (n : Nat) (f : Launch → Launch) : (s.modLaunch c n f).objs = s.objs := rfl
@[simp] theorem State.modLaunch_nextHandle (s : State) (c : BitVec 16) (n : Nat) (f : Launch → Launch) : (s.modLaunch c n f).nextHandle = s.nextHandle := rfl
@[simp] theorem State.modLaunch_queues (s : State) (c : BitVec 16) (n : Nat) (f : Launch → Launch) : (s.modLaunch c n f).queues = s.queues := rfl
@[simp] theorem State.modLaunch_graves (s : State) (c : BitVec 16) (n : Nat) (f : Launch → Launch) : (s.modLaunch c n f).graves = s.graves := rfl
@[simp] theorem State.modLaunch_passed (s : State) (c : BitVec 16) (n : Nat) (f : Launch → Launch) : (s.modLaunch c n f).passed = s.passed := rfl
@[simp] theorem State.modLaunch_ctxs (s : State) (c : BitVec 16) (n : Nat) (f : Launch → Launch) : (s.modLaunch c n f).ctxs = s.ctxs := rfl
@[simp] theorem State.modLaunch_holds (s : State) (c : BitVec 16) (n : Nat) (f : Launch → Launch) : (s.modLaunch c n f).holds = s.holds := rfl
@[simp] theorem State.modLaunch_ktop (s : State) (c : BitVec 16) (n : Nat) (f : Launch → Launch) : (s.modLaunch c n f).ktop = s.ktop := rfl
@[simp] theorem State.modLaunch_retired (s : State) (c : BitVec 16) (n : Nat) (f : Launch → Launch) : (s.modLaunch c n f).retired = s.retired := rfl
@[simp] theorem State.modLaunch_shadow (s : State) (c : BitVec 16) (n : Nat) (f : Launch → Launch) : (s.modLaunch c n f).shadow = s.shadow := rfl
@[simp] theorem State.modLaunch_spill (s : State) (c : BitVec 16) (n : Nat) (f : Launch → Launch) : (s.modLaunch c n f).spill = s.spill := rfl
@[simp] theorem State.modLaunch_spillGrants (s : State) (c : BitVec 16) (n : Nat) (f : Launch → Launch) : (s.modLaunch c n f).spillGrants = s.spillGrants := rfl
@[simp] theorem State.modLaunch_caches (s : State) (c : BitVec 16) (n : Nat) (f : Launch → Launch) : (s.modLaunch c n f).caches = s.caches := rfl
@[simp] theorem State.modLaunch_host (s : State) (c : BitVec 16) (n : Nat) (f : Launch → Launch) : (s.modLaunch c n f).host = s.host := rfl
@[simp] theorem State.modLaunch_link (s : State) (c : BitVec 16) (n : Nat) (f : Launch → Launch) : (s.modLaunch c n f).link = s.link := rfl
@[simp] theorem State.modLaunch_hamada (s : State) (c : BitVec 16) (n : Nat) (f : Launch → Launch) : (s.modLaunch c n f).hamada = s.hamada := rfl
@[simp] theorem State.modLaunch_pkg (s : State) (c : BitVec 16) (n : Nat) (f : Launch → Launch) : (s.modLaunch c n f).pkg = s.pkg := rfl
@[simp] theorem State.modLaunch_admitted (s : State) (c : BitVec 16) (n : Nat) (f : Launch → Launch) : (s.modLaunch c n f).admitted = s.admitted := rfl
@[simp] theorem State.modLaunch_soiled (s : State) (c : BitVec 16) (n : Nat) (f : Launch → Launch) : (s.modLaunch c n f).soiled = s.soiled := rfl
@[simp] theorem State.modLaunch_held (s : State) (c : BitVec 16) (n : Nat) (f : Launch → Launch) : (s.modLaunch c n f).held = s.held := rfl
@[simp] theorem State.modLaunch_inputs (s : State) (c : BitVec 16) (n : Nat) (f : Launch → Launch) : (s.modLaunch c n f).inputs = s.inputs := rfl
@[simp] theorem State.modLaunch_elapsed (s : State) (c : BitVec 16) (n : Nat) (f : Launch → Launch) : (s.modLaunch c n f).elapsed = s.elapsed := rfl
@[simp] theorem State.modLaunch_ticks (s : State) (c : BitVec 16) (n : Nat) (f : Launch → Launch) : (s.modLaunch c n f).ticks = s.ticks := rfl
@[simp] theorem State.modLaunch_freeCtr (s : State) (c : BitVec 16) (n : Nat) (f : Launch → Launch) : (s.modLaunch c n f).freeCtr = s.freeCtr := rfl

/-! ### State.report -/

@[simp] theorem State.report_slot (s : State) (r : Report) : (s.report r).slot = s.slot := rfl
@[simp] theorem State.report_st (s : State) (r : Report) : (s.report r).st = s.st := rfl
@[simp] theorem State.report_others (s : State) (r : Report) : (s.report r).others = s.others := rfl
@[simp] theorem State.report_ending (s : State) (r : Report) : (s.report r).ending = s.ending := rfl
@[simp] theorem State.report_mem (s : State) (r : Report) : (s.report r).mem = s.mem := rfl
@[simp] theorem State.report_acc (s : State) (r : Report) : (s.report r).acc = s.acc := rfl
@[simp] theorem State.report_oslots (s : State) (r : Report) : (s.report r).oslots = s.oslots := rfl
@[simp] theorem State.report_claims (s : State) (r : Report) : (s.report r).claims = s.claims := rfl
@[simp] theorem State.report_groups (s : State) (r : Report) : (s.report r).groups = s.groups := rfl
@[simp] theorem State.report_nextGroup (s : State) (r : Report) : (s.report r).nextGroup = s.nextGroup := rfl
@[simp] theorem State.report_launches (s : State) (r : Report) : (s.report r).launches = s.launches := rfl
@[simp] theorem State.report_objs (s : State) (r : Report) : (s.report r).objs = s.objs := rfl
@[simp] theorem State.report_nextHandle (s : State) (r : Report) : (s.report r).nextHandle = s.nextHandle := rfl
@[simp] theorem State.report_queues (s : State) (r : Report) : (s.report r).queues = s.queues := rfl
@[simp] theorem State.report_graves (s : State) (r : Report) : (s.report r).graves = s.graves := rfl
@[simp] theorem State.report_passed (s : State) (r : Report) : (s.report r).passed = s.passed := rfl
@[simp] theorem State.report_ctxs (s : State) (r : Report) : (s.report r).ctxs = s.ctxs := rfl
@[simp] theorem State.report_holds (s : State) (r : Report) : (s.report r).holds = s.holds := rfl
@[simp] theorem State.report_ktop (s : State) (r : Report) : (s.report r).ktop = s.ktop := rfl
@[simp] theorem State.report_retired (s : State) (r : Report) : (s.report r).retired = s.retired := rfl
@[simp] theorem State.report_shadow (s : State) (r : Report) : (s.report r).shadow = s.shadow := rfl
@[simp] theorem State.report_spill (s : State) (r : Report) : (s.report r).spill = s.spill := rfl
@[simp] theorem State.report_spillGrants (s : State) (r : Report) : (s.report r).spillGrants = s.spillGrants := rfl
@[simp] theorem State.report_caches (s : State) (r : Report) : (s.report r).caches = s.caches := rfl
@[simp] theorem State.report_host (s : State) (r : Report) : (s.report r).host = { s.host with waiting := s.host.waiting ++ [r] } := rfl
@[simp] theorem State.report_link (s : State) (r : Report) : (s.report r).link = s.link := rfl
@[simp] theorem State.report_hamada (s : State) (r : Report) : (s.report r).hamada = s.hamada := rfl
@[simp] theorem State.report_pkg (s : State) (r : Report) : (s.report r).pkg = s.pkg := rfl
@[simp] theorem State.report_admitted (s : State) (r : Report) : (s.report r).admitted = s.admitted := rfl
@[simp] theorem State.report_soiled (s : State) (r : Report) : (s.report r).soiled = s.soiled := rfl
@[simp] theorem State.report_held (s : State) (r : Report) : (s.report r).held = s.held := rfl
@[simp] theorem State.report_inputs (s : State) (r : Report) : (s.report r).inputs = s.inputs := rfl
@[simp] theorem State.report_elapsed (s : State) (r : Report) : (s.report r).elapsed = s.elapsed := rfl
@[simp] theorem State.report_ticks (s : State) (r : Report) : (s.report r).ticks = s.ticks := rfl
@[simp] theorem State.report_freeCtr (s : State) (r : Report) : (s.report r).freeCtr = s.freeCtr := rfl

/-! ### State.audit -/

@[simp] theorem State.audit_slot (s : State) (n : Nat) (c : BitVec 16) (b : List (Nat × Nat)) : (s.audit n c b).slot = s.slot := rfl
@[simp] theorem State.audit_st (s : State) (n : Nat) (c : BitVec 16) (b : List (Nat × Nat)) : (s.audit n c b).st = s.st := rfl
@[simp] theorem State.audit_others (s : State) (n : Nat) (c : BitVec 16) (b : List (Nat × Nat)) : (s.audit n c b).others = s.others := rfl
@[simp] theorem State.audit_ending (s : State) (n : Nat) (c : BitVec 16) (b : List (Nat × Nat)) : (s.audit n c b).ending = s.ending := rfl
@[simp] theorem State.audit_mem (s : State) (n : Nat) (c : BitVec 16) (b : List (Nat × Nat)) : (s.audit n c b).mem = s.mem := rfl
@[simp] theorem State.audit_acc (s : State) (n : Nat) (c : BitVec 16) (b : List (Nat × Nat)) : (s.audit n c b).acc = s.acc := rfl
@[simp] theorem State.audit_oslots (s : State) (n : Nat) (c : BitVec 16) (b : List (Nat × Nat)) : (s.audit n c b).oslots = s.oslots := rfl
@[simp] theorem State.audit_claims (s : State) (n : Nat) (c : BitVec 16) (b : List (Nat × Nat)) : (s.audit n c b).claims = s.claims := rfl
@[simp] theorem State.audit_groups (s : State) (n : Nat) (c : BitVec 16) (b : List (Nat × Nat)) : (s.audit n c b).groups = s.groups := rfl
@[simp] theorem State.audit_nextGroup (s : State) (n : Nat) (c : BitVec 16) (b : List (Nat × Nat)) : (s.audit n c b).nextGroup = s.nextGroup := rfl
@[simp] theorem State.audit_launches (s : State) (n : Nat) (c : BitVec 16) (b : List (Nat × Nat)) : (s.audit n c b).launches = s.launches := rfl
@[simp] theorem State.audit_objs (s : State) (n : Nat) (c : BitVec 16) (b : List (Nat × Nat)) : (s.audit n c b).objs = s.objs := rfl
@[simp] theorem State.audit_nextHandle (s : State) (n : Nat) (c : BitVec 16) (b : List (Nat × Nat)) : (s.audit n c b).nextHandle = s.nextHandle := rfl
@[simp] theorem State.audit_queues (s : State) (n : Nat) (c : BitVec 16) (b : List (Nat × Nat)) : (s.audit n c b).queues = s.queues := rfl
@[simp] theorem State.audit_graves (s : State) (n : Nat) (c : BitVec 16) (b : List (Nat × Nat)) : (s.audit n c b).graves = s.graves := rfl
@[simp] theorem State.audit_passed (s : State) (n : Nat) (c : BitVec 16) (b : List (Nat × Nat)) : (s.audit n c b).passed = s.passed := rfl
@[simp] theorem State.audit_ctxs (s : State) (n : Nat) (c : BitVec 16) (b : List (Nat × Nat)) : (s.audit n c b).ctxs = s.ctxs := rfl
@[simp] theorem State.audit_holds (s : State) (n : Nat) (c : BitVec 16) (b : List (Nat × Nat)) : (s.audit n c b).holds = s.holds := rfl
@[simp] theorem State.audit_ktop (s : State) (n : Nat) (c : BitVec 16) (b : List (Nat × Nat)) : (s.audit n c b).ktop = s.ktop := rfl
@[simp] theorem State.audit_retired (s : State) (n : Nat) (c : BitVec 16) (b : List (Nat × Nat)) : (s.audit n c b).retired = s.retired := rfl
@[simp] theorem State.audit_shadow (s : State) (n : Nat) (c : BitVec 16) (b : List (Nat × Nat)) : (s.audit n c b).shadow = s.shadow := rfl
@[simp] theorem State.audit_spill (s : State) (n : Nat) (c : BitVec 16) (b : List (Nat × Nat)) : (s.audit n c b).spill = s.spill := rfl
@[simp] theorem State.audit_spillGrants (s : State) (n : Nat) (c : BitVec 16) (b : List (Nat × Nat)) : (s.audit n c b).spillGrants = s.spillGrants := rfl
@[simp] theorem State.audit_caches (s : State) (n : Nat) (c : BitVec 16) (b : List (Nat × Nat)) : (s.audit n c b).caches = s.caches := rfl
@[simp] theorem State.audit_host (s : State) (n : Nat) (c : BitVec 16) (b : List (Nat × Nat)) : (s.audit n c b).host = s.host := rfl
@[simp] theorem State.audit_link (s : State) (n : Nat) (c : BitVec 16) (b : List (Nat × Nat)) : (s.audit n c b).link = s.link := rfl
@[simp] theorem State.audit_pkg (s : State) (n : Nat) (c : BitVec 16) (b : List (Nat × Nat)) : (s.audit n c b).pkg = s.pkg := rfl
@[simp] theorem State.audit_admitted (s : State) (n : Nat) (c : BitVec 16) (b : List (Nat × Nat)) : (s.audit n c b).admitted = s.admitted := rfl
@[simp] theorem State.audit_soiled (s : State) (n : Nat) (c : BitVec 16) (b : List (Nat × Nat)) : (s.audit n c b).soiled = s.soiled := rfl
@[simp] theorem State.audit_held (s : State) (n : Nat) (c : BitVec 16) (b : List (Nat × Nat)) : (s.audit n c b).held = s.held := rfl
@[simp] theorem State.audit_inputs (s : State) (n : Nat) (c : BitVec 16) (b : List (Nat × Nat)) : (s.audit n c b).inputs = s.inputs := rfl
@[simp] theorem State.audit_elapsed (s : State) (n : Nat) (c : BitVec 16) (b : List (Nat × Nat)) : (s.audit n c b).elapsed = s.elapsed := rfl
@[simp] theorem State.audit_ticks (s : State) (n : Nat) (c : BitVec 16) (b : List (Nat × Nat)) : (s.audit n c b).ticks = s.ticks := rfl
@[simp] theorem State.audit_freeCtr (s : State) (n : Nat) (c : BitVec 16) (b : List (Nat × Nat)) : (s.audit n c b).freeCtr = s.freeCtr := rfl

/-! ### Strand.advance -/

@[simp] theorem Strand.advance_stat (t : Strand) : (t.advance).stat = t.stat := rfl
@[simp] theorem Strand.advance_ctx (t : Strand) : (t.advance).ctx = t.ctx := rfl
@[simp] theorem Strand.advance_gkey (t : Strand) : (t.advance).gkey = t.gkey := rfl
@[simp] theorem Strand.advance_wid (t : Strand) : (t.advance).wid = t.wid := rfl
@[simp] theorem Strand.advance_lim (t : Strand) : (t.advance).lim = t.lim := rfl
@[simp] theorem Strand.advance_parent (t : Strand) : (t.advance).parent = t.parent := rfl
@[simp] theorem Strand.advance_startAfter (t : Strand) : (t.advance).startAfter = t.startAfter := rfl
@[simp] theorem Strand.advance_allow0 (t : Strand) : (t.advance).allow0 = t.allow0 := rfl
@[simp] theorem Strand.advance_joins (t : Strand) : (t.advance).joins = t.joins := rfl
@[simp] theorem Strand.advance_park (t : Strand) : (t.advance).park = t.park := rfl
@[simp] theorem Strand.advance_pc (t : Strand) : (t.advance).pc = t.pc + 4 := rfl
@[simp] theorem Strand.advance_ir (t : Strand) : (t.advance).ir = t.ir := rfl
@[simp] theorem Strand.advance_pfx (t : Strand) : (t.advance).pfx = none := rfl
@[simp] theorem Strand.advance_pfxLive (t : Strand) : (t.advance).pfxLive = false := rfl
@[simp] theorem Strand.advance_clause (t : Strand) : (t.advance).clause = t.clause.bind Clause.next := rfl
@[simp] theorem Strand.advance_regs (t : Strand) : (t.advance).regs = t.regs := rfl
@[simp] theorem Strand.advance_pend (t : Strand) : (t.advance).pend = t.pend := rfl
@[simp] theorem Strand.advance_sync (t : Strand) : (t.advance).sync = t.sync := rfl
@[simp] theorem Strand.advance_queue (t : Strand) : (t.advance).queue = t.queue := rfl
@[simp] theorem Strand.advance_nextSeq (t : Strand) : (t.advance).nextSeq = t.nextSeq := rfl
@[simp] theorem Strand.advance_grant (t : Strand) : (t.advance).grant = t.grant := rfl
@[simp] theorem Strand.advance_nextGrant (t : Strand) : (t.advance).nextGrant = t.nextGrant := rfl
@[simp] theorem Strand.advance_trims (t : Strand) : (t.advance).trims = t.trims := rfl
@[simp] theorem Strand.advance_csr (t : Strand) : (t.advance).csr = t.csr := rfl
@[simp] theorem Strand.advance_trap (t : Strand) : (t.advance).trap = t.trap := rfl
@[simp] theorem Strand.advance_vec (t : Strand) : (t.advance).vec = t.vec := rfl
@[simp] theorem Strand.advance_tiles (t : Strand) : (t.advance).tiles = t.tiles := rfl
@[simp] theorem Strand.advance_key (t : Strand) : (t.advance).key = t.key := rfl
@[simp] theorem Strand.advance_ctr (t : Strand) : (t.advance).ctr = t.ctr := rfl
@[simp] theorem Strand.advance_streams (t : Strand) : (t.advance).streams = t.streams := rfl
@[simp] theorem Strand.advance_copies (t : Strand) : (t.advance).copies = t.copies := rfl
@[simp] theorem Strand.advance_cmds (t : Strand) : (t.advance).cmds = t.cmds := rfl
@[simp] theorem Strand.advance_colls (t : Strand) : (t.advance).colls = t.colls := rfl
@[simp] theorem Strand.advance_credit (t : Strand) : (t.advance).credit = t.credit := rfl
@[simp] theorem Strand.advance_runAhead (t : Strand) : (t.advance).runAhead = t.runAhead := rfl
@[simp] theorem Strand.advance_pushes (t : Strand) : (t.advance).pushes = t.pushes := rfl
@[simp] theorem Strand.advance_late (t : Strand) : (t.advance).late = t.late := rfl
@[simp] theorem Strand.advance_lateOn (t : Strand) : (t.advance).lateOn = t.lateOn := rfl
@[simp] theorem Strand.advance_prog (t : Strand) : (t.advance).prog = t.prog := rfl
@[simp] theorem Strand.advance_goal (t : Strand) : (t.advance).goal = t.goal := rfl

/-! ### Strand.setR -/

@[simp] theorem Strand.setR_stat (t : Strand) (r : SReg) (v : Word) (n : Nat) : (t.setR r v n).stat = t.stat := by
  unfold Strand.setR; split <;> rfl
@[simp] theorem Strand.setR_ctx (t : Strand) (r : SReg) (v : Word) (n : Nat) : (t.setR r v n).ctx = t.ctx := by
  unfold Strand.setR; split <;> rfl
@[simp] theorem Strand.setR_gkey (t : Strand) (r : SReg) (v : Word) (n : Nat) : (t.setR r v n).gkey = t.gkey := by
  unfold Strand.setR; split <;> rfl
@[simp] theorem Strand.setR_wid (t : Strand) (r : SReg) (v : Word) (n : Nat) : (t.setR r v n).wid = t.wid := by
  unfold Strand.setR; split <;> rfl
@[simp] theorem Strand.setR_lim (t : Strand) (r : SReg) (v : Word) (n : Nat) : (t.setR r v n).lim = t.lim := by
  unfold Strand.setR; split <;> rfl
@[simp] theorem Strand.setR_parent (t : Strand) (r : SReg) (v : Word) (n : Nat) : (t.setR r v n).parent = t.parent := by
  unfold Strand.setR; split <;> rfl
@[simp] theorem Strand.setR_startAfter (t : Strand) (r : SReg) (v : Word) (n : Nat) : (t.setR r v n).startAfter = t.startAfter := by
  unfold Strand.setR; split <;> rfl
@[simp] theorem Strand.setR_allow0 (t : Strand) (r : SReg) (v : Word) (n : Nat) : (t.setR r v n).allow0 = t.allow0 := by
  unfold Strand.setR; split <;> rfl
@[simp] theorem Strand.setR_joins (t : Strand) (r : SReg) (v : Word) (n : Nat) : (t.setR r v n).joins = t.joins := by
  unfold Strand.setR; split <;> rfl
@[simp] theorem Strand.setR_park (t : Strand) (r : SReg) (v : Word) (n : Nat) : (t.setR r v n).park = t.park := by
  unfold Strand.setR; split <;> rfl
@[simp] theorem Strand.setR_pc (t : Strand) (r : SReg) (v : Word) (n : Nat) : (t.setR r v n).pc = t.pc := by
  unfold Strand.setR; split <;> rfl
@[simp] theorem Strand.setR_ir (t : Strand) (r : SReg) (v : Word) (n : Nat) : (t.setR r v n).ir = t.ir := by
  unfold Strand.setR; split <;> rfl
@[simp] theorem Strand.setR_pfx (t : Strand) (r : SReg) (v : Word) (n : Nat) : (t.setR r v n).pfx = t.pfx := by
  unfold Strand.setR; split <;> rfl
@[simp] theorem Strand.setR_pfxLive (t : Strand) (r : SReg) (v : Word) (n : Nat) : (t.setR r v n).pfxLive = t.pfxLive := by
  unfold Strand.setR; split <;> rfl
@[simp] theorem Strand.setR_pend (t : Strand) (r : SReg) (v : Word) (n : Nat) : (t.setR r v n).pend = t.pend := by
  unfold Strand.setR; split <;> rfl
@[simp] theorem Strand.setR_sync (t : Strand) (r : SReg) (v : Word) (n : Nat) : (t.setR r v n).sync = t.sync := by
  unfold Strand.setR; split <;> rfl
@[simp] theorem Strand.setR_queue (t : Strand) (r : SReg) (v : Word) (n : Nat) : (t.setR r v n).queue = t.queue := by
  unfold Strand.setR; split <;> rfl
@[simp] theorem Strand.setR_nextSeq (t : Strand) (r : SReg) (v : Word) (n : Nat) : (t.setR r v n).nextSeq = t.nextSeq := by
  unfold Strand.setR; split <;> rfl
@[simp] theorem Strand.setR_grant (t : Strand) (r : SReg) (v : Word) (n : Nat) : (t.setR r v n).grant = t.grant := by
  unfold Strand.setR; split <;> rfl
@[simp] theorem Strand.setR_nextGrant (t : Strand) (r : SReg) (v : Word) (n : Nat) : (t.setR r v n).nextGrant = t.nextGrant := by
  unfold Strand.setR; split <;> rfl
@[simp] theorem Strand.setR_trims (t : Strand) (r : SReg) (v : Word) (n : Nat) : (t.setR r v n).trims = t.trims := by
  unfold Strand.setR; split <;> rfl
@[simp] theorem Strand.setR_csr (t : Strand) (r : SReg) (v : Word) (n : Nat) : (t.setR r v n).csr = t.csr := by
  unfold Strand.setR; split <;> rfl
@[simp] theorem Strand.setR_trap (t : Strand) (r : SReg) (v : Word) (n : Nat) : (t.setR r v n).trap = t.trap := by
  unfold Strand.setR; split <;> rfl
@[simp] theorem Strand.setR_vec (t : Strand) (r : SReg) (v : Word) (n : Nat) : (t.setR r v n).vec = t.vec := by
  unfold Strand.setR; split <;> rfl
@[simp] theorem Strand.setR_tiles (t : Strand) (r : SReg) (v : Word) (n : Nat) : (t.setR r v n).tiles = t.tiles := by
  unfold Strand.setR; split <;> rfl
@[simp] theorem Strand.setR_key (t : Strand) (r : SReg) (v : Word) (n : Nat) : (t.setR r v n).key = t.key := by
  unfold Strand.setR; split <;> rfl
@[simp] theorem Strand.setR_ctr (t : Strand) (r : SReg) (v : Word) (n : Nat) : (t.setR r v n).ctr = t.ctr := by
  unfold Strand.setR; split <;> rfl
@[simp] theorem Strand.setR_streams (t : Strand) (r : SReg) (v : Word) (n : Nat) : (t.setR r v n).streams = t.streams := by
  unfold Strand.setR; split <;> rfl
@[simp] theorem Strand.setR_copies (t : Strand) (r : SReg) (v : Word) (n : Nat) : (t.setR r v n).copies = t.copies := by
  unfold Strand.setR; split <;> rfl
@[simp] theorem Strand.setR_cmds (t : Strand) (r : SReg) (v : Word) (n : Nat) : (t.setR r v n).cmds = t.cmds := by
  unfold Strand.setR; split <;> rfl
@[simp] theorem Strand.setR_colls (t : Strand) (r : SReg) (v : Word) (n : Nat) : (t.setR r v n).colls = t.colls := by
  unfold Strand.setR; split <;> rfl
@[simp] theorem Strand.setR_credit (t : Strand) (r : SReg) (v : Word) (n : Nat) : (t.setR r v n).credit = t.credit := by
  unfold Strand.setR; split <;> rfl
@[simp] theorem Strand.setR_runAhead (t : Strand) (r : SReg) (v : Word) (n : Nat) : (t.setR r v n).runAhead = t.runAhead := by
  unfold Strand.setR; split <;> rfl
@[simp] theorem Strand.setR_pushes (t : Strand) (r : SReg) (v : Word) (n : Nat) : (t.setR r v n).pushes = t.pushes := by
  unfold Strand.setR; split <;> rfl
@[simp] theorem Strand.setR_late (t : Strand) (r : SReg) (v : Word) (n : Nat) : (t.setR r v n).late = t.late := by
  unfold Strand.setR; split <;> rfl
@[simp] theorem Strand.setR_lateOn (t : Strand) (r : SReg) (v : Word) (n : Nat) : (t.setR r v n).lateOn = t.lateOn := by
  unfold Strand.setR; split <;> rfl
@[simp] theorem Strand.setR_prog (t : Strand) (r : SReg) (v : Word) (n : Nat) : (t.setR r v n).prog = t.prog := by
  unfold Strand.setR; split <;> rfl
@[simp] theorem Strand.setR_goal (t : Strand) (r : SReg) (v : Word) (n : Nat) : (t.setR r v n).goal = t.goal := by
  unfold Strand.setR; split <;> rfl

/-! ### Strand.setTrim -/

@[simp] theorem Strand.setTrim_stat (t : Strand) (g n : Nat) : (t.setTrim g n).stat = t.stat := rfl
@[simp] theorem Strand.setTrim_ctx (t : Strand) (g n : Nat) : (t.setTrim g n).ctx = t.ctx := rfl
@[simp] theorem Strand.setTrim_gkey (t : Strand) (g n : Nat) : (t.setTrim g n).gkey = t.gkey := rfl
@[simp] theorem Strand.setTrim_wid (t : Strand) (g n : Nat) : (t.setTrim g n).wid = t.wid := rfl
@[simp] theorem Strand.setTrim_lim (t : Strand) (g n : Nat) : (t.setTrim g n).lim = t.lim := rfl
@[simp] theorem Strand.setTrim_parent (t : Strand) (g n : Nat) : (t.setTrim g n).parent = t.parent := rfl
@[simp] theorem Strand.setTrim_startAfter (t : Strand) (g n : Nat) : (t.setTrim g n).startAfter = t.startAfter := rfl
@[simp] theorem Strand.setTrim_allow0 (t : Strand) (g n : Nat) : (t.setTrim g n).allow0 = t.allow0 := rfl
@[simp] theorem Strand.setTrim_joins (t : Strand) (g n : Nat) : (t.setTrim g n).joins = t.joins := rfl
@[simp] theorem Strand.setTrim_park (t : Strand) (g n : Nat) : (t.setTrim g n).park = t.park := rfl
@[simp] theorem Strand.setTrim_pc (t : Strand) (g n : Nat) : (t.setTrim g n).pc = t.pc := rfl
@[simp] theorem Strand.setTrim_ir (t : Strand) (g n : Nat) : (t.setTrim g n).ir = t.ir := rfl
@[simp] theorem Strand.setTrim_pfx (t : Strand) (g n : Nat) : (t.setTrim g n).pfx = t.pfx := rfl
@[simp] theorem Strand.setTrim_pfxLive (t : Strand) (g n : Nat) : (t.setTrim g n).pfxLive = t.pfxLive := rfl
@[simp] theorem Strand.setTrim_clause (t : Strand) (g n : Nat) : (t.setTrim g n).clause = t.clause := rfl
@[simp] theorem Strand.setTrim_regs (t : Strand) (g n : Nat) : (t.setTrim g n).regs = t.regs := rfl
@[simp] theorem Strand.setTrim_pend (t : Strand) (g n : Nat) : (t.setTrim g n).pend = t.pend := rfl
@[simp] theorem Strand.setTrim_sync (t : Strand) (g n : Nat) : (t.setTrim g n).sync = t.sync := rfl
@[simp] theorem Strand.setTrim_queue (t : Strand) (g n : Nat) : (t.setTrim g n).queue = t.queue := rfl
@[simp] theorem Strand.setTrim_nextSeq (t : Strand) (g n : Nat) : (t.setTrim g n).nextSeq = t.nextSeq := rfl
@[simp] theorem Strand.setTrim_grant (t : Strand) (g n : Nat) : (t.setTrim g n).grant = t.grant := rfl
@[simp] theorem Strand.setTrim_nextGrant (t : Strand) (g n : Nat) : (t.setTrim g n).nextGrant = t.nextGrant := rfl
@[simp] theorem Strand.setTrim_trims (t : Strand) (g n : Nat) : (t.setTrim g n).trims = (g, n) :: t.trims.filter fun p => p.1 ≠ g := rfl
@[simp] theorem Strand.setTrim_csr (t : Strand) (g n : Nat) : (t.setTrim g n).csr = t.csr := rfl
@[simp] theorem Strand.setTrim_trap (t : Strand) (g n : Nat) : (t.setTrim g n).trap = t.trap := rfl
@[simp] theorem Strand.setTrim_vec (t : Strand) (g n : Nat) : (t.setTrim g n).vec = t.vec := rfl
@[simp] theorem Strand.setTrim_tiles (t : Strand) (g n : Nat) : (t.setTrim g n).tiles = t.tiles := rfl
@[simp] theorem Strand.setTrim_key (t : Strand) (g n : Nat) : (t.setTrim g n).key = t.key := rfl
@[simp] theorem Strand.setTrim_ctr (t : Strand) (g n : Nat) : (t.setTrim g n).ctr = t.ctr := rfl
@[simp] theorem Strand.setTrim_streams (t : Strand) (g n : Nat) : (t.setTrim g n).streams = t.streams := rfl
@[simp] theorem Strand.setTrim_copies (t : Strand) (g n : Nat) : (t.setTrim g n).copies = t.copies := rfl
@[simp] theorem Strand.setTrim_cmds (t : Strand) (g n : Nat) : (t.setTrim g n).cmds = t.cmds := rfl
@[simp] theorem Strand.setTrim_colls (t : Strand) (g n : Nat) : (t.setTrim g n).colls = t.colls := rfl
@[simp] theorem Strand.setTrim_credit (t : Strand) (g n : Nat) : (t.setTrim g n).credit = t.credit := rfl
@[simp] theorem Strand.setTrim_runAhead (t : Strand) (g n : Nat) : (t.setTrim g n).runAhead = t.runAhead := rfl
@[simp] theorem Strand.setTrim_pushes (t : Strand) (g n : Nat) : (t.setTrim g n).pushes = t.pushes := rfl
@[simp] theorem Strand.setTrim_late (t : Strand) (g n : Nat) : (t.setTrim g n).late = t.late := rfl
@[simp] theorem Strand.setTrim_lateOn (t : Strand) (g n : Nat) : (t.setTrim g n).lateOn = t.lateOn := rfl
@[simp] theorem Strand.setTrim_prog (t : Strand) (g n : Nat) : (t.setTrim g n).prog = t.prog := rfl
@[simp] theorem Strand.setTrim_goal (t : Strand) (g n : Nat) : (t.setTrim g n).goal = t.goal := rfl

/-! ### Strand.deliver -/

@[simp] theorem Strand.deliver_stat (t : Strand) (c : Nat) (v : Word) (b : Bool) : (t.deliver c v b).stat = t.stat := rfl
@[simp] theorem Strand.deliver_ctx (t : Strand) (c : Nat) (v : Word) (b : Bool) : (t.deliver c v b).ctx = t.ctx := rfl
@[simp] theorem Strand.deliver_gkey (t : Strand) (c : Nat) (v : Word) (b : Bool) : (t.deliver c v b).gkey = t.gkey := rfl
@[simp] theorem Strand.deliver_wid (t : Strand) (c : Nat) (v : Word) (b : Bool) : (t.deliver c v b).wid = t.wid := rfl
@[simp] theorem Strand.deliver_lim (t : Strand) (c : Nat) (v : Word) (b : Bool) : (t.deliver c v b).lim = t.lim := rfl
@[simp] theorem Strand.deliver_parent (t : Strand) (c : Nat) (v : Word) (b : Bool) : (t.deliver c v b).parent = t.parent := rfl
@[simp] theorem Strand.deliver_startAfter (t : Strand) (c : Nat) (v : Word) (b : Bool) : (t.deliver c v b).startAfter = t.startAfter := rfl
@[simp] theorem Strand.deliver_allow0 (t : Strand) (c : Nat) (v : Word) (b : Bool) : (t.deliver c v b).allow0 = t.allow0 := rfl
@[simp] theorem Strand.deliver_joins (t : Strand) (c : Nat) (v : Word) (b : Bool) : (t.deliver c v b).joins = t.joins := rfl
@[simp] theorem Strand.deliver_park (t : Strand) (c : Nat) (v : Word) (b : Bool) : (t.deliver c v b).park = .none := rfl
@[simp] theorem Strand.deliver_pc (t : Strand) (c : Nat) (v : Word) (b : Bool) : (t.deliver c v b).pc = t.trap.tvec := rfl
@[simp] theorem Strand.deliver_ir (t : Strand) (c : Nat) (v : Word) (b : Bool) : (t.deliver c v b).ir = t.ir := rfl
@[simp] theorem Strand.deliver_pfx (t : Strand) (c : Nat) (v : Word) (b : Bool) : (t.deliver c v b).pfx = none := rfl
@[simp] theorem Strand.deliver_pfxLive (t : Strand) (c : Nat) (v : Word) (b : Bool) : (t.deliver c v b).pfxLive = false := rfl
@[simp] theorem Strand.deliver_clause (t : Strand) (c : Nat) (v : Word) (b : Bool) : (t.deliver c v b).clause = none := rfl
@[simp] theorem Strand.deliver_regs (t : Strand) (c : Nat) (v : Word) (b : Bool) : (t.deliver c v b).regs = t.regs := rfl
@[simp] theorem Strand.deliver_pend (t : Strand) (c : Nat) (v : Word) (b : Bool) : (t.deliver c v b).pend = t.pend := rfl
@[simp] theorem Strand.deliver_sync (t : Strand) (c : Nat) (v : Word) (b : Bool) : (t.deliver c v b).sync = t.sync := rfl
@[simp] theorem Strand.deliver_queue (t : Strand) (c : Nat) (v : Word) (b : Bool) : (t.deliver c v b).queue = t.queue := rfl
@[simp] theorem Strand.deliver_nextSeq (t : Strand) (c : Nat) (v : Word) (b : Bool) : (t.deliver c v b).nextSeq = t.nextSeq := rfl
@[simp] theorem Strand.deliver_grant (t : Strand) (c : Nat) (v : Word) (b : Bool) : (t.deliver c v b).grant = t.grant := rfl
@[simp] theorem Strand.deliver_nextGrant (t : Strand) (c : Nat) (v : Word) (b : Bool) : (t.deliver c v b).nextGrant = t.nextGrant := rfl
@[simp] theorem Strand.deliver_trims (t : Strand) (c : Nat) (v : Word) (b : Bool) : (t.deliver c v b).trims = t.trims := rfl
@[simp] theorem Strand.deliver_csr (t : Strand) (c : Nat) (v : Word) (b : Bool) : (t.deliver c v b).csr = t.csr := rfl
@[simp] theorem Strand.deliver_vec (t : Strand) (c : Nat) (v : Word) (b : Bool) : (t.deliver c v b).vec = t.vec := rfl
@[simp] theorem Strand.deliver_tiles (t : Strand) (c : Nat) (v : Word) (b : Bool) : (t.deliver c v b).tiles = t.tiles := rfl
@[simp] theorem Strand.deliver_key (t : Strand) (c : Nat) (v : Word) (b : Bool) : (t.deliver c v b).key = t.key := rfl
@[simp] theorem Strand.deliver_ctr (t : Strand) (c : Nat) (v : Word) (b : Bool) : (t.deliver c v b).ctr = t.ctr := rfl
@[simp] theorem Strand.deliver_streams (t : Strand) (c : Nat) (v : Word) (b : Bool) : (t.deliver c v b).streams = t.streams := rfl
@[simp] theorem Strand.deliver_copies (t : Strand) (c : Nat) (v : Word) (b : Bool) : (t.deliver c v b).copies = t.copies := rfl
@[simp] theorem Strand.deliver_cmds (t : Strand) (c : Nat) (v : Word) (b : Bool) : (t.deliver c v b).cmds = t.cmds := rfl
@[simp] theorem Strand.deliver_colls (t : Strand) (c : Nat) (v : Word) (b : Bool) : (t.deliver c v b).colls = t.colls := rfl
@[simp] theorem Strand.deliver_credit (t : Strand) (c : Nat) (v : Word) (b : Bool) : (t.deliver c v b).credit = t.credit := rfl
@[simp] theorem Strand.deliver_runAhead (t : Strand) (c : Nat) (v : Word) (b : Bool) : (t.deliver c v b).runAhead = t.runAhead := rfl
@[simp] theorem Strand.deliver_pushes (t : Strand) (c : Nat) (v : Word) (b : Bool) : (t.deliver c v b).pushes = t.pushes := rfl
@[simp] theorem Strand.deliver_late (t : Strand) (c : Nat) (v : Word) (b : Bool) : (t.deliver c v b).late = t.late := rfl
@[simp] theorem Strand.deliver_lateOn (t : Strand) (c : Nat) (v : Word) (b : Bool) : (t.deliver c v b).lateOn = t.lateOn := rfl
@[simp] theorem Strand.deliver_prog (t : Strand) (c : Nat) (v : Word) (b : Bool) : (t.deliver c v b).prog = t.prog := rfl
@[simp] theorem Strand.deliver_goal (t : Strand) (c : Nat) (v : Word) (b : Bool) : (t.deliver c v b).goal = t.goal := rfl

/-! ### Strand.returnFromTrap -/

@[simp] theorem Strand.returnFromTrap_stat (t : Strand) : (t.returnFromTrap).stat = t.stat := rfl
@[simp] theorem Strand.returnFromTrap_ctx (t : Strand) : (t.returnFromTrap).ctx = t.ctx := rfl
@[simp] theorem Strand.returnFromTrap_gkey (t : Strand) : (t.returnFromTrap).gkey = t.gkey := rfl
@[simp] theorem Strand.returnFromTrap_wid (t : Strand) : (t.returnFromTrap).wid = t.wid := rfl
@[simp] theorem Strand.returnFromTrap_lim (t : Strand) : (t.returnFromTrap).lim = t.lim := rfl
@[simp] theorem Strand.returnFromTrap_parent (t : Strand) : (t.returnFromTrap).parent = t.parent := rfl
@[simp] theorem Strand.returnFromTrap_startAfter (t : Strand) : (t.returnFromTrap).startAfter = t.startAfter := rfl
@[simp] theorem Strand.returnFromTrap_allow0 (t : Strand) : (t.returnFromTrap).allow0 = t.allow0 := rfl
@[simp] theorem Strand.returnFromTrap_joins (t : Strand) : (t.returnFromTrap).joins = t.joins := rfl
@[simp] theorem Strand.returnFromTrap_park (t : Strand) : (t.returnFromTrap).park = t.park := rfl
@[simp] theorem Strand.returnFromTrap_pc (t : Strand) : (t.returnFromTrap).pc = t.trap.tpc := rfl
@[simp] theorem Strand.returnFromTrap_ir (t : Strand) : (t.returnFromTrap).ir = t.ir := rfl
@[simp] theorem Strand.returnFromTrap_pfxLive (t : Strand) : (t.returnFromTrap).pfxLive = false := rfl
@[simp] theorem Strand.returnFromTrap_clause (t : Strand) : (t.returnFromTrap).clause = clauseOfTstat t.trap.tstat := rfl
@[simp] theorem Strand.returnFromTrap_regs (t : Strand) : (t.returnFromTrap).regs = t.regs := rfl
@[simp] theorem Strand.returnFromTrap_pend (t : Strand) : (t.returnFromTrap).pend = t.pend := rfl
@[simp] theorem Strand.returnFromTrap_sync (t : Strand) : (t.returnFromTrap).sync = t.sync := rfl
@[simp] theorem Strand.returnFromTrap_queue (t : Strand) : (t.returnFromTrap).queue = t.queue := rfl
@[simp] theorem Strand.returnFromTrap_nextSeq (t : Strand) : (t.returnFromTrap).nextSeq = t.nextSeq := rfl
@[simp] theorem Strand.returnFromTrap_grant (t : Strand) : (t.returnFromTrap).grant = t.grant := rfl
@[simp] theorem Strand.returnFromTrap_nextGrant (t : Strand) : (t.returnFromTrap).nextGrant = t.nextGrant := rfl
@[simp] theorem Strand.returnFromTrap_trims (t : Strand) : (t.returnFromTrap).trims = t.trims := rfl
@[simp] theorem Strand.returnFromTrap_csr (t : Strand) : (t.returnFromTrap).csr = t.csr := rfl
@[simp] theorem Strand.returnFromTrap_trap (t : Strand) : (t.returnFromTrap).trap = { t.trap with inh := false } := rfl
@[simp] theorem Strand.returnFromTrap_vec (t : Strand) : (t.returnFromTrap).vec = t.vec := rfl
@[simp] theorem Strand.returnFromTrap_tiles (t : Strand) : (t.returnFromTrap).tiles = t.tiles := rfl
@[simp] theorem Strand.returnFromTrap_key (t : Strand) : (t.returnFromTrap).key = t.key := rfl
@[simp] theorem Strand.returnFromTrap_ctr (t : Strand) : (t.returnFromTrap).ctr = t.ctr := rfl
@[simp] theorem Strand.returnFromTrap_streams (t : Strand) : (t.returnFromTrap).streams = t.streams := rfl
@[simp] theorem Strand.returnFromTrap_copies (t : Strand) : (t.returnFromTrap).copies = t.copies := rfl
@[simp] theorem Strand.returnFromTrap_cmds (t : Strand) : (t.returnFromTrap).cmds = t.cmds := rfl
@[simp] theorem Strand.returnFromTrap_colls (t : Strand) : (t.returnFromTrap).colls = t.colls := rfl
@[simp] theorem Strand.returnFromTrap_credit (t : Strand) : (t.returnFromTrap).credit = t.credit := rfl
@[simp] theorem Strand.returnFromTrap_runAhead (t : Strand) : (t.returnFromTrap).runAhead = t.runAhead := rfl
@[simp] theorem Strand.returnFromTrap_pushes (t : Strand) : (t.returnFromTrap).pushes = t.pushes := rfl
@[simp] theorem Strand.returnFromTrap_late (t : Strand) : (t.returnFromTrap).late = t.late := rfl
@[simp] theorem Strand.returnFromTrap_lateOn (t : Strand) : (t.returnFromTrap).lateOn = t.lateOn := rfl
@[simp] theorem Strand.returnFromTrap_prog (t : Strand) : (t.returnFromTrap).prog = t.prog := rfl
@[simp] theorem Strand.returnFromTrap_goal (t : Strand) : (t.returnFromTrap).goal = t.goal := rfl

end Sys2Proof.Machine
end

