-- ==== Sys2Proof/Laws/Ops.lean ====
section
/-! SUPPORT. One lemma for each shared operation, that says everything it can do: strands by slot, scalar registers, the answer of a
scalar form, checked accesses, exceptions and the return from one, and the vector side when nothing waits. -/

namespace Sys2Proof.Machine

open Sys2Proof.Safety

/-! ### Strands by slot -/

@[simp] theorem State.strand_self (s : State) : s.strand s.slot = s.st := by simp [State.strand]

theorem State.strand_putStrand (s : State) (k j : Nat) (t : Strand) :
    (s.putStrand k t).strand j = if j = k then t else s.strand j := by
  unfold State.putStrand State.strand
  by_cases hk : k = s.slot
  · simp only [hk, if_true]
    by_cases hj : j = s.slot <;> simp [hj]
  · simp only [hk, if_false]
    by_cases hj : j = s.slot
    · have : j ≠ k := fun e => hk (e.symm.trans hj)
      simp [hj, Ne.symm hk]
    · simp [hj, lookup_store]

theorem State.strand_modStrand (s : State) (k j : Nat) (f : Strand → Strand) :
    (s.modStrand k f).strand j = if j = k then f (s.strand k) else s.strand j := s.strand_putStrand k j _

/-- The choice of the strand that moves changes no strand. -/
theorem State.strand_focus (s : State) (k j : Nat) : (s.focus k).strand j = s.strand j := by
  unfold State.focus
  by_cases hk : k = s.slot
  · simp [hk]
  · simp only [hk, if_false, State.strand]
    by_cases hj : j = k
    · have : j ≠ s.slot := fun e => hk (hj.symm.trans e)
      simp [hj, hk]
    · simp only [hj, if_false, lookup_store]
      by_cases hs : j = s.slot
      · simp [hs]
      · simp [hs, lookup_eraseKey_ne _ hj]

@[simp] theorem State.focus_slot (s : State) (k : Nat) : (s.focus k).slot = k := by
  unfold State.focus; split <;> simp_all

@[simp] theorem State.focus_mem (s : State) (k : Nat) : (s.focus k).mem = s.mem := by
  unfold State.focus; split <;> rfl

/-- A put changes nothing but the strands. -/
theorem State.putStrand_eq (s : State) (k : Nat) (t : Strand) :
    s.putStrand k t = { s with st := (s.putStrand k t).st, others := (s.putStrand k t).others } := by
  unfold State.putStrand; split <;> rfl

@[simp] theorem State.putStrand_mem (s : State) (k : Nat) (t : Strand) : (s.putStrand k t).mem = s.mem := by
  unfold State.putStrand; split <;> rfl

@[simp] theorem State.modStrand_mem (s : State) (k : Nat) (f : Strand → Strand) : (s.modStrand k f).mem = s.mem :=
  s.putStrand_mem k _

/-! ### Scalar registers -/

/-- s0 reads zero and discards writes (R96); no other register changes. -/
theorem Strand.reg_setR (t : Strand) (d r : SReg) (v : Word) (n : Nat) :
    (t.setR d v n).reg r = if r = d ∧ d ≠ 0 then v else t.reg r := by
  unfold Strand.setR Strand.reg
  by_cases hd : d = 0
  · simp [hd]
  · by_cases hr : r = d
    · subst hr; simp [hd]
    · have : d.val ≠ r.val := fun e => hr (Fin.ext e.symm)
      by_cases h0 : r = 0
      · have : (0 : SReg) ≠ d := fun e => hd e.symm
        simp [hd, h0, this]
      · simp [hd, hr, h0, this]

@[simp] theorem Strand.reg_advance (t : Strand) (r : SReg) : t.advance.reg r = t.reg r := rfl

/-- Outside a clause an instruction reads the register. -/
theorem Strand.r_of_clause_none {t : Strand} (h : t.clause = none) (r : SReg) : t.r r = t.reg r := by
  simp [Strand.r, Strand.reg, h]

@[simp] theorem State.r_zero (s : State) : s.r 0 = 0 := by simp [State.r, Strand.r]

/-- The next clause position is what R68 and R71 say, whatever the log of writes holds. -/
theorem clause_passed (t : Strand) (d : SReg) (v : Word) (n : Nat) :
    ((t.setR d v n).advance.clause.map fun c => (c.pos, c.len, c.cnt)) =
      t.clause.bind fun c => if c.len ≤ c.pos then none else some (c.pos + 1, c.len, c.cnt) := by
  have h : ∀ c : Clause, (c.next.map fun c => (c.pos, c.len, c.cnt)) =
      if c.len ≤ c.pos then none else some (c.pos + 1, c.len, c.cnt) := by
    intro c; unfold Clause.next; split <;> simp
  have key : ∀ o : Option Clause, ((o.bind Clause.next).map fun c => (c.pos, c.len, c.cnt)) =
      o.bind fun c => if c.len ≤ c.pos then none else some (c.pos + 1, c.len, c.cnt) := by
    intro o; cases o with
    | none => rfl
    | some c => simpa using h c
  rw [Strand.advance_clause, key]
  unfold Strand.setR
  split
  · rfl
  · cases t.clause <;> rfl

/-- THE ANSWER OF A SCALAR FORM: a result is written, the strand moves on, and nothing else changes. -/
theorem State.result_spec (s : State) (d : SReg) (v : Word) (n : Nat) :
    ∃ t, s.result d v n = .next t ∧ ScalarResult s t d v := by
  refine ⟨_, rfl, ⟨?_, ?_⟩, ⟨?_, rfl, rfl, clause_passed s.st d v n⟩, ?_, fun a => rfl⟩
  · show (s.st.setR d v n).advance.reg d = _
    rw [Strand.reg_advance, Strand.reg_setR]
    by_cases h : d = 0 <;> simp [h, Strand.reg]
  · intro r hr
    show (s.st.setR d v n).advance.reg r = _
    rw [Strand.reg_advance, Strand.reg_setR]; simp [hr]
  · show (s.st.setR d v n).advance.pc = _
    simp
  · unfold OnlyRegs State.setR State.advance State.mod Strand.advance Strand.setR
    by_cases h : d = 0 <;> simp [h]

/-! ### Checked accesses -/

/-- The same machine but for what its caches hold (R22, R331, R352). -/
def SameButCaches (s t : State) : Prop := t = { s with caches := t.caches }

theorem SameButCaches.refl (s : State) : SameButCaches s s := rfl

theorem SameButCaches.set (s : State) (k : Caches) : SameButCaches s { s with caches := k } := rfl

theorem SameButCaches.trans {s t u : State} (h : SameButCaches s t) (h' : SameButCaches t u) : SameButCaches s u := by
  unfold SameButCaches at *; rw [h', h]

theorem State.keep_spec (s : State) (w : Who) (a : Nat) : SameButCaches s (s.keep w a) := by
  unfold State.keep; split
  · rfl
  · split <;> rfl

theorem State.l2Lines_spec (c : BitVec 16) (ls : List Nat) (s : State) : SameButCaches s (s.l2Lines c ls) := by
  induction ls generalizing s with
  | nil => rfl
  | cons l r ih => exact (SameButCaches.set s _).trans (ih _)

/-- What an access leaves in the caches changes nothing else. -/
theorem State.note_spec (s : State) (w : Who) (a : Nat) (ls : List Nat) : SameButCaches s (s.note w a ls) :=
  (s.keep_spec w a).trans ((SameButCaches.set _ _).trans (State.l2Lines_spec _ _ _))

/-- So with a scalar load. -/
theorem State.noteLoad_spec (s : State) (w : Who) (a : Nat) (ls : List Nat) : SameButCaches s (s.noteLoad w a ls) := by
  unfold State.noteLoad
  dsimp only
  split
  · exact s.keep_spec w a
  · exact (s.keep_spec w a).trans ((SameButCaches.set _ _).trans (State.l2Lines_spec _ _ _))

/-- So with a scalar store. -/
theorem State.noteStore_spec (s : State) (w : Who) (ls : List Nat) : SameButCaches s (s.noteStore w ls) :=
  (SameButCaches.set s _).trans (State.l2Lines_spec _ _ _)

/-- So with an update in memory. -/
theorem State.noteUpdate_spec (s : State) (w : Who) (a : Nat) (ls : List Nat) : SameButCaches s (s.noteUpdate w a ls) :=
  (s.keep_spec w a).trans (SameButCaches.set _ _)

/-- A store that performs writes its bytes and changes nothing else but the caches (R227). -/
theorem State.storeNow_spec (s : State) (w : Who) (ls : List Nat) (v : Nat) :
    SameButCaches (s.put ls v) (s.storeNow w ls v) := by
  unfold SameButCaches State.storeNow
  rw [s.noteStore_spec w ls]; rfl

theorem State.note_eq (s : State) (w : Who) (a : Nat) (ls : List Nat) :
    s.note w a ls = { s with caches := (s.note w a ls).caches } := s.note_spec w a ls

/-- What the home slice reads of a queue's counters leaves in the caches changes nothing else (R267). -/
theorem State.noteCounters_spec (s : State) (q : Queue) (l : List QRec) : SameButCaches s (s.noteCounters q l) :=
  (SameButCaches.set s _).trans (State.l2Lines_spec ..)

/-- A copy that goes on to its end stops nowhere before it (R225). -/
theorem Copy.boundary_total (c : Copy) : c.boundary c.total = c.total := by simp [Copy.boundary]

/-- Where no cluster of the partition is soiled, nothing is scrubbed (R350). -/
theorem State.cleanClusters_clean {s : State} {clu : BitVec 32} (h : NoneSoiled s clu) : s.cleanClusters clu = s := by
  have e : ((List.finRange 32).filter fun n : Fin 32 =>
      clu.getLsbD n.val && s.soiled.contains n.val && !s.liveSlots.any fun k => clusterOf k = n.val) = [] := by
    refine List.filter_eq_nil_iff.mpr fun n _ hn => ?_
    simp only [Bool.and_eq_true, List.contains_iff_mem] at hn
    exact absurd hn.1.1 (by rw [h _ hn.1.2]; simp)
  simp only [State.cleanClusters, e, List.foldl_nil]

@[simp] theorem State.note_mem (s : State) (w : Who) (a : Nat) (ls : List Nat) : (s.note w a ls).mem = s.mem := by
  rw [State.note_eq]
@[simp] theorem State.note_st (s : State) (w : Who) (a : Nat) (ls : List Nat) : (s.note w a ls).st = s.st := by
  rw [State.note_eq]
@[simp] theorem State.note_slot (s : State) (w : Who) (a : Nat) (ls : List Nat) : (s.note w a ls).slot = s.slot := by
  rw [State.note_eq]
@[simp] theorem State.note_queues (s : State) (w : Who) (a : Nat) (ls : List Nat) : (s.note w a ls).queues = s.queues := by
  rw [State.note_eq]

/-- A store writes the bytes it names. -/
@[simp] theorem State.storeNow_mem (s : State) (w : Who) (ls : List Nat) (v : Nat) :
    (s.storeNow w ls v).mem = putBytes s.mem ls v := by
  rw [s.storeNow_spec w ls v]; rfl
@[simp] theorem State.storeNow_st (s : State) (w : Who) (ls : List Nat) (v : Nat) : (s.storeNow w ls v).st = s.st := by
  rw [s.storeNow_spec w ls v]; rfl

/-- A scalar access that is aligned and lets through runs its continuation (R102). -/
theorem State.scalarAccess_ok {s : State} {ea n : Nat} {a : Acc} {ls : List Nat} (k : State → List Nat → Res)
    (h : ea % n = 0) (hl : s.locs s.me ea n a = .ok ls) :
    ∃ s1, SameButCaches s s1 ∧ s.scalarAccess ea n a k = k s1 ls := by
  refine ⟨if a = .read then s.noteLoad s.me ea ls else s.keep s.me ea, ?_, ?_⟩
  · split
    · exact s.noteLoad_spec _ _ _
    · exact s.keep_spec _ _
  · unfold State.scalarAccess; simp [h, hl]

/-- Where no store of a strand waits to perform, none is left to do. -/
theorem State.flushLate_nil {s : State} (k : Nat) (h : (s.strand k).late = []) : s.flushLate k = s := by
  unfold State.flushLate; simp [h]

/-- A scalar access that is aligned and lets through runs its continuation (R102). -/
theorem State.scalarAccess_run {s : State} {ea n : Nat} {a : Acc} {ls : List Nat} (k : State → List Nat → Res)
    (h : ea % n = 0) (hl : s.locs s.me ea n a = .ok ls) :
    s.scalarAccess ea n a k = k (if a = .read then s.noteLoad s.me ea ls else s.keep s.me ea) ls := by
  unfold State.scalarAccess; simp [h, hl]

/-- A misaligned scalar access raises cause 0x07 with the address (R102). -/
theorem State.scalarAccess_misaligned {s : State} {ea n : Nat} {a : Acc} (k : State → List Nat → Res) (h : ea % n ≠ 0) :
    s.scalarAccess ea n a k = s.raise 7 (BitVec.ofNat 64 ea) := by
  unfold State.scalarAccess; simp [h]

/-- An aligned scalar access that fails takes the trap of its cause (R102). -/
theorem State.scalarAccess_fault {s : State} {ea n c b : Nat} {a : Acc} (k : State → List Nat → Res)
    (h : ea % n = 0) (hl : s.locs s.me ea n a = .error (c, b)) :
    s.scalarAccess ea n a k = .next (s.trapAccess c ea b a false) := by
  unfold State.scalarAccess; simp [h, hl]

/-! ### Exceptions -/

/-- Where a strand has a handler, and outside it, a cause other than 0x08 is delivered (R41, R42). -/
theorem State.trap_handler {s : State} (h : HasHandler s) {c : Nat} (hc : c ≠ 8) (v : Word) (b : Bool) :
    s.trap c v b = s.leaveParked.mod fun t => (if b then { t with prog := 0 } else t.stopHead).deliver c v b := by
  have ht : ¬s.st.trap.tvec = 0 := h.2
  rw [State.trap, if_neg hc, if_neg (by simp only [h.1, Bool.false_or, decide_eq_true_eq]; exact ht)]

/-- A head entry that stops at an element group leaves VSTART there, and nothing of it is under way (R144). -/
theorem Strand.stopHead_eq (t : Strand) :
    t.stopHead = { t with prog := 0, csr := { t.csr with vstart := vstartStopped t } } := by
  unfold Strand.stopHead vstartStopped
  by_cases h : t.prog = 0
  · simp only [h, if_true, true_or]; rw [← h]
  · by_cases hq : t.queue = [] <;> simp [h, hq]

/-- Cause 0x08 goes to the Oasis kernel, and nothing else of the strand changes (R40, R335). -/
theorem State.trap_page (s : State) (v : Word) (b : Bool) :
    s.trap 8 v b = s.mod fun t => { t with stat := .waiting { cause := 8, va := v, vec := b } } := by
  unfold State.trap; simp

/-- Without a handler, or inside it, the strand ends (R40). -/
theorem State.trap_fatal {s : State} (h : s.st.trap.inh = true ∨ s.st.trap.tvec = 0) {c : Nat} (hc : c ≠ 8) (v : Word)
    (b : Bool) : s.trap c v b = s.failStrand s.slot (s.st.failInfo c v b) := by
  unfold State.trap; rcases h with h | h <;> simp [hc, h]

theorem State.leaveParked_of {s : State} (h : s.st.park ≠ .qpop) : s.leaveParked = s := by
  unfold State.leaveParked; simp [h]

/-- TAKING AN EXCEPTION of a scalar instruction, for a strand that has a handler. -/
theorem State.raise_delivers {s : State} (h : HasHandler s) {c : Nat} (hc : c ≠ 8) (v : Word) :
    ∃ t, s.raise c v = .next t ∧ Delivered s t c v := by
  refine ⟨_, rfl, ?_⟩
  rw [State.trap_handler h hc]
  simp only [Bool.false_eq_true, if_false, Strand.stopHead_eq]
  unfold Delivered State.leaveParked
  split
  · next hp => exact ⟨rfl, rfl, fun hn => absurd hp hn, fun a => rfl⟩
  · exact ⟨rfl, rfl, fun _ => rfl, fun a => rfl⟩

/-- RETURN FROM AN EXCEPTION (R44): fetch goes on at TPC, outside the handler. -/
theorem Strand.returnFromTrap_spec (t : Strand) :
    t.returnFromTrap.pc = t.trap.tpc ∧ t.returnFromTrap.trap.inh = false ∧
      ∀ r, t.returnFromTrap.reg r = t.reg r := ⟨rfl, rfl, fun _ => rfl⟩

/-! ### The vector side -/

/-- No read waits: none is delivered. -/
theorem State.deliverReads_nil {s : State} (h : s.st.sync = []) (n : Nat) : State.deliverReads n s = s := by
  cases n <;> simp [State.deliverReads, h]

/-- An empty vector side goes nowhere. -/
theorem State.drain_quiet {s : State} (hq : s.st.queue = []) (hs : s.st.sync = []) : s.drain = s := by
  have hh : s.headStep = (s, false) := by unfold State.headStep; simp [hq]
  have h1 : (if !s.st.runAhead then s.drainN s.st.queue.length
    else if s.st.park ≠ .none then s.headStep.1 else s) = s := by
    rw [hh, hq]; split
    · rfl
    · split <;> rfl
  unfold State.drain
  rw [h1]
  exact State.deliverReads_nil hs 8

/-- With nothing waiting, a form that waits for older entries runs. -/
theorem State.afterEntries_quiet {s : State} (h : Quiet s) (k : State → Res) : s.afterEntries k = k s := by
  unfold State.afterEntries
  rw [State.drain_quiet h.2.2.2.1 h.2.2.2.2.1]
  simp [h.2.2.2.1, h.1]

/-- Inside a handler a vector-stream instruction is a double trap (R43). -/
theorem State.vectorStream_handler {s : State} (h : s.st.trap.inh = true) (i : Instr) :
    s.vectorStream i = .next (s.trap 0 0 false) := by simp [State.vectorStream, h]

/-- A vector-stream instruction with room commits, and the vector side goes on (R28). -/
theorem State.vectorStream_commits {s : State} (h : s.st.trap.inh = false) {i : Instr} (hr : s.st.hasRoom i = true) :
    s.vectorStream i = .next (s.commit i).drain := by simp [State.vectorStream, h, hr]

/-! ### Requests -/

/-- A Ready module serves (R390). -/
theorem State.request_ready {s : State} (ht : s.host.trained = true) (hp : s.pkg.state = 4) (k : State → State) :
    s.request k = .next (k s) := by simp [State.request, ht, hp]

/-- A request about a tenant context that exists reaches its meaning (R358). -/
theorem State.ctxRequest_about {s : State} {q : Req} {fs : List (Nat × Nat)} {x : Context} (h : About s q fs x) (code : Nat)
    (k : State → Context → State) : s.ctxRequest q code fs k = .next (k s x) := by
  obtain ⟨⟨ht, hp, ho⟩, hc, hx⟩ := h
  unfold State.ctxRequest
  rw [State.request_ready ht hp]
  simp only [ho, hx, Bool.not_true, Bool.false_eq_true, if_false, if_neg hc]

theorem State.ctx?_modCtx (s : State) (c d : BitVec 16) (f : Context → Context) :
    (s.modCtx c f).ctx? d = if d = c then (s.ctx? c).map f else s.ctx? d := by
  unfold State.modCtx State.ctx?
  have key : ∀ l : List (Nat × Context),
      ((l.map fun p => if p.1 = c.toNat then (p.1, f p.2) else p).find? fun p => p.1 = d.toNat).map (·.2) =
        if d = c then ((l.find? fun p => p.1 = c.toNat).map (·.2)).map f else (l.find? fun p => p.1 = d.toNat).map (·.2) := by
    intro l
    induction l with
    | nil => simp
    | cons p r ih =>
      obtain ⟨n, x⟩ := p
      by_cases hd : d = c
      · subst hd
        by_cases hn : n = d.toNat
        · simp [hn]
        · simp only [List.map_cons, hn, if_false, List.find?_cons]
          simpa [hn] using ih
      · have hne : c.toNat ≠ d.toNat := fun e => hd (BitVec.eq_of_toNat_eq e.symm)
        by_cases hn : n = c.toNat
        · subst hn
          simpa [hd, hne] using ih
        · by_cases hm : n = d.toNat
          · subst hm; simp [hd, hn]
          · simpa [hd, hn, hm] using ih
  exact key s.ctxs

/-! ### Claims, parking, and the memory of the Oasis kernel -/

/-- An MCLAIM at the head takes its place behind the other claims, once, and nothing else changes (R194). -/
theorem State.enterClaim_spec (s : State) : s.enterClaim = s ∨
    (s.enterClaim = { s with claims := s.claims ++ [s.slot] } ∧ s.slot ∉ s.claims ∧
      ∃ a e q, s.st.queue = e :: q ∧ e.instr = .mclaim a ∧ e.opd.a ≠ 0 ∧ e.opd.a.toNat < 2 ^ 16 ∧ s.claimRefused e.opd.a = false) := by
  unfold State.enterClaim
  split
  · rename_i a o g w p sq q hq
    split
    · exact .inl rfl
    · rename_i hc
      simp only [Bool.or_eq_true, decide_eq_true_eq, not_or, Bool.not_eq_true, List.contains_eq_mem] at hc
      obtain ⟨⟨⟨h1, h2⟩, h3⟩, h4⟩ := hc
      exact .inr ⟨rfl, h4, _, _, _, hq, rfl, h2, by simp at h1; omega, h3⟩
  · exact .inl rfl

theorem State.enterClaim_quiet {s : State} (h : s.st.queue = []) : s.enterClaim = s := by simp [State.enterClaim, h]

/-- Waking the scalar side leaves a head entry that waits parked (R291), and nothing else changes. -/
@[simp] theorem Strand.wake_park (t : Strand) : t.wake.park = t.vectorPark := rfl
@[simp] theorem Strand.wake_queue (t : Strand) : t.wake.queue = t.queue := rfl
@[simp] theorem Strand.wake_pc (t : Strand) : t.wake.pc = t.pc := rfl
@[simp] theorem Strand.wake_regs (t : Strand) : t.wake.regs = t.regs := rfl

theorem Strand.wake_empty {t : Strand} (h : t.queue = []) : t.wake = { t with park := .none } := by
  simp [Strand.wake, Strand.vectorPark, h]

/-- No stack that has failed, retired frame or page stands in a place for tables (log 8). -/
theorem State.placeBelow_spec (s : State) (n align : Nat) : ∀ (fuel top a : Nat), s.placeBelow n align fuel top = some a →
    ∀ i, i < (a + n - 1) / 65536 + 1 - a / 65536 → s.obstacle (a / 65536 + i) = none
  | 0, _, _, h => by simp [State.placeBelow] at h
  | fuel + 1, top, a, h => by
    unfold State.placeBelow at h
    split at h
    · exact absurd h (by simp)
    · simp only at h
      split at h
      · rename_i hn
        obtain rfl := Option.some.inj h
        exact fun i hi => List.findSome?_eq_none_iff.1 hn i (List.mem_range.2 hi)
      · exact State.placeBelow_spec s n align fuel _ a h

/-- Memory that the Oasis kernel takes is zero, lies where kplace says, and nothing else changes. -/
theorem State.kalloc_eq {s : State} {n align a : Nat} (h : s.kplace n align = some a) :
    s.kalloc n align = ({ s with ktop := a, mem := Memory.clear s.mem a n }, a) := by
  simp [State.kalloc, h]

end Sys2Proof.Machine
end

