-- ==== Sys2Proof/Laws/Vector.lean ====
section
/-! SUPPORT. Laws of bit fields and of the elements of vector registers: a read after a write, and what a write leaves alone. -/

namespace Sys2Proof.Machine

/-! ### Bit fields -/

/-- The bits of a register after a field has been replaced. -/
theorem testBit_putField {n : Nat} (x : BitVec n) (lo w v p : Nat) (h : lo + w ≤ n) :
    (putField x lo w v).getLsbD p = if lo ≤ p ∧ p < lo + w then v.testBit (p - lo) else x.getLsbD p := by
  unfold putField
  rw [BitVec.getLsbD_ofNat]
  have hlow : v % 2 ^ w * 2 ^ lo + x.toNat % 2 ^ lo < 2 ^ (lo + w) := by
    have h1 : v % 2 ^ w < 2 ^ w := Nat.mod_lt _ (by positivity)
    have h2 : x.toNat % 2 ^ lo < 2 ^ lo := Nat.mod_lt _ (by positivity)
    calc v % 2 ^ w * 2 ^ lo + x.toNat % 2 ^ lo < v % 2 ^ w * 2 ^ lo + 2 ^ lo := by omega
      _ = (v % 2 ^ w + 1) * 2 ^ lo := by ring
      _ ≤ 2 ^ w * 2 ^ lo := Nat.mul_le_mul_right _ h1
      _ = 2 ^ (lo + w) := by rw [Nat.pow_add, Nat.mul_comm]
  have e : x.toNat / 2 ^ (lo + w) * 2 ^ (lo + w) + v % 2 ^ w * 2 ^ lo + x.toNat % 2 ^ lo =
      2 ^ (lo + w) * (x.toNat / 2 ^ (lo + w)) + (2 ^ lo * (v % 2 ^ w) + x.toNat % 2 ^ lo) := by ring
  rw [e, Nat.testBit_two_pow_mul_add _ (by rw [Nat.mul_comm (2 ^ lo)]; exact hlow),
    Nat.testBit_two_pow_mul_add _ (Nat.mod_lt _ (by positivity))]
  by_cases hp : p < lo
  · have h3 : p < lo + w := by omega
    have h4 : p < n := by omega
    have h5 : ¬(lo ≤ p ∧ p < lo + w) := by omega
    rw [if_pos h3, if_pos hp, if_neg h5, Nat.testBit_mod_two_pow]
    simp [h4, hp, BitVec.getLsbD]
  · by_cases hq : p < lo + w
    · have h4 : p < n := by omega
      have h5 : p - lo < w := by omega
      rw [if_pos hq, if_neg hp, if_pos ⟨by omega, hq⟩, Nat.testBit_mod_two_pow]
      simp [h4, h5]
    · have h5 : ¬(lo ≤ p ∧ p < lo + w) := by omega
      rw [if_neg hq, if_neg h5, Nat.testBit_div_two_pow, show p - (lo + w) + (lo + w) = p by omega]
      by_cases h4 : p < n
      · simp [h4, BitVec.getLsbD]
      · simp [h4, BitVec.getLsbD_of_ge x p (by omega)]

/-- A field by its bits. -/
theorem testBit_getField {n : Nat} (x : BitVec n) (lo w p : Nat) :
    (getField x lo w).testBit p = (decide (p < w) && x.getLsbD (lo + p)) := by
  unfold getField
  rw [Nat.testBit_mod_two_pow, Nat.testBit_div_two_pow, Nat.add_comm p lo]; rfl

/-- A field that has just been written. -/
theorem getField_putField {n : Nat} (x : BitVec n) (lo w v : Nat) (h : lo + w ≤ n) :
    getField (putField x lo w v) lo w = v % 2 ^ w := by
  apply Nat.eq_of_testBit_eq
  intro p
  rw [testBit_getField, testBit_putField x lo w v _ h, Nat.testBit_mod_two_pow]
  by_cases hp : p < w
  · rw [if_pos ⟨by omega, by omega⟩]; simp [hp]
  · simp [hp]

/-- A field apart from the written one. -/
theorem getField_putField_apart {n : Nat} (x : BitVec n) (lo w v l k : Nat) (h : lo + w ≤ n) (hd : l + k ≤ lo ∨ lo + w ≤ l) :
    getField (putField x lo w v) l k = getField x l k := by
  apply Nat.eq_of_testBit_eq
  intro p
  rw [testBit_getField, testBit_getField, testBit_putField x lo w v _ h]
  by_cases hp : p < k
  · rw [if_neg (by omega)]
  · simp [hp]

/-! ### Elements -/

/-- Where element i of a group lies: register and bit position are the ones of R80. -/
theorem elem_fits (i w : Nat) (hw : w = 4 ∨ w = 6 ∨ w = 8 ∨ w = 16 ∨ w = 32 ∨ w = 64) : i % perReg w * w + w ≤ 8192 := by
  rcases hw with rfl | rfl | rfl | rfl | rfl | rfl <;> (unfold perReg; norm_num; omega)

/-- An element that has just been written (R80). -/
theorem VecFile.elem_setElem (f : VecFile) (v i w x : Nat) (hw : w = 4 ∨ w = 6 ∨ w = 8 ∨ w = 16 ∨ w = 32 ∨ w = 64) :
    (f.setElem v i w x).elem v i w = x % 2 ^ w := by
  unfold VecFile.elem VecFile.setElem VecFile.reg
  have h : (Fin.ofNat 32 ((v + i / perReg w) % 32)).val = (v + i / perReg w) % 32 := by simp
  simp only [Vector.getElem_set, h, if_true]
  exact getField_putField _ _ _ _ (elem_fits i w hw)

/-- Another element of the same group and width, in a group that does not wrap around the file. -/
theorem VecFile.elem_setElem_ne (f : VecFile) (v i j w x : Nat) (hw : w = 4 ∨ w = 6 ∨ w = 8 ∨ w = 16 ∨ w = 32 ∨ w = 64)
    (hij : i ≠ j) (hi : v + i / perReg w < 32) (hj : v + j / perReg w < 32) :
    (f.setElem v i w x).elem v j w = f.elem v j w := by
  unfold VecFile.elem VecFile.setElem VecFile.reg
  have h : (Fin.ofNat 32 (v + i / perReg w)).val = v + i / perReg w := by
    simp [Nat.mod_eq_of_lt hi]
  simp only [Vector.getElem_set, Nat.mod_eq_of_lt hi, Nat.mod_eq_of_lt hj, h]
  by_cases hr : v + i / perReg w = v + j / perReg w
  · have hq : i / perReg w = j / perReg w := by omega
    have hm : i % perReg w ≠ j % perReg w := by
      intro e
      apply hij
      rw [← Nat.div_add_mod i (perReg w), ← Nat.div_add_mod j (perReg w), hq, e]
    rw [if_pos hr]
    simp only [hr]
    apply getField_putField_apart _ _ _ _ _ _ (elem_fits i w hw)
    rcases Nat.lt_or_gt_of_ne hm with hlt | hgt
    · right
      calc i % perReg w * w + w = (i % perReg w + 1) * w := by ring
        _ ≤ j % perReg w * w := Nat.mul_le_mul_right _ hlt
    · left
      calc j % perReg w * w + w = (j % perReg w + 1) * w := by ring
        _ ≤ i % perReg w * w := Nat.mul_le_mul_right _ hgt
  · rw [if_neg hr]

/-- A write of an element leaves every mask register. -/
@[simp] theorem VecFile.mbit_setElem (f : VecFile) (v i w x : Nat) (m : MReg) (j : Nat) :
    (f.setElem v i w x).mbit m j = f.mbit m j := rfl

/-- m0 reads as all ones (R37). -/
@[simp] theorem VecFile.mbit_zero (f : VecFile) (i : Nat) : f.mbit 0 i = true := rfl

/-- A bit of a mask that has just been written. -/
theorem VecFile.mbit_setMbit (f : VecFile) (m n : MReg) (i j : Nat) (b : Bool) (hi : i < 16384) :
    (f.setMbit m i b).mbit n j = if n = 0 then true else if n = m ∧ j = i then b else f.mbit n j := by
  unfold VecFile.mbit VecFile.setMbit
  by_cases h0 : n = 0
  · simp [h0]
  · have hz : (n == 0) = false := by simp [h0]
    simp only [hz, Bool.false_or, h0, if_false, Fin.getElem_fin, Vector.getElem_set]
    by_cases hm : m = n
    · subst hm
      simp only [if_true, true_and]
      rw [testBit_putField _ _ _ _ _ (by omega)]
      by_cases hj : j = i
      · subst hj; cases b <;> simp [bitN]
      · rw [if_neg (by omega)]; simp [hj]
    · have hv : m.val ≠ n.val := fun e => hm (Fin.ext e)
      have hn : ¬(n = m ∧ j = i) := fun e => hm e.1.symm
      simp [hv, hn]

end Sys2Proof.Machine
end

