-- ==== Sys2Proof/Tests/Slice0.lean ====
section
/-! SUPPORT. Tests of the model: words written out from the encoding tables of the spec, an ill-formed term for each check,
states that meet the hypotheses of each statement, and single steps on small states. Expected results come from the tables
and rules of the spec. -/

namespace Sys2Proof.Tests

open Sys2Proof.Machine Sys2Proof.Safety

set_option Elab.async false

/-! ### Small states -/

/-- Registers that hold the values of a list, and zero otherwise. -/
def regsOf (l : List (SReg × Word)) : Vector Word 32 := l.foldl (fun v p => v.set p.1 p.2) (Vector.replicate 32 0)

/-- A strand that runs, with a handler, every tile, slot and stream, all accumulator rows, and a grant of one e32 element. -/
def strand0 : Strand :=
  { Strand.empty with
    stat := .running, lim := { tiles := 8, slots := 16, strands := 1 }, trap := { TrapRegs.reset with tvec := 0x1000 },
    grant := { id := 0, len := 1, vtype := 2 },
    csr := { Csrs.reset with acclim := 4096, strmap := 16 * 32, lanew := 8, lanea := 8 } }

/-- That strand, changed, alone in slot 0 of a machine after reset. Its context is the system context. -/
def one (f : Strand → Strand) : State := { State.reset with st := f strand0 }

/-- Such a machine with values in scalar registers. -/
def regs (l : List (SReg × Word)) : State := one fun t => { t with regs := regsOf l }

/-- The base of the core scratchpad. -/
def spad : Word := 0xFE00000000000000

theorem quiet_of (s : State) (h : (s.st.stat = .running ∧ s.st.trap.inh = false ∧ s.st.park = .none ∧ s.st.queue = [] ∧
    s.st.sync = [] ∧ s.st.copies = [] ∧ s.st.cmds = [] ∧ s.st.colls = [] ∧ (∀ n : Fin 16, s.st.streams[n].fifo = []) ∧
    s.ending = [] ∧ s.st.late = [] ∧ s.st.prog = 0 ∧ s.st.goal = 0 ∧ s.st.runAhead = false)) : Quiet s := by
  obtain ⟨a, b, c, d, e, f, g, i, j, k, l⟩ := h
  exact ⟨a, b, c, d, e, f, g, i, j, by simp [k], l⟩

theorem coherent_of (s : State) (h : s.caches.tlb = []) : Coherent s := by intro x hx; simp [h] at hx

theorem walk_rootless (s : State) (c : BitVec 16) (h : (s.ctx? c).bind (·.root) = none) (m : List Host.Cell) (va : Nat) :
    (({ s with mem := m } : State).walkIn c va).1 = (s.walkIn c va).1 := by
  have e : ({ s with mem := m } : State).ctx? c = s.ctx? c := rfl
  simp only [State.walkIn, e, h]

theorem tablesApart_of (s : State) (P : Nat → Prop) (h : (s.ctx? s.st.ctx).bind (·.root) = none) : TablesApart s P :=
  fun m _ va => walk_rootless s _ h m va

theorem tablesOfApart_of (s : State) (c : BitVec 16) (P : Nat → Prop) (h : (s.ctx? c).bind (·.root) = none) :
    TablesOfApart s c P := fun m _ va => walk_rootless s _ h m va

/-- Where one element executes at most, it is element 0. -/
theorem executes_one {s : State} {b : Nat} {m : MReg} {k : Nat} (h : s.st.vlNow = 1) (hk : Executes s b m k) : k = 0 := by
  have := hk.2.1; omega

/-- With every class in mode flag no class acts (R32). -/
theorem not_acts {s : State} (h : s.st.csr.xact = 0) (c : BitVec 6) : ¬Acts s c := by
  rintro ⟨j, _, _, hm⟩; apply hm; simp [mode, h]

/-- A strand in its handler. -/
def inHandler : State := one fun t => { t with trap := { t.trap with inh := true, code := 7, tpc := 0x40, tstat := 2 ^ 26 + 5 } }
/-- A strand without a handler. -/
def noHandler : State := one fun t => { t with trap := .reset }

/-! ### A machine with page tables

Context 1 has a root table at 0x100000 and tables at 0x200000, 0x201000 and 0x202000; its two pages, of 64 KiB
each from address 0, lie at 0x300000 and 0x310000. -/

/-- The bytes of the five entries (R329); q: the first byte of the leaf of page 0. Page 1 may be read, written and fetched. -/
def tables (q : Byte) : List Host.Cell :=
  [(0x100000, 1), (0x100002, 0x20), (0x200000, 1), (0x200001, 0x10), (0x200002, 0x20), (0x201000, 1), (0x201001, 0x20),
    (0x201002, 0x20), (0x202000, q), (0x202002, 0x30), (0x202008, 0x1F), (0x20200A, 0x31)]

/-- Context 1: cluster 0, every partition, one way. -/
def tenant : Context := { Context.system with root := some 0x100000, clu := 1, pcg := BitVec.allOnes 288, ways := 1 }

/-- A machine with that context; its strand, changed, runs in slot 0. -/
def paged (q : Byte) (f : Strand → Strand) : State :=
  { one fun t => { f t with ctx := 1 } with ctxs := [(0, .system), (1, tenant)], mem := tables q }

theorem lookup_off {d : Byte} {k : Nat} : ∀ {l : List Host.Cell}, (∀ p ∈ l, p.1 ≠ k) → lookup d k l = d
  | [], _ => rfl
  | (a, b) :: r, h => by
    rw [lookup, if_neg (h (a, b) (by simp))]
    exact lookup_off fun p hp => h p (by simp [hp])

theorem read_congr {m m' : List Host.Cell} : ∀ {n a}, (∀ b, a ≤ b → b < a + n → Memory.get m b = Memory.get m' b) →
    Memory.read m a n = Memory.read m' a n
  | 0, _, _ => rfl
  | n + 1, a, h => by
    rw [Memory.read, Memory.read, h a (by omega) (by omega), read_congr fun b hb hb' => h b (by omega) (by omega)]

theorem read_tables (q : Byte) (b k : Nat) (hb : b ∈ [0x100000, 0x200000, 0x201000]) (hk : k < 131072)
    (hk' : b = 0x100000 ∨ k < 512) (h0 : k ≠ 0) : Memory.read (tables q) (b + 8 * k) 8 = 0 := by
  have : ∀ j < 8, Memory.get (tables q) (b + 8 * k + j) = 0 := by
    intro j hj
    apply lookup_off
    intro p hp
    simp only [List.mem_cons, List.not_mem_nil, or_false] at hb
    simp only [tables, List.mem_cons, List.not_mem_nil, or_false] at hp
    rcases hp with rfl | rfl | rfl | rfl | rfl | rfl | rfl | rfl | rfl | rfl | rfl | rfl <;> simp only <;> omega
  have e := this 0 (by omega); have e1 := this 1 (by omega); have e2 := this 2 (by omega); have e3 := this 3 (by omega)
  have e4 := this 4 (by omega); have e5 := this 5 (by omega); have e6 := this 6 (by omega); have e7 := this 7 (by omega)
  simp only [Nat.add_zero] at e
  simp only [Memory.read, Nat.add_assoc, Nat.reduceAdd] at *
  simp [*]

theorem read_table (q : Byte) : Memory.read (tables q) 0x100000 8 = 0x200001 ∧ Memory.read (tables q) 0x200000 8 = 0x201001 ∧
    Memory.read (tables q) 0x201000 8 = 0x202001 := by
  simp [Memory.read, Memory.get, tables, lookup, Memory.fresh]

theorem walk_zero (m : List Host.Cell) (va n l a : Nat) (h : Memory.read m (pteAddr l a va) 8 = 0) :
    walkFrom m va (n + 1) l a = (.unmapped, 0, l, pteAddr l a va) := by
  rw [walkFrom, h]; rfl

theorem walk_down (m : List Host.Cell) (va n l a e b : Nat) (h : Memory.read m (pteAddr l a va) 8 = e)
    (ok : pteV (BitVec.ofNat 64 e) = true ∧ pteLeaf (BitVec.ofNat 64 e) = false ∧ tableOk (BitVec.ofNat 64 e) = true ∧ l ≠ 3 ∧
      ptePa (BitVec.ofNat 64 e) = b) : walkFrom m va (n + 1) l a = walkFrom m va n (l + 1) b := by
  obtain ⟨x, y, z, w, rfl⟩ := ok
  rw [walkFrom, h]; simp [x, y, z, w]

theorem walk_last {m m' : List Host.Cell} {va a : Nat}
    (h : Memory.read m (pteAddr 3 a va) 8 = Memory.read m' (pteAddr 3 a va) 8) :
    walkFrom m va 1 3 a = walkFrom m' va 1 3 a := by simp [walkFrom, h]

/-- Stores below the tables, and at or above the page, do not change a walk. -/
theorem walk_apart {m : List Host.Cell} {q : Byte}
    (h : ∀ a, 0x100000 ≤ a → a < 0x300000 → Memory.get m a = Memory.get (tables q) a)
    (va : Nat) : walk m 0x100000 va = walk (tables q) 0x100000 va := by
  have rd : ∀ at_, 0x100000 ≤ at_ ∧ at_ + 8 ≤ 0x300000 → Memory.read m at_ 8 = Memory.read (tables q) at_ 8 := fun at_ ha =>
    read_congr fun b hb hb' => h b (by omega) (by omega)
  have f0 : fld va 55 39 < 131072 := Nat.mod_lt _ (by decide)
  have f1 : fld va 38 30 < 512 := Nat.mod_lt _ (by decide)
  have f2 : fld va 29 21 < 512 := Nat.mod_lt _ (by decide)
  have f3 : fld va 20 16 < 32 := Nat.mod_lt _ (by decide)
  obtain ⟨t0, t1, t2⟩ := read_table q
  have e0 : pteAddr 0 0x100000 va = 0x100000 + 8 * fld va 55 39 := rfl
  have e1 : pteAddr 1 0x200000 va = 0x200000 + 8 * fld va 38 30 := rfl
  have e2 : pteAddr 2 0x201000 va = 0x201000 + 8 * fld va 29 21 := rfl
  have e3 : pteAddr 3 0x202000 va = 0x202000 + 8 * fld va 20 16 := rfl
  have r0 := rd (pteAddr 0 0x100000 va) (by omega)
  have r1 := rd (pteAddr 1 0x200000 va) (by omega)
  have r2 := rd (pteAddr 2 0x201000 va) (by omega)
  have r3 := rd (pteAddr 3 0x202000 va) (by omega)
  unfold walk
  by_cases z : fld va 55 39 = 0
  swap
  · have := read_tables q 0x100000 _ (by simp) f0 (.inl rfl) z
    rw [← e0] at this
    rw [walk_zero _ _ _ _ _ this, walk_zero _ _ _ _ _ (r0.trans this)]
  rw [z] at e0
  have s0 : Memory.read (tables q) (pteAddr 0 0x100000 va) 8 = 0x200001 := by rw [e0]; exact t0
  rw [walk_down _ _ _ _ _ _ 0x200000 s0 (by decide), walk_down _ _ _ _ _ _ 0x200000 (r0.trans s0) (by decide)]
  by_cases z : fld va 38 30 = 0
  swap
  · have := read_tables q 0x200000 _ (by simp) (by omega) (.inr f1) z
    rw [← e1] at this
    rw [walk_zero _ _ _ _ _ this, walk_zero _ _ _ _ _ (r1.trans this)]
  rw [z] at e1
  have s1 : Memory.read (tables q) (pteAddr 1 0x200000 va) 8 = 0x201001 := by rw [e1]; exact t1
  rw [walk_down _ _ _ _ _ _ 0x201000 s1 (by decide), walk_down _ _ _ _ _ _ 0x201000 (r1.trans s1) (by decide)]
  by_cases z : fld va 29 21 = 0
  swap
  · have := read_tables q 0x201000 _ (by simp) (by omega) (.inr f2) z
    rw [← e2] at this
    rw [walk_zero _ _ _ _ _ this, walk_zero _ _ _ _ _ (r2.trans this)]
  rw [z] at e2
  have s2 : Memory.read (tables q) (pteAddr 2 0x201000 va) 8 = 0x202001 := by rw [e2]; exact t2
  rw [walk_down _ _ _ _ _ _ 0x202000 s2 (by decide), walk_down _ _ _ _ _ _ 0x202000 (r2.trans s2) (by decide)]
  exact walk_last r3

theorem get_page {q : Byte} {r : List Host.Cell} (h : ∀ p ∈ r, 0x300000 ≤ p.1) {a : Nat} (ha : a < 0x300000) :
    Memory.get (tables q ++ r) a = Memory.get (tables q) a := by
  have : ∀ l : List Host.Cell, lookup Memory.fresh a (l ++ r) = lookup Memory.fresh a l := by
    intro l
    induction l with
    | nil => exact lookup_off fun p hp => by have := h p hp; omega
    | cons x l ih => simp only [List.cons_append, lookup, ih]
  exact this _

theorem apart_paged {s : State} {q : Byte} {r : List Host.Cell} {P : Nat → Prop} {c : BitVec 16} (hm : s.mem = tables q ++ r)
    (hr : ∀ p ∈ r, 0x300000 ≤ p.1) (hc : (s.ctx? c).bind (·.root) = some 0x100000) (h : ∀ a, P a → 0x300000 ≤ a) :
    TablesOfApart s c P := by
  intro m hm' va
  have e : ({ s with mem := m } : State).ctx? c = s.ctx? c := rfl
  simp only [State.walkIn, e, hc]
  have hs : ∀ a, a < 0x300000 → Memory.get s.mem a = Memory.get (tables q) a := fun a ha => by rw [hm, get_page hr ha]
  rw [walk_apart (m := m) (q := q) fun a _ ha => by rw [hm' a fun hp => by have := h a hp; omega, hs a ha], walk_apart fun a _ ha => hs a ha]

/-- A machine that has the two pages, and no cached translation. -/
def HasPages (s : State) (c : BitVec 16) : Prop :=
  (∀ a, a < 0x300000 → Memory.get s.mem a = Memory.get (tables 0x1F) a) ∧ (s.ctx? c).bind (·.root) = some 0x100000 ∧
    s.caches.tlb = []

theorem leaf_page {s : State} {c : BitVec 16} (h : HasPages s c) {va cache : Nat} (ok : Word → Bool) (hv : va < 65536) :
    s.leafOf cache c va ok = some (0x30001F, 65536) := by
  have f0 : fld va 55 39 = 0 := by simp [fld]; omega
  have f1 : fld va 38 30 = 0 := by simp [fld]; omega
  have f2 : fld va 29 21 = 0 := by simp [fld]; omega
  have f3 : fld va 20 16 = 0 := by simp [fld]; omega
  obtain ⟨t0, t1, t2⟩ := read_table 0x1F
  have t3 : Memory.read (tables 0x1F) 0x202000 8 = 0x30001F := by decide
  have e0 : pteAddr 0 0x100000 va = 0x100000 := by simp [pteAddr, f0]
  have e1 : pteAddr 1 0x200000 va = 0x200000 := by simp [pteAddr, f1]
  have e2 : pteAddr 2 0x201000 va = 0x201000 := by simp [pteAddr, f2]
  have e3 : pteAddr 3 0x202000 va = 0x202000 := by simp [pteAddr, f3]
  have w : (walk s.mem 0x100000 va).1 = .leaf 0x30001F 65536 := by
    rw [walk_apart fun a _ ha => h.1 a ha]
    unfold walk
    rw [walk_down _ _ _ _ _ _ 0x200000 (e0.symm ▸ t0) (by decide), walk_down _ _ _ _ _ _ 0x201000 (e1.symm ▸ t1) (by decide),
      walk_down _ _ _ _ _ _ 0x202000 (e2.symm ▸ t2) (by decide)]
    simp only [walkFrom, e3, t3]
    rfl
  unfold State.leafOf
  rw [h.2.2]
  show (match (s.walkIn c va).1 with | .leaf e size => if pteSt e = 0 then some (e, size) else none | _ => none) = _
  have : (s.walkIn c va).1 = .leaf 0x30001F 65536 := by simp only [State.walkIn, h.2.1, w]
  rw [this]; rfl

theorem place_page {s : State} {w : Who} (h : HasPages s w.ctx) {ea : Nat} (hv : ea < 65536) {k : Acc}
    (hk : k ∈ [Acc.read, .write, .rw]) : s.place w ea k = .ok (0x300000 + ea) := by
  have e : ea % 2 ^ 56 = ea := Nat.mod_eq_of_lt (by omega)
  have e' : ea / 2 ^ 56 = 0 := Nat.div_eq_of_lt (by omega)
  have p : permits 0x30001F k = true := by revert k; decide
  simp only [State.place, e, e', leaf_page h _ hv, p, if_true]
  simp only [show ptePa 0x30001F = 0x300000 from by decide]
  simp [Nat.mod_eq_of_lt hv]

theorem placeEach_page {s : State} {w : Who} (h : HasPages s w.ctx) {k : Acc} (hk : k ∈ [Acc.read, .write, .rw]) :
    ∀ {n ea : Nat}, ea + n ≤ 65536 → s.placeEach w k ea n = .ok ((List.range n).map (0x300000 + ea + ·))
  | 0, _, _ => rfl
  | n + 1, ea, hv => by
    rw [State.placeEach, place_page h (by omega) hk]
    simp only []
    rw [placeEach_page h hk (by omega : ea + 1 + n ≤ 65536), List.range_succ_eq_map]
    simp only [List.map_cons, List.map_map, Nat.add_zero]
    congr 2
    apply List.map_congr_left
    intro i _; simp only [Function.comp]; omega

/-- Where n bytes of page 0 lie. -/
theorem check_page {s : State} {w : Who} (h : HasPages s w.ctx) {k : Acc} (hk : k ∈ [Acc.read, .write, .rw]) {n ea al : Nat}
    (hv : ea + n ≤ 65536) (hn : 0 < n) (ha : ea % al = 0) :
    s.check w ea n al .memory k = .ok ((List.range n).map (0x300000 + ea + ·)) := by
  have l : s.locs w ea n k = .ok ((List.range n).map (0x300000 + ea + ·)) := by
    unfold State.locs
    split
    · rw [place_page h (by omega) hk]
    · have z : (List.range n).findSome? (fun i => (s.noSpace w (ea + i)).map fun c => (c, ea + i)) = none := by
        rw [List.findSome?_eq_none_iff]
        intro i hi
        rw [List.mem_range] at hi
        rw [State.noSpace, if_pos (by omega)]; rfl
      rw [z]; exact placeEach_page h hk hv
  have c : (decide ((0 : Int) ≤ ea) && decide ((ea : Int) < 2 ^ 64)) = true := by
    rw [Bool.and_eq_true, decide_eq_true_eq, decide_eq_true_eq]; omega
  have g : s.locsI w (ea : Int) n k = .ok ((List.range n).map (0x300000 + ea + ·)) := by
    rw [State.locsI, if_pos c, Int.toNat_natCast]; exact l
  rw [← g]
  refine (if_neg ?_).trans (if_neg ?_)
  · rw [not_not]; omega
  · have z : (ea : Int).toNat / 2 ^ 56 = 0 := by rw [Int.toNat_natCast]; omega
    simp only [isWindow, z]
    cases k <;> simp
/-! ### Decoding: one word for each row that has one, written out from R63 -/

/-- Whether each word decodes to the instruction beside it. -/
noncomputable def decodesAll (l : List (Nat × Instr)) : Bool :=
  l.all fun p => match decode p.1 with | .ok j => decide (j = p.2) | .error _ => false

/-- Words of major 0x01 (R63). -/
theorem test_decode_major_01 : decodesAll [
    (0x06766800, .add 19 22 13), (0x06766801, .sub 19 22 13), (0x06766802, .and 19 22 13),
    (0x06766803, .or 19 22 13), (0x06766804, .xor 19 22 13), (0x06766805, .sll 19 22 13),
    (0x06766806, .srl 19 22 13), (0x06766807, .sra 19 22 13), (0x06766808, .slt 19 22 13),
    (0x06766809, .sltn 19 22 13), (0x0676680A, .min 19 22 13), (0x0676680B, .max 19 22 13),
    (0x0676680C, .minn 19 22 13), (0x0676680D, .maxn 19 22 13), (0x0676000E, .clz 19 22), (0x0676000F, .ctz 19 22),
    (0x06760010, .popc 19 22)] = true := by decide

/-- Words of major 0x02 (R63). -/
theorem test_decode_major_02 : decodesAll [
    (0x0A766800, .mul 19 22 13), (0x0A766801, .mulh 19 22 13), (0x0A766802, .mulhn 19 22 13),
    (0x0A766803, .div 19 22 13), (0x0A766804, .divn 19 22 13), (0x0A766805, .rem 19 22 13),
    (0x0A766806, .remn 19 22 13)] = true := by decide

/-- Words of major 0x03 (R63). -/
theorem test_decode_major_03 : decodesAll [
    (0x0E766AC0, .sel 19 22 13 11)] = true := by decide

/-- Words of major 0x04 (R63). -/
theorem test_decode_major_04 : decodesAll [
    (0x1276835B, .addImm 19 22 33627)] = true := by decide

/-- Words of major 0x05 (R63). -/
theorem test_decode_major_05 : decodesAll [
    (0x1676135B, .andImm 19 22 4955), (0x1676335B, .orImm 19 22 4955), (0x1676535B, .xorImm 19 22 4955),
    (0x1676735B, .sltImm 19 22 4955), (0x1676935B, .sltnImm 19 22 4955)] = true := by decide

/-- Words of major 0x06 (R63). -/
theorem test_decode_major_06 : decodesAll [
    (0x1A76003B, .sllImm 19 22 59), (0x1A76103B, .srlImm 19 22 59), (0x1A76203B, .sraImm 19 22 59),
    (0x1A763B5B, .minImm 19 22 2907), (0x1A764B5B, .maxImm 19 22 2907), (0x1A765B5B, .minnImm 19 22 2907),
    (0x1A766B5B, .maxnImm 19 22 2907)] = true := by decide

/-- Words of major 0x07 (R63). -/
theorem test_decode_major_07 : decodesAll [
    (0x1E61035B, .lih 19 66395)] = true := by decide

/-- Words of major 0x08 (R63). -/
theorem test_decode_major_08 : decodesAll [
    (0x2276A35B, .ld 19 22 .w32 9051)] = true := by decide

/-- Words of major 0x09 (R63). -/
theorem test_decode_major_09 : decodesAll [
    (0x2676A35B, .ldn 19 22 .w32 9051)] = true := by decide

/-- Words of major 0x0A (R63). -/
theorem test_decode_major_0a : decodesAll [
    (0x2A76A35B, .st 19 22 .w32 9051)] = true := by decide

/-- Words of major 0x0B (R63). -/
theorem test_decode_major_0b : decodesAll [
    (0x2E7668B0, .amoSwap 19 22 13 .rel .d64), (0x2E7668B1, .amoAdd 19 22 13 .rel .d64),
    (0x2E7668B2, .amoAnd 19 22 13 .rel .d64), (0x2E7668B3, .amoOr 19 22 13 .rel .d64),
    (0x2E7668B4, .amoXor 19 22 13 .rel .d64), (0x2E7668B5, .amoMin 19 22 13 .rel .d64),
    (0x2E7668B6, .amoMax 19 22 13 .rel .d64), (0x2E7668B7, .cas 19 22 13 .rel .d64)] = true := by decide

/-- Words of major 0x0C (R63). -/
theorem test_decode_major_0c : decodesAll [
    (0x3276135B, .beq 19 22 4955), (0x3276335B, .bne 19 22 4955), (0x3276535B, .blt 19 22 4955),
    (0x3276735B, .bge 19 22 4955), (0x3276935B, .bltn 19 22 4955), (0x3276B35B, .bgen 19 22 4955)] = true := by decide

/-- Words of major 0x0D (R63). -/
theorem test_decode_major_0d : decodesAll [
    (0x3661035B, .jal 19 66395)] = true := by decide

/-- Words of major 0x0E (R63). -/
theorem test_decode_major_0e : decodesAll [
    (0x3A76835B, .jalr 19 22 33627)] = true := by decide

/-- Words of major 0x10 (R63). -/
theorem test_decode_major_10 : decodesAll [
    (0x42766800, .fadd 19 22 13), (0x42766801, .fsub 19 22 13), (0x42766802, .fmul 19 22 13),
    (0x42766803, .fdiv 19 22 13), (0x42760004, .fsqrt 19 22), (0x42766805, .fmin 19 22 13),
    (0x42766806, .fmax 19 22 13), (0x42760007, .fclass 19 22), (0x42766808, .fcmpEq 19 22 13),
    (0x42766809, .fcmpLt 19 22 13), (0x4276680A, .fcmpLe 19 22 13)] = true := by decide

/-- Words of major 0x11 (R63). -/
theorem test_decode_major_11 : decodesAll [
    (0x46766AC0, .fma 19 22 13 11)] = true := by decide

/-- Words of major 0x12 (R63). -/
theorem test_decode_major_12 : decodesAll [
    (0x4A760022, .fcvt 19 22 .n32 .f16)] = true := by decide

/-- Words of major 0x13 (R63). -/
theorem test_decode_major_13 : decodesAll [
    (0x4E600042, .csrr 19 .tcause), (0x4C161021, .csrw 22 .xact), (0x4C162022, .csrs 22 .frm),
    (0x4C163041, .csrc 22 .tpc), (0x4C161002, .vstartWrite 22), (0x4C161020, .xflagsWrite 22)] = true := by decide

/-- Words of major 0x14 (R63). -/
theorem test_decode_major_14 : decodesAll [
    (0x52600005, .wid 19 5), (0x52620000, .syscChipNumber 19), (0x52620001, .syscSend 19),
    (0x52620002, .syscMembership 19), (0x5005035B, .trap 66395), (0x50060000, .rett), (0x50080000, .yield),
    (0x500A0000, .exit), (0x50E20005, .unofferedSyscService 7 5)] = true := by decide

/-- Words of major 0x15 (R63). -/
theorem test_decode_major_15 : decodesAll [
    (0x5400092C, .fence .dev 150), (0x56761001, .probe 19 22 .w), (0x54002000, .vfence)] = true := by decide

/-- Words of major 0x17 (R63). -/
theorem test_decode_major_17 : decodesAll [
    (0x5E760011, .setvl 19 22 .x4 .e16), (0x5C766831, .setvlf 3 22 13 .x4 .e16), (0x5CB66840, .setshape 5 22 13)] = true := by decide

/-- Words of major 0x18 (R63). -/
theorem test_decode_major_18 : decodesAll [
    (0x623A4D02, .vadd 17 26 9 5 .w32), (0x623A4D06, .vsub 17 26 9 5 .w32), (0x623A4D0A, .vrsub 17 26 9 5 .w32),
    (0x623A4D0E, .vmul 17 26 9 5 .w32), (0x623A4D12, .vmulh 17 26 9 5 .w32), (0x623A4D76, .vmacc 17 26 9 5 3 .w32),
    (0x623A4D19, .vwmacc 17 26 9 5 .w16), (0x623A4D1E, .vmerge 17 26 9 5 .w32)] = true := by decide

/-- Words of major 0x19 (R63). -/
theorem test_decode_major_19 : decodesAll [
    (0x663A4D02, .vand 17 26 9 5 .w32), (0x663A4D06, .vor 17 26 9 5 .w32), (0x663A4D0A, .vxor 17 26 9 5 .w32),
    (0x663A4D0E, .vsll 17 26 9 5 .w32), (0x663A4D12, .vsrl 17 26 9 5 .w32), (0x663A4D16, .vsra 17 26 9 5 .w32),
    (0x663A4D7A, .vnsra 17 26 9 5 3 .w32)] = true := by decide

/-- Words of major 0x1A (R63). -/
theorem test_decode_major_1a : decodesAll [
    (0x6A3A4D02, .vmin 17 26 9 5 .w32), (0x6A3A4D06, .vmax 17 26 9 5 .w32), (0x6A3A4D0A, .vminn 17 26 9 5 .w32),
    (0x6A3A4D0E, .vmaxn 17 26 9 5 .w32), (0x6A3A4D72, .vsadd 17 26 9 5 3 .w32),
    (0x6A3A4D76, .vssub 17 26 9 5 3 .w32), (0x6A3A4D7A, .vdiv 17 26 9 5 3 .w32),
    (0x6A3A4D7E, .vrem 17 26 9 5 3 .w32)] = true := by decide

/-- Words of major 0x1B (R63). -/
theorem test_decode_major_1b : decodesAll [
    (0x6C7A4D02, .vcmpEq 3 26 9 5 .w32), (0x6C7A4D06, .vcmpNe 3 26 9 5 .w32), (0x6C7A4D0A, .vcmpLt 3 26 9 5 .w32),
    (0x6C7A4D0E, .vcmpLe 3 26 9 5 .w32), (0x6C7A4D12, .vcmpLtn 3 26 9 5 .w32), (0x6C7A4D16, .vcmpLen 3 26 9 5 .w32)] = true := by decide

/-- Words of major 0x1C (R63). -/
theorem test_decode_major_1c : decodesAll [
    (0x723A6D02, .vaddVx 17 26 13 5 .w32), (0x723A6D06, .vsubVx 17 26 13 5 .w32),
    (0x723A6D0A, .vrsubVx 17 26 13 5 .w32), (0x723A6D0E, .vmulVx 17 26 13 5 .w32),
    (0x723A6D12, .vmulhVx 17 26 13 5 .w32), (0x723A6D76, .vmaccVx 17 26 13 5 3 .w32),
    (0x723A6D18, .vwmaccVx 17 26 13 5 .w8), (0x723A6D1E, .vmergeVx 17 26 13 5 .w32)] = true := by decide

/-- Words of major 0x1D (R63). -/
theorem test_decode_major_1d : decodesAll [
    (0x763A6D02, .vandVx 17 26 13 5 .w32), (0x763A6D06, .vorVx 17 26 13 5 .w32),
    (0x763A6D0A, .vxorVx 17 26 13 5 .w32), (0x763A6D0E, .vsllVx 17 26 13 5 .w32),
    (0x763A6D12, .vsrlVx 17 26 13 5 .w32), (0x763A6D16, .vsraVx 17 26 13 5 .w32),
    (0x763A6D7A, .vnsraVx 17 26 13 5 3 .w32)] = true := by decide

/-- Words of major 0x1E (R63). -/
theorem test_decode_major_1e : decodesAll [
    (0x7A3A6D02, .vminVx 17 26 13 5 .w32), (0x7A3A6D06, .vmaxVx 17 26 13 5 .w32),
    (0x7A3A6D0A, .vminnVx 17 26 13 5 .w32), (0x7A3A6D0E, .vmaxnVx 17 26 13 5 .w32),
    (0x7A3A6D72, .vsaddVx 17 26 13 5 3 .w32), (0x7A3A6D76, .vssubVx 17 26 13 5 3 .w32),
    (0x7A3A6D7A, .vdivVx 17 26 13 5 3 .w32), (0x7A3A6D7E, .vremVx 17 26 13 5 3 .w32)] = true := by decide

/-- Words of major 0x1F (R63). -/
theorem test_decode_major_1f : decodesAll [
    (0x7C7A6D02, .vcmpEqVx 3 26 13 5 .w32), (0x7C7A6D06, .vcmpNeVx 3 26 13 5 .w32),
    (0x7C7A6D0A, .vcmpLtVx 3 26 13 5 .w32), (0x7C7A6D0E, .vcmpLeVx 3 26 13 5 .w32),
    (0x7C7A6D12, .vcmpLtnVx 3 26 13 5 .w32), (0x7C7A6D16, .vcmpLenVx 3 26 13 5 .w32)] = true := by decide

/-- Words of major 0x20 (R63). -/
theorem test_decode_major_20 : decodesAll [
    (0x823A4D61, .vfadd 17 26 9 5 3 .bf16), (0x823A4D65, .vfsub 17 26 9 5 3 .bf16),
    (0x823A4D69, .vfmul 17 26 9 5 3 .bf16), (0x823A4D6D, .vfdiv 17 26 9 5 3 .bf16),
    (0x823A4D71, .vfmin 17 26 9 5 3 .bf16), (0x823A4D75, .vfmax 17 26 9 5 3 .bf16),
    (0x823A0579, .vfsqrt 17 26 5 3 .bf16), (0x823A051D, .vfclass 17 26 5 .bf16)] = true := by decide

/-- Words of major 0x21 (R63). -/
theorem test_decode_major_21 : decodesAll [
    (0x863A6D61, .vfaddVx 17 26 13 5 3 .bf16), (0x863A6D65, .vfsubVx 17 26 13 5 3 .bf16),
    (0x863A6D69, .vfmulVx 17 26 13 5 3 .bf16), (0x863A6D6D, .vfdivVx 17 26 13 5 3 .bf16),
    (0x863A6D71, .vfminVx 17 26 13 5 3 .bf16), (0x863A6D75, .vfmaxVx 17 26 13 5 3 .bf16)] = true := by decide

/-- Words of major 0x22 (R63). -/
theorem test_decode_major_22 : decodesAll [
    (0x8A3A4D61, .vfma 17 26 9 5 3 .bf16), (0x8A3A4D65, .vfnma 17 26 9 5 3 .bf16),
    (0x8A3A6D69, .vfmaVx 17 26 13 5 3 .bf16), (0x8A3A6D6D, .vfnmaVx 17 26 13 5 3 .bf16),
    (0x887A4D71, .vfcmpEq 3 26 9 5 3 .bf16), (0x887A4D75, .vfcmpLt 3 26 9 5 3 .bf16),
    (0x887A4D79, .vfcmpLe 3 26 9 5 3 .bf16), (0x887A4D7D, .vfcmpUn 3 26 9 5 3 .bf16)] = true := by decide

/-- Words of major 0x23 (R63). -/
theorem test_decode_major_23 : decodesAll [
    (0x8E3A0561, .vfrece 17 26 5 3 .bf16), (0x8E3A0565, .vfrsqe 17 26 5 3 .bf16),
    (0x8E3A0569, .vfexp2 17 26 5 3 .bf16), (0x8E3A056D, .vflog2 17 26 5 3 .bf16),
    (0x8E3A0571, .vftanh 17 26 5 3 .bf16), (0x8E3A0575, .vfsigm 17 26 5 3 .bf16)] = true := by decide

/-- Words of major 0x24 (R63). -/
theorem test_decode_major_24 : decodesAll [
    (0x923A6D62, .vcvt 17 26 .n16 5 3 .f16)] = true := by decide

/-- Words of major 0x25 (R63). -/
theorem test_decode_major_25 : decodesAll [
    (0x96208661, .vbq 17 0 .i4 6 3 true), (0x963A3664, .vbdq 17 26 .e2m3 6 3),
    (0x941A5B69, .vhad 0 26 11 false true true 3 .bf16), (0x963A8D0C, .vpack 17 26 .n4 5),
    (0x963A2D10, .vunpk 17 26 .e3m2 5), (0x96207514, .vrng 17 .n32 5)] = true := by decide

/-- Words of major 0x26 (R63). -/
theorem test_decode_major_26 : decodesAll [
    (0x9A3A4D00, .vgather 17 26 9 5), (0x9A3A0501, .vcompress 17 26 5), (0x9A3A0502, .vexpand 17 26 5),
    (0x9A260503, .viota 17 6 5), (0x9A200504, .vid 17 5), (0x9A360505, .vbcast 17 22 5), (0x9A360006, .vmvx 17 22),
    (0x9A7A6807, .vrds 19 26 13)] = true := by decide

/-- Words of major 0x27 (R63). -/
theorem test_decode_major_27 : decodesAll [
    (0x9E3A1570, .vredsum 17 26 .w32 5 3 true), (0x9E3A1512, .vredmax 17 26 .w32 5 true),
    (0x9E3A1514, .vredmin 17 26 .w32 5 true), (0x9E3A1576, .vscan 17 26 .w32 5 3 true),
    (0x9E3A0D78, .vfredsum 17 26 .bf16 5 3 true), (0x9E3A0D7A, .vfredosum 17 26 .bf16 5 3 true),
    (0x9E3A0D7C, .vfredmax 17 26 .bf16 5 3 true), (0x9E3A0D7E, .vfscan 17 26 .bf16 5 3 true)] = true := by decide

/-- Words of major 0x28 (R63). -/
theorem test_decode_major_28 : decodesAll [
    (0xA0661000, .mand 3 6 2), (0xA0661001, .mor 3 6 2), (0xA0661002, .mxor 3 6 2), (0xA0660003, .mnot 3 6),
    (0xA2660004, .mpopc 19 6), (0xA2660005, .mfirst 19 6), (0xA23A6D5E, .vslideup 17 26 13 5 11),
    (0xA23A6D5F, .vslidedn 17 26 13 5 11)] = true := by decide

/-- Words of major 0x29 (R63). -/
theorem test_decode_major_29 : decodesAll [
    (0xA63605AC, .vld 17 22 5 true .e32 .strm2), (0xA6360591, .vst 17 22 5 true .e16),
    (0xA6366D3E, .vlds 17 22 13 5 .e64 .strm2), (0xA6366D03, .vsts 17 22 13 5 .e8)] = true := by decide

/-- Words of major 0x2A (R63). -/
theorem test_decode_major_2a : decodesAll [
    (0xAA364D3C, .vldx 17 22 9 5 .e64 .strm2), (0xAA364D11, .vstx 17 22 9 5 .e16),
    (0xAA36353E, .vldg 17 22 6 5 .e64 .strm2), (0xAA361D23, .vstg 17 22 3 5 .e32)] = true := by decide

/-- Words of major 0x2B (R63). -/
theorem test_decode_major_2b : decodesAll [
    (0xAE266D90, .vldt 17 6 13 5 true .e16), (0xAE266D91, .vstt 17 6 13 5 true .e16)] = true := by decide

/-- Words of major 0x2C (R63). -/
theorem test_decode_major_2c : decodesAll [
    (0xB2364DC3, .vamoSwap 17 22 9 5 true .rel .d64), (0xB2364DC7, .vamoAdd 17 22 9 5 true .rel .d64),
    (0xB2364DCB, .vamoAnd 17 22 9 5 true .rel .d64), (0xB2364DCF, .vamoOr 17 22 9 5 true .rel .d64),
    (0xB2364DD3, .vamoXor 17 22 9 5 true .rel .d64), (0xB2364DD7, .vamoMin 17 22 9 5 true .rel .d64),
    (0xB2364DDB, .vamoMax 17 22 9 5 true .rel .d64), (0xB2364D9F, .vwait 17 22 9 5 .ltn .d64)] = true := by decide

/-- Words of major 0x2D (R63). -/
theorem test_decode_major_2d : decodesAll [
    (0xB6364D02, .vscadd 17 22 9 5 .f32)] = true := by decide

/-- Words of major 0x2E (R63). -/
theorem test_decode_major_2e : decodesAll [
    (0xB8B66800, .tdef 5 22 13), (0xB8B60001, .ttag 5 22), (0xBA660002, .tgtag 19 6), (0xBA660003, .tstat 19 6),
    (0xB8A00004, .twait 5)] = true := by decide

/-- Words of major 0x2F (R63). -/
theorem test_decode_major_2f : decodesAll [
    (0xBC160000, .mclaim 22), (0xBC160001, .mrels 22), (0xBDA60082, .mlds 13 6 true)] = true := by decide

/-- Words of major 0x30 (R63). -/
theorem test_decode_major_30 : decodesAll [
    (0xC1BA6BC4, .mrow 13 26 13 .bf16 8 .sub)] = true := by decide

/-- Words of major 0x31 (R63). -/
theorem test_decode_major_31 : decodesAll [
    (0xC5A66BC8, .mtile 13 6 13 .bf16 true .sub), (0xC6366A01, .macr 17 22 13 .e5m2),
    (0xC41A6A02, .macw 26 13 .e5m2), (0xC4166803, .macz 22 13)] = true := by decide

/-- Words of major 0x32 (R63). -/
theorem test_decode_major_32 : decodesAll [
    (0xCA350005, .push 17 21 5), (0xCA720010, .pop 19 18), (0xC9D60020, .strcfg 14 22)] = true := by decide

/-- Words of major 0x33 (R63). -/
theorem test_decode_major_33 : decodesAll [
    (0xCC01035B, .strbar 66395)] = true := by decide

/-- Words of major 0x34 (R63). -/
theorem test_decode_major_34 : decodesAll [
    (0xD236001C, .cpyv 17 22 3 true), (0xD2360005, .cpyx 17 22 true), (0xD0B60006, .cpyt 5 22 true)] = true := by decide

/-- Words of major 0x36 (R63). -/
theorem test_decode_major_36 : decodesAll [
    (0xDA766800, .qpush 19 22 13), (0xDA766801, .qpop 19 22 13), (0xDA766802, .qpushb 19 22 13),
    (0xDA766803, .qpopb 19 22 13), (0xDA766804, .qsteal 19 22 13), (0xDA760005, .qlen 19 22)] = true := by decide

/-- Words of major 0x37 (R63). -/
theorem test_decode_major_37 : decodesAll [
    (0xDE766800, .dispatch 19 22 13), (0xDE766801, .dret 19 22 13)] = true := by decide

/-- Words of major 0x38 (R63). -/
theorem test_decode_major_38 : decodesAll [
    (0xE2766800, .forkl 19 22 13), (0xE2760001, .joinl 19 22), (0xE2600002, .grpid 19), (0xE0166803, .binit 22 13),
    (0xE2760004, .barv 19 22), (0xE0166805, .bwait 22 13), (0xE2760006, .barw 19 22)] = true := by decide

/-- Words of major 0x39 (R63). -/
theorem test_decode_major_39 : decodesAll [
    (0xE6766800, .skinit 19 22 13), (0xE6364D01, .skupd 17 22 9 5), (0xE6364D02, .skqry 17 22 9 5),
    (0xE6760003, .skadd 19 22), (0xE6760004, .skscl 19 22)] = true := by decide

/-- Words of major 0x3A (R63). -/
theorem test_decode_major_3a : decodesAll [
    (0xE8160000, .setls 22), (0xE8160001, .rngck 22), (0xE8160002, .rngrs 22)] = true := by decide

/-- Words of major 0x3B (R63). -/
theorem test_decode_major_3b : decodesAll [
    (0xEE760000, .ctxhalt 19 22), (0xEE766801, .scrubCluster 19 22 13), (0xEE766802, .auditAppend 19 22 13),
    (0xEE766803, .waysetSet 19 22 13), (0xEE766804, .setroot 19 22 13)] = true := by decide

/-- Words of major 0x3E (R63). -/
theorem test_decode_major_3e : decodesAll [
    (0xFAA5C3F1, .pfx 44418033)] = true := by decide

/-- Words of major 0x3F (R63). -/
theorem test_decode_major_3f : decodesAll [
    (0xFC000EAB, .clh 3755)] = true := by decide

/-- Words that the spec gives in its examples. -/
theorem test_decode_examples : decodesAll [
    (0x1C801235, .lih 4 0x1235), (0x10848000, .addImm 4 4 0x8000), (0x20A28008, .ld 5 2 .w32 8),
    (0x54000BFE, .fence .sys 255), (0x54002000, .vfence), (0x50060000, .rett), (0x500A0000, .exit),
    (0xAD813090, .vldt 12 1 6 0 true .e16), (0xE4430000, .skinit 2 3 0), (0xE5022001, .skupd 8 2 4 0),
    (0xE5422002, .skqry 10 2 4 0), (0xE4450003, .skadd 2 5), (0xE4490004, .skscl 2 9), (0xE8070000, .setls 7),
    (0xD0430000, .cpyv 2 3 0 false), (0xD103001C, .cpyv 8 3 3 true), (0xD0050001, .cpyx 0 5 false),
    (0xD0240002, .cpyt 1 4 false), (0xCA040003, .push 16 4 3), (0xC8B20010, .pop 5 18), (0xC8660020, .strcfg 3 6),
    (0xCC000008, .strbar 8), (0xD8611000, .qpush 3 1 2), (0xD8611001, .qpop 3 1 2), (0xE8090001, .rngck 9),
    (0xE8090002, .rngrs 9)] = true := by decide

/-- Words that R65 reserves are refused by the decoder: majors 0 and 0x16 and 0x35, an operation code above those of a
major, a width code above those of a form, bits that must be zero. -/
theorem test_decode_reserved : ([0, 0x58000000, 0xD4000000, 0x06766812, 0x0A766807, 0x1A767B5B, 0x2676E35B, 0x50060001,
    0x500C0000, 0x54003000, 0xFC000000, 0x0676600E, 0xFFFFFFFF].all fun w =>
      match decode w with | .ok _ => false | .error _ => true) = true := by decide

/-! ### Well-formedness: terms that each check refuses -/

/-- Widths and codes that a form does not take (R63, R111, R132, R135 to R141, R161, R200). -/
theorem test_wf_codes : ([.ldn 1 2 .d64 0, .fcvt 1 2 .i32 .i32, .fcvt 1 2 .i32 .n32, .wid 1 6, .fence .sys 0,
    .vwmacc 1 2 3 0 .w64, .vnsra 1 2 3 0 0 .w64, .vwmaccVx 1 2 3 0 .w64, .vnsraVx 1 2 3 0 0 .w64,
    .vcvt 1 2 .f32 0 0 .f32, .vcvt 1 2 .t2 0 0 .f32, .vcvt 1 2 .f32 0 0 .e8m0, .vbq 1 2 .f32 0 0 false, .vbq 1 2 .i8 0 0 true,
    .vbdq 1 2 .i16 0 0, .vhad 1 2 16 false false false 0 .f32, .vhad 1 2 0 false false false 0 .f16,
    .vhad 1 2 0 true false false 0 .f32, .vhad 1 2 0 false true false 0 .f32, .vpack 1 2 .i8 0, .vunpk 1 2 .i8 0,
    .vrng 1 .bf16 0, .mrow 0 1 2 .bf16 10 .acc] : List Instr).all (fun i => !i.wf) = true := by decide

/-- m0 is no destination (R61). -/
theorem test_wf_masks : ([.setvlf 0 1 2 .x1 .e32, .vcmpEq 0 1 2 0 .w8, .vcmpNe 0 1 2 0 .w8, .vcmpLt 0 1 2 0 .w8,
    .vcmpLe 0 1 2 0 .w8, .vcmpLtn 0 1 2 0 .w8, .vcmpLen 0 1 2 0 .w8, .vcmpEqVx 0 1 2 0 .w8, .vcmpNeVx 0 1 2 0 .w8,
    .vcmpLtVx 0 1 2 0 .w8, .vcmpLeVx 0 1 2 0 .w8, .vcmpLtnVx 0 1 2 0 .w8, .vcmpLenVx 0 1 2 0 .w8, .vfcmpEq 0 1 2 0 0 .f32,
    .vfcmpLt 0 1 2 0 0 .f32, .vfcmpLe 0 1 2 0 0 .f32, .vfcmpUn 0 1 2 0 0 .f32, .mand 0 1 2, .mor 0 1 2, .mxor 0 1 2,
    .mnot 0 1] : List Instr).all (fun i => !i.wf) = true := by decide

/-- Vector memory forms: columns, whole bytes and fields (R160, R161). -/
theorem test_wf_memory : ([.vld 1 2 0 true .e64 .mem, .vld 1 2 0 true .e4 .mem, .vst 1 2 0 true .e64, .vlds 1 2 3 0 .e4 .mem,
    .vsts 1 2 3 0 .e6, .vldx 1 2 3 0 .e6 .mem, .vstx 1 2 3 0 .e4, .vldg 1 2 0 0 .e32 .mem, .vldg 1 2 8 0 .e32 .mem,
    .vldg 1 2 1 0 .e4 .mem, .vstg 1 2 0 0 .e32, .vstg 1 2 9 0 .e32, .vstg 1 2 1 0 .e6, .vldt 1 2 3 0 true .e64,
    .vstt 1 2 3 0 true .e6] : List Instr).all (fun i => !i.wf) = true := by decide

/-- Words about the strand: registers with rows of their own, words of a PUSH, clause headers, services (R39, R63, R68,
R117). -/
theorem test_wf_system : !(Instr.csrw 1 .vstart).wf ∧ !(Instr.csrw 1 .xflags).wf ∧ !(Instr.push 0 31 1).wf ∧
    !(Instr.clh 0).wf ∧ !(Instr.clh 64).wf ∧ !(Instr.unofferedSyscService 1 2).wf ∧ (Instr.push 0 30 1).wf ∧
    (Instr.clh 63).wf ∧ (Instr.unofferedSyscService 1 3).wf := by decide

/-! ### Witnesses: a state and operands that meet the hypotheses of each statement

A witness bears the name of its statement; a statement with several clauses has one for each. -/

/-- A division by zero, the corner of the table of R97. -/
theorem witness_IntegerRegisterForms : regs3 (.div 1 2 3) = some (1, 2, 3) ∧
    op2 (.div 1 2 3) ((regs [(2, 7)]).r 2) ((regs [(2, 7)]).r 3) = some (BitVec.allOnes 64) := by decide

/-- The least immediate of ADD. -/
theorem witness_ImmediateForms : immResult (.addImm 1 2 0x8000) (regs [(2, 5)]) = some (1, BitVec.ofInt 64 (-32763)) := by
  decide

/-- The last eight bytes of the scratchpad: they may be read, written and changed in one. -/
theorem witness_ScalarLoads : ∃ s : State, ∃ ea : Word, ∃ ls, ea = BitVec.ofInt 64 ((s.r 2).toInt + (immOf s.st 14 8).toInt) ∧
    ea.toNat % LW.d64.bytes = 0 ∧ s.locs s.me ea.toNat LW.d64.bytes .read = .ok ls ∧
    ls = (List.range 8).map (spadAt 0 + 524280 + ·) ∧ NoneLate s ls :=
  ⟨regs [(2, spad + 524272)], spad + 524280, _, by decide, by decide, by decide, rfl, by intro p h; cases h⟩

/-- The same word while a store of it has been accepted and has not performed. -/
def storing : State := one fun t => { t with
  regs := regsOf [(2, spad + 524272)], late := [((List.range 8).map (spadAt 0 + 524280 + ·), 0x55)], lateOn := true }
theorem witness_ScalarLoads_late : ∃ ea : Word, ∃ ls v,
    ea = BitVec.ofInt 64 ((storing.r 2).toInt + (immOf storing.st 14 8).toInt) ∧ ea.toNat % LW.d64.bytes = 0 ∧
    storing.locs storing.me ea.toNat LW.d64.bytes .read = .ok ls ∧ storing.st.late = [(ls, v)] :=
  ⟨spad + 524280, _, 0x55, by decide, by decide, by decide, rfl⟩

theorem witness_ScalarStores : ∃ s : State, ∃ ea : Word, ∃ ls, ea = BitVec.ofInt 64 ((s.r 2).toInt + (immOf s.st 14 8).toInt) ∧
    ea.toNat % LW.d64.bytes = 0 ∧ s.locs s.me ea.toNat LW.d64.bytes .write = .ok ls ∧
    ls = (List.range 8).map (spadAt 0 + 524280 + ·) ∧ s.st.lateOn = false ∧ NoneLate s ls :=
  ⟨regs [(2, spad + 524272)], spad + 524280, _, by decide, by decide, by decide, rfl, rfl, by intro p h; cases h⟩
theorem witness_ScalarStores_late : ∃ ea : Word, ∃ ls,
    ea = BitVec.ofInt 64 ((storing.r 2).toInt + (immOf storing.st 14 8).toInt) ∧ ea.toNat % LW.d64.bytes = 0 ∧
    storing.locs storing.me ea.toNat LW.d64.bytes .write = .ok ls ∧ storing.st.lateOn = true :=
  ⟨spad + 524280, (List.range 8).map (spadAt 0 + 524280 + ·), by decide, by decide, by decide, rfl⟩

/-- An AMO and a CAS on the last word. -/
theorem witness_ScalarAtomics : ∃ s : State, ∃ ea : Word, ∃ ls, amoRegs (.amoMin 1 3 2 .acq .d64) = some (1, 3, 2, .d64) ∧
    ea = BitVec.ofInt 64 ((s.r 2).toInt + (immOf s.st 0 (0 : BitVec 0)).toInt) ∧ ea.toNat % (MW.d64.bits / 8) = 0 ∧
    s.locs s.me ea.toNat (MW.d64.bits / 8) .rw = .ok ls ∧
    amoNew (.amoMin 1 3 2 .acq .d64) MW.d64.bits (BitVec.ofNat _ (s.get ls)) ((s.r 3).setWidth _) =
      some (BitVec.allOnes 64) ∧ ls = (List.range 8).map (spadAt 0 + 524280 + ·) :=
  ⟨regs [(2, spad + 524280), (3, BitVec.allOnes 64)], spad + 524280, _, by decide, by decide, by decide, by decide, rfl, rfl⟩

/-- A misaligned address, the first address past the window, the first past the global addresses, an unmapped page. -/
theorem witness_ScalarAccessFaults :
    (accessOf (.ld 1 2 .d64 4) (regs [(2, spad)]) = some (spad + 4, 8, .read) ∧ (spad + 4).toNat % 8 ≠ 0 ∧
      HasHandler (regs [(2, spad)])) ∧
    (accessOf (.st 1 2 .d64 0) (regs [(2, spad + 524288)]) = some (spad + 524288, 8, .write) ∧ (spad + 524288).toNat % 8 = 0 ∧
      (regs []).locs (regs []).me (spad + 524288).toNat 8 .write = .error (4, (spad + 524288).toNat) ∧
      HasHandler (regs [(2, spad + 524288)])) ∧
    (accessOf (.cas 1 3 2 .rlx .w32) (regs [(2, 0x100000000000000)]) = some (0x100000000000000, 4, .rw) ∧ (0x100000000000000 : Word).toNat % 4 = 0 ∧
      (regs []).locs (regs []).me (0x100000000000000 : Word).toNat 4 .rw = .error (5, 0x100000000000000) ∧ HasHandler (regs [(2, 0x100000000000000)])) ∧
    (accessOf (.ldn 1 2 .b8 0) (regs []) = some (0, 1, .read) ∧ (0 : Word).toNat % 1 = 0 ∧
      (regs []).locs (regs []).me 0 1 .read = .error (8, 0)) := by
  refine ⟨⟨by decide, by decide, by unfold HasHandler; decide⟩, ⟨by decide, by decide, by decide, by unfold HasHandler; decide⟩,
    ⟨by decide, by decide, by decide, by unfold HasHandler; decide⟩, by decide, by decide, by decide⟩

/-- A store to a page that may be read alone, with room in the log, and with none. -/
def readable : State := paged 0x07 fun t => { t with regs := regsOf [(2, 0x100)] }
def logFull (s : State) : State :=
  { s with hamada := { s.hamada with segs := Vector.replicate 2 { first := 0, entries := [], isSealed := true, trailer := [] } } }
theorem witness_ScalarAccessFaults_violation : ∀ s ∈ [readable, logFull readable],
    accessOf (.st 1 2 .d64 0) s = some (0x100, 8, .write) ∧ (0x100 : Word).toNat % 8 = 0 ∧
      s.locs s.me 0x100 8 .write = .error (9, 0x100) ∧ HasHandler s := by
  unfold HasHandler; decide +kernel
theorem witness_ScalarAccessFaults_log : LogOpen readable ∧ (logFull readable).hamada.places = 0 := by
  unfold LogOpen; decide +kernel

/-- A taken branch and one that is not taken. -/
theorem witness_Branches : ∃ c, branchOf (.bge 1 2 0x1000) (regs [(1, 3)]) = some (c, 0x1000) ∧ c :=
  ⟨_, rfl, by decide⟩
theorem witness_Branches_not : ∃ c, branchOf (.bltn 1 2 1) (regs [(1, 3)]) = some (c, 1) ∧ ¬c :=
  ⟨_, rfl, by decide⟩

/-- JALR to the last word of the global addresses, to a misaligned address, and past the global addresses. -/
theorem witness_Jumps : ([0xFFFFFFFFFFFFFC, 0xFFFFFFFFFFFFFE, 0x100000000000000] : List Word).all (fun x =>
    x == BitVec.ofInt 64 (((regs [(2, x)]).r 2).toInt + (immOf (regs [(2, x)]).st 16 0).toInt)) = true := by decide
theorem witness_Jumps_cases : ((0xFFFFFFFFFFFFFC : Word).toNat % 4 = 0 ∧ (0xFFFFFFFFFFFFFC : Word).toNat < 2 ^ 56) ∧
    ((0xFFFFFFFFFFFFFE : Word).toNat % 4 ≠ 0 ∧ HasHandler (regs [(2, 0xFFFFFFFFFFFFFE)])) ∧
    ((0x100000000000000 : Word).toNat % 4 = 0 ∧ 2 ^ 56 ≤ (0x100000000000000 : Word).toNat ∧ HasHandler (regs [(2, 0x100000000000000)])) := by
  unfold HasHandler; decide

/-- A strand whose class DZ is in trap mode. -/
def trapDz : State := one fun t => { t with regs := regsOf [(2, 0xFFFFFFFF3F800000), (3, 0xFFFFFFFF00000000)], csr := { t.csr with xact := 8 } }

/-- 1 / 0: with no class in trap mode, and with DZ in trap mode. -/
theorem witness_ScalarFloatForms :
    floatOf (.fdiv 1 2 3) (regs [(2, 0xFFFFFFFF3F800000), (3, 0xFFFFFFFF00000000)]) = some (1, 0xFFFFFFFF7F800000, 2) ∧
    NoTrap (regs [(2, 0xFFFFFFFF3F800000), (3, 0xFFFFFFFF00000000)]) 2 := by unfold NoTrap; decide
theorem witness_ScalarFloatForms_trap : floatOf (.fdiv 1 2 3) trapDz = some (1, 0xFFFFFFFF7F800000, 2) ∧
    (2 : BitVec 6).getLsbD 1 = true ∧ mode trapDz 1 = 2 ∧ (∀ j, j < 1 → (2 : BitVec 6).getLsbD j = true → mode trapDz j ≠ 2) ∧
    HasHandler trapDz := by unfold HasHandler; decide

/-- A read of AL and of SHAPE0 with nothing older. -/
theorem witness_ControlRegisterRead : ∀ n ∈ [Csr.al, .shape 0],
    (csrSync n = true → (regs []).st.trap.inh = false → (regs []).st.queue = []) ∧
    (∀ k, n = .shape k → (regs []).st.trap.inh = false → (regs []).st.tiles[k].pending = none) := by
  intro n hn; refine ⟨fun _ _ => rfl, fun k h _ => by clear h hn; revert k; decide⟩

/-- Writes of XACT, FRM and VSTART; a write of a read-only register. -/
theorem witness_ControlRegisterWrite :
    (csrWriteOf (.csrw 2 .xact) (regs [(2, 0xFFF)]) = some (.xact, 0xFFF) ∧ csrWritable .xact = true) ∧
    (csrWriteOf (.csrs 2 .frm) (regs [(2, 5)]) = some (.frm, 5) ∧ csrWritable .frm = true) ∧
    (csrWriteOf (.vstartWrite 2) (regs [(2, 7)]) = some (.vstart, 7) ∧ csrWritable .vstart = true ∧ Quiet (regs [(2, 7)])) ∧
    (csrWriteOf (.csrc 2 .al) (regs []) = some (.al, 0) ∧ csrWritable .al = false ∧ HasHandler (regs [])) := by
  refine ⟨by decide, by decide, ⟨by decide, by decide, quiet_of _ (by decide)⟩, by decide, by decide, by unfold HasHandler; decide⟩

theorem witness_TrapDelivery : HasHandler (regs []) ∧ ¬HasHandler inHandler ∧ ¬HasHandler noHandler := by
  unfold HasHandler; decide

theorem witness_ReturnFromTrap : inHandler.st.trap.inh = true ∧ HasHandler (regs []) := by unfold HasHandler; decide

/-- A clause of seven; a clause header inside a clause. -/
theorem witness_GoverningWords : (Instr.clh 7).wf = true ∧ (regs []).st.clause = none ∧
    (one fun t => { t with clause := some { pos := 1, len := 1, cnt := 0, log := [] } }).st.clause.isSome = true ∧
    HasHandler (one fun t => { t with clause := some { pos := 1, len := 1, cnt := 0, log := [] } }) := by
  unfold HasHandler; decide

/-- SETVL of e6: an AVL of 3 and of 7 (R125). -/
theorem witness_PlainSystemForms : Quiet (regs []) ∧ 3 = grantOf (vlmax 5) .e6 ((regs [(2, 3)]).r 2).toNat ∧
    4 = grantOf (vlmax 5) .e6 ((regs [(2, 7)]).r 2).toNat := ⟨quiet_of _ (by decide), by decide, by decide⟩

/-- The ring with room, and full; a group of one chip, and none. -/
def ringed (n : Nat) : State :=
  { regs [(1, 9)] with
    host := {
      HostLink.reset with trained := true, based := true, sizel := 4, tail := BitVec.ofNat 32 n, base := 0x1000 },
    ctxs := [(0, {
      Context.system with cgroups := [(9, [0, 3])] })] }
theorem witness_SystemServices : Quiet (ringed 0) ∧ (ringed 0).host.ringOpen = true ∧
    (ringed 0).cgroup? 0 ((ringed 0).r 1).toNat = some [0, 3] ∧ Quiet (ringed 16) ∧ (ringed 16).host.ringOpen = false ∧
    (regs []).cgroup? 0 ((regs []).r 1).toNat = none :=
  ⟨quiet_of _ (by decide), by decide, by decide, quiet_of _ (by decide), by decide, by decide⟩

/-- A group of two strands; of one. -/
def grouped (live : List Nat) : State :=
  { one (fun t => { t with gkey := 1 }) with
    groups := [(1, {
      ctx := 0, lid := 1, num := 0, cluster := 0, prio := 0, live := live, saved := [], bars := Vector.replicate 8 .idle })] }
theorem witness_ExitEndsTheStrand : ∀ l : List Nat, l = [0, 8] ∨ l = [0] →
    Quiet (grouped l) ∧ (∀ o ∈ (grouped l).objs, o.st ≠ .retiring) ∧
    ∃ g, (grouped l).group? (grouped l).st.gkey = some g ∧ g.live = l ∧ g.saved = [] := by
  rintro l (rfl | rfl) <;> exact ⟨quiet_of _ (by decide), by decide, _, rfl, rfl, rfl⟩

/-- The record at the end of the scratchpad. -/
theorem witness_GeneratorRecords : ∃ s : State, ∃ ls : List Nat, Quiet s ∧
    spad.toNat + 524256 = ((s.r 2).toNat + 32 * widField s.st.csr.widf s.st.wid 0) % 2 ^ 64 ∧ (spad.toNat + 524256) % 32 = 0 ∧
    s.locs s.me (spad.toNat + 524256) 32 .write = .ok ls ∧ s.locs s.me (spad.toNat + 524256) 32 .read = .ok ls ∧
    s.get ls < 2 ^ 192 :=
  ⟨regs [(2, spad + 524256)], (List.range 32).map (spadAt 0 + 524256 + ·), quiet_of _ (by decide), by decide, by decide, by decide,
    by decide, by decide⟩

/-- A strand that runs ahead of its queue (R29), and one in a handler. -/
theorem witness_CommitCapturesTheEntry : ∀ s, s = (one fun t => { t with runAhead := true }) →
    (Instr.vadd 1 2 3 0 .w32).isVector = true ∧ (∀ d a b g w, Instr.vadd 1 2 3 0 .w32 ≠ .setvlf d a b g w) ∧
    s.st.trap.inh = false ∧ s.st.hasRoom (.vadd 1 2 3 0 .w32) = true ∧ s.st.runAhead = true ∧ s.st.sync = [] ∧
    s.st.park = .none ∧ s.st.late = [] ∧
    inHandler.st.trap.inh = true := by
  rintro s rfl; exact ⟨by decide, by intros; simp, by decide, by decide, by decide, by decide, rfl, rfl, by decide⟩

/-- A division by zero of one element, with and without `.xm1`. -/
theorem witness_IntegerVectorForms : ∀ x ∈ [(0 : MReg), 1], ∃ f, Quiet (regs []) ∧ Granted (regs []) ∧
    intForm (.vdiv 1 2 3 0 x .w32) (regs []) = some f ∧ f.legal = true ∧
    (f.xm = 0 → ∀ k, Executes (regs []) f.start f.m k → ¬Acts (regs []) (f.val k).2) := by
  intro x hx
  refine ⟨_, quiet_of _ (by decide), by unfold Granted; decide, rfl, ?_, fun _ k _ => not_acts (by decide) _⟩
  revert x; decide

theorem witness_FloatVectorForms : ∃ f, Quiet (regs []) ∧ Granted (regs []) ∧
    floatForm (.vfdivVx 1 2 3 0 0 .f32) (regs []) = some f ∧ f.legal = true ∧
    (f.xm = 0 → ∀ k, Executes (regs []) f.start f.m k → ¬Acts (regs []) (f.val k).2) :=
  ⟨_, quiet_of _ (by decide), by unfold Granted; decide, rfl, by decide, fun _ k _ => not_acts (by decide) _⟩

theorem witness_ConversionAndPermutationForms : ∃ f, Quiet (regs []) ∧ Granted (regs []) ∧
    moveForm (.vgather 1 2 3 0) (regs []) = some f ∧ f.legal = true ∧
    (f.xm = 0 → ∀ k, Executes (regs []) f.start f.m k → ¬Acts (regs []) (f.val k).2) :=
  ⟨_, quiet_of _ (by decide), by unfold Granted; decide, rfl, by decide, fun _ k _ => not_acts (by decide) _⟩

theorem witness_MaskDestinationForms : ∃ f, Quiet (regs []) ∧ Granted (regs []) ∧
    maskForm (.vfcmpLt 1 2 3 0 2 .f32) (regs []) = some f ∧ f.legal = true ∧
    (f.xm = 0 → ∀ k, Executes (regs []) (regs []).st.csr.vstart.toNat f.m k → ¬Acts (regs []) (f.rel k).2) :=
  ⟨_, quiet_of _ (by decide), by unfold Granted; decide, rfl, by decide, fun _ k _ => not_acts (by decide) _⟩

/-- Two elements, the divisor of element n zero, DZ in mode x. -/
def divided (n x : Nat) : State := one fun t => { t with
  grant := { id := 0, len := 2, vtype := 2 }, csr := { t.csr with xact := BitVec.ofNat 12 (x * 4) },
  vec := (t.vec.setElem 3 (1 - n) 32 1).setElem 2 n 32 7 }
theorem acts_div (n x : Nat) (h : (n = 0 ∨ n = 1) ∧ (x = 1 ∨ x = 2)) :
    let s := divided n x
    ∃ f, Quiet s ∧ Granted s ∧ HasHandler s ∧ intForm (.vdiv 1 2 3 0 0 .w32) s = some f ∧ f.legal = true ∧ f.xm = 0 ∧
      f.start = 0 ∧ Executes s f.start f.m n ∧ (f.val n).2.getLsbD 1 = true ∧ mode s 1 = x ∧
      (∀ j, j < 6 → (f.val n).2.getLsbD j = true → j = 1) ∧ ∀ j, j < n → Executes s f.start f.m j → ¬Acts s (f.val j).2 := by
  rcases h with ⟨rfl | rfl, rfl | rfl⟩ <;>
  · refine ⟨_, quiet_of _ (by decide), by unfold Granted; decide, by unfold HasHandler; decide, rfl, by decide, rfl, rfl,
      by unfold Executes; decide, by decide +kernel, by decide, by decide +kernel, ?_⟩
    intro j hj _
    first
      | omega
      | (obtain rfl : j = 0 := by omega
         unfold Acts; decide +kernel)
/-- DZ at element 1 in mode trim; at the leading element; at element 1 in mode trap. -/
theorem witness_ShorteningAndTrapMode : ∀ p ∈ [(1, 1), (0, 1), (1, 2)], ∃ f, Quiet (divided p.1 p.2) ∧ Granted (divided p.1 p.2) ∧
    intForm (.vdiv 1 2 3 0 0 .w32) (divided p.1 p.2) = some f ∧ f.legal = true ∧ f.xm = 0 ∧
    Executes (divided p.1 p.2) f.start f.m p.1 ∧
    (∃ j, j < 6 ∧ (f.val p.1).2.getLsbD j = true ∧ (mode (divided p.1 p.2) j = 1 ∨ mode (divided p.1 p.2) j = 2)) ∧
    (∀ j, j < p.1 → Executes (divided p.1 p.2) f.start f.m j → ¬Acts (divided p.1 p.2) (f.val j).2) ∧
    ((p.2 = 1 ∧ ∀ j, j < 6 → (f.val p.1).2.getLsbD j = true → mode (divided p.1 p.2) j ≠ 2) ∨
      (p.2 = 2 ∧ mode (divided p.1 p.2) 1 = 2 ∧ ∀ j, j < 1 → (f.val p.1).2.getLsbD j = true → mode (divided p.1 p.2) j ≠ 2)) ∧
    (p.1 = f.start ↔ p.1 = 0) ∧ HasHandler (divided p.1 p.2) := by
  intro p hp
  obtain ⟨f, a, b, h, c, d, e, g, i, j, k, l, m⟩ := acts_div p.1 p.2 (by revert p; decide)
  have hm : p.2 = 1 ∨ p.2 = 2 := by clear a b h c d e g i j k l m f; revert p; decide
  refine ⟨f, a, b, c, d, e, i, ⟨1, by decide, j, by rw [k]; exact hm⟩, m, ?_, by rw [g], h⟩
  by_cases hx : p.2 = 1
  · exact .inl ⟨hx, fun q hq hb => by rw [l q hq hb, k, hx]; decide⟩
  · have hx : p.2 = 2 := by omega
    exact .inr ⟨hx, by rw [k, hx], fun q hq hb => absurd (l q (by omega) hb) (by omega)⟩

/-- A signalling NaN, or the greatest e32 value and one, with the class in mode trim. -/
def raising (c x y : Nat) : State := one fun t => { t with
  csr := { t.csr with xact := BitVec.ofNat 12 (4 ^ c) }, vec := (t.vec.setElem 2 0 32 x).setElem 1 0 32 y }
theorem witness_ShorteningAndTrapMode_mask : ∀ s, s = raising 0 0x7F800001 0 → ∃ f, Quiet s ∧ Granted s ∧
    maskForm (.vfcmpLt 1 2 3 0 0 .f32) s = some f ∧ f.legal = true ∧ f.xm = 0 ∧ Executes s s.st.csr.vstart.toNat f.m 0 ∧
    Stops s (f.rel 0).2 ∧ ∀ j, j < 0 → Executes s s.st.csr.vstart.toNat f.m j → ¬Acts s (f.rel j).2 := by
  rintro s rfl
  exact ⟨_, quiet_of _ (by decide), by unfold Granted; decide, rfl, by decide, rfl, by unfold Executes; decide,
    ⟨0, by decide, by decide +kernel, .inl (by decide)⟩, by intro j hj; omega⟩
theorem witness_ShorteningAndTrapMode_ordered : ∀ b i, (b = false ∧ i = Instr.vredsum 1 2 .w32 0 0 false) ∨
    (b = true ∧ i = .vscan 1 2 .w32 0 0 false) → ∀ s, s = raising 5 0x7FFFFFFF 1 → ∃ p, Quiet s ∧ Granted s ∧
    redFields i s = some (1, 2, 0, 0, false, p) ∧ redKind i = (if b then .scan else .ordered) ∧
    legalOps s i 1 p.w [(2, p.w)] false 0 0 = true ∧ TakesPart s 0 false 0 ∧ Stops s (stepCls s b 1 2 0 false p 0) ∧
    ∀ j, j < 0 → TakesPart s 0 false j → ¬Acts s (stepCls s b 1 2 0 false p j) := by
  rintro b i (⟨rfl, rfl⟩ | ⟨rfl, rfl⟩) s rfl <;>
    exact ⟨_, quiet_of _ (by decide), by unfold Granted; decide, rfl, rfl, by decide, by unfold TakesPart; decide,
      ⟨5, by decide, by decide +kernel, .inl (by decide)⟩, by intro j hj; omega⟩
theorem witness_ShorteningAndTrapMode_tree : ∀ s, s = raising 0 0x7F800001 0 → ∃ p sg, Quiet s ∧ Granted s ∧
    redFields (.vfredsum 1 2 .f32 0 0 false) s = some (1, 2, 0, 0, false, p) ∧ redKind (.vfredsum 1 2 .f32 0 0 false) = .tree ∧
    legalOps s (.vfredsum 1 2 .f32 0 0 false) 1 p.w [(2, p.w)] false 0 0 = true ∧ s.st.csr.vstart.toNat < s.st.vlNow ∧
    sg = segments s.st.vec 0 false s.st.csr.vstart.toNat s.st.vlNow ∧ (0, 0, 1) ∈ sg ∧ max 0 s.st.csr.vstart.toNat ≤ 0 ∧
    Stops s (treeTo s 1 2 0 false p 0 0 1).2 ∧
    (∀ x ∈ sg, ∀ q, max x.2.1 s.st.csr.vstart.toNat ≤ q → q < x.2.2 → q < 0 → ¬Acts s (treeTo s 1 2 0 false p x.1 x.2.1 (q + 1)).2) := by
  rintro s rfl
  exact ⟨_, _, quiet_of _ (by decide), by unfold Granted; decide, rfl, rfl, by decide, by decide, rfl, by decide, by decide,
    ⟨0, by decide, by decide +kernel, .inl (by decide)⟩, by intro x _ q _ _ hq; omega⟩

/-- VSTART at the length; a source group that the destination overlaps in part. -/
theorem witness_RetiringAndIllegalEntries :
    (∃ f, Quiet (one fun t => { t with csr := { t.csr with vstart := 1 } }) ∧
      intForm (.vadd 1 2 3 0 .w32) (one fun t => { t with csr := { t.csr with vstart := 1 } }) = some f ∧
      (one fun t => { t with csr := { t.csr with vstart := 1 } }).st.vlNow ≤
        (one fun t => { t with csr := { t.csr with vstart := 1 } }).st.csr.vstart.toNat) ∧
    (∃ f, Quiet (regs []) ∧ intForm (.vwmacc 2 3 4 0 .w32) (regs []) = some f ∧ f.legal = false ∧
      (regs []).st.csr.vstart.toNat < (regs []).st.vlNow ∧ HasHandler (regs [])) :=
  ⟨⟨_, quiet_of _ (by decide), rfl, by decide⟩, _, quiet_of _ (by decide), rfl, by decide, by decide, by unfold HasHandler; decide⟩

theorem witness_CompressForm : Quiet (regs []) ∧ Granted (regs []) ∧ (regs []).st.csr.vstart = 0 ∧
    legalOps (regs []) (.vcompress 1 2 0) 1 (grantWidth (regs []).st.grant.vtype) [(2, grantWidth (regs []).st.grant.vtype)]
      false 0 0 = true := ⟨quiet_of _ (by decide), by unfold Granted; decide, by decide, by decide⟩

theorem witness_ScalarMoves : Quiet (regs []) ∧ Granted (regs []) ∧ (regs []).st.csr.vstart = 0 ∧ 0 < (regs []).st.vlNow ∧
    legalOps (regs []) (.vmvx 1 2) 1 (grantWidth (regs []).st.grant.vtype) [] true 0 0 = true ∧
    legalOps (regs []) (.vrds 1 31 2) 31 (grantWidth (regs []).st.grant.vtype) [] true 0 0 = true :=
  ⟨quiet_of _ (by decide), by unfold Granted; decide, by decide, by decide, by decide, by decide⟩

/-- An ordered reduction, a scan and a tree reduction by segments. -/
theorem witness_ReductionsAndScans : ∀ i, i = Instr.vredsum 1 2 .w32 0 0 false ∨ i = .vfscan 1 2 .f32 0 0 true ∨
    i = .vfredsum 1 2 .f32 0 0 true → ∃ g p, Quiet (regs []) ∧ Granted (regs []) ∧
    redFields i (regs []) = some (1, 2, 0, 0, g, p) ∧ legalOps (regs []) i 1 p.w [(2, p.w)] false 0 0 = true ∧
    (regs []).st.csr.xact = 0 ∧ (regs []).st.csr.vstart.toNat < (regs []).st.vlNow := by
  rintro i (rfl | rfl | rfl) <;>
    exact ⟨_, _, quiet_of _ (by decide), by unfold Granted; decide, rfl, by decide, by decide, by decide⟩

/-- The three with `.xm1`, the classes they raise in mode trap: `.xm1` takes them, and nothing traps. -/
theorem witness_ReductionsAndScans_mask : ∀ i, i = Instr.vredsum 1 2 .w32 0 1 false ∨ i = .vfscan 1 2 .f32 0 1 true ∨
    i = .vfredsum 1 2 .f32 0 1 true → ∀ s, s = one (fun t => { (raising 0 0x7F800001 0).st with csr := { t.csr with xact := 0xAAA } }) →
    ∃ g p, Quiet s ∧ Granted s ∧ redFields i s = some (1, 2, 0, 1, g, p) ∧ legalOps s i 1 p.w [(2, p.w)] false 0 1 = true ∧
    s.st.csr.vstart.toNat < s.st.vlNow := by
  rintro i (rfl | rfl | rfl) s rfl <;>
    exact ⟨_, _, quiet_of _ (by decide), by unfold Granted; decide, rfl, by decide, by decide⟩
/-- A machine whose register 2 names the last four bytes of the scratchpad. -/
def atEnd : State := regs [(2, spad + 524284)]

/-- The places of those bytes. -/
def lastFour : List Nat := [spadAt 0 + 524284, spadAt 0 + 524285, spadAt 0 + 524286, spadAt 0 + 524287]

/-- What an element of one field takes from memory, and from the strip buffer. -/
theorem loaded_memory {s : State} {f : MemForm} {k : Nat} {v : Nat → Nat} {ls : List Nat} (hn : f.n = 1)
    (hb : s.buffered f.port (f.place k 0).1 ((f.n - 1) * (f.w.bits / 8) + (f.place k 0).2.1) = none)
    (h : fieldCheck s f .read k 0 = .ok ls) (hv : v 0 = s.get ls) : Loaded s f k v := by
  constructor
  · intro y hy; rw [hb] at hy; cases hy
  · intro _ x hx
    obtain rfl : x = 0 := by omega
    exact ⟨ls, h, hv⟩
theorem loaded_buffer {s : State} {f : MemForm} {k y : Nat} {v : Nat → Nat} (hn : f.n = 1)
    (hb : s.buffered f.port (f.place k 0).1 ((f.n - 1) * (f.w.bits / 8) + (f.place k 0).2.1) = some y)
    (hv : v 0 = y) : Loaded s f k v := by
  constructor
  · intro z hz x hx
    obtain rfl : x = 0 := by omega
    rw [hb] at hz; cases hz; simpa using hv
  · intro h; rw [hb] at h; cases h

/-- A unit load of the last element. -/
theorem witness_VectorLoads : ∃ f, ∃ v : Nat → Nat → Nat, Quiet atEnd ∧ Granted atEnd ∧ Coherent atEnd ∧ isLoad (.vld 1 2 0 false .e32 .mem) = true ∧
    memForm (.vld 1 2 0 false .e32 .mem) atEnd = some f ∧ f.legal = true ∧
    (∀ k, Executes atEnd atEnd.st.csr.vstart.toNat f.m k → Loaded atEnd f k (v k)) := by
  refine ⟨_, fun _ _ => 0, quiet_of _ (by decide), by unfold Granted; decide, coherent_of _ rfl, rfl, rfl, by decide, ?_⟩
  intro k h
  obtain rfl := executes_one (by decide) h
  exact loaded_memory rfl (ls := lastFour) rfl (by decide +kernel) (by decide)

/-- Port 0 reads one element at the end of the scratchpad, and its strip buffer holds it. -/
def striped : State := one fun t => { t with
  regs := regsOf [(2, spad + 524284)], csr := { t.csr with strmap := 16 * 32 },
  streams := t.streams.set 0 { t.streams[0] with
    st := .running, base := spad + 524284, count := 2, stride := 4, width := 2, depth := 2, slen := 1, buf := [(0, 0x12345678)] } }
theorem witness_VectorLoads_buffered : ∃ f, Quiet striped ∧ Granted striped ∧ Coherent striped ∧
    memForm (.vld 1 2 0 false .e32 .strm0) striped = some f ∧ f.legal = true ∧
    (striped.buffered f.port (f.place 0 0).1 ((f.n - 1) * (f.w.bits / 8) + (f.place 0 0).2.1)) = some 0x12345678 ∧
    (∀ k, Executes striped striped.st.csr.vstart.toNat f.m k → Loaded striped f k fun _ => 0x12345678) := by
  refine ⟨_, quiet_of _ (by decide), by unfold Granted; decide, coherent_of _ rfl, rfl, by decide, by decide +kernel, ?_⟩
  intro k h
  obtain rfl := executes_one (by decide) h
  exact loaded_buffer rfl (y := 0x12345678) (by decide +kernel) rfl

theorem witness_VectorStores : ∃ f, ∃ ls : Nat → Nat → List Nat, Quiet atEnd ∧ Granted atEnd ∧ Coherent atEnd ∧ isStore (.vst 1 2 0 false .e32) = true ∧
    memForm (.vst 1 2 0 false .e32) atEnd = some f ∧ f.legal = true ∧
    TablesApart atEnd (fun a => ∃ k x, Moves atEnd f k x ∧ a ∈ ls k x) ∧
    (∀ k x, Moves atEnd f k x → (ls k x).Nodup ∧ fieldCheck atEnd f .write k x = .ok (ls k x)) := by
  refine ⟨_, fun _ _ => lastFour, quiet_of _ (by decide),
    by unfold Granted; decide, coherent_of _ rfl, rfl, rfl, by decide, tablesApart_of _ _ rfl, ?_⟩
  intro k x h
  obtain rfl := executes_one (by decide) h.1
  obtain rfl : x = 0 := Nat.lt_one_iff.mp h.2
  exact ⟨by decide, by decide +kernel⟩

/-- Two elements, the second past the window; the leading one misaligned; a page that may only be fetched. -/
def across : State := one fun t => { t with grant := { t.grant with len := 2 }, regs := regsOf [(2, spad + 524284)] }
def askew : State := regs [(2, spad + 2)]
def textual : State := paged 0x13 fun t => t

/-- A form of one field that fails there. -/
theorem fails_one {s : State} {f : MemForm} {a : Acc} {k c b : Nat} (hn : f.n = 1) (h : fieldCheck s f a k 0 = .error (c, b)) :
    Fails s f a k 0 c b := by
  refine ⟨by omega, h, fun y c' b' hy h' => ?_⟩
  obtain rfl : y = 0 := by omega
  rw [h] at h'; cases h'
  exact ⟨fun hy => absurd hy (by omega), id⟩

/-- Element k of a load is the first that fails, with a cause at a byte. -/
def FaultingLoad (s : State) (k cause byte : Nat) : Prop := ∃ f, ∃ v : Nat → Nat → Nat, Quiet s ∧ Granted s ∧ Coherent s ∧
  memForm (.vld 1 2 0 false .e32 .mem) s = some f ∧ f.legal = true ∧ Executes s s.st.csr.vstart.toNat f.m k ∧
  s.buffered f.port (f.place k 0).1 ((f.n - 1) * (f.w.bits / 8) + (f.place k 0).2.1) = none ∧ Fails s f .read k 0 cause byte ∧
  (∀ j, j < k → Executes s s.st.csr.vstart.toNat f.m j → Loaded s f j (v j)) ∧ HasHandler s

/-- Causes 4, 7, 8 and 9, at the second element and at the leading one; cause 9 with room in the log, and with none. -/
theorem witness_VectorAccessFaults : FaultingLoad across 1 4 (spad.toNat + 524288) ∧ 1 ≠ across.st.csr.vstart.toNat := by
  refine ⟨⟨_, fun _ _ => 0, quiet_of _ (by decide), by unfold Granted; decide, coherent_of _ rfl, rfl, by decide,
    by unfold Executes; decide, rfl, fails_one rfl (by decide +kernel), ?_, by unfold HasHandler; decide⟩, by decide⟩
  intro j hj _
  obtain rfl : j = 0 := by omega
  exact loaded_memory rfl (ls := lastFour) rfl (by decide +kernel) (by decide)
theorem witness_VectorAccessFaults_leading : FaultingLoad askew 0 7 (spad.toNat + 2) ∧ FaultingLoad (regs []) 0 8 0 := by
  constructor <;>
    exact ⟨_, fun _ _ => 0, quiet_of _ (by decide), by unfold Granted; decide, coherent_of _ rfl, rfl, by decide,
      by unfold Executes; decide, rfl, fails_one rfl (by decide +kernel), fun j hj _ => by omega, by unfold HasHandler; decide⟩
theorem witness_VectorAccessFaults_violation : FaultingLoad textual 0 9 0 ∧ FaultingLoad (logFull textual) 0 9 0 ∧
    LogOpen textual ∧ (logFull textual).hamada.places = 0 := by
  refine ⟨?_, ?_, by unfold LogOpen; decide, by decide⟩ <;>
    exact ⟨_, fun _ _ => 0, quiet_of _ (by decide), by unfold Granted; decide, coherent_of _ rfl, rfl, by decide,
      by unfold Executes; decide, rfl, fails_one rfl (by decide +kernel), fun j hj _ => by omega, by unfold HasHandler; decide⟩

/-- Element k of a store is the first that fails. -/
def FaultingStore (s : State) (k cause byte : Nat) : Prop := ∃ f, ∃ ls : Nat → Nat → List Nat, Quiet s ∧ Granted s ∧ Coherent s ∧
  memForm (.vst 1 2 0 false .e32) s = some f ∧ f.legal = true ∧ Executes s s.st.csr.vstart.toNat f.m k ∧
  TablesApart s (fun a => ∃ j y, (Moves s f j y ∧ j < k) ∧ a ∈ ls j y) ∧ Fails s f .write k 0 cause byte ∧
  (∀ j y, Moves s f j y → j < k → (ls j y).Nodup ∧ fieldCheck s f .write j y = .ok (ls j y)) ∧ HasHandler s

theorem witness_VectorAccessFaults_store : FaultingStore across 1 4 (spad.toNat + 524288) := by
  refine ⟨_, fun _ _ => lastFour, quiet_of _ (by decide), by unfold Granted; decide, coherent_of _ rfl, rfl, by decide,
    by unfold Executes; decide, tablesApart_of _ _ rfl, fails_one rfl (by decide +kernel), ?_, by unfold HasHandler; decide⟩
  intro j y h hj
  obtain rfl : j = 0 := by omega
  obtain rfl : y = 0 := Nat.lt_one_iff.mp h.2
  exact ⟨by decide, by decide +kernel⟩
theorem witness_VectorAccessFaults_storeLeading : FaultingStore askew 0 7 (spad.toNat + 2) ∧ FaultingStore (regs []) 0 8 0 := by
  constructor <;>
    exact ⟨_, fun _ _ => [], quiet_of _ (by decide), by unfold Granted; decide, coherent_of _ rfl, rfl, by decide,
      by unfold Executes; decide, tablesApart_of _ _ rfl, fails_one rfl (by decide +kernel), fun j _ _ hj => by omega,
      by unfold HasHandler; decide⟩
theorem witness_VectorAccessFaults_storeViolation : ∀ s, s = readable ∨ s = logFull readable → FaultingStore s 0 9 0x100 := by
  rintro s (rfl | rfl) <;>
    exact ⟨_, fun _ _ => [], quiet_of _ (by decide), by unfold Granted; decide, coherent_of _ rfl, rfl, by decide,
      by unfold Executes; decide, apart_paged (q := 0x07) (r := []) rfl (by simp) rfl (by rintro a ⟨_, _, _, ha⟩; simp at ha),
      fails_one rfl (by decide +kernel), fun j _ _ hj => by omega, by unfold HasHandler; decide⟩

/-- A base that `.col` finds misaligned. -/
theorem witness_VectorAccessFaults_base : Quiet askew ∧ Granted askew ∧ HasHandler askew ∧
    ((askew.entry (.vld 1 2 0 true .e32 .mem)).group 1 EW.e32.bits).ok = true ∧
    srcPort .mem (askew.entry (.vld 1 2 0 true .e32 .mem)) = none ∧
    ((askew.entry (.vst 1 2 0 true .e32)).group 1 EW.e32.bits).ok = true ∧
    (((askew.r 2).toNat : Int) + offOf askew) % (EW.e32.bits / 8 : Nat) ≠ 0 ∧
    Executes askew askew.st.csr.vstart.toNat 0 askew.st.csr.vstart.toNat :=
  ⟨quiet_of _ (by decide), by unfold Granted; decide, by unfold HasHandler; decide, by decide, by decide, by decide,
    by decide +kernel, by unfold Executes; decide⟩

/-- A tile of one 64-row block in the scratchpad, of one row and one element. -/
def tileDef (rows len tag : Nat) : TileDef :=
  { base := spad, rb := 1, rows := rows, len := len, tag := BitVec.ofNat 9 tag, bitmap := BitVec.allOnes 16384 }
def tiled (st : TileSt) (d : TileDef) (l : List (SReg × Word)) : State :=
  one fun t => { t with tiles := t.tiles.set 1 { cur := d, st := st, pending := none }, regs := regsOf l }

theorem witness_TileSlices : ∀ c : Bool, ∀ s, s = tiled .ready (tileDef 1 4 0) [] → Quiet s ∧ Granted s ∧ TileReady s 1 ∧
    legalOps s (.vldt 1 1 2 0 c .e32) 1 EW.e32.bits [] true 0 0 = true ∧
    (0 < if c then s.st.tiles[(1 : TReg)].cur.rows else rowElems s.st.tiles[(1 : TReg)].cur.len .e32) ∧
    (∀ k, Executes s s.st.csr.vstart.toNat 0 k →
      (sliceOfTile s.st.tiles[(1 : TReg)].cur .e32 c (s.r 2).toNat k).1 < s.st.tiles[(1 : TReg)].cur.rows ∧
      (sliceOfTile s.st.tiles[(1 : TReg)].cur .e32 c (s.r 2).toNat k).2 < rowElems s.st.tiles[(1 : TReg)].cur.len .e32) := by
  rintro c s rfl
  refine ⟨quiet_of _ (by decide), by unfold Granted; decide, ⟨by decide, by decide, ?_⟩, by revert c; decide, by revert c; decide, ?_⟩
  · intro r c r' c' hr hc hr' hc'
    have e : (tiled .ready (tileDef 1 4 0) []).st.tiles[(1 : TReg)].cur = tileDef 1 4 0 := rfl
    rw [e] at hr hc hr' hc' ⊢
    have : ∀ a < 4, ∀ b < 4, (tiled .ready (tileDef 1 4 0) []).tileByte (tiled .ready (tileDef 1 4 0) []).me (tileDef 1 4 0) 0 a =
      (tiled .ready (tileDef 1 4 0) []).tileByte (tiled .ready (tileDef 1 4 0) []).me (tileDef 1 4 0) 0 b → a = b := by decide
    intro h
    obtain rfl : r = 0 := by simpa [tileDef] using hr
    obtain rfl : r' = 0 := by simpa [tileDef] using hr'
    exact ⟨rfl, this c hc c' hc' h⟩
  · intro k hk
    obtain rfl := executes_one (by decide) hk
    revert c; decide

/-- One element at the end of the scratchpad, changed in place. -/
theorem witness_VectorAtomics : ∃ ls : Nat → List Nat, Quiet atEnd ∧ Granted atEnd ∧ Coherent atEnd ∧
    vamoFields (.vamoMin 1 2 3 0 true .rlx .w32) = some (1, 2, 3, 0, true, .w32) ∧
    ((atEnd.entry (.vamoMin 1 2 3 0 true .rlx .w32)).group 1 MW.w32.bits).ok = true ∧
    indexOk (atEnd.entry (.vamoMin 1 2 3 0 true .rlx .w32)) 1 3 MW.w32.bits = true ∧
    TablesApart atEnd (fun p => ∃ k, Executes atEnd atEnd.st.csr.vstart.toNat 0 k ∧ p ∈ ls k) ∧
    (∀ k, Executes atEnd atEnd.st.csr.vstart.toNat 0 k →
      atEnd.check atEnd.me (indexedAt atEnd 2 3 MW.w32.bits k) (MW.w32.bits / 8) (MW.w32.bits / 8) .any .rw = .ok (ls k)) ∧
    (∀ k j, Executes atEnd atEnd.st.csr.vstart.toNat 0 k → Executes atEnd atEnd.st.csr.vstart.toNat 0 j → k ≠ j →
      ∀ p ∈ ls k, p ∉ ls j) := by
  refine ⟨fun _ => [spadAt 0 + 524284, spadAt 0 + 524285, spadAt 0 + 524286, spadAt 0 + 524287], quiet_of _ (by decide),
    by unfold Granted; decide, coherent_of _ rfl, rfl, by decide, by decide, tablesApart_of _ _ rfl, ?_, ?_⟩
  · intro k h; obtain rfl := executes_one (by decide) h; decide +kernel
  · intro k j h h' hn; exact absurd ((executes_one (by decide) h).trans (executes_one (by decide) h').symm) hn

/-- Register 2 names the last word of the page. -/
def lastWord : State := paged 0x1F fun t => { t with regs := regsOf [(2, 0xFFFC)] }

/-- Memory holds 0: the condition eq is met and ne is not. -/
theorem witness_WaitAndScatter : ∃ ls : Nat → List Nat, Quiet lastWord ∧ Granted lastWord ∧
    (∀ c, ((lastWord.entry (.vwait 1 2 3 0 c .w32)).group 1 32).ok = true ∧
      ((lastWord.entry (.vwait 1 2 3 0 c .w32)).group 3 32).ok = true) ∧
    (∀ k, Executes lastWord lastWord.st.csr.vstart.toNat 0 k →
      lastWord.check lastWord.me (indexedAt lastWord 2 3 32 k) 4 4 .memory .read = .ok (ls k)) ∧
    (∀ k, Executes lastWord lastWord.st.csr.vstart.toNat 0 k → condOf .eq 32 (lastWord.get (ls k)) (el lastWord 1 k 32)) ∧
    (∃ k, Executes lastWord lastWord.st.csr.vstart.toNat 0 k ∧ ¬condOf .ne 32 (lastWord.get (ls k)) (el lastWord 1 k 32)) := by
  refine ⟨fun _ => [0x30FFFC, 0x30FFFD, 0x30FFFE, 0x30FFFF], quiet_of _ (by decide),
    by unfold Granted; decide, by intro c; cases c <;> decide, ?_, ?_, 0, by unfold Executes; decide, by unfold condOf; decide +kernel⟩
  · intro k h; obtain rfl := executes_one (by decide) h; decide +kernel
  · intro k h; obtain rfl := executes_one (by decide) h; unfold condOf; decide +kernel

theorem witness_WaitAndScatter_add : ∃ ls : Nat → List Nat, Quiet lastWord ∧ Granted lastWord ∧ Coherent lastWord ∧
    ((lastWord.entry (.vscadd 1 2 3 0 .i32)).group 1 32).ok = true ∧ ((lastWord.entry (.vscadd 1 2 3 0 .i32)).group 3 32).ok = true ∧
    TablesApart lastWord (fun p => ∃ k, Executes lastWord lastWord.st.csr.vstart.toNat 0 k ∧ p ∈ ls k) ∧
    (∀ k, Executes lastWord lastWord.st.csr.vstart.toNat 0 k → lastWord.check lastWord.me (indexedAt lastWord 2 3 (sctBits .i32) k)
      (sctBits .i32 / 8) (sctBits .i32 / 8) .memory .rw = .ok (ls k)) ∧
    (∀ k j, Executes lastWord lastWord.st.csr.vstart.toNat 0 k → Executes lastWord lastWord.st.csr.vstart.toNat 0 j → k ≠ j →
      ∀ p ∈ ls k, p ∉ ls j) := by
  refine ⟨fun _ => [0x30FFFC, 0x30FFFD, 0x30FFFE, 0x30FFFF], quiet_of _ (by decide),
    by unfold Granted; decide, coherent_of _ rfl, by decide, by decide,
    apart_paged (q := 0x1F) (r := []) rfl (by simp) rfl (by rintro a ⟨_, _, ha⟩; simp at ha; omega), ?_, ?_⟩
  · intro k h; obtain rfl := executes_one (by decide) h; decide +kernel
  · intro k j h h' hn; exact absurd ((executes_one (by decide) h).trans (executes_one (by decide) h').symm) hn

/-- A stage over a pair; a block of one. -/
theorem witness_DrawsStagesAndBlocks : Quiet (regs []) ∧ Granted (regs []) ∧
    legalOps (regs []) (.vrng 1 .n32 0) 1 Elem.n32.bits [] true 0 0 = true ∧
    (regs []).st.csr.vstart.toNat < (regs []).st.vlNow ∧ qOk (regs []).st.grant.vtype 0 = true ∧
    legalOps (regs []) (.vbq 1 2 .i8 0 0 false) 1 Elem.i8.bits [(2, 32)] false 0 0 = true ∧
    (∀ out : Nat → Nat × BitVec 6, ∀ i, ¬Acts (regs []) (out i).2) :=
  ⟨quiet_of _ (by decide), by unfold Granted; decide, by decide, by decide, by decide, by decide,
    fun _ _ => not_acts (by decide) _⟩
theorem witness_DrawsStagesAndBlocks_stage : ∀ s, s = across → Quiet s ∧ Granted s ∧ s.st.csr.vstart.toNat < s.st.vlNow ∧
    s.st.vlNow % 2 ^ (0 + 1) = 0 ∧ ((s.entry (.vhad 1 2 0 false false false 0 .f32)).group 1 32).ok = true ∧
    ((s.entry (.vhad 1 2 0 false false false 0 .f32)).group 2 32).ok = true ∧
    ((s.entry (.vhad 1 2 0 false false false 0 .f32)).group 2 32).overlapOk
      ((s.entry (.vhad 1 2 0 false false false 0 .f32)).group 1 32) false = true ∧
    (∀ i, ¬Acts s (hadOut s 2 0 false false .f32 i).2) ∧
    -- from and to VC
    emul s.st.grant.vtype FF.f32.bits = 1 ∧ s.st.vec.vcFmt = .f32 := by
  rintro s rfl
  exact ⟨quiet_of _ (by decide), by unfold Granted; decide, by decide, by decide, by decide, by decide, by decide,
    fun _ => not_acts (by decide) _, by decide, by decide⟩

/-- A list of one fibre of three elements; a list of which the second fibre is 0. -/
def fibres (b : Word) : State := { regs [(2, spad), (3, b)] with mem := [(spadAt 0, 3)] }
theorem witness_FibreGrants : ∃ f : Nat → Nat, ∀ b : Word, b = 1 ∨ b = 2 →
    Quiet (fibres b) ∧ Coherent (fibres b) ∧ (2 : BitVec 5) = BitVec.ofNat 5 (EW.e32.code + 8 * Grp.x1.code) ∧
    1 ≤ ((fibres b).r 3).toNat ∧ fibreStart f 1 ≤ vlmax 2 ∧
    (∀ i, i < 1 → f i ≠ 0 ∧ ∃ ls, (fibres b).check (fibres b).me ((((fibres b).r 2).toNat : Int) + 4 * (i : Nat)) 4 4 .any .read = .ok ls ∧
      (fibres b).get ls = f i) ∧
    (1 = ((fibres b).r 3).toNat ∨ (0 < 1 ∧ ∃ ls, (fibres b).check (fibres b).me ((((fibres b).r 2).toNat : Int) + 4 * (1 : Nat)) 4 4 .any
      .read = .ok ls ∧ ((fibres b).get ls = 0 ∨ vlmax 2 < fibreStart f 1 + (fibres b).get ls))) := by
  refine ⟨fun _ => 3, ?_⟩
  rintro b (rfl | rfl)
  · refine ⟨quiet_of _ (by decide), coherent_of _ rfl, by decide, by decide, by decide, ?_, .inl (by decide)⟩
    intro i hi; obtain rfl : i = 0 := by omega
    exact ⟨by decide, [spadAt 0, spadAt 0 + 1, spadAt 0 + 2, spadAt 0 + 3], by decide +kernel, by decide⟩
  · refine ⟨quiet_of _ (by decide), coherent_of _ rfl, by decide, by decide, by decide, ?_, .inr ⟨by decide,
      [spadAt 0 + 4, spadAt 0 + 5, spadAt 0 + 6, spadAt 0 + 7], by decide +kernel, .inl (by decide)⟩⟩
    intro i hi; obtain rfl : i = 0 := by omega
    exact ⟨by decide, [spadAt 0, spadAt 0 + 1, spadAt 0 + 2, spadAt 0 + 3], by decide +kernel, by decide⟩

/-- A tile of the given state, its registers: SETSHAPE and the queries; TDEF of the last block of the window, of 0 and of
5 blocks, at a misaligned base, and outside the windows. -/
theorem witness_TileTable : ∀ s, s = tiled .ready (tileDef 1 4 8) [(2, spad + 458752), (3, 1)] → Quiet s ∧ Readable s 1 ∧
    1 ≤ (s.r 3).toNat ∧ (s.r 3).toNat ≤ 4 ∧ (s.r 2).toNat % 4096 = 0 ∧ 0xFC ≤ (s.r 2).toNat / 2 ^ 56 ∧
    (s.r 2).toNat / 2 ^ 56 ≤ 0xFE ∧ (∃ l, s.place s.me ((s.r 2).toNat + 65536 * (s.r 3).toNat - 1) .read = .ok l) ∧
    (s.r 2).toNat % 2 ^ 56 / 2 ^ 20 = ((s.r 2).toNat % 2 ^ 56 + 65536 * (s.r 3).toNat - 1) / 2 ^ 20 := by
  rintro s rfl
  exact ⟨quiet_of _ (by decide), by unfold Readable; decide, by decide, by decide, by decide, by decide, by decide,
    ⟨spadAt 0 + 524287, by decide⟩, by decide⟩
theorem witness_TileTable_states : (∀ st : TileSt, Quiet (tiled st (tileDef 1 4 8) [])) ∧
    Readable (tiled .draining (tileDef 1 4 8) []) 1 ∧ (1 < (tiled .empty (tileDef 1 4 8) []).st.lim.tiles ∧
    (tiled .empty (tileDef 1 4 8) []).st.tiles[(1 : TReg)].st = .empty) :=
  ⟨fun st => quiet_of _ (by cases st <;> decide), by unfold Readable; decide, by decide⟩
theorem witness_TileTable_traps : ∀ p ∈ [(spad, (0 : Word)), (spad, 5), (spad + 2048, 4), (0, 4), (0xFF00000000000000, 1)],
    HasHandler (tiled .ready (tileDef 1 4 8) [(2, p.1), (3, p.2)]) ∧ (p.2.toNat = 0 ∨ 4 < p.2.toNat ∨ p.1.toNat % 4096 ≠ 0 ∨
      (p.1.toNat % 4096 = 0 ∧ (p.1.toNat / 2 ^ 56 < 0xFC ∨ p.1.toNat / 2 ^ 56 = 0xFF))) := by
  intro p hp
  simp only [List.mem_cons, List.not_mem_nil, or_false] at hp
  rcases hp with rfl | rfl | rfl | rfl | rfl <;> (unfold HasHandler; decide)
/-- Tags: e2m1 with half sparsity on zero blocks; an element code above 18, sparsity code 3, a bit above the field. -/
theorem witness_TileTable_tags : ∀ s, s = tiled .ready (tileDef 1 4 8) [(2, 39), (3, 19), (4, 96), (5, 512)] →
    Quiet s ∧ Readable s 1 ∧ HasHandler s ∧
    ((s.r 2).toNat < 512 ∧ (s.r 2).toNat % 32 < 19 ∧ (s.r 2).toNat / 32 % 4 ≠ 3 ∧ ∃ bm,
      s.bitmapFor s.me { s.st.tiles[(1 : TReg)].cur with tag := (s.r 2).setWidth 9 } ((s.r 2).toNat / 32 % 4) = some bm) ∧
    19 ≤ (s.r 3).toNat % 32 ∧ (s.r 4).toNat / 32 % 4 = 3 ∧ 512 ≤ (s.r 5).toNat := by
  rintro s rfl
  refine ⟨quiet_of _ (by decide), by unfold Readable; decide, by unfold HasHandler; decide, ⟨by decide, by decide, by decide, ?_⟩,
    by decide, by decide, by decide⟩
  exact Option.isSome_iff_exists.mp (by decide +kernel)
/-- A region past the end of the core scratchpad, and one that crosses 1 MiB of the cluster scratchpad; an empty tile. -/
theorem witness_TileTable_bounds : ∀ p ∈ [(spad + 458752, (2 : Word)), (0xFD000000000FF000, 1)], ∀ s,
    s = tiled .ready (tileDef 1 4 8) [(2, p.1), (3, p.2)] → Quiet s ∧ Readable s 1 ∧ HasHandler s ∧ 1 ≤ (s.r 3).toNat ∧
    (s.r 3).toNat ≤ 4 ∧ (s.r 2).toNat % 4096 = 0 ∧ 0xFC ≤ (s.r 2).toNat / 2 ^ 56 ∧ (s.r 2).toNat / 2 ^ 56 ≤ 0xFE ∧
    ((∀ l, s.place s.me ((s.r 2).toNat + 65536 * (s.r 3).toNat - 1) .read ≠ .ok l) ∨
      (s.r 2).toNat % 2 ^ 56 / 2 ^ 20 ≠ ((s.r 2).toNat % 2 ^ 56 + 65536 * (s.r 3).toNat - 1) / 2 ^ 20) := by
  rintro p hp s rfl
  simp only [List.mem_cons, List.not_mem_nil, or_false] at hp
  rcases hp with rfl | rfl
  · refine ⟨quiet_of _ (by decide), by unfold Readable; decide, by unfold HasHandler; decide, by decide, by decide, by decide, by decide,
      by decide, .inl ?_⟩
    intro l h
    have q : Except.isOk (State.place (tiled .ready (tileDef 1 4 8) [(2, spad + 458752), (3, 2)])
      (State.me (tiled .ready (tileDef 1 4 8) [(2, spad + 458752), (3, 2)]))
      (((tiled .ready (tileDef 1 4 8) [(2, spad + 458752), (3, 2)]).r 2).toNat +
        65536 * ((tiled .ready (tileDef 1 4 8) [(2, spad + 458752), (3, 2)]).r 3).toNat - 1) .read) = false := by decide +kernel
    rw [h] at q
    cases q
  · exact ⟨quiet_of _ (by decide), by unfold Readable; decide, by unfold HasHandler; decide, by decide, by decide, by decide, by decide,
      by decide, .inr (by decide)⟩
theorem witness_TileTable_empty : ∀ s, s = tiled .empty (tileDef 1 4 8) [] → tableForm (.ttag 1 2) = some 1 ∧ Quiet s ∧
    HasHandler s ∧ s.st.tiles[(1 : TReg)].st = .empty := by
  rintro s rfl; exact ⟨rfl, quiet_of _ (by decide), by unfold HasHandler; decide, by decide⟩
theorem witness_TileTable_limit : ∀ s, s = (one fun t => { t with lim := { t.lim with tiles := 1 } }) →
    tableForm (.twait 1) = some 1 ∧ Quiet s ∧ HasHandler s ∧ s.st.lim.tiles ≤ 1 := by
  rintro s rfl; exact ⟨rfl, quiet_of _ (by decide), by unfold HasHandler; decide, by decide⟩

/-- Operand slots of the core: slot 0 holds a format and has an owner. -/
def slotted (fmt owner : Nat) (l : List (SReg × Word)) : State :=
  { tiled .ready (tileDef 1 4 8) l with oslots := [(0, { OpSlot.empty with fmt := fmt, owner := some owner })] }
/-- A claim of all slots; a claim that waits for slot 0; a release; a mask above the slots; a fill from an i8 tile. -/
theorem witness_OperandSlots : ∀ s, s = regs [(2, 0xFFFF), (3, 0x10000)] → Quiet s ∧ (s.r 2).toNat < 2 ^ 16 ∧
    (List.range 16).countP (fun n => (s.r 2).getLsbD n) ≤ s.st.lim.slots ∧ s.r 2 ≠ 0 ∧
    (∀ n, n < 16 → (s.oslot n).owner = some s.slot → (s.r 2).getLsbD n = true) ∧ (∀ k ∈ s.claims, coreOf k ≠ coreOf s.slot) ∧
    (∀ n, n < 16 → (s.r 2).getLsbD n = true → (s.oslot n).owner = none ∨ (s.oslot n).owner = some s.slot) ∧
    HasHandler s ∧ 2 ^ 16 ≤ (s.r 3).toNat := by
  rintro s rfl
  exact ⟨quiet_of _ (by decide), by decide, by decide, by decide, by decide, by decide, by decide, by unfold HasHandler; decide, by decide⟩
theorem witness_OperandSlots_wait : ∀ s, s = slotted 8 1 [(2, 1)] → Quiet s ∧ (s.r 2).toNat < 2 ^ 16 ∧
    (List.range 16).countP (fun n => (s.r 2).getLsbD n) ≤ s.st.lim.slots ∧ s.r 2 ≠ 0 ∧
    (∀ n, n < 16 → (s.oslot n).owner = some s.slot → (s.r 2).getLsbD n = true) ∧ (∀ k ∈ s.claims, coreOf k ≠ coreOf s.slot) ∧
    (∃ n, n < 16 ∧ (s.r 2).getLsbD n = true ∧ (s.oslot n).owner ≠ none ∧ (s.oslot n).owner ≠ some s.slot) := by
  rintro s rfl
  exact ⟨quiet_of _ (by decide), by decide, by decide, by decide, by decide, by decide, 0, by decide⟩
theorem witness_OperandSlots_fill : ∀ s, s = slotted 8 0 [] → Quiet s ∧ Readable s 1 ∧ (s.oslot 0).owner = some s.slot ∧
    slotScales? (tagFmt s.st.tiles[(1 : TReg)].cur.tag) = some 3 ∧ codeBits (tagFmt s.st.tiles[(1 : TReg)].cur.tag) = 8 ∧
    tagSp s.st.tiles[(1 : TReg)].cur.tag = 0 := by
  rintro s rfl
  exact ⟨quiet_of _ (by decide), by unfold Readable; decide, by decide, by decide, by decide, by decide⟩

/-- R192, R197: 96 bytes of a column of a half bf16 slot end behind element 15 of its second kept block (log 54). -/
theorem test_half_column : ∀ o, o = { OpSlot.empty with fmt := 13, sp := 1, fill := 3, cols := Vector.replicate 128 (5 * 2 ^ 752) } →
    o.elem 0 79 = 5 ∧ o.elem 0 80 = (Config.slotRest 3 0 80).toNat ∧ overfills 0x2D = true ∧ overfills 0x0D = false := by
  rintro o rfl
  exact ⟨by decide +kernel, rfl, by decide, by decide⟩

/-- Rows 4,095 and 0 and the slot in mode i8. -/
theorem witness_MatrixAndAccumulator : ∀ s, s = slotted 8 0 [(2, 0x8FFF), (3, BitVec.ofInt 64 (-256)), (4, 4095), (5, 1)] →
    Quiet s ∧ Granted s ∧ s.st.csr.vstart = 0 ∧ (s.oslot 0).owner = some s.slot ∧ (s.oslot 0).fmt = (modeInfo .i8).slot.code ∧
    ¬(MMode.i8 = .t2 ∧ (s.oslot 0).sp = 2) ∧ (s.r 2).toNat < 2 ^ 16 ∧ 4095 = (s.r 2).toNat % 4096 ∧ 0 = (s.r 2).toNat / 2 ^ 12 % 8 ∧
    s.st.csr.accbase.toNat ≤ 4095 ∧ 4095 < s.st.csr.acclim.toNat ∧ (0 : Fin 16).val * 96 % (modeInfo .i8).span (s.oslot 0) = 0 ∧
    ((s.entry (.mrow 0 1 2 .i8 0 .acc)).group 1 8).ok = true ∧
    0 + (modeInfo .i8).elems (s.oslot 0) ≤ emul s.st.grant.vtype 8 * perReg (modeInfo .i8).act.bits ∧
    0 + (0 / (modeInfo .i8).block + (modeInfo .i8).elems (s.oslot 0) / (modeInfo .i8).block - 1) / 64 ≤ 7 ∧
    (∀ c, ¬Acts s c) := by
  rintro s rfl
  refine ⟨quiet_of _ (by decide), by unfold Granted; decide, ?_⟩
  iterate 13 refine ⟨by decide, ?_⟩
  exact not_acts (by decide)
theorem witness_MatrixAndAccumulator_tile : ∀ s, s = slotted 8 0 [(2, 0xFFF), (3, BitVec.ofInt 64 (-256)), (4, 4095), (5, 1)] →
    Quiet s ∧ Granted s ∧ Readable s 1 ∧ tagFmt s.st.tiles[(1 : TReg)].cur.tag = (modeInfo .i8).act.code ∧ (s.r 2).toNat < 2 ^ 12 ∧
    (∀ p ∈ s.st.trims, p.1 ≠ s.st.grant.id) ∧ s.st.csr.vstart.toNat < s.st.tiles[(1 : TReg)].cur.rows ∧
    s.st.csr.accbase.toNat ≤ (s.r 2).toNat ∧ (s.r 2).toNat + s.st.tiles[(1 : TReg)].cur.rows ≤ s.st.csr.acclim.toNat ∧
    -- MACR, MACW and MACZ of row 4,095
    s.st.csr.accbase.toNat ≤ (s.r 4).toNat ∧ (s.r 4).toNat < s.st.csr.acclim.toNat ∧ -256 ≤ (s.r 3).toInt ∧ (s.r 3).toInt ≤ 255 ∧
    ((s.entry (.macr 1 4 3 .f32)).group 1 (rcodeElem .f32).bits).ok = true ∧
    ((s.entry (.macw 1 4 .f32)).group 1 (rcodeElem .f32).bits).ok = true ∧ s.st.csr.acclim.toNat ≤ 4096 ∧
    (s.r 4).toNat + (s.r 5).toNat ≤ s.st.csr.acclim.toNat := by
  rintro s rfl
  exact ⟨quiet_of _ (by decide), by unfold Granted; decide, by unfold Readable; decide, by decide⟩

/-- A descriptor of one 32-bit element in the last 128 bytes of the scratchpad; one of zeros, which has no element. -/
def described (l : List Host.Cell) : State := { tiled .ready (tileDef 1 4 8) [(2, spad + 524160)] with mem := l }
def desc1 : List Host.Cell := [(1, 1), (7, 0xFE), (16, 2), (48, 1), (64, 4), (96, 1)].map fun p => (spadAt 0 + 524160 + p.1, p.2)
theorem witness_CopyIssue : ∀ s, s = described desc1 → ∃ x ls c u v w, Quiet s ∧
    s.check s.me (s.r 2).toNat 128 128 .any .read = .ok ls ∧ x = BitVec.ofNat 1024 (s.get ls) ∧ copyBad x = false ∧
    copyForm (.cpyv 1 2 0 true) s x = some (2, c, True, u, s.st.tiles) ∧ u ∧
    (copyForm (.cpyx 1 2 false) s x).map (·.1) = some 2 ∧ copyForm (.cpyt 1 2 true) s x = some (2, v, Readable s 1, w,
      s.st.tiles.set 1 { s.st.tiles[(1 : TReg)] with st := .draining }) ∧ w ∧ Readable s 1 := by
  rintro s rfl
  refine ⟨_, (List.range 128).map (spadAt 0 + 524160 + ·), _, _, _, _, quiet_of _ (by decide), by decide +kernel, rfl,
    by decide +kernel, rfl, ?_, rfl, rfl, ?_, by unfold Readable; decide⟩
  · exact ⟨by decide, by decide, by decide +kernel, by decide +kernel⟩
  · refine ⟨fun j hj => ?_, by decide +kernel⟩
    have e : copyTotal (BitVec.ofNat 1024 ((described desc1).get ((List.range 128).map (spadAt 0 + 524160 + ·)))) = 1 := by
      decide +kernel
    have hj : j < 1 := by rw [← e]; exact hj
    obtain rfl : j = 0 := by omega
    decide +kernel
theorem witness_CopyIssue_peer : ∀ s, s = described desc1 → ∃ c u, copyForm (.cpyx 1 2 false) s
    (BitVec.ofNat 1024 (s.get ((List.range 128).map (spadAt 0 + 524160 + ·)))) = some (2, c, True, u, s.st.tiles) ∧ u := by
  rintro s rfl
  exact ⟨_, _, rfl, by decide +kernel⟩
theorem witness_CopyIssue_bad : ∀ s, s = described [] → ∃ ls, Quiet s ∧ s.check s.me (s.r 2).toNat 128 128 .any .read = .ok ls ∧
    copyBad (BitVec.ofNat 1024 (s.get ls)) = true ∧ HasHandler s := by
  rintro s rfl
  exact ⟨(List.range 128).map (spadAt 0 + 524160 + ·), quiet_of _ (by decide), by decide +kernel, by decide +kernel,
    by unfold HasHandler; decide⟩

/-- Two sketches of 3 rows of 64 16-bit counters in page 0, at 0 and at 512, of scales 1 and 0; the last counter of the
second, at 512 + 64 + 382, is 1. x: XACT. -/
def sketches : List Host.Cell :=
  [(0x300000, 1), (0x300002, 0x53), (0x300003, 0x4B), (0x300004, 3), (0x300005, 6), (0x300006, 16), (0x300010, 1),
    (0x300200, 1), (0x300202, 0x53), (0x300203, 0x4B), (0x300204, 3), (0x300205, 6), (0x300206, 16), (0x3003BE, 1)]
def sketched (x : BitVec 12) : State :=
  { paged 0x1F (fun t => { t with
      regs := regsOf [(3, 512), (4, 1), (5, 99), (6, 127), (7, 128)], csr := { t.csr with xact := x } }) with
    mem := tables 0x1F ++ sketches }
def headOf (scale : Int) : SkHead := { d := 3, logw := 6, cw := 16, satr := 0, seed := 0, scale := scale }
def heads (a : Nat) : List Nat := (List.range 64).map (a + ·)
def cells (a : Nat) : List Nat := (List.range 384).map (a + 64 + ·)

theorem cells_nodup (a : Nat) : (heads a ++ cells a).Nodup := by
  have e : heads a ++ cells a = (List.range 448).map (a + ·) := by
    rw [show 448 = 64 + 384 from rfl, List.range_add, List.map_append, List.map_map]
    simp only [heads, cells, Function.comp_def, Nat.add_assoc]
  rw [e]
  exact (List.nodup_range).map fun a b h => by simpa using h

theorem pages_sketched (x : BitVec 12) : HasPages (sketched x) 1 :=
  ⟨fun a ha => get_page (r := sketches) (by decide) ha, rfl, rfl⟩

theorem sketchAt (x : BitVec 12) {k : Acc} (hk : k ∈ [Acc.read, .write, .rw]) :
    SketchAt (sketched x) 0 (headOf 1) k (heads 0x300000) (cells 0x300000) ∧
    SketchAt (sketched x) 512 (headOf 0) k (heads 0x300200) (cells 0x300200) := by
  have h := pages_sketched x
  exact ⟨⟨check_page (w := (sketched x).me) (ea := 0) h hk (by decide) (by decide) (by decide),
      check_page (w := (sketched x).me) (ea := 64) (n := 384) h hk (by decide) (by decide) (by decide), cells_nodup _⟩,
    check_page (w := (sketched x).me) (ea := 512) h hk (by decide) (by decide) (by decide),
    check_page (w := (sketched x).me) (ea := 576) (n := 384) h hk (by decide) (by decide) (by decide), cells_nodup _⟩

/-- A new sketch; a sum in which the last counter of the addend rounds (NX), with NX in mode flag and in mode trap. -/
theorem witness_WholeSketches : ∀ s, s = sketched 0 → Quiet s ∧ SketchAt s (s.r 0) (headOf 0) .write (heads 0x300000) (cells 0x300000) ∧
    (headOf 0).d = (s.r 5).toNat % 16 ∧ (headOf 0).logw = (s.r 5).toNat / 16 % 32 ∧
    (headOf 0).cw = (if (s.r 5).getLsbD 9 then 32 else 16) ∧ (headOf 0).seed = s.r 0 ∧
    (headOf 0).scale = ((s.r 5).extractLsb' 16 16).toInt ∧ (s.r 5).toNat / 2 ^ 10 % 64 = 0 ∧ (s.r 5).toNat < 2 ^ 32 := by
  rintro s rfl
  have h := (sketchAt 0 (k := .write) (by simp)).1
  exact ⟨quiet_of _ (by decide), h, by decide, by decide, by decide, by decide, by decide, by decide, by decide⟩

theorem get_congr {s t : State} (h : s.mem = t.mem) : ∀ l : List Nat, s.get l = t.get l
  | [] => rfl
  | _ :: l => by rw [State.get, State.get, h, get_congr h l]

theorem counters (x : BitVec 12) : ∀ i, i < 192 → counterOf (sketched x) (headOf 1) (cells 0x300000) i = 0 ∧
    counterOf (sketched x) (headOf 0) (cells 0x300200) i = if i = 191 then 1 else 0 := by
  have e : ∀ h cs i, counterOf (sketched x) h cs i = counterOf (sketched 0) h cs i := fun h cs i => by
    unfold counterOf; rw [get_congr (s := sketched x) (t := sketched 0) rfl]
  intro i hi
  rw [e, e]
  revert i
  decide +kernel

theorem union_last {cl : Nat → BitVec 6} (h : ∀ i, i < 192 → cl i = if i = 191 then 16 else 0) : UnionOf (· < 192) cl 16 := by
  intro j hj
  constructor
  · intro hb
    refine ⟨191, by omega, ?_⟩
    rw [h 191 (by omega)]; exact hb
  · rintro ⟨k, hk, hb⟩
    rw [h k hk] at hb
    split at hb
    · exact hb
    · simp at hb
theorem witness_WholeSketches_add : ∀ x : BitVec 12, x = 0 ∨ x = 512 → ∃ z : Nat → Int, ∃ cl : Nat → BitVec 6, Quiet (sketched x) ∧ HasHandler (sketched x) ∧
    SketchAt (sketched x) ((sketched x).r 0) (headOf 1) .rw (heads 0x300000) (cells 0x300000) ∧
    skHead? ((sketched x).get (heads 0x300000)) = some (headOf 1) ∧
    (sketched x).check (sketched x).me ((sketched x).r 3).toNat 64 64 .memory .read = .ok (heads 0x300200) ∧
    skHead? ((sketched x).get (heads 0x300200)) = some (headOf 0) ∧
    (sketched x).check (sketched x).me (((sketched x).r 3).toNat + 64) (3 * 2 ^ 6 * 2) 1 .memory .read = .ok (cells 0x300200) ∧
    (∀ i, z i = counterOf (sketched x) (headOf 1) (cells 0x300000) i +
      scaled (counterOf (sketched x) (headOf 0) (cells 0x300200) i) (0 - 1)) ∧
    (∀ i, cl i = sketchCls (inexact (counterOf (sketched x) (headOf 0) (cells 0x300200) i) (0 - 1)) (skClamp 16 (z i) != z i)) ∧
    UnionOf (· < 192) cl 16 ∧ (x = 0 → NoTrap (sketched x) 16) ∧ (x = 512 → mode (sketched x) 4 = 2 ∧
      (16 : BitVec 6).getLsbD 4 = true ∧ ∀ q, q < 4 → ¬((16 : BitVec 6).getLsbD q = true ∧ mode (sketched x) q = 2)) := by
  intro x hx
  have a := (sketchAt x (k := .rw) (by simp)).1
  have b := (sketchAt x (k := .read) (by simp)).2
  refine ⟨_, _, ?_, ?_, ?_, ?_, ?_, ?_, ?_, fun _ => rfl, fun _ => rfl, union_last fun i hi => ?_, ?_, ?_⟩
  · rcases hx with rfl | rfl <;> exact quiet_of _ (by decide)
  · rcases hx with rfl | rfl <;> (unfold HasHandler; decide)
  · have e : (sketched x).r 0 = 0 := rfl
    rw [e]; exact a
  · rcases hx with rfl | rfl <;> decide +kernel
  · have e : (sketched x).r 3 = 512 := rfl
    rw [e]; exact b.1
  · rcases hx with rfl | rfl <;> decide +kernel
  · have e : (sketched x).r 3 = 512 := rfl
    rw [e]; exact b.2.1
  · simp only [(counters x i hi).1, (counters x i hi).2]; split <;> decide
  · rintro rfl; unfold NoTrap; decide
  · rintro rfl; decide
/-- The second sketch scaled by 2: its last counter rounds. -/
theorem witness_WholeSketches_scale : ∀ x : BitVec 12, x = 0 ∨ x = 512 → ∃ z : Nat → Int, ∃ cl : Nat → BitVec 6, Quiet (sketched x) ∧
    SketchAt (sketched x) ((sketched x).r 3) (headOf 0) .rw (heads 0x300200) (cells 0x300200) ∧
    skHead? ((sketched x).get (heads 0x300200)) = some (headOf 0) ∧ 1 = ((sketched x).r 4).toInt ∧
    (∀ i, z i = scaled (counterOf (sketched x) (headOf 0) (cells 0x300200) i) (-1)) ∧
    (∀ i, cl i = sketchCls (inexact (counterOf (sketched x) (headOf 0) (cells 0x300200) i) (-1)) (skClamp 16 (z i) != z i)) ∧
    UnionOf (· < 192) cl 16 := by
  intro x hx
  have b := (sketchAt x (k := .rw) (by simp)).2
  have h3 : (sketched x).r 3 = 512 := rfl
  refine ⟨_, _, ?_, by rw [h3]; exact b, ?_, ?_, fun _ => rfl, fun _ => rfl, ?_⟩
  · rcases hx with rfl | rfl <;> exact quiet_of _ (by decide)
  · rcases hx with rfl | rfl <;> decide +kernel
  · rcases hx with rfl | rfl <;> decide
  · refine union_last fun i hi => ?_
    simp only [(counters x i hi).2]; split <;> decide

/-- One element updates and asks; loss scales 127 and 128. -/
theorem witness_SketchElements : ∀ s, s = sketched 0 → ∃ key : Nat → Nat, ∃ v : Nat → Val, ∃ run : Nat → Int × Bool, Quiet s ∧ Granted s ∧ Coherent s ∧
    TablesApart s (fun l => l ∈ heads 0x300000 ++ cells 0x300000) ∧ SketchAt s (s.r 0) (headOf 1) .rw (heads 0x300000) (cells 0x300000) ∧
    skHead? (s.get (heads 0x300000)) = some (headOf 1) ∧ ((s.entry (.skupd 1 0 2 0)).group 1 32).ok = true ∧
    ((s.entry (.skupd 1 0 2 0)).group 2 64).ok = true ∧
    [0] = (List.range s.st.vlNow).filter (fun i => decide (s.st.csr.vstart.toNat ≤ i) && allows s 0 i) ∧
    (∀ i, key i = el s 2 i 64) ∧ (∀ i, v i = FP.f32.val (el s 1 i 32)) ∧ -1 = -(s.st.csr.lscale.toInt) - (headOf 1).scale ∧
    (∀ i, run i = updated (headOf 1) key (fun j => increment (v j) (-1)) i [0] (counterOf s (headOf 1) (cells 0x300000) i, false)) ∧
    mode s 5 = 0 ∧ (∀ c, ¬Acts s c) ∧ SketchAt s (s.r 0) (headOf 1) .read (heads 0x300000) (cells 0x300000) ∧
    legalOps s (.skqry 1 0 2 0) 1 32 [(2, 64)] false 0 0 = true ∧ (s.r 6).toInt = 127 ∧ (s.r 7).toInt = 128 ∧ HasHandler s := by
  rintro s rfl
  have a := (sketchAt 0 (k := .rw) (by simp)).1
  have b := (sketchAt 0 (k := .read) (by simp)).1
  refine ⟨_, _, _, quiet_of _ (by decide), by unfold Granted; decide, coherent_of _ rfl, ?_, a, by decide +kernel, by decide, by decide,
    by decide, fun _ => rfl, fun _ => rfl, by decide, fun _ => rfl, by decide, not_acts (by decide), b, by decide, by decide, by decide,
    by unfold HasHandler; decide⟩
  refine apart_paged (q := 0x1F) (r := sketches) rfl (by decide) rfl ?_
  intro l hl
  simp only [heads, cells, List.mem_append, List.mem_map, List.mem_range] at hl
  omega

/-- A stream of two 32-bit elements at port 15. -/
def flow (f : Stream → Stream) : Stream :=
  f { Stream.idle with st := .running, base := spad, count := 2, stride := 4, width := 2, depth := 0, slen := 2 }
def streaming (x : Stream) (l : List (SReg × Word)) : State := one fun t => { t with streams := t.streams.set 15 x, regs := regsOf l }

/-- PUSH of one word that fills a write stream; PUSH to a read stream; the second element of POP from the strip buffer and
from memory; POP from an idle stream. -/
theorem witness_PortForms_streams : ∀ s, s = streaming (flow fun x => { x with write := true, cur := 1 }) [] →
    (∀ n : Fin 16, s.st.streams[n].wfault = none) ∧ (∀ r ∈ s.st.sync, r.src.isPort = false) ∧ LiveStream s 15 ∧ s.st.streams[(15 : Fin 16)].write = true ∧
    s.st.streams[(15 : Fin 16)].cur + s.st.streams[(15 : Fin 16)].fifo.length + 0 + 1 ≤ s.st.streams[(15 : Fin 16)].count ∧
    s.st.streams[(15 : Fin 16)].fifo.length + 0 + 1 ≤ 32 := by
  rintro s rfl; unfold LiveStream; decide
theorem witness_PortForms_read : ∀ s, s = streaming (flow fun x => { x with cur := 1, buf := [(1, 9)] }) [] →
    (∀ n : Fin 16, s.st.streams[n].wfault = none) ∧ (∀ r ∈ s.st.sync, r.src.isPort = false) ∧ LiveStream s 15 ∧ s.st.streams[(15 : Fin 16)].write = false ∧
    s.st.streams[(15 : Fin 16)].cur < s.st.streams[(15 : Fin 16)].count ∧ HasHandler s ∧
    s.st.streams[(15 : Fin 16)].buf.find? (fun e => e.1 = s.st.streams[(15 : Fin 16)].cur) = some (1, 9) := by
  rintro s rfl; unfold LiveStream HasHandler; decide
theorem witness_PortForms_fetch : ∀ s, s = streaming (flow fun x => { x with cur := 1 }) [] →
    (∀ n : Fin 16, s.st.streams[n].wfault = none) ∧ (∀ r ∈ s.st.sync, r.src.isPort = false) ∧ LiveStream s 15 ∧ s.st.streams[(15 : Fin 16)].write = false ∧
    s.st.streams[(15 : Fin 16)].buf.find? (fun e => e.1 = s.st.streams[(15 : Fin 16)].cur) = none ∧
    ((spad.toNat + 4 : Nat) : Int) = s.st.streams[(15 : Fin 16)].base.toNat +
      s.st.streams[(15 : Fin 16)].cur * s.st.streams[(15 : Fin 16)].stride.toInt ∧ spad.toNat + 4 < 2 ^ 64 ∧
    (spad.toNat + 4) % 2 ^ s.st.streams[(15 : Fin 16)].width = 0 ∧
    s.locs s.me (spad.toNat + 4) (2 ^ s.st.streams[(15 : Fin 16)].width) .read =
      .ok [spadAt 0 + 4, spadAt 0 + 5, spadAt 0 + 6, spadAt 0 + 7] := by
  rintro s rfl; unfold LiveStream; decide
theorem witness_PortForms_idle : (∀ n : Fin 16, (regs []).st.streams[n].wfault = none) ∧ (∀ r ∈ (regs []).st.sync, r.src.isPort = false) ∧ HasHandler (regs []) ∧
    ¬LiveStream (regs []) 15 := by unfold LiveStream HasHandler; decide

/-- Commands: a port with none, with a status, in a group of the chip, in no group. -/
def commanded (l : List (SReg × Word)) (f : Strand → Strand) : State :=
  { one (fun t => f { t with regs := regsOf l }) with ctxs := [(0, {
      Context.system with cgroups := [(1, [0, 3])] })] }
theorem witness_PortForms_commands : ∀ s, s = commanded [(1, 0x00000100)] id →
    (∀ n : Fin 16, s.st.streams[n].wfault = none) ∧ (∀ r ∈ s.st.sync, r.src.isPort = false) ∧ (s.st.cmds.filter (·.status.isNone)).length < 16 ∧
    (s.st.colls.filter (·.status.isNone)).length < 8 ∧ HasHandler s ∧ s.st.cmds = [] ∧ s.st.colls = [] ∧ s.st.copies = [] ∧
    s.st.queue = [] := by rintro s rfl; unfold HasHandler; decide
def cmd1 (st : Option Word) : Cmd := { w0 := 4, w1 := 0, w2 := 0, w3 := 0, seq := 0, ord := 0, trans := 0, status := st }
def coll1 (st : Option Word) : Coll :=
  { w0 := 0x101, w1 := 0, w2 := 0, w3 := 0, seq := 0, ord := 0, num := 0, sent := false, chunks := [], satr := 0, xf := 0, status := st }
def copy1 (st : Option Word) : Copy :=
  { kind := 0, out := false, desc := 0, reg := 1, regs := 1, tile := .empty, seq := 0, done := 0, status := st }
theorem witness_PortForms_status : ∀ s, s = commanded [] (fun t => { t with
      cmds := [cmd1 (some 7)], colls := [coll1 (some 8)], copies := [copy1 (some 9)] }) →
    (∀ n : Fin 16, s.st.streams[n].wfault = none) ∧ (∀ r ∈ s.st.sync, r.src.isPort = false) ∧ s.st.cmds = cmd1 (some 7) :: [] ∧ (cmd1 (some 7)).status = some 7 ∧
    s.st.colls = coll1 (some 8) :: [] ∧ (coll1 (some 8)).status = some 8 ∧ s.st.copies = copy1 (some 9) :: [] ∧
    (copy1 (some 9)).status = some 9 := by rintro s rfl; exact ⟨by decide, by decide, rfl, rfl, rfl, rfl, rfl, rfl⟩

/-- A stream descriptor at the end of the scratchpad: two 32-bit elements in strips of 512 bytes, 16 of which fill the
buffer; one of zeros, whose strip is empty. -/
def strip (l : List Host.Cell) : State := { regs [(2, spad + 524256)] with mem := l.map fun p => (spadAt 0 + 524256 + p.1, p.2) }
theorem witness_PortForms_config : ∀ s, s = strip [(8, 2), (24, 0x32), (27, 2)] → ∃ ls,
    (∀ n : Fin 16, s.st.streams[n].wfault = none) ∧ (∀ r ∈ s.st.sync, r.src.isPort = false) ∧ (s.r 2).toNat % 32 = 0 ∧ s.locs s.me (s.r 2).toNat 32 .read = .ok ls ∧
    s.get ls / 2 ^ 64 % 2 ^ 64 = 2 ∧ s.get ls / 2 ^ 192 = 0x2000032 ∧ 15 < s.st.csr.strmap.toNat / 2 ^ 5 % 2 ^ 5 ∧
    0x2000032 / 4 % 2 = 0 ∧ 0x2000032 / 2 ^ 6 % 2 ^ 10 = 0 ∧ 0x2000032 / 2 ^ 16 = 512 ∧
    (0x2000032 / 16 % 4 + 1) * (0x2000032 / 2 ^ 16) * 2 ^ (0x2000032 % 4) ≤ 8192 ∧ s.st.streams[(15 : Fin 16)].fifo = [] := by
  rintro s rfl
  exact ⟨(List.range 32).map (spadAt 0 + 524256 + ·), by decide⟩
theorem witness_PortForms_config_bad : ∀ s, s = strip [(8, 2), (24, 0x32), (26, 1), (27, 2)] → ∃ ls, HasHandler s ∧
    s.locs s.me (s.r 2).toNat 32 .read = .ok ls ∧ s.get ls / 2 ^ 64 % 2 ^ 64 = 2 ∧ s.get ls / 2 ^ 192 = 0x2010032 ∧
    8192 < (0x2010032 / 16 % 4 + 1) * (0x2010032 / 2 ^ 16 % 2 ^ 16) * 2 ^ (0x2010032 % 4) := by
  rintro s rfl
  exact ⟨(List.range 32).map (spadAt 0 + 524256 + ·), by unfold HasHandler; decide⟩
theorem witness_PortForms_barrier : Quiet (regs []) ∧ ∀ n, n < 16 → (0xFFFF : BitVec 17).getLsbD n = true →
    n < (regs []).st.csr.strmap.toNat / 2 ^ 5 % 2 ^ 5 := ⟨quiet_of _ (by decide), by decide⟩

/-- A queue at 0x10000 of the system context, whose page is cached; its counters are mapped nowhere. Its levels hold 8
records each at most. f changes it. Register 1 names it, register 2 the record at the end of the scratchpad. -/
def queue0 : Queue :=
  { ctx := 0, va := 0x10000, deque := false, capl := 3, depb := 0x40000, depn := 8, cvb := 0, cvn := 0, cvnext := 0,
    isSealed := false, levels := Vector.replicate 8 [], parked := [], drop := 0, owner := none, nextSeq := 5, window := 0x100000 }
def queued (f : Queue → Queue) (g : Strand → Strand := id) : State :=
  { one (fun t => g { t with regs := regsOf [(1, 0x10000), (2, spad + 524224), (3, 0x10040)] }) with
    queues := [f queue0]
    caches := { State.reset.caches with tlb := [{ cache := 0, ctx := 0, va := 0x10000, size := 65536, leaf := 0x400023 }] } }
def rec1 : QRec := { seq := 4, data := 0 }
def place64 : List Nat := (List.range 64).map (spadAt 0 + 524224 + ·)

theorem names (f : Queue → Queue) (g : Strand → Strand) (hf : (f queue0).ctx = 0 ∧ (f queue0).va = 0x10000) :
    (queued f g).st.ctx = 0 → (queued f g).r 1 = 0x10000 → NamesQueue (queued f g) ((queued f g).r 1) (f queue0) := by
  intro hc hr
  refine ⟨by rw [hr]; decide, by rw [hr]; decide, ⟨0x400023, 65536, ?_, by decide⟩, ?_⟩
  · rw [hr, hc]
    have ht : (queued f g).caches.tlb = [{ cache := 0, ctx := 0, va := 0x10000, size := 65536, leaf := 0x400023 }] := rfl
    have hs : coreOf (queued f g).slot = 0 := (by decide : coreOf 0 = 0)
    rw [State.leafOf, ht, hs, List.find?_cons_of_pos (by decide)]
  · rw [hr, hc]
    simp [State.queue?, queued, hf.1, hf.2]
theorem apart (f : Queue → Queue) (hf : (f queue0).ctx = 0 ∧ (f queue0).depb = 0x40000) :
    RecordApart (queued f) (f queue0) place64 := by
  refine ⟨?_, ?_, ?_⟩
  · exact (List.nodup_range).map fun a b h => by simpa using h
  · intro m _ va; exact walk_rootless _ _ (by rw [hf.1]; rfl) m va
  · intro n cs hn h
    have e : (queued f).place (walkerOf 0 (f queue0).ctx) ((f queue0).depb + 8 * n) .queue = .error 8 := by
      rw [hf.1, hf.2]
      have e : (0x40000 + 8 * n) % 2 ^ 56 = 0x40000 + 8 * n := Nat.mod_eq_of_lt (by omega)
      have e' : (0x40000 + 8 * n) / 2 ^ 56 = 0 := Nat.div_eq_of_lt (by omega)
      simp only [State.place, e, e']
      rfl
    have l : ∃ x, (queued f).locs (walkerOf 0 (f queue0).ctx) ((f queue0).depb + 8 * n) 8 .queue = .error x := by
      unfold State.locs
      split
      · rw [e]; exact ⟨_, rfl⟩
      · split
        · exact ⟨_, rfl⟩
        · rw [State.placeEach, e]; exact ⟨_, rfl⟩
    obtain ⟨x, l⟩ := l
    rw [State.counterAt, l] at h
    cases h

/-- A push; one to a full level, to a sealed queue. -/
theorem witness_QueueForms_push : ∀ f ∈ [id, fun q : Queue => { q with levels := q.levels.set 0 (List.replicate 8 rec1) },
      fun q : Queue => { q with isSealed := true }], ∃ r, NamesQueue (queued f) ((queued f).r 1) (f queue0) ∧
    RecordAt (queued f) ((queued f).r 2) .read place64 ∧ r = (queued f).get place64 ∧ recValid (f queue0) r = true ∧
    (f queue0).parked = [] := by
  intro f hf
  simp only [List.mem_cons, List.not_mem_nil, or_false] at hf
  rcases hf with rfl | rfl | rfl <;>
    exact ⟨0, names _ _ (by decide) (by decide) (by decide), by unfold RecordAt; decide +kernel, by decide +kernel, by decide, by decide⟩
theorem witness_QueueForms_levels :
    ((queue0.levels[queue0.level (recPrio 0)]).length + 1 ≤ 2 ^ queue0.capl ∧ queue0.isSealed = false) ∧
    (2 ^ queue0.capl < ((queue0.levels.set 0 (List.replicate 8 rec1))[queue0.level (recPrio 0)]).length + 1) := by decide
/-- A push to the bottom of a deque, and one by a strand that does not own it. -/
theorem witness_QueueForms_bottom : ∀ o, o = none ∨ o = some 0 ∨ o = some 8 → ∀ q, q = { queue0 with deque := true, owner := o } →
    q.deque = true ∧ q.isSealed = false ∧ (q.levels[(0 : Fin 8)]).length + 1 ≤ 2 ^ q.capl ∧
    NamesQueue (queued fun q => { q with deque := true, owner := o }) ((queued fun q => { q with deque := true, owner := o }).r 1) q ∧
    HasHandler (queued fun q => { q with deque := true, owner := o }) ∧ recValid q 0 = true := by
  rintro o (rfl | rfl | rfl) q rfl <;>
    exact ⟨rfl, rfl, by decide, names _ _ (by decide) (by decide) (by decide), by unfold HasHandler; decide, by decide⟩

/-- Pops: a queue with a ready record; a sealed one without; an open one without; a deque with one and without. -/
theorem witness_QueueForms_pop : ∀ f ∈ [fun q : Queue => { q with levels := q.levels.set 7 [rec1] },
      fun q : Queue => { q with isSealed := true }, id, fun q : Queue => { q with deque := true, levels := q.levels.set 0 [rec1] },
      fun q : Queue => { q with deque := true }],
    NamesQueue (queued f) ((queued f).r 1) (f queue0) ∧ RecordAt (queued f) ((queued f).r 2) .rw place64 ∧
    RecordApart (queued f) (f queue0) place64 ∧ (queued f).st.park = .none ∧ (f queue0).parked = [] := by
  intro f hf
  simp only [List.mem_cons, List.not_mem_nil, or_false] at hf
  rcases hf with rfl | rfl | rfl | rfl | rfl <;>
    exact ⟨names _ _ (by decide) (by decide) (by decide), by unfold RecordAt; decide +kernel, apart _ (by decide), rfl, rfl⟩
theorem witness_QueueForms_selected : ∀ f, f = (fun q : Queue => { q with levels := q.levels.set 7 [rec1] }) →
    Selected (queued f) (f queue0) rec1 := by
  rintro f rfl; exact ⟨7, by decide, by decide +kernel⟩
theorem witness_QueueForms_empty : (∀ l : Fin 8, queue0.levels[l] = []) ∧ ∀ e, ¬Selected (queued id) queue0 e := by
  refine ⟨by decide, ?_⟩
  rintro e ⟨p, _, h⟩
  have : ∀ p : Fin 8, queue0.levels[p] = [] := by decide
  simp [this] at h
theorem witness_QueueForms_deque : ∀ b : Bool, ((if b then [rec1] else [rec1].reverse).take 8).find?
      (fun e => (queued fun q => { q with deque := true, levels := q.levels.set 0 [rec1] }).recReady
        { queue0 with deque := true, levels := queue0.levels.set 0 [rec1] } e.data.toNat) = some rec1 ∧
    ((if b then ([] : List QRec) else [].reverse).take 8).find? (fun e => (queued fun q => { q with deque := true }).recReady
        { queue0 with deque := true } e.data.toNat) = none := by decide +kernel
/-- A misaligned queue, and a queue of the other kind. -/
theorem witness_QueueForms_traps : queueForm (.qlen 4 3) = some (3, none) ∧ HasHandler (queued id) ∧ (queued id).st.park = .none ∧
    ((queued id).r 3).toNat % 128 ≠ 0 ∧ queueForm (.qpopb 4 1 2) = some (1, some true) ∧ NamesQueue (queued id) ((queued id).r 1) queue0 ∧
    some true = some (!queue0.deque) :=
  ⟨rfl, by unfold HasHandler; decide, rfl, by decide, rfl, names id id (by decide) (by decide) (by decide), rfl⟩
/-- A QPOP that is parked, and a record that has become ready. -/
theorem witness_QueueForms_ready : ∀ f g, f = (fun q : Queue => { q with levels := q.levels.set 7 [rec1], parked := [{ slot := 0, dst := 4, buf := spad.toNat + 524224, locs := place64 }] }) →
    g = (fun t : Strand => { t with park := .qpop }) → ∀ x, x = (queued f g).strand 0 → (queued f g).queue? 0 (0x10000 : Word).toNat = some (f queue0) ∧
    (f queue0).parked = [{ slot := 0, dst := 4, buf := spad.toNat + 524224, locs := place64 }] ∧ x.stat = .running ∧ x.ctx = 0 ∧ x.park = .qpop ∧
    Selected (queued f g) (f queue0) rec1 ∧
    (queued f g).locs { slot := 0, ctx := 0, cache := coreOf 0 } (spad.toNat + 524224) 64 .rw = .ok place64 ∧
    RecordApart (queued f) (f queue0) place64 := by
  rintro f g rfl rfl x rfl
  exact ⟨by decide +kernel, by decide, by decide, by decide, by decide, ⟨7, by decide, by decide +kernel⟩, by decide +kernel, apart _ (by decide)⟩

/-- A method table of one method, for operator 5 without operands, and a record of that operator. -/
def methodical (op : Byte) : State :=
  { one (fun t => { t with regs := regsOf [(2, spad), (3, 0x40)], csr := { t.csr with mtab := spad + 512 } }) with
    mem := [(spadAt 0, op), (spadAt 0 + 512, 1), (spadAt 0 + 520, 0x40), (spadAt 0 + 528, 5)] }
theorem methods_ok {s : State} {b : Nat} {ms : List Method} (h : s.methods.map (·.2) = .ok (b, ms)) :
    ∃ t, s.methods = .ok (t, b, ms) := by
  cases e : s.methods with
  | error x => rw [e] at h; cases h
  | ok x =>
    obtain ⟨t, y⟩ := x
    rw [e] at h; cases h; exact ⟨t, rfl⟩
theorem witness_DispatchForms : ∀ op : Byte, op = 5 ∨ op = 6 → ∃ s' ms, Coherent (methodical op) ∧
    RecordAt (methodical op) ((methodical op).r 2) .read ((List.range 64).map (spadAt 0 + ·)) ∧
    (methodical op).get ((List.range 64).map (spadAt 0 + ·)) = op.toNat ∧ (methodical op).methods = .ok (s', 0x40, ms) ∧
    HasHandler (methodical op) ∧ (op = 5 → ms.find? (fun m => m.op = op.toNat % 2 ^ 16 && m.tags =
      (List.range (op.toNat / 2 ^ 19 % 8)).map fun p => op.toNat / 2 ^ (184 + 64 * p) % 2 ^ 8) = some { op := 5, tags := [], rout := 0 }) ∧
    (op = 6 → ∀ m ∈ ms, m.op ≠ op.toNat % 2 ^ 16) := by
  have m : ∀ op : Byte, op = 5 ∨ op = 6 → (methodical op).methods.map (·.2) = .ok (0x40, [{ op := 5, tags := [], rout := 0 }]) := by
    rintro op (rfl | rfl) <;> decide +kernel
  intro op ho
  obtain ⟨t, ht⟩ := methods_ok (m op ho)
  refine ⟨t, _, coherent_of _ rfl, ?_, ?_, ht, ?_, ?_⟩ <;> rcases ho with rfl | rfl
  · unfold RecordAt; decide +kernel
  · unfold RecordAt; decide +kernel
  · decide +kernel
  · decide +kernel
  · unfold HasHandler; decide
  · unfold HasHandler; decide
  · decide
  · decide
/-- Returns from a routine: of a record without a conversion, and of one with; its queue at 0 has its counters in page 1. -/
def returning (flag : Byte) : State :=
  { paged 0x23 (fun t => { t with regs := regsOf [(2, 0x40), (3, spad), (4, 0x42), (5, 2 ^ 56)] }) with
    mem := tables 0x23 ++ [(spadAt 0 + 3, flag)]
    queues := [{ queue0 with ctx := 1, va := 0, depb := 0x10000 }] }
theorem witness_DispatchForms_return : ∀ b : Byte, b = 0 ∨ b = 1 → Coherent (returning b) ∧
    RecordAt (returning b) ((returning b).r 3) .read ((List.range 64).map (spadAt 0 + ·)) ∧
    (returning b).get ((List.range 64).map (spadAt 0 + ·)) / 2 ^ 24 % 2 = b.toNat ∧ ((returning b).r 2).toNat % 4 = 0 ∧
    ((returning b).r 2).toNat < 2 ^ 56 ∧ NamesQueue (returning b) ((returning b).r 0) { queue0 with ctx := 1, va := 0, depb := 0x10000 } ∧
    (returning b).locs (returning b).me 0x10000 8 .rw = .ok ((List.range 8).map (0x310000 + ·)) ∧ HasHandler (returning b) ∧
    ((returning b).r 4).toNat % 4 ≠ 0 := by
  rintro b (rfl | rfl) <;>
  · refine ⟨coherent_of _ rfl, by unfold RecordAt; decide +kernel, by decide +kernel, by decide, by decide,
      ⟨by decide, by decide, ⟨0x300023, 65536, by decide +kernel, by decide⟩, by decide⟩, by decide +kernel,
      by unfold HasHandler; decide, by decide⟩
theorem witness_DispatchForms_outside : HasHandler (regs [(5, 0x100000000000000)]) ∧
    ((regs [(5, 0x100000000000000)]).r 5).toNat % 4 = 0 ∧ 2 ^ 56 ≤ ((regs [(5, 0x100000000000000)]).r 5).toNat := by
  unfold HasHandler; decide

/-- A form that names a queue that has been destroyed, whose page the host has not unmapped. -/
def buried : State := { queued id with queues := [], graves := [{ queue0 with isSealed := true }] }
theorem witness_QueueForms_destroyed : queueForm (.qlen 4 1) = some (1, none) ∧ HasHandler buried ∧ buried.st.park = .none ∧
    (buried.r 1).toNat % 128 = 0 ∧ (buried.r 1).toNat < 2 ^ 56 ∧
    buried.leafOf (coreOf buried.slot) buried.st.ctx (buried.r 1).toNat pteQ = some (0x400023, 65536) ∧
    pteQ 0x400023 = true ∧ buried.queue? buried.st.ctx (buried.r 1).toNat = none ∧ buried.passed = false := by
  unfold HasHandler; decide
/-- Statuses that have not come. -/
theorem witness_PortForms_waiting : ∀ s, s = commanded [] (fun t => { t with
      cmds := [cmd1 none], colls := [coll1 none], copies := [copy1 none] }) →
    (∀ n : Fin 16, s.st.streams[n].wfault = none) ∧ (∀ r ∈ s.st.sync, r.src.isPort = false) ∧ s.st.sync.length < 8 ∧
    s.st.cmds = cmd1 none :: [] ∧ s.st.colls = coll1 none :: [] ∧ s.st.copies = copy1 none :: [] := by
  rintro s rfl; exact ⟨by decide, by decide, by decide, rfl, rfl, rfl⟩

/-- A record of operator 5 with two operands of tag 0, a method of that operator for two of tag 1, and a conversion from 0 to 1. The
queue at 0 has its counters in page 1, of which the first has its highest byte h. -/
def converting (h : Byte) (f : Queue → Queue) : State :=
  { paged 0x23 (fun t => { t with regs := regsOf [(2, spad)], csr := { t.csr with mtab := spad + 512 } }) with
    mem := tables 0x23 ++ [(0x310007, h), (spadAt 0, 5), (spadAt 0 + 2, 16), (spadAt 0 + 512, 2), (spadAt 0 + 520, 0x40), (spadAt 0 + 528, 5),
      (spadAt 0 + 530, 2), (spadAt 0 + 532, 1), (spadAt 0 + 533, 1), (spadAt 0 + 544, 0xFF), (spadAt 0 + 545, 0xFF), (spadAt 0 + 546, 2), (spadAt 0 + 549, 1)]
    queues := [f { queue0 with ctx := 1, va := 0, depb := 0x10000, cvn := 1 }] }
/-- It inserts; it refuses because the queue is sealed, has no ring, has its next counter in use, or has no place left. -/
theorem witness_DispatchForms_insert : ∀ p ∈ [((0x80 : Byte), fun q : Queue => q), (0x80, fun q => { q with isSealed := true }), (0x80, fun q => { q with cvn := 0 }),
      (0x7F, id), (0x80, fun q => { q with levels := q.levels.set 0 (List.replicate 6 rec1) })],
    ∃ s' ms r, Coherent (converting p.1 p.2) ∧ RecordAt (converting p.1 p.2) ((converting p.1 p.2).r 2) .read ((List.range 64).map (spadAt 0 + ·)) ∧
    r = (converting p.1 p.2).get ((List.range 64).map (spadAt 0 + ·)) ∧ (converting p.1 p.2).methods = .ok (s', 0x40, ms) ∧ (∀ m ∈ ms, ¬FitsExactly m r) ∧
    IsPlan ms r { op := 5, tags := [1, 1], rout := 0 } [0, 1] ∧
    NamesQueue (converting p.1 p.2) ((converting p.1 p.2).r 0) (p.2 { queue0 with ctx := 1, va := 0, depb := 0x10000, cvn := 1 }) := by
  have e : ∀ p ∈ [((0x80 : Byte), fun q : Queue => q), (0x80, fun q => { q with isSealed := true }), (0x80, fun q => { q with cvn := 0 }),
      (0x7F, id), (0x80, fun q => { q with levels := q.levels.set 0 (List.replicate 6 rec1) })],
      (converting p.1 p.2).methods.map (·.2) = .ok (0x40, [{ op := 5, tags := [1, 1], rout := 0 }, { op := 0xFFFF, tags := [0, 1], rout := 0 }]) ∧
      (converting p.1 p.2).get ((List.range 64).map (spadAt 0 + ·)) = 5 + 2 ^ 20 := by
    intro p hp
    simp only [List.mem_cons, List.not_mem_nil, or_false] at hp
    rcases hp with rfl | rfl | rfl | rfl | rfl <;> exact ⟨by decide +kernel, by decide +kernel⟩
  intro p hp
  obtain ⟨t, ht⟩ := methods_ok (e p hp).1
  refine ⟨t, _, 5 + 2 ^ 20, coherent_of _ rfl, ?_, (e p hp).2.symm, ht, by unfold FitsExactly; decide +kernel, ⟨0, rfl, by unfold FitsConverted; decide +kernel, ?_⟩, ?_⟩
  · simp only [List.mem_cons, List.not_mem_nil, or_false] at hp
    rcases hp with rfl | rfl | rfl | rfl | rfl <;> (unfold RecordAt; decide +kernel)
  · intro j m q hj hf
    rcases j with _ | _ | j
    · obtain rfl := Option.some.inj hj
      obtain ⟨_, _, _, _, h, _⟩ := hf
      exact .inr ⟨by rw [h]; decide, by omega⟩
    · obtain rfl := Option.some.inj hj
      exact absurd hf.1 (by decide)
    · cases hj
  · simp only [List.mem_cons, List.not_mem_nil, or_false] at hp
    rcases hp with rfl | rfl | rfl | rfl | rfl <;>
      exact ⟨by decide, by decide, ⟨0x300023, 65536, by decide +kernel, by decide⟩, by decide +kernel⟩
theorem witness_DispatchForms_places : ∀ q, q = { queue0 with ctx := 1, va := 0, depb := 0x10000, cvn := 1 } → ∀ cs, cs = (List.range 8).map (0x310000 + ·) →
    q.parked = [] ∧ q.depb % 8 = 0 ∧ q.isSealed = false ∧ 0 < q.cvn ∧
    (∀ h : Byte, h = 0x7F ∨ h = 0x80 → (converting h id).locs (converting h id).me (q.depb + 8 * (q.cvb + q.cvnext % q.cvn)) 8 .queue = .ok cs) ∧
    2 ^ 63 ≤ (converting 0x80 id).get cs ∧ (converting 0x7F id).get cs < 2 ^ 63 ∧ (q.levels[q.level (recPrio (5 + 2 ^ 20))]).length + (2 + 1) ≤ 2 ^ q.capl ∧
    2 ^ q.capl < ((q.levels.set 0 (List.replicate 6 rec1))[q.level (recPrio (5 + 2 ^ 20))]).length + (2 + 1) := by
  rintro q rfl cs rfl
  refine ⟨by decide, by decide, by decide, by decide, ?_, by decide +kernel, by decide +kernel, by decide +kernel, by decide +kernel⟩
  rintro h (rfl | rfl) <;> decide +kernel
/-- A group of one strand with work-identifier field 0 of four bits; f changes the group, g the strand. -/
def team (f : Group → Group) (g : Strand → Strand) : State :=
  { one (fun t => g { t with gkey := 1, csr := { t.csr with widf := 2 ^ 42 + 4 }, regs := regsOf [(2, 0x40), (3, 0xFFFFFFFE)] }) with
    groups := [(1, f {
      ctx := 0, lid := 1, num := 0, cluster := 0, prio := 0, live := [0], saved := [], bars := Vector.replicate 8 .idle })] }
def team0 : Group :=
  { ctx := 0, lid := 1, num := 0, cluster := 0, prio := 0, live := [0], saved := [], bars := Vector.replicate 8 .idle }
/-- A fork into slot 1 with index 1; one that finds no allowance. -/
theorem witness_GroupForms_fork : ∀ s, s = team id id → s.st.stat = .running ∧ s.st.pend = 0 ∧ s.group? s.st.gkey = some team0 ∧
    (s.r 2).toNat % 4 = 0 ∧ (s.r 2).toNat < 2 ^ 56 ∧ (s.r 3).toNat % 2 = 0 ∧ (s.r 3).toNat < 2 ^ 32 ∧ widW s.st.csr.widf 0 = 4 ∧
    s.freeSlots (coreOf s.slot) = 1 :: [2, 3, 4, 5, 6, 7] ∧ 2 ≤ s.st.csr.lanea.toNat ∧ team0.live.length < 64 ∧ s.st.lim.strands ≤ 1 ∧
    1 < 2 ^ min 4 12 ∧ (∀ k ∈ team0.live, widField (s.strand k).csr.widf (s.strand k).wid 0 ≠ 1) ∧
    (∀ j, s.st.lim.strands ≤ j → j < 1 → ∃ k ∈ team0.live, widField (s.strand k).csr.widf (s.strand k).wid 0 = j) := by
  rintro s rfl
  refine ⟨by decide, by decide, rfl, ?_⟩
  iterate 11 refine ⟨by decide, ?_⟩
  intro j hj hj'
  have e : (team id id).st.lim.strands = 1 := rfl
  omega
theorem witness_GroupForms_fork_none : ∀ s, s = team id (fun t => { t with csr := { t.csr with lanea := 1 } }) →
    s.st.stat = .running ∧ s.st.pend = 0 ∧ s.group? s.st.gkey = some team0 ∧ s.st.csr.lanea.toNat ≤ 1 := by
  rintro s rfl; exact ⟨by decide, by decide, rfl, by decide⟩
theorem witness_GroupForms_join : ∀ d, d = none ∨ d = some 2 → ∀ s, s = team id (fun t => { t with
    joins := [{ slot := 63, done := d }] }) → s.st.joins.find? (fun j => s.r 2 = BitVec.ofNat 64 (1 + j.slot)) =
      some { slot := 63, done := d } ∧ ∀ p ∈ s.ending, ¬(p.1 = 63 ∧ p.2.gkey = s.st.gkey) := by
  rintro d (rfl | rfl) s rfl <;> decide
/-- A child that has ended, and has accesses left. -/
theorem witness_GroupForms_joinLate : ∀ s, s = { team id (fun t => { t with joins := [{ slot := 63, done := some 2 }] }) with
      ending := [(63, { Strand.empty with gkey := 1 })] } →
    s.st.joins.find? (fun j => s.r 2 = BitVec.ofNat 64 (1 + j.slot)) = some { slot := 63, done := some 2 } ∧
    ∃ p ∈ s.ending, p.1 = 63 ∧ p.2.gkey = s.st.gkey := by
  rintro s rfl; exact ⟨by decide, (63, { Strand.empty with gkey := 1 }), by simp, rfl, rfl⟩
/-- Barrier 7: idle; of 2 with one arrival in phase 2^31. -/
def bar1 : Barrier := { n := 2, arr := 1, ph := 0x80000000 }
theorem witness_GroupForms_barrier : ∀ s, s = team (fun g => { g with bars := g.bars.set 7 bar1 }) (fun t => { t with
      regs := regsOf [(1, 7), (2, 2), (3, 64), (4, 65), (5, 0x80000000), (6, 6)] }) →
    (∃ g, s.group? s.st.gkey = some g ∧ g.bars[(7 : Fin 8)] = bar1 ∧ g.bars[(6 : Fin 8)] = .idle) ∧ (s.r 1).toNat = 7 ∧ (s.r 6).toNat = 6 ∧
    HasHandler s ∧ s.st.park = .none ∧ Quiet s ∧
    -- BINIT: of 2 again, of 64 on an idle unit, of 65, of 64 with an arrival
    bar1.n = (s.r 2).toNat ∧ 1 ≤ (s.r 3).toNat ∧ (s.r 3).toNat ≤ 64 ∧ Barrier.idle.n = 0 ∧ 64 < (s.r 4).toNat ∧
    (bar1.n ≠ 0 ∧ bar1.n ≠ (s.r 3).toNat ∧ bar1.arr ≠ 0) ∧
    -- BWAIT for phase 0, which has ended, and for the phase that runs; BARW, the last arrival
    (1 ≤ (bar1.ph - (s.r 0).setWidth 32).toNat ∧ (bar1.ph - (s.r 0).setWidth 32).toNat ≤ 2 ^ 31) ∧
    (bar1.ph - (s.r 5).setWidth 32).toNat = 0 ∧ bar1.arr + 1 = bar1.n := by
  rintro s rfl
  refine ⟨⟨_, rfl, by decide, by decide⟩, by decide, by decide, by unfold HasHandler; decide, by decide, quiet_of _ (by decide),
    by decide⟩
theorem witness_GroupForms_arrive : ∀ s, s = team (fun g => { g with bars := g.bars.set 7 { bar1 with arr := 0 } }) (fun t => { t with
      regs := regsOf [(1, 7)], park := .barw 7 0x7FFFFFFF }) →
    (∃ g, s.group? s.st.gkey = some g ∧ g.bars[(7 : Fin 8)] = { bar1 with arr := 0 }) ∧ (0 : Nat) + 1 ≠ bar1.n ∧
    s.st.stat = .running ∧ s.st.park = .barw 7 0x7FFFFFFF ∧ 1 ≤ (bar1.ph - 0x7FFFFFFF).toNat ∧ (bar1.ph - 0x7FFFFFFF).toNat ≤ 2 ^ 31 := by
  rintro s rfl; exact ⟨⟨_, rfl, by decide⟩, by decide⟩
theorem witness_GroupForms_wait : ∀ s, s = team (fun g => { g with bars := g.bars.set 7 { bar1 with arr := 0 } }) (fun t => { t with
      regs := regsOf [(1, 7)] }) → Quiet s ∧ (s.r 1).toNat = 7 ∧ ∃ g, s.group? s.st.gkey = some g ∧ g.bars[(7 : Fin 8)].arr + 1 ≠ g.bars[(7 : Fin 8)].n ∧
      g.bars[(7 : Fin 8)].n ≠ 0 := by
  rintro s rfl; exact ⟨quiet_of _ (by decide), by decide, _, rfl, by decide, by decide⟩

/-- Parked for phase 0, which has ended, for the phase that runs, and in a BARW whose phase has not ended. -/
theorem witness_GroupForms_parked : ∀ ph, ph = 0 ∨ ph = 0x80000000 → ∀ s, s = team (fun g => { g with bars := g.bars.set 7 bar1 })
      (fun t => { t with regs := regsOf [(1, 7)], park := .bwait 7 ph }) → s.st.stat = .running ∧ s.st.park = .bwait 7 ph ∧
    (s.r 1).toNat = 7 ∧ (∃ g, s.group? s.st.gkey = some g ∧ g.bars[(7 : Fin 8)] = bar1) ∧
    ((1 ≤ (bar1.ph - ph).toNat ∧ (bar1.ph - ph).toNat ≤ 2 ^ 31) ∨ (bar1.ph - ph).toNat = 0) := by
  rintro ph (rfl | rfl) s rfl <;> exact ⟨by decide, by decide, by decide, ⟨_, rfl, by decide⟩, by decide⟩
theorem witness_GroupForms_parkedStill : ∀ s, s = team (fun g => { g with bars := g.bars.set 7 bar1 })
      (fun t => { t with regs := regsOf [(1, 7)], park := .barw 7 0x80000000 }) → s.st.stat = .running ∧
    s.st.park = .barw 7 0x80000000 ∧ bar1.ph = 0x80000000 := by rintro s rfl; decide

/-- The system context beside a tenant. -/
def sys (st : CtxSt) (l : List (SReg × Word)) : State := { regs l with ctxs := [(0, .system), (1, { tenant with st := st })] }
theorem strand_late {s : State} (h : s.st.late = []) (ho : s.others = []) (k : Nat) : (s.strand k).late = [] := by
  unfold State.strand; split
  · exact h
  · rw [ho]; rfl
theorem witness_SystemContextForms_other : ∀ s, s = paged 0x1F id → systemForm (.ctxhalt 1 2) = some (1, 2, 0) ∧ s.st.ctx ≠ 0 ∧ HasHandler s := by
  rintro s rfl; unfold HasHandler; decide
theorem witness_SystemContextForms_halt : ∀ s, s = sys .running [(2, 1)] → s.st.ctx = 0 ∧ (s.r 2).toNat < 2 ^ 16 ∧
    1 = (s.r 2).setWidth 16 ∧ (1 : BitVec 16) ≠ 0 ∧ s.ctx? 1 = some { tenant with st := .running } ∧ Settled s 1 := by
  rintro s rfl
  exact ⟨by decide, by decide, by decide, by decide, rfl, fun k => strand_late rfl rfl k, by decide⟩
/-- A context that is halted. -/
theorem witness_SystemContextForms_halted : ∀ s, s = { sys .running [(2, 1)] with
      ctxs := [(0, .system), (1, { tenant with halted := true })] } → s.st.ctx = 0 ∧ 1 = (s.r 2).setWidth 16 ∧
    s.ctx? 1 = some { tenant with halted := true } ∧ ({ tenant with halted := true }).st = .running := by
  rintro s rfl; exact ⟨by decide, by decide, rfl, rfl⟩
/-- Cluster 31, the L2 slices of die 3, shadow slot 7. -/
theorem witness_SystemContextForms_scrub : ∀ s, s = sys .releasing [(2, 31), (3, 0x10001), (4, 3), (5, 2), (6, 7)] → s.st.ctx = 0 ∧ s.r 0 = 0 ∧
    (s.r 2).toNat = (31 : Fin 32).val ∧ (∀ k ∈ s.liveSlots, clusterOf k ≠ 31) ∧ (s.r 3).toNat = 1 + (1 : BitVec 16).toNat * 2 ^ 16 ∧
    (s.r 4).toNat = (3 : Fin 4).val ∧ s.ctx? 1 = some { tenant with st := .releasing } ∧ s.r 5 = 2 ∧ (s.r 6).toNat = (7 : Fin 8).val ∧
    s.shadow[(7 : Fin 8)] = none ∧ 0 < s.hamada.places := by
  rintro s rfl
  exact ⟨by decide, by decide, by decide, by decide, by decide, by decide, rfl, by decide, by decide, by decide, by decide⟩
theorem witness_SystemContextForms_ways : ∀ s, s = sys .running [(2, 0x106FE), (3, 0xFFFF), (4, 0x106FF)] → s.st.ctx = 0 ∧
    s.ctx? 1 = some tenant ∧ tenant.strict = false ∧
    1 = BitVec.ofNat 16 ((s.r 2).toNat / 2 ^ 16) ∧ (s.r 2).toNat < 2 ^ 32 ∧ (s.r 2).toNat / 2 ^ 11 % 32 = 0 ∧ (s.r 2).toNat % 2 = 0 ∧
    (s.r 3).toNat < 2 ^ 16 ∧ 1 = BitVec.ofNat 16 ((s.r 4).toNat / 2 ^ 16) ∧ (s.r 4).toNat < 2 ^ 32 ∧ (s.r 4).toNat / 2 ^ 11 % 32 = 0 ∧
    (s.r 4).toNat % 2 = 1 ∧ (s.r 4).toNat / 256 % 2 = 0 ∧ s.r 0 = 0 ∧ ¬meetsStrict s 1 tenant ((s.r 3).setWidth 16) (s.r 2).toNat := by
  rintro s rfl
  refine ⟨by decide, rfl, ?_⟩
  iterate 12 refine ⟨by decide, ?_⟩
  unfold meetsStrict
  rintro ⟨p, hp, h0, h1, _⟩
  have : p = (0, Context.system) ∨ p = (1, { tenant with st := .running }) := by simpa [sys] using hp
  rcases this with rfl | rfl <;> simp at h0 h1
/-- Another tenant is strict, and the mask of all ways meets its own. -/
theorem witness_SystemContextForms_strict : ∀ s, s = { sys .running [(2, 0x10000), (3, 0xFFFF)] with
      ctxs := [(0, .system), (1, tenant), (2, { tenant with strict := true, ways := 2 })] } → s.st.ctx = 0 ∧ HasHandler s ∧
    s.ctx? 1 = some tenant ∧ 1 = BitVec.ofNat 16 ((s.r 2).toNat / 2 ^ 16) ∧ (s.r 2).toNat < 2 ^ 32 ∧ (s.r 2).toNat / 2 ^ 11 % 32 = 0 ∧
    (s.r 2).toNat % 2 = 0 ∧ (s.r 3).toNat < 2 ^ 16 ∧ meetsStrict s 1 tenant ((s.r 3).setWidth 16) (s.r 2).toNat := by
  rintro s rfl
  refine ⟨by decide, by unfold HasHandler; decide, rfl, by decide, by decide, by decide, by decide, by decide, ?_⟩
  exact ⟨(2, { tenant with strict := true, ways := 2 }), by simp, by decide, by decide, .inr rfl, 0, by unfold waySlice; decide,
    by decide +kernel⟩
/-- The last root table of HBM, the last page of 1 GiB, every translation, a walk. -/
theorem witness_SystemContextForms_tables : ∀ s, s = sys .running [(2, 0x10000), (3, 0x11FFFF00000), (4, 0x10021), (5, 0xFFFFFFC0000000), (6, 0x10002),
      (7, 0x10003)] → s.st.ctx = 0 ∧ s.ctx? 1 = some tenant ∧ NoneParked s 1 ∧
    (s.r 2).toNat = 0 + (1 : BitVec 16).toNat * 2 ^ 16 ∧ (s.r 3).toNat % 2 ^ 20 = 0 ∧ (s.r 3).toNat < Config.hbmBytes ∧
    (s.r 4).toNat = 33 + (1 : BitVec 16).toNat * 2 ^ 16 ∧ (s.r 5).toNat < 2 ^ 56 ∧ (s.r 5).toNat % pageBytes (33 / 16) = 0 ∧
    (s.r 6).toNat = 2 + (1 : BitVec 16).toNat * 2 ^ 16 ∧ (s.r 0).toNat = 0 ∧ (s.r 7).toNat = 3 + (1 : BitVec 16).toNat * 2 ^ 16 := by
  rintro s rfl; exact ⟨by decide, rfl, show ∀ q ∈ ([] : List Queue), _ by simp, by decide⟩
/-- The audit forms: an entry of type 0x8000; a seal of one entry; the seal is freed; measurement register 7. -/
def logged (f : Hamada → Hamada) : State :=
  { regs [(2, spad), (3, 0x8000), (4, 0x10000), (5, 0x20000), (6, 1), (7, 0x1F8000)] with hamada := f .reset }
theorem witness_SystemContextForms_audit : ∀ s, s = logged id → s.st.ctx = 0 ∧ (s.r 3).toNat < 2 ^ 16 ∧ 2 ^ 15 ≤ (s.r 3).toNat ∧
    RecordAt s (s.r 2) .read ((List.range 64).map (spadAt 0 + ·)) ∧ 2 ≤ s.hamada.places ∧ s.hamada.seg.isSealed = false ∧
    s.hamada.seg.entries.length + 2 < 4095 ∧ 2 ^ 15 ≤ (s.r 7).toNat % 2 ^ 16 ∧ (s.r 7).toNat / 2 ^ 16 = 3 + 4 * (7 : Fin 8).val := by
  rintro s rfl; unfold RecordAt
  exact ⟨by decide, by decide, by decide, by decide +kernel, by decide, by decide, by decide, by decide, by decide⟩
def seg1 (b : Bool) : Segment := { first := 0, entries := [0], isSealed := b, trailer := [] }
theorem witness_SystemContextForms_seal : ∀ s, s = logged (fun h => { h with nextSeq := 1, segs := h.segs.set 0 (seg1 false) }) →
    s.st.ctx = 0 ∧ (s.r 4).toNat = 2 ^ 16 ∧ s.r 0 = 0 ∧ s.hamada.seg.isSealed = false ∧ s.hamada.seg.entries ≠ [] := by
  rintro s rfl; decide
theorem witness_SystemContextForms_free : ∀ s, s = logged (fun h => { h with nextSeq := 1, sealedUpTo := 1, segs := h.segs.set 0 (seg1 true) }) →
    s.st.ctx = 0 ∧ (s.r 5).toNat = 2 ^ 17 ∧ s.hamada.waiting = [] ∧ ∃ n, s.hamada.sealedAt (s.r 0).toNat = some n := by
  rintro s rfl; exact ⟨by decide, by decide, by decide, Option.isSome_iff_exists.mp (by decide)⟩

theorem coherentFor_of {s : State} (w : Who) (h : s.caches.tlb = []) : CoherentFor s w := by intro x hx; simp [h] at hx

/-- A copy of one 32-bit element, at base, between memory and register 1. -/
def copyDesc (base : Nat) : BitVec 1024 := BitVec.ofNat 1024 (base + 2 * 2 ^ 128 + 2 ^ 384 + 4 * 2 ^ 512 + 2 ^ 768)
def copying (out : Bool) (base : Nat) : State := one fun t => { t with copies := [{ copy0 with out := out, desc := copyDesc base }] }
where
  /-- The rest of the copy. -/
  copy0 : Copy := { kind := 0, out := false, desc := 0, reg := 1, regs := 1, tile := .empty, seq := 0, done := 0, status := none }
/-- The last word of the scratchpad; an address of no space. -/
theorem witness_EngineEvents_copy : ∀ b : Bool, ∀ s, s = copying b (spad.toNat + 524284) → OnSlot s 0 s.st ∧ s.st.stat = .running ∧ CoherentFor s (engineOf 0 s.st.ctx) ∧
    (∃ c, s.st.copies = [c] ∧ c.status = none ∧ c.kind = 0 ∧ c.out = b ∧ copyWidth c.desc = 32 ∧ copyTotal c.desc = 1 ∧
      c.reg + c.regs ≤ 32 ∧ 1 ≤ c.regs * (8192 / 32) ∧ (∀ j ea, j < 1 → copyEa c.desc j = some ea →
        s.check (engineOf 0 s.st.ctx) ea 4 4 .any (if b then .write else .read) =
          .ok [spadAt 0 + 524284, spadAt 0 + 524285, spadAt 0 + 524286, spadAt 0 + 524287])) ∧
    TablesOfApart s s.st.ctx (fun l => ∃ j, j < 1 ∧ l ∈ [spadAt 0 + 524284, spadAt 0 + 524285, spadAt 0 + 524286, spadAt 0 + 524287]) := by
  rintro b s rfl
  refine ⟨⟨rfl, by simp [copying, one, State.reset]⟩, rfl, coherentFor_of _ rfl, ⟨_, rfl, rfl, rfl, rfl, by cases b <;> decide +kernel, by cases b <;> decide +kernel,
    by cases b <;> decide, by cases b <;> decide, ?_⟩, tablesOfApart_of _ _ _ rfl⟩
  intro j ea hj he
  obtain rfl : j = 0 := by omega
  have h : copyEa (copyDesc (spad.toNat + 524284)) 0 = some ((spad.toNat + 524284 : Nat) : Int) := by decide +kernel
  obtain rfl : ((spad.toNat + 524284 : Nat) : Int) = ea := Option.some.inj (h.symm.trans he)
  cases b <;> decide +kernel
/-- A copy of one element between register 1 and register 3 of the strand in slot 8. -/
def crossing (out : Bool) : State :=
  { one fun t => { t with copies := [{ copying.copy0 with
      kind := 1, out := out, desc := BitVec.ofNat 1024 (((2 : Nat) + 8 * 2 ^ 32 + 3 * 2 ^ 48) * 2 ^ 128 + 2 ^ 768) }] } with
    others := [(8, strand0)] }
theorem witness_EngineEvents_cross : ∀ b : Bool, ∀ s, s = crossing b → ∃ c, OnSlot s 0 s.st ∧ s.st.stat = .running ∧ s.st.copies = [c] ∧
    c.status = none ∧ c.kind = 1 ∧ c.out = b ∧ copyWidth c.desc = 32 ∧ copyLen c.desc 0 = 1 ∧ copyCtl c.desc / 2 ^ 53 % 8 + 1 = 1 ∧
    copyCtl c.desc / 2 ^ 32 % 2 ^ 11 = 8 ∧ copyCtl c.desc / 2 ^ 48 % 2 ^ 5 = 3 ∧ (s.strand 8).stat ≠ .absent ∧
    (s.strand 8).gkey = s.st.gkey ∧ c.reg + 1 ≤ 32 := by
  rintro b s rfl
  refine ⟨_, ⟨rfl, by simp [crossing, one, State.reset]⟩, rfl, rfl, rfl, rfl, rfl, ?_⟩
  cases b <;> decide +kernel
/-- A copy between the last word of the scratchpad and a tile of one element. -/
def tileCopy (out : Bool) : Copy :=
  { copying.copy0 with kind := 2, out := out, desc := copyDesc (spad.toNat + 524284), tile := tileDef 1 4 0 }
def tiling (out : Bool) : State := { tiled (if out then .draining else .filling) (tileDef 1 4 0) [] with
  st := { (tiled (if out then .draining else .filling) (tileDef 1 4 0) []).st with copies := [tileCopy out] } }
theorem witness_EngineEvents_tile : ∀ b : Bool, ∀ s, s = tiling b → ∃ c x, OnSlot s 0 s.st ∧ s.st.stat = .running ∧ s.st.copies = [c] ∧
    c.status = none ∧ c.kind = 2 ∧ c.out = b ∧ c.reg = (1 : TReg).val ∧ x = c.tile ∧ copyWidth c.desc = 32 ∧ copyTotal c.desc = 1 ∧
    CoherentFor s (engineOf 0 s.st.ctx) ∧ OnePlaceEach s (engineOf 0 s.st.ctx) x ∧
    (∀ j, j < 1 → (copyTile c.desc j).1 < x.rows ∧ ((copyTile c.desc j).2 + 1) * 32 ≤ 8 * x.len) ∧
    (∀ j ea, j < 1 → copyEa c.desc j = some ea → s.check (engineOf 0 s.st.ctx) ea (32 / 8) (32 / 8) .any (if b then .write else .read) =
      .ok lastFour) ∧
    (∀ j i q, j < 1 → i < x.rows → q < x.len → s.tileByte (engineOf 0 s.st.ctx) x i q ∉ lastFour) ∧
    (∀ P, TablesOfApart s s.st.ctx P) ∧ s.st.tiles[(1 : TReg)].cur = x ∧ x.rows ≤ 256 ∧ x.len ≤ 1024 := by
  rintro b s rfl
  have hb : ∀ q < 4, (tiling b).tileByte (engineOf 0 (tiling b).st.ctx) (tileDef 1 4 0) 0 q = spadAt 0 + q := by cases b <;> decide
  refine ⟨tileCopy b, _, ⟨rfl, by simp [tiling, tiled, one, State.reset]⟩, rfl, rfl, rfl, rfl, rfl, rfl, rfl, by cases b <;> decide +kernel,
    by cases b <;> decide +kernel, coherentFor_of _ rfl, ?_, by cases b <;> decide +kernel, ?_, ?_, fun P => tablesOfApart_of _ _ _ rfl,
    by cases b <;> rfl, by cases b <;> decide, by cases b <;> decide⟩
  · intro r c r' c' hr hc hr' hc' h
    obtain rfl : r = 0 := by simpa [tileCopy, tileDef] using hr
    obtain rfl : r' = 0 := by simpa [tileCopy, tileDef] using hr'
    have e : (tileCopy b).tile = tileDef 1 4 0 := rfl
    rw [e, hb c hc, hb c' hc'] at h
    exact ⟨rfl, by omega⟩
  · intro j ea hj he
    obtain rfl : j = 0 := by omega
    have h : copyEa (tileCopy b).desc 0 = some ((spad.toNat + 524284 : Nat) : Int) := by cases b <;> decide +kernel
    obtain rfl : ((spad.toNat + 524284 : Nat) : Int) = ea := Option.some.inj (h.symm.trans he)
    cases b <;> decide +kernel
  · intro j i q _ hi hq
    obtain rfl : i = 0 := by simpa [tileCopy, tileDef] using hi
    have hq : q < 4 := hq
    rw [show (tileCopy b).tile = tileDef 1 4 0 from rfl, hb q hq]
    simp only [lastFour, List.mem_cons, List.not_mem_nil, or_false]
    omega
theorem witness_EngineEvents_copy_fault : ∀ s, s = copying false (2 ^ 56) → OnSlot s 0 s.st ∧ s.st.stat = .running ∧
    ∃ c, s.st.copies = [c] ∧ c.status = none ∧ c.kind = 0 ∧ c.out = false ∧ copyWidth c.desc = 32 ∧ copyTotal c.desc = 1 ∧
      copyEa c.desc 0 = some ((2 ^ 56 : Nat) : Int) ∧ s.check (engineOf 0 s.st.ctx) ((2 ^ 56 : Nat) : Int) 4 4 .any .read = .error (5, 2 ^ 56) := by
  rintro s rfl
  exact ⟨⟨rfl, by simp [copying, one, State.reset]⟩, rfl, _, rfl, rfl, rfl, rfl, by decide +kernel, by decide +kernel, by decide +kernel,
    by decide +kernel⟩
theorem witness_EngineEvents_stream : ∀ s, s = streaming (flow id) [] → s.st = s.strand 0 ∧ s.st.stat = .running ∧ s.st.queue = [] ∧ s.st.sync = [] ∧
    CoherentFor s (engineOf 0 s.st.ctx) ∧ 15 < s.st.csr.strmap.toNat / 2 ^ 5 % 2 ^ 5 ∧ ∃ x, x = s.st.streams[(15 : OSlot)] ∧ x.write = false ∧ x.st = .running ∧ x.buf = [] ∧ x.cur ≤ x.count ∧
      2 = min ((x.depth + 1) * x.slen) (x.count - x.cur) ∧ ∀ j, j < 2 →
        s.check (engineOf 0 s.st.ctx) (x.base.toNat + (x.cur + j : Nat) * x.stride.toInt) (2 ^ x.width) (2 ^ x.width) .any .read =
          .ok ((List.range 4).map (spadAt 0 + 4 * j + ·)) := by
  rintro s rfl
  exact ⟨rfl, rfl, rfl, rfl, coherentFor_of _ rfl, by decide, _, rfl, by decide, by decide, by decide, by decide, by decide, by decide +kernel⟩
/-- One that has transferred element 0 of two. -/
theorem witness_EngineEvents_rest : ∀ c, c = { copying.copy0 with desc := BitVec.ofNat 1024 ((copyDesc spad.toNat).toNat + 2 ^ 384 + 2 ^ 768), done := 1 } →
    ∀ s, s = (one fun t => { t with copies := [c] }) → OnSlot s 0 s.st ∧ s.st.copies = [c] ∧ c.status = none ∧ copyWidth c.desc = 32 ∧
    copyTotal c.desc = 2 ∧ 2 ≤ c.regs * (8192 / 32) ∧ Left c 2 1 ∧ ¬Left c 2 0 ∧ ∀ j ea, Left c 2 j → copyEa c.desc j = some ea →
      s.check (engineOf 0 s.st.ctx) ea 4 4 .any .read = .ok ((List.range 4).map (spadAt 0 + 4 + ·)) := by
  rintro c rfl s rfl
  refine ⟨⟨rfl, by simp [one, State.reset]⟩, rfl, rfl, by decide +kernel, by decide +kernel, by decide +kernel, by unfold Left; decide,
    by unfold Left; decide, ?_⟩
  intro j ea hj he
  obtain rfl : j = 1 := by have h := hj.1; have h' := hj.2; change 1 ≤ j at h; omega
  have h : copyEa (BitVec.ofNat 1024 ((copyDesc spad.toNat).toNat + 2 ^ 384 + 2 ^ 768)) 1 = some ((spad.toNat + 4 : Nat) : Int) := by decide +kernel
  obtain rfl : ((spad.toNat + 4 : Nat) : Int) = ea := Option.some.inj (h.symm.trans he)
  decide +kernel
def entry0 (i : Instr) (a : Word) : Entry :=
  { seq := 0, ord := 0, instr := i, word := 0, pay := none, opd := { d := 0, a := a, b := 0, c := 0 }, grant := 0, len := 1, vtype := 2, frm := 0,
    fxrm := 0, xact := 0, done := 0 }
theorem witness_EngineEvents_bind : ∀ s, s = (one fun t => { t with queue := [entry0 (.setls 7) 127] }) →
    (∀ j, j / 8 = s.slot / 8 → j ≠ s.slot → (s.strand j).stat = .absent) ∧ s.st.stat = .running ∧ s.st.trap.inh = false ∧ s.st.park = .none ∧
    s.st.copies = [] ∧ s.st.sync = [] ∧ s.st.queue = entry0 (.setls 7) 127 :: [] ∧ (entry0 (.setls 7) 127).opd.a.toInt ≤ 127 ∧
    -128 ≤ (entry0 (.setls 7) 127).opd.a.toInt ∧ 1 ≤ s.st.csr.lanea.toNat := by
  rintro s rfl
  refine ⟨fun j _ hj => ?_, rfl, rfl, rfl, rfl, rfl, rfl, by decide, by decide, by decide⟩
  simp only [State.strand, if_neg hj]; rfl
/-- A head entry without a class that acts; an acquire before a read stream. -/
theorem witness_EngineEvents_bindForm : ∃ f, Quiet (regs []) ∧ Granted (regs []) ∧ intForm (.vadd 1 2 3 0 .w32) (regs []) = some f ∧
    f.legal = true ∧ (f.xm = 0 → ∀ k, Executes (regs []) f.start f.m k → ¬Acts (regs []) (f.val k).2) ∧
    (∀ j, j / 8 = (regs []).slot / 8 → j ≠ (regs []).slot → ((regs []).strand j).stat = .absent) ∧ 1 ≤ (regs []).st.csr.lanea.toNat :=
  ⟨_, quiet_of _ (by decide), by unfold Granted; decide, rfl, by decide, fun _ k _ => not_acts (by decide) _,
    fun j _ hj => by simp only [State.strand, if_neg hj]; rfl, by decide⟩
theorem witness_EngineEvents_acquire : ∀ s, s = (one fun t => { t with queue := [entry0 (.vwait 1 2 3 0 .eq .w32) 0] }) →
    OnSlot s 0 s.st ∧ s.st.streams[(15 : OSlot)].write = false ∧ s.st.streams[(15 : OSlot)].fifo = [] ∧
    ∃ e ∈ s.st.queue, e.instr.acquires = true := by
  rintro s rfl; exact ⟨⟨rfl, by simp [one, State.reset]⟩, by decide, by decide, entry0 (.vwait 1 2 3 0 .eq .w32) 0, by simp [one], rfl⟩
/-- A POP without its status before it. -/
theorem witness_EngineEvents_pop : ∀ s, s = (one fun t => { t with sync := [{ reg := 5, seq := 0, src := .port 16, grant := t.grant, flags := 0 }] }) →
    OnSlot s 0 s.st ∧ s.st.streams[(15 : OSlot)].write = false ∧ s.st.streams[(15 : OSlot)].fifo = [] ∧
    ∃ r ∈ s.st.sync, r.src.isPort = true := by
  rintro s rfl; exact ⟨⟨rfl, by simp [one, State.reset]⟩, by decide, by decide, _, List.mem_singleton.mpr rfl, rfl⟩
theorem witness_EngineEvents_wake : ∀ s, s = paged 0x1F (fun t => { t with queue := [entry0 (.vwait 1 2 3 0 .eq .w32) 0xFFFC], park := .vwait }) →
    ∃ e, (∀ p ∈ s.ending, p.1 ≠ s.slot) ∧ s.st.queue = [e] ∧ e.instr = .vwait 1 2 3 0 .eq .w32 ∧ s.st.stat = .running ∧
    s.st.trap.inh = false ∧ s.st.copies = [] ∧ s.st.sync = [] ∧ s.st.park = .vwait ∧ 1 = s.st.effLen e ∧ s.st.csr.vstart.toNat < 1 ∧
    (e.group 1 MW.w32.bits).ok = true ∧ (e.group 3 32).ok = true ∧
    (∀ k, s.st.csr.vstart.toNat ≤ k → k < 1 → allows s 0 k = true → s.check s.me ((e.opd.a.toNat : Int) + (el s 3 k 32 : Nat)) 4 4 .memory .read =
      .ok [0x30FFFC, 0x30FFFD, 0x30FFFE, 0x30FFFF]) ∧
    (∀ k, s.st.csr.vstart.toNat ≤ k → k < 1 → allows s 0 k = true → e.done.getLsbD k = false →
      condOf .eq 32 (s.get [0x30FFFC, 0x30FFFD, 0x30FFFE, 0x30FFFF]) (el s 1 k 32)) := by
  rintro s rfl
  refine ⟨_, by decide, rfl, rfl, rfl, rfl, rfl, rfl, rfl, by decide, by decide, by decide, by decide, ?_, ?_⟩
  · intro k _ hk _; obtain rfl : k = 0 := by omega
    decide +kernel
  · intro k _ hk _ _; obtain rfl : k = 0 := by omega
    unfold condOf; decide +kernel
/-- An object of one line at 0x4000. -/
def obj1 : Obj :=
  { handle := 1, ctx := 1, atts := [1], st := .resident, cbase := 0x4000, lines := 1, dbase := 0x20000, datab := 0, mpages := 0, image := [],
    kernels := [], latt := [0], dicts := [[]], text := [] }
theorem witness_EngineEvents_line : ∀ s, s = { regs [] with objs := [obj1] } → (0x403F : BitVec 56).toNat / 64 * 64 = 0x4000 ∧
    s.objAt 1 0x4000 = some obj1 ∧ ∀ x ∈ s.caches.l1i, ¬(x.core = 0 ∧ x.ctx = 1 ∧ x.line = 0x4000) := by
  rintro s rfl; exact ⟨by decide, rfl, by decide⟩

/-- A strand with a command, whose words lie in page 0: FILL of two words, AXPY of two, SCADD of two pairs to one word. -/
def playing (c : Cmd) : State := paged 0x1F fun t => { t with cmds := [c] }
def cmdW (w0 w1 w2 : Word) : Cmd := { w0 := w0, w1 := w1, w2 := w2, w3 := 0, seq := 0, ord := 0, trans := 0, status := none }
theorem playing_at (c : Cmd) (hc : c.status = none) : OnSlot (playing c) 0 (playing c).st ∧ NothingBefore (playing c).st ∧
    CoherentFor (playing c) (playaOf 0 (playing c).st.ctx) ∧ ActsAlone (playing c) 0 (playing c).st 0 c :=
  ⟨⟨rfl, by simp [playing, paged, one, State.reset]⟩, ⟨rfl, rfl, show ∀ n : Fin 16, strand0.streams[n].fifo = [] by decide⟩,
    coherentFor_of _ rfl, ⟨rfl, hc, fun j x hj => by omega⟩,
    fun j x hj h => by have := h.1; cases j with | zero => exact absurd rfl hj | succ j => cases this⟩
theorem witness_PortCommands_fill : ∀ c, c = cmdW (0x200000003 : Word) 0xFFF8 0 → c.bad = none ∧ c.n = 2 ∧ c.op = 3 ∧
    (∀ j, j < c.n → (playing c).cmdElem (playaOf 0 1) c j = .ok ((List.range 4).map (0x30FFF8 + 4 * j + ·), [], [])) ∧
    TablesOfApart (playing c) 1 (fun l => ∃ j, j < c.n ∧ l ∈ (List.range 4).map (0x30FFF8 + 4 * j + ·) ++ []) ∧
    (∀ j, j < c.n → ((List.range 4).map (0x30FFF8 + 4 * j + ·)).Nodup) ∧
    (∀ i j, i < c.n → j < c.n → i ≠ j → ∀ l ∈ (List.range 4).map (0x30FFF8 + 4 * i + ·), l ∉ (List.range 4).map (0x30FFF8 + 4 * j + ·)) := by
  rintro c rfl
  refine ⟨by decide, by decide, by decide, by decide +kernel, ?_, by decide, ?_⟩
  · refine apart_paged (q := 0x1F) (r := []) rfl (by simp) rfl ?_
    rintro a ⟨j, _, h⟩
    simp only [List.append_nil, List.mem_map, List.mem_range] at h; omega
  · intro i j _ _ hn l hl hl'
    simp only [List.mem_map, List.mem_range] at hl hl'; omega
theorem witness_PortCommands_axpy : ∀ c, c = cmdW (0x200000001 : Word) 0x100 0x200 → c.bad = none ∧ c.n = 2 ∧ c.op = 1 ∧
    (∀ j, j < c.n → (playing c).cmdElem (playaOf 0 1) c j =
      .ok ((List.range 4).map (0x300100 + 4 * j + ·), (List.range 4).map (0x300200 + 4 * j + ·), [])) := by
  rintro c rfl; exact ⟨by decide, by decide, by decide, by decide +kernel⟩
theorem witness_PortCommands_scadd : ∀ c, c = cmdW (0x200000205 : Word) 0x100 0x200 → c.bad = none ∧ c.n = 2 ∧ c.op = 5 ∧ c.ty = 2 ∧
    (∀ j, j < c.n → (playing c).cmdElem (playaOf 0 1) c j =
      .ok ([], (List.range 8).map (0x300200 + 8 * j + ·), (List.range 4).map (0x300100 + ·))) ∧
    TablesOfApart (playing c) 1 (fun l => ∃ j, j < c.n ∧ l ∈ [] ++ (List.range 4).map (0x300100 + ·)) := by
  rintro c rfl
  refine ⟨by decide, by decide, by decide, by decide, by decide +kernel, ?_⟩
  refine apart_paged (q := 0x1F) (r := []) rfl (by simp) rfl ?_
  rintro a ⟨j, _, h⟩
  simp only [List.nil_append, List.mem_map, List.mem_range] at h; omega

/-- A collective of chips 0 and 3 on a word in page 0: nothing sent; all sent, and the word of chip 3 here; complete. -/
def flit3 (type : Byte) (x : Nat) : Flit :=
  { seq := 0, dst := 0, src := 3, type := type, payload := BitVec.ofNat 1920 (1 + 2 ^ 16 + (0x100000401 : Nat) * 2 ^ 64 + x) }
def collective (c : Coll) (fs : List Flit) : State :=
  { paged 0x1F (fun t => { t with colls := [c] }) with
    ctxs := [(0, .system), (1, { tenant with cgroups := [(1, [0, 3])] })]
    link := { State.reset.link with rx := fs, routes := [(3, 5)] } }
def collW (sent : Bool) (chunks : List (Nat × BitVec 64)) : Coll :=
  { w0 := 0x100000401, w1 := 0x100, w2 := 0x200, w3 := 0x300, seq := 0, ord := 0, num := 0, sent := sent, chunks := chunks,
    satr := 0, xf := 0, status := none }
theorem collective_at (c : Coll) (fs : List Flit) (hc : c.status = none) : OnSlot (collective c fs) 0 (collective c fs).st ∧
    NothingBefore (collective c fs).st ∧ OldestColl (collective c fs).st 0 c :=
  ⟨⟨rfl, by simp [collective, paged, one, State.reset]⟩, ⟨rfl, rfl, show ∀ n : Fin 16, strand0.streams[n].fifo = [] by decide⟩, rfl, hc,
    fun j x hj => by omega⟩
theorem witness_PortCommands_send : ∀ s, s = collective (collW false []) [] → ∃ v, ∃ vals : Nat → List Nat,
    NobodyLeft (s.collFlits s.st.ctx (collW false [])) ∧
    s.collEnv 0 0 s.st (collW false []) = .ok (some v) ∧ (collW false []).op = 1 ∧ 2 ≤ v.ms.length ∧ v.ms.Nodup ∧ (∀ m ∈ v.ms, m < 4096) ∧
    (∀ p : Fin 16, s.link.ports[p].st ≠ .quarantined ∧ (Carries s.link.ports[p] → s.link.ports[p].tx = [])) ∧
    (∀ m ∈ v.ms, m ≠ s.link.chip.toNat → ∃ n : Fin 16, routeTo s m = some n.val) ∧
    ∀ ch, ch < v.chunks (collW false []) → s.ownValues v (collW false []) ch = .ok (vals ch) := by
  rintro s rfl
  refine ⟨_, fun _ => [0], by unfold NobodyLeft; decide, rfl, by decide, by decide, by decide, by decide, by unfold Carries; decide, ?_, ?_⟩
  · intro m hm hn
    have : m = 0 ∨ m = 3 := by simpa using (show m ∈ [0, 3] from hm)
    rcases this with rfl | rfl
    · exact absurd (by decide) hn
    · exact ⟨5, by decide⟩
  intro ch hc
  have : ch < 1 := hc
  obtain rfl : ch = 0 := by omega
  decide +kernel
theorem witness_PortCommands_sum : ∀ s, s = collective (collW true []) [flit3 1 0] → ∀ c, c = collW true [] → c.op = 1 ∧ c.sent = true ∧
    c.chunks = [] ∧ 1 ≤ c.n ∧ c.n ≤ 2 ^ c.chl ∧ s.cgroup? s.st.ctx c.grp = some (s.link.chip.toNat :: [3]) ∧
    (s.link.chip.toNat :: [3]).Nodup ∧ [3] ≠ ([] : List Nat) ∧ [3].length < 64 ∧ NobodyLeft (s.collFlits s.st.ctx c) ∧
    (∀ p : Fin 16, s.link.ports[p].st ≠ .quarantined) ∧ (∀ m ∈ [3], ∃ w, memberWord (s.collFlits s.st.ctx c) m = some w ∧ wordsDiffer w c.w0.toNat = false) ∧
    (∀ m ∈ [3], gather (s.collFlits s.st.ctx c) 1 m 0 (8 * c.e) c.n = some [0]) ∧
    s.locsI (walkerOf 0 s.st.ctx) c.w1.toNat (c.e * c.n) .read = .ok [0x300100, 0x300101, 0x300102, 0x300103] ∧
    s.locsI (walkerOf 0 s.st.ctx) c.w2.toNat (c.e * c.n) .write = .ok [0x300200, 0x300201, 0x300202, 0x300203] ∧
    s.locsI (walkerOf 0 s.st.ctx) (c.w2.toNat + (c.e * c.n + 7) / 8 * 8 : Nat) 8 .write = .ok ((List.range 8).map (0x300208 + ·)) ∧
    ([0x300200, 0x300201, 0x300202, 0x300203] ++ (List.range 8).map (0x300208 + ·)).Nodup := by
  rintro s rfl c rfl
  refine ⟨by decide, by decide, by decide, by decide, by decide, by decide, by decide, by decide, by decide,
    by unfold NobodyLeft; decide +kernel, by decide, ?_, by decide +kernel, by decide +kernel, by decide +kernel, by decide +kernel, by decide⟩
  intro m hm
  obtain rfl : m = 3 := by simpa using hm
  exact ⟨0x100000401, by decide +kernel, by decide +kernel⟩
theorem witness_PortCommands_complete : ∀ s, s = collective (collW true [(0, 3)]) [flit3 1 0] → ∀ c, c = collW true [(0, 3)] → ∃ v,
    NobodyLeft (s.collFlits s.st.ctx c) ∧ s.collEnv 0 0 s.st c = .ok (some v) ∧ s.collDone v c = true ∧
    s.locsI (walkerOf 0 s.st.ctx) c.w3.toNat 8 .rw = .ok ((List.range 8).map (0x300300 + ·)) ∧ ((List.range 8).map (0x300300 + ·)).Nodup := by
  rintro s rfl c rfl
  exact ⟨_, by unfold NobodyLeft; decide +kernel, rfl, by decide +kernel, by decide +kernel, by decide⟩


/-- Two FILLs of one word each, of different lines: either may act. -/
def fills : State := paged 0x1F fun t => { t with cmds := [cmdW 0x100000003 0x100 0, cmdW 0x100000003 0x200 0] }
theorem witness_PortCommands_several : OnSlot fills 0 fills.st ∧ NothingBefore fills.st ∧ MayAct fills 0 fills.st 0 (cmdW 0x100000003 0x100 0) ∧
    MayAct fills 0 fills.st 1 (cmdW 0x100000003 0x200 0) ∧ ∀ i c, MayAct fills 0 fills.st i c → c.op = 3 ∧ c.bad = none ∧
      ∀ j, j < c.n → ∃ p, fills.cmdElem (playaOf 0 fills.st.ctx) c j = .ok p := by
  refine ⟨⟨rfl, by decide⟩, ⟨rfl, rfl, show ∀ n : Fin 16, strand0.streams[n].fifo = [] by decide⟩,
    ⟨rfl, rfl, fun j x hj => by omega⟩, ⟨rfl, rfl, fun j x hj hx _ => ?_⟩, fun i c h => ?_⟩
  · obtain rfl : j = 0 := by omega
    obtain rfl := Option.some.inj hx
    decide +kernel
  · have g : ∀ a : Word, a = 0x100 ∨ a = 0x200 → (cmdW 0x100000003 a 0).op = 3 ∧ (cmdW 0x100000003 a 0).bad = none ∧
        ∀ j, j < (cmdW 0x100000003 a 0).n → ∃ p, fills.cmdElem (playaOf 0 fills.st.ctx) (cmdW 0x100000003 a 0) j = .ok p := by
      rintro a (rfl | rfl) <;> refine ⟨by decide, by decide, fun j hj => ?_⟩ <;> obtain rfl : j = 0 := by
        have : (cmdW (0x100000003 : Word) 0x100 0).n = 1 := by decide
        have : (cmdW (0x100000003 : Word) 0x200 0).n = 1 := by decide
        omega
      · exact ⟨((List.range 4).map (0x300100 + ·), [], []), by decide +kernel⟩
      · exact ⟨((List.range 4).map (0x300200 + ·), [], []), by decide +kernel⟩
    obtain ⟨hc, -, -⟩ := h
    rcases i with _ | _ | i
    · obtain rfl := Option.some.inj hc; exact g _ (.inl rfl)
    · obtain rfl := Option.some.inj hc; exact g _ (.inr rfl)
    · cases hc

/-! ### Links, requests, the host and the package -/

/-- A machine that serves requests. -/
def ready (s : State) : State := { s with host := { s.host with trained := true }, pkg := { s.pkg with state := 4 } }
/-- A request of context c with arguments at their byte offsets. -/
def ask (c : BitVec 16) (args : List (Nat × Nat)) (block : Option (List Byte)) : Req :=
  { code := 0xFFFF, tag := 7, ctx := c, zero := 0, block := block,
    args := BitVec.ofNat 448 (args.map fun f => f.2 * 256 ^ (f.1 - 8)).sum }
def port0 (st : PortSt) : BPort := { State.reset.link.ports[(0 : Fin 16)] with st := st, rxSeq := 0xFFFF }
/-- A machine whose port 15 is x; chip 5 is reached over port 0. -/
def wired (x : BPort) : State :=
  ready { State.reset with link := { (withPort .reset 15 x).link with routes := [(5, 0)] }, ctxs := [(0, .system), (1, tenant)] }
def flitTo (dst : BitVec 12) (type : Byte) : Flit := { seq := 0xFFFF, dst := dst, src := 3, type := type, payload := 1 }

theorem witness_LinkEvents_own : ∀ x, x = port0 .up → ∀ f, f = flitTo 0 1 → Arrives (wired x) 15 x f ∧ f.type.toNat = 1 ∧
    f.dst = (wired x).link.chip ∧ ∃ y, (wired x).ctx? (BitVec.ofNat 16 (f.payload.toNat % 2 ^ 16)) = some y ∧ Stays y ∧
      lookup 0 (f.payload.toNat / 2 ^ 16 % 2 ^ 8) y.collNum ≤ f.payload.toNat / 2 ^ 32 % 2 ^ 32 := by
  rintro x rfl f rfl; unfold Arrives Carries; exact ⟨by decide +kernel, by decide +kernel, by decide +kernel, tenant, by decide +kernel,
    by unfold Stays; decide, by decide +kernel⟩
theorem witness_LinkEvents_forward : ∀ x, x = port0 .degraded → ∀ f, f = flitTo 5 7 → Arrives (wired x) 15 x f ∧ f.type.toNat = 7 ∧
    f.dst ≠ (wired x).link.chip ∧ routeTo (wired x) f.dst.toNat = some (0 : Fin 16).val ∧ (0 : Fin 16) ≠ 15 ∧
    (wired x).link.ports[(0 : Fin 16)].tx = [] ∧ (wired x).link.ports[(0 : Fin 16)].st ≠ .quarantined := by
  rintro x rfl f rfl; unfold Arrives Carries; decide +kernel
theorem witness_LinkEvents_ahead : ∀ x, x = port0 .up → ∀ f, f = { flitTo 0 2 with seq := 0x7FFE } →
    x = (wired x).link.ports[(15 : Fin 16)] ∧ Carries x ∧ f.seq ≠ x.rxSeq ∧ (f.seq - x.rxSeq).toNat < 2 ^ 15 ∧
    (∀ g ∈ x.held, g.seq ≠ f.seq) ∧ x.rxSeq ∉ x.retry := by
  rintro x rfl f rfl; unfold Carries; decide +kernel
theorem witness_LinkEvents_malformed : ∀ x, x = port0 .up → Arrives (wired x) 15 x (flitTo 0 8) ∧ 8 ≤ (flitTo 0 8).type.toNat := by
  rintro x rfl; unfold Arrives Carries; decide +kernel
theorem witness_LinkEvents_ack : ∀ x, x = port0 .up → x = (wired x).link.ports[(15 : Fin 16)] ∧ Carries x ∧ (flitTo 0 4).type = 4 ∧
    (flitTo 0 5).type = 5 := by
  rintro x rfl; unfold Carries; decide +kernel
theorem witness_LinkEvents_training : ∀ x, x = port0 .training → x = (wired x).link.ports[(15 : Fin 16)] ∧ x.st = .training ∧ x.tx = [] ∧
    (4 ≤ 7 ∧ 7 < 8) := by
  rintro x rfl; decide +kernel
theorem witness_LinkEvents_error : ∀ x, x = { port0 .up with retry := [9], unacked := [flitTo 5 4] } →
    x = (wired x).link.ports[(15 : Fin 16)] ∧ Carries x ∧ (8 : BitVec 16) ∉ x.retry ∧
    (∀ f ∈ x.unacked ++ x.tx ++ x.held, f.type.toNat ∈ [0, 4, 5] ∨ 8 ≤ f.type.toNat) ∧ (wired x).link.rx = [] ∧
    (∀ y ∈ (wired x).allStrands ++ (wired x).ending, y.2.colls = []) ∧ (9 : BitVec 16) ∈ x.retry := by
  rintro x rfl; unfold Carries; decide +kernel
/-- A flit of a collective of chips 0 and 3 between them, over whose port the error comes. -/
theorem witness_LinkEvents_leave : ∀ f, f = { flitTo 3 1 with payload := 1 + 9 * 2 ^ 16 } → ∀ x, x = { port0 .up with unacked := [f], peer := some 3 } →
    ∀ s, s = { wired x with ctxs := [(0, .system), (1, { tenant with cgroups := [(9, [0, 3])] })] } →
    x = s.link.ports[(15 : Fin 16)] ∧ Carries x ∧ x.unacked ++ x.tx ++ x.held = [f] ∧ f.type.toNat ∈ [1, 2, 3, 6, 7] ∧ (∀ g ∈ s.link.rx, g.type ≠ 6) ∧
    s.cgroup? (f.payload.setWidth 16) (flitField f 2 1) = some [0, 3] ∧ [0, 3].findIdx? (fun m => m = s.link.chip.toNat) = some 0 ∧
    x.peer = some 3 ∧ [0, 3].findIdx? (fun m => m = (3 : BitVec 12).toNat) = some 1 := by
  rintro f rfl x rfl s rfl; unfold Carries; decide +kernel
/-- A third member, chip 5 over port 0, which is told that chip 3 has left; a LEAVE from a member; a flit that comes again. -/
theorem witness_LinkEvents_told : ∀ x, x = { port0 .up with unacked := [{ flitTo 3 1 with payload := 1 + 9 * 2 ^ 16 }], peer := some 3 } →
    ∀ s, s = { wired x with ctxs := [(0, .system), (1, { tenant with cgroups := [(9, [0, 3, 5])] })] } → 5 ∈ [0, 3, 5] ∧ 0 < 1 ∧ 5 < 4096 ∧
    5 ≠ s.link.chip.toNat ∧ 5 ≠ (3 : BitVec 12).toNat ∧ routeTo s 5 = some (0 : Fin 16).val ∧ (0 : Fin 16) ≠ 15 ∧
    s.link.ports[(0 : Fin 16)].st ≠ .quarantined ∧ s.link.ports[(0 : Fin 16)].tx = [] := by
  rintro x rfl s rfl; decide +kernel
theorem witness_LinkEvents_again : ∀ f, f = { flitTo 0 6 with payload := 1 + 9 * 2 ^ 16, seq := 0xFFFE } → ∀ x, x = port0 .up →
    ∀ s, s = { wired x with ctxs := [(0, .system), (1, { tenant with cgroups := [(9, [0, 3])] })] } → x = s.link.ports[(15 : Fin 16)] ∧
    Carries x ∧ 2 ^ 15 ≤ (f.seq - x.rxSeq).toNat ∧ s.cgroup? (f.payload.setWidth 16) (flitField f 2 1) = some [0, 3] ∧
    f.src.toNat ∈ [0, 3] := by
  rintro f rfl x rfl s rfl; unfold Carries; decide +kernel
/-- A LEAVE of chip 3 from collective 4 of group 9, while a flit of collective 7 of the group waits here; and one where no other is open. -/
theorem witness_LinkEvents_departed : ∀ f, f = { flitTo 0 6 with payload := 1 + 9 * 2 ^ 16 + 4 * 2 ^ 32 + 3 * 2 ^ 64 } → ∀ x, x = port0 .up → ∀ b : Bool,
    ∀ s, s = { wired x with
      ctxs := [(0, .system), (1, { tenant with cgroups := [(9, [0, 3])] })]
      link := { (wired x).link with rx := if b then [{ flitTo 0 1 with payload := 1 + 9 * 2 ^ 16 + 7 * 2 ^ 32 }] else [] } } →
    ∃ y, Arrives s 15 x f ∧ f.dst = s.link.chip ∧ f.type = 6 ∧ 1 = f.payload.setWidth 16 ∧ s.ctx? 1 = some y ∧ Stays y ∧
      lookup 0 (flitField f 2 1) y.collNum ≤ flitField f 4 4 ∧ (∀ g ∈ s.link.rx, g.type ≠ 6) ∧
      s.openNums 1 (flitField f 2 1) = (if b then [7] else []) ∧ s.cgroup? (f.payload.setWidth 16) (flitField f 2 1) = some [0, 3] ∧ f.src.toNat ∈ [0, 3] := by
  rintro f rfl x rfl b s rfl; unfold Arrives Carries Stays
  refine ⟨{ tenant with cgroups := [(9, [0, 3])] }, ?_⟩
  cases b <;> exact ⟨by decide +kernel, by decide +kernel, by decide, by decide +kernel, by decide +kernel, by decide, by decide +kernel, by decide +kernel,
    by decide +kernel, by decide +kernel, by decide +kernel⟩
theorem witness_LinkEvents_requests : ∀ x, x = port0 .down → ∀ n ∈ [1, 2, 3, 4], ∀ q, q = ask 0 [(8, n), (9, 15)] none →
    Served (wired x) q [(8, 1), (9, 1)] ∧ Req.arg q 9 1 = (15 : Fin 16).val ∧ x = (wired x).link.ports[(15 : Fin 16)] ∧ Req.arg q 8 1 = n := by
  rintro x rfl n hn q rfl
  simp only [List.mem_cons, List.not_mem_nil, or_false] at hn
  rcases hn with rfl | rfl | rfl | rfl <;> unfold Served <;> decide +kernel
theorem witness_LinkEvents_chips : ∀ n ∈ [0, 5], ∀ q, q = ask 0 [(8, n), (9, 15), (10, 4095)] none →
    Served (wired (port0 .up)) q [(8, 1), (9, 1), (10, 2)] ∧ Req.arg q 9 1 = (15 : Fin 16).val ∧ Req.arg q 10 2 < 4096 ∧ Req.arg q 8 1 = n := by
  rintro n hn q rfl
  simp only [List.mem_cons, List.not_mem_nil, or_false] at hn
  rcases hn with rfl | rfl <;> unfold Served <;> decide +kernel
/-- Two chips, 0 and 4095. -/
theorem witness_LinkEvents_group : ∀ h : List Byte, h = [0, 0, 0xFF, 0x0F] → ∀ q, q = ask 1 [(8, 255), (9, 2), (16, 64)] (some h) →
    About (wired (port0 .up)) q [(8, 1), (9, 1), (16, 8)] tenant ∧ Stays tenant ∧ 2 = Req.arg q 9 1 ∧ q.block = some h ∧
    Req.arg q 16 8 % 64 = 0 ∧ 2 * 2 ≤ h.length ∧ [0, 4095] = ((List.range 2).map fun i => blockField h (2 * i) 2) ∧ (∀ c ∈ [0, 4095], c < 4096) ∧
    [0, 4095].Nodup := by
  rintro h rfl q rfl; unfold About Served Stays; exact ⟨⟨by decide +kernel, by decide +kernel, rfl⟩, by decide +kernel, by decide +kernel, rfl, by decide +kernel, by decide +kernel, by decide +kernel,
    by decide, by decide⟩

theorem witness_ContextRequests_unassigned : (ready .reset).host.trained = true ∧ (ready .reset).pkg.state = 4 := by decide +kernel
/-- A machine with context 1 in a state, which f changes. -/
def holding (st : CtxSt) (f : State → State) : State := ready (f { State.reset with ctxs := [(0, .system), (1, { tenant with st := st })] })
/-- A creation: cluster 0, way 15, every partition, all plates of die 0, flags 8. -/
def wanted : List Byte :=
  [1, 0, 0, 0, 0, 0x80, 8, 0, 1, 0, 0, 0, 0, 0, 0, 0, 0, 0x40] ++ List.replicate 46 0
theorem witness_ContextRequests_create : ∀ s, s = ready .reset ∨ s = ready (logFull .reset) → ∀ q, q = ask 0 [(8, 64)] (some wanted) → ∀ b, b = wanted → ∃ gr,
    Served s q [(8, 8)] ∧ q.ctx = 0 ∧ BlockOf q 64 b ∧ 8 = blockField b 6 1 ∧ blockField b 0 4 ≠ 0 ∧ blockField b 7 1 = 0 ∧
    blockField b 60 4 = 0 ∧ (∀ d, d < 4 → blockField b (16 + 2 * d) 2 ≤ 16384 ∧
      (blockField b (16 + 2 * d) 2 ≠ 0 → blockField b 0 4 / 2 ^ (8 * d) % 256 ≠ 0)) ∧
    s.strictConflict (8 / 2 % 2 == 1) (8 % 2 == 1) (BitVec.ofNat 16 (blockField b 4 2)) = false ∧
    s.pcgConflict (8 % 2 == 1) (if 8 / 8 % 2 = 1 then BitVec.allOnes 288 else BitVec.ofNat 288 (blockField b 24 36)) = false ∧
    s.badCluster (BitVec.ofNat 32 (blockField b 0 4)) = false ∧ s.ctxs.length < 65535 ∧
    s.findGrants 0 ((List.range 4).map fun d => blockField b (16 + 2 * d) 2) = some gr ∧ (s.kplace (2 ^ 20) (2 ^ 20)).isSome = true := by
  rintro s (rfl | rfl) q rfl b rfl <;>
  refine ⟨#v[(0, 16384), (0, 0), (0, 0), (0, 0)], ?_, rfl, ⟨wanted, rfl, by decide +kernel, by decide +kernel, by decide +kernel⟩, by decide +kernel⟩ <;>
  unfold Served <;> decide +kernel
/-- The cluster of the new context has been used by a service strand, and no strand stands there; the scrub of its rows fails, or none does. -/
theorem witness_ContextRequests_create_soiled : ∀ b : Bool, ∀ s, s = ready { State.reset with
      soiled := [0], pkg := { Package.reset with failing := if b then [.cluster 0] else [] } } → ∀ q, q = ask 0 [(8, 64)] (some wanted) →
    Served s q [(8, 8)] ∧ BlockOf q 64 wanted ∧ (BitVec.ofNat 32 (blockField wanted 0 4)).getLsbD (0 : Fin 32).val = true ∧ (0 : Fin 32).val ∈ s.soiled ∧
    (∀ k ∈ s.liveSlots, clusterOf k ≠ (0 : Fin 32).val) ∧ (b = true → .cluster 0 ∈ s.pkg.failing) ∧
    NoneSoiled (ready .reset) (BitVec.ofNat 32 (blockField wanted 0 4)) := by
  rintro b s rfl q rfl; unfold Served BlockOf NoneSoiled
  cases b <;> exact ⟨⟨by decide +kernel, by decide +kernel, by decide +kernel⟩, ⟨wanted, rfl, by decide +kernel, by decide +kernel⟩, by decide +kernel,
    by decide +kernel, by decide +kernel, by decide +kernel, by decide +kernel⟩
theorem witness_ContextRequests_log : LogRoom (ready .reset) 1 ∧ LogRoom (holding .running id) 64 ∧
    (ready (logFull .reset)).hamada.places = 0 ∧ (holding .running logFull).hamada.places = 0 := by
  unfold LogRoom; decide +kernel
theorem witness_ContextRequests_release : ∀ f, f = id ∨ f = logFull → About (holding .running f) (ask 1 [] none) [] tenant ∧
    Stays tenant ∧ tenant.st ≠ .creating := by
  rintro f (rfl | rfl) <;> unfold About Served Stays <;>
    exact ⟨⟨by decide +kernel, by decide +kernel, rfl⟩, by decide +kernel, by decide⟩
theorem witness_ContextRequests_release_refused : About (holding .creating id) (ask 1 [] none) [] { tenant with st := .creating } ∧
    About (holding .released id) (ask 1 [] none) [] { tenant with st := .released } ∧ ¬Stays { tenant with st := .released } := by
  unfold About Served Stays
  exact ⟨⟨by decide +kernel, by decide +kernel, rfl⟩, ⟨by decide +kernel, by decide +kernel, rfl⟩, by decide⟩
theorem witness_ContextRequests_save : ∀ st ∈ [CtxSt.running, .swapped], ∀ x, x = { tenant with st := st } →
    About (holding st id) (ask 1 [] none) [] x ∧ (x.st = .running ∨ x.st = .swapped) ∧ Settled (holding st id) 1 := by
  rintro st hs x rfl
  simp only [List.mem_cons, List.not_mem_nil, or_false] at hs
  rcases hs with rfl | rfl <;> unfold About Served <;>
    exact ⟨⟨by decide +kernel, by decide +kernel, rfl⟩, by decide +kernel, fun k => strand_late rfl rfl k, by decide +kernel⟩
theorem witness_ContextRequests_resume_halted : ∀ s, s = ready { State.reset with
      st := { strand0 with stat := .halted, ctx := 1 }, ctxs := [(0, .system), (1, { tenant with halted := true })] } →
    About s (ask 1 [] none) [] { tenant with halted := true } ∧ ({ tenant with halted := true }).st = .running := by
  rintro s rfl; unfold About Served; exact ⟨⟨by decide +kernel, by decide +kernel, rfl⟩, rfl⟩
/-- An image of cluster 31 with a strand in its last slot, in the last shadow slot: as it was written, and with another hash. -/
def image31 : Image :=
  { mark := 0, ctx := 1, cluster := 31, lengths := [], seq := 0, hash := 0, gseed := 0,
    strands := [(2047, { strand0 with stat := .halted, ctx := 1 })], slots := [], acc := [], bars := [], cells := [] }
def spoilt : Image := { image31 with hash := ~~~(imageHash image31) }
def imaged (i : Image) : State := holding .swapped fun s => { s with shadow := s.shadow.set 7 (some i) }
theorem imaged_at (i : Image) (hi : i = image31.hashed ∨ i = spoilt) : About (imaged i) (ask 1 [] none) [] { tenant with st := .swapped } ∧
    (imaged i).clustersFree 1 tenant.clu = true ∧ (imaged i).badCluster tenant.clu = false ∧ (∀ e ∈ (imaged i).spillGrants, e.1 ≠ 1) ∧
    [i] = (imaged i).shadowImages 1 ++ (imaged i).spill.filter (fun i => i.ctx = 1) := by
  unfold About Served
  rcases hi with rfl | rfl <;>
    exact ⟨⟨by decide +kernel, by decide +kernel, rfl⟩, by decide +kernel, by decide +kernel, by decide +kernel, rfl⟩
theorem witness_ContextRequests_resume : ∀ i, i = image31.hashed → About (imaged i) (ask 1 [] none) [] { tenant with st := .swapped } ∧
    (∀ e ∈ [i], e.hash = imageHash e) ∧ ([i].map Image.cluster).Nodup ∧
    (∀ e ∈ [i], (e.strands.map Prod.fst).Nodup ∧ ∀ p ∈ e.strands, p.1 / 64 = e.cluster ∧ p.2.ctx = 1) := by
  rintro i rfl
  refine ⟨(imaged_at _ (.inl rfl)).1, ?_, by simp, ?_⟩
  · intro e he; obtain rfl : e = image31.hashed := by simpa using he
    rfl
  · intro e he; obtain rfl : e = image31.hashed := by simpa using he
    show ((image31.strands.map Prod.fst).Nodup ∧ ∀ p ∈ image31.strands, p.1 / 64 = 31 ∧ p.2.ctx = 1)
    decide
theorem witness_ContextRequests_resume_spoilt : About (imaged spoilt) (ask 1 [] none) [] { tenant with st := .swapped } ∧
    (∃ i ∈ [spoilt], i.hash ≠ imageHash i) ∧ LogRoom (imaged spoilt) 64 := by
  refine ⟨(imaged_at _ (.inr rfl)).1, ⟨spoilt, by simp, fun h => ?_⟩, by unfold LogRoom; decide +kernel⟩
  have h : ~~~(imageHash image31) = imageHash image31 := h
  have := congrArg (BitVec.getLsbD · 0) h
  simp at this
/-- The clusters of both are unused; the cluster of one has been used by a service strand, whose scrub fails. -/
theorem witness_ContextRequests_resume_soiled : NoneSoiled (imaged image31.hashed) tenant.clu ∧ NoneSoiled (imaged spoilt) tenant.clu ∧
    ∀ s, s = { imaged spoilt with soiled := [0], pkg := { (imaged spoilt).pkg with failing := [.cluster 0] } } →
      About s (ask 1 [] none) [] { tenant with st := .swapped } ∧ s.clustersFree 1 tenant.clu = true ∧
      (∀ k ∈ s.liveSlots, tenant.clu.getLsbD (clusterOf k) = false) ∧ tenant.clu.getLsbD (0 : Fin 32).val = true ∧ (0 : Fin 32).val ∈ s.soiled ∧
      .cluster 0 ∈ s.pkg.failing := by
  unfold NoneSoiled About Served
  refine ⟨by simp [imaged, holding, ready, State.reset], by simp [imaged, holding, ready, State.reset], ?_⟩
  rintro s rfl
  exact ⟨⟨by decide +kernel, by decide +kernel, rfl⟩, by decide +kernel, by decide +kernel, by decide, by simp, by simp⟩
theorem witness_ContextRequests_aperture : ∀ q, q = ask 1 [(8, 15), (9, 0), (16, 2 ^ 56 - 2 ^ 36)] none → ∀ q', q' = ask 1 [(8, 15), (9, 1)] none →
    About (holding .running id) q [(8, 1), (9, 1), (16, 8)] tenant ∧ Req.arg q 8 1 = (15 : Fin 16).val ∧ Req.arg q 9 1 = 0 ∧
    Req.arg q 16 8 % 2 ^ 36 = 0 ∧ Req.arg q 16 8 < 2 ^ 56 ∧ About (holding .running id) q' [(8, 1), (9, 1), (16, 8)] tenant ∧
    Req.arg q' 9 1 = 1 ∧ Req.arg q' 16 8 = 0 := by
  rintro q rfl q' rfl; unfold About Served
  exact ⟨⟨by decide +kernel, by decide +kernel, rfl⟩, by decide +kernel, by decide +kernel, by decide +kernel, by decide +kernel, ⟨by decide +kernel, by decide +kernel, rfl⟩, by decide +kernel, by decide +kernel⟩
/-- A context with an empty root table in the last MiB of HBM, which nothing else of HBM holds. -/
def rooted (q : Req → Prop) : State × Context × (Req → Prop) :=
  (ready { State.reset with
    ctxs := [(0, .system), (1, { tenant with root := some (Config.hbmBytes - 2 ^ 20) })], ktop := Config.hbmBytes - 2 ^ 20 },
   { tenant with root := some (Config.hbmBytes - 2 ^ 20) }, q)
/-- The last page of 64 KiB of the address space, and one of 1 GiB. -/
theorem noneWaits_of {s : State} {c : BitVec 16} (h : ∀ k ∈ s.slotsOf c, (s.strand k).stat = .running) : NoneWaits s c := by
  intro k hk f; rw [h k hk]; simp
theorem witness_ContextRequests_map : ∀ s x, (s, x) = ((rooted fun _ => True).1, (rooted fun _ => True).2.1) →
    ∀ q, q = ask 1 [(8, 2 ^ 56 - 65536), (16, 65536), (24, 0), (25, 7)] none →
    About s q [(8, 8), (16, 8), (24, 1), (25, 1)] x ∧ Stays x ∧ MapFields q 65536 ∧ (∀ k ∈ s.queues, k.ctx ≠ q.ctx) ∧ NoneWaits s q.ctx ∧
    s.allUnmapped q.ctx (Req.arg q 8 8) (Req.arg q 16 8 / 65536) = true ∧
    (∃ s', s.mapPages q.ctx (Req.arg q 8 8) (Req.arg q 24 1) (Req.arg q 25 1) false (Req.arg q 16 8 / 65536) = some s') ∧
    ∃ r, Req.arg q 16 8 = 65536 ∧ x.root = some r ∧ (∀ l, r ≤ l → l < r + 2 ^ 20 → Memory.get s.mem l = 0) ∧
      s.ktop ≤ r ∧ s.ktop ≤ Config.hbmBytes ∧ s.takeFrames q.ctx (65536 / 65536) ≠ none ∧
      ∀ u f, s.takeFrames q.ctx (65536 / 65536) = some (u, f) → (u.kplace 12288 4096).isSome = true := by
  rintro s x h q rfl
  obtain ⟨rfl, rfl⟩ := Prod.mk.inj h
  refine ⟨?_, by unfold Stays; decide, by unfold MapFields; decide, by decide +kernel,
    noneWaits_of (by decide +kernel), by decide +kernel, Option.isSome_iff_exists.mp (by decide +kernel), _, by decide +kernel, rfl,
    fun l _ _ => rfl, by decide +kernel, by decide +kernel, ?_, ?_⟩
  · unfold About Served; exact ⟨by decide +kernel, by decide +kernel, rfl⟩
  · exact fun h => absurd (congrArg Option.isSome h) (by decide +kernel)
  · intro u f h
    have k : ((rooted fun _ => True).1.takeFrames 1 (65536 / 65536)).all (fun p => (p.1.kplace 12288 4096).isSome) = true := by
      decide +kernel
    rw [show (rooted fun _ => True).1.takeFrames 1 (65536 / 65536) = some (u, f) from h] at k
    exact k
theorem witness_ContextRequests_map_large : MapFields (ask 1 [(8, 2 ^ 56 - 2 ^ 30), (16, 2 ^ 30), (24, 2), (25, 0)] none) (2 ^ 30) := by
  unfold MapFields; decide +kernel
theorem witness_ContextRequests_unmap : ∀ s, s = ready (paged 0x1F id) → ∀ q, q = ask 1 [(8, 65536), (16, 65536)] none → ∃ e w size lv p,
    About s q [(8, 8), (16, 8)] tenant ∧ Stays tenant ∧ Req.arg q 8 8 % 65536 = 0 ∧ Req.arg q 16 8 = 65536 ∧
    Req.arg q 8 8 + 65536 ≤ 2 ^ 56 ∧ (∀ k ∈ s.queues, k.ctx ≠ q.ctx) ∧ NoneWaits s q.ctx ∧ tenant.root = some 0x100000 ∧ 0x100000 % 8 = 0 ∧
    s.walkIn q.ctx (Req.arg q 8 8) = (.leaf e size, w, lv, p) := by
  rintro s rfl q rfl
  exact ⟨0x31001F, 0x31001F, 65536, 3, 0x202008, by unfold About Served; exact ⟨by decide +kernel, by decide +kernel, rfl⟩, by unfold Stays; decide, by decide +kernel, by decide +kernel,
    by decide +kernel, by decide +kernel, noneWaits_of (by decide +kernel), rfl, by decide +kernel, by decide +kernel⟩

theorem some_any {α : Type} {o : Option α} {f : α → Bool} (h : o.any f = true) : ∃ x, o = some x ∧ f x = true := by
  cases o with
  | none => simp at h
  | some x => exact ⟨x, rfl, by simpa using h⟩
/-- A queue of 8 records a level at the end of the address space, with one counter, for continuations, at the end of page 0. -/
theorem witness_KernelRequests_create : ∀ s, s = ready (paged 0x1F id) →
    ∀ q, q = ask 1 [(8, 1), (9, 3), (12, 1), (16, 0xFFF8), (24, 0), (28, 1), (32, 2 ^ 56 - 4224)] none →
    About s q [(8, 1), (9, 1), (12, 4), (16, 8), (24, 4), (28, 4), (32, 8)] tenant ∧ Stays tenant ∧ Req.arg q 8 1 < 2 ∧ 3 = Req.arg q 9 1 ∧
    1 = Req.arg q 12 4 ∧ 0xFFF8 = Req.arg q 16 8 ∧ 0xFFF8 % 8 = 0 ∧ 0xFFF8 + 8 * 1 ≤ 2 ^ 56 ∧ 0 = Req.arg q 24 4 ∧ 1 = Req.arg q 28 4 ∧
    0 + 1 ≤ 1 ∧ 2 ^ 56 - 4224 = Req.arg q 32 8 ∧ (2 ^ 56 - 4224) % 128 = 0 ∧ 2 ^ 56 - 4224 + 128 + 8 * 2 ^ 3 * 64 ≤ 2 ^ 56 ∧
    s.countersMapped q.ctx 0xFFF8 1 = true ∧
    s.allUnmapped q.ctx ((2 ^ 56 - 4224) / 65536 * 65536) (pages64 ((2 ^ 56 - 4224) % 65536 + 128 + 8 * 2 ^ 3 * 64)) = true ∧
    s.freeWindow = some (2 ^ 20) ∧ s.queue? q.ctx (2 ^ 56 - 4224) = none ∧
    ∃ s', s.mapPages q.ctx ((2 ^ 56 - 4224) / 65536 * 65536) 0 0 true (pages64 ((2 ^ 56 - 4224) % 65536 + 128 + 8 * 2 ^ 3 * 64)) = some s' ∧
      (s'.counterAt { queue0 with ctx := 1, va := 2 ^ 56 - 4224, depb := 0xFFF8, depn := 1, cvn := 1 } 0).any (fun ls => decide ls.Nodup) = true := by
  rintro s rfl q rfl; unfold About Served Stays
  refine ⟨⟨by decide +kernel, by decide, rfl⟩, ?_⟩
  iterate 15 refine ⟨by decide +kernel, ?_⟩
  refine ⟨?_, rfl, some_any (by decide +kernel)⟩
  unfold State.freeWindow
  rw [show 63 * 2 ^ 14 = 1032191 + 1 from by decide, List.range_succ_eq_map, List.map_cons, List.find?_cons]
  rfl
/-- A machine with a queue of context 1. -/
def serving (f : Queue → Queue) (g : Strand → Strand) : State := ready { paged 0x1F g with queues := [f { queue0 with ctx := 1, va := 0x20000 }] }
theorem witness_KernelRequests_seal : ∀ s, s = serving id id → ∀ q, q = ask 1 [(8, 0x20000)] none → ∃ k, About s q [(8, 8)] tenant ∧
    s.queue? q.ctx (Req.arg q 8 8) = some k ∧ k.parked = [] ∧ k.isSealed = false := by
  rintro s rfl q rfl; unfold About Served
  exact ⟨{ queue0 with ctx := 1, va := 0x20000 }, ⟨by decide +kernel, by decide, rfl⟩, by decide +kernel, rfl, rfl⟩
theorem witness_KernelRequests_seal_parked : ∀ s, s = serving (fun k => { k with parked := [{ slot := 0, dst := 4, buf := 0, locs := [] }] }) (fun t => { t with park := .qpop }) →
    ∀ q, q = ask 1 [(8, 0x20000)] none → ∃ k, About s q [(8, 8)] tenant ∧ s.queue? q.ctx (Req.arg q 8 8) = some k ∧ k.parked = [{ slot := 0, dst := 4, buf := 0, locs := [] }] ∧
    (∀ l : Fin 8, k.levels[l] = []) ∧ k.isSealed = false ∧ (s.strand 0).stat = .running ∧ (s.strand 0).ctx = q.ctx ∧ (s.strand 0).park = .qpop := by
  rintro s rfl q rfl; unfold About Served
  exact ⟨{ queue0 with ctx := 1, va := 0x20000, parked := [{ slot := 0, dst := 4, buf := 0, locs := [] }] }, ⟨by decide +kernel, by decide, rfl⟩, by decide +kernel, rfl, by decide, rfl, by decide, by decide, by decide⟩
/-- An object of one kernel, which is EXIT: header, descriptor, text, and empty tables. -/
def exitKernel : List Byte :=
  natToBytes 24 (0x4F4C4B4B + 2 ^ 32 + 2 ^ 72 + 2 ^ 96) ++
  natToBytes 40 (128 + 192 * 2 ^ 32 + 196 * 2 ^ 64 + 200 * 2 ^ 128 + 204 * 2 ^ 192 + 208 * 2 ^ 224 + 212 * 2 ^ 256) ++ natToBytes 64 216 ++
  natToBytes 64 (0xFFFFFFFF * 2 ^ 32 + (2 ^ 42 + 4) * 2 ^ 64 + 2 ^ 128 + 2 ^ 224) ++ natToBytes 24 0x500A0000
def exitPortable : Portable :=
  { nk := 1, text := [0x500A0000], dmap := [0], data := [], reloc := [], meth := [], pins := [], bvlen := 0, lendep := false,
    kernels := [{
      entry := 0, trapw := 0xFFFFFFFF, widf := 2 ^ 42 + 4, strands := 1, slots := 0, accrows := 0, tiles := 0, streams := 0, lo := 0, hi := 1,
      methI := 0, methN := 0, pinI := 0, pinN := 0, name := 0, zeroOk := true }] }
/-- It stands at the start of page 0. -/
def loadable : State := ready { paged 0x1F id with mem := tables 0x1F ++ exitKernel.zipIdx.map fun p => (0x300000 + p.2, p.1) }
theorem read_loadable : loadable.readObject 1 0 216 = some exitKernel := by
  have h : HasPages loadable (walkerOf 0 1).ctx := by
    refine ⟨fun a ha => get_page ?_ ha, rfl, rfl⟩
    intro p hp
    obtain ⟨x, _, rfl⟩ := List.mem_map.mp hp
    exact Nat.le_add_right _ _
  unfold State.readObject
  rw [if_neg (by decide), placeEach_page h (by decide) (by decide : 0 + 216 ≤ 65536)]
  decide +kernel
theorem witness_KernelRequests_load : ∀ s, s = loadable →
    ∀ q, q = ask 1 [(8, 0), (16, 216)] none → ∀ po, po = exitPortable → ∀ base, base = 2 ^ 55 → About s q [(8, 8), (16, 8)] tenant ∧ Stays tenant ∧
    s.readObject q.ctx (Req.arg q 8 8) (Req.arg q 16 8) = some exitKernel ∧ parseObject exitKernel = some po ∧
    loadStatus po po.finalize = 0 ∧ s.nextHandle < 2 ^ 32 ∧
    s.findBase q.ctx ((po.object po.finalize s.nextHandle q.ctx 0).1.textPages + pages64 (po.object po.finalize s.nextHandle q.ctx 0).2.length)
      (pages64 (po.object po.finalize s.nextHandle q.ctx 0).1.datab) = some base ∧
    ∃ s', s.mapObject q.ctx (po.object po.finalize s.nextHandle q.ctx base).1 (po.object po.finalize s.nextHandle q.ctx base).2 = some s' ∧
    LogRoom s 2 := by
  rintro s rfl q rfl po rfl base rfl
  have read := read_loadable
  rw [show (0 : Nat) = Req.arg (ask 1 [(8, 0), (16, 216)] none) 8 8 from by decide +kernel,
    show (216 : Nat) = Req.arg (ask 1 [(8, 0), (16, 216)] none) 16 8 from by decide +kernel] at read
  unfold About Served Stays
  exact ⟨⟨by decide +kernel, by decide, rfl⟩, by decide, by exact read, by decide +kernel, by decide +kernel, by decide, by decide +kernel,
    (Option.isSome_iff_exists.mp (by decide +kernel)).imp fun _ h => ⟨h, by unfold LogRoom; decide +kernel⟩⟩
/-- An image of one byte. -/
theorem witness_KernelRequests_load_bad : ∀ s, s = loadable → ∀ q, q = ask 1 [(8, 0), (16, 1)] none → About s q [(8, 8), (16, 8)] tenant ∧
    Stays tenant ∧ LogRoom s 1 ∧ s.readObject q.ctx (Req.arg q 8 8) (Req.arg q 16 8) = some [0x4B] ∧ parseObject [0x4B] = none := by
  rintro s rfl q rfl
  unfold About Served Stays LogRoom
  exact ⟨⟨by decide +kernel, by decide, rfl⟩, by decide, by decide +kernel, by decide +kernel, by decide +kernel⟩
/-- A machine with object o, and contexts 1 and 2. -/
def objects (o : Obj) (g : Strand → Strand) : State :=
  ready { paged 0x1F g with objs := [o], ctxs := [(0, .system), (1, tenant), (2, tenant)] }
theorem witness_KernelRequests_unload : ∀ b, ∀ s, s = objects obj1 (fun t => { t with pc := if b then 0x403C else 0x4040 }) →
    ∀ q, q = ask 1 [(8, 1)] none → About s q [(8, 4)] tenant ∧ Stays tenant ∧ s.objOf q.ctx (Req.arg q 8 4) = some obj1 ∧ obj1.st = .resident ∧
    (∀ y ∈ s.objs, y.handle = obj1.handle → y = obj1) ∧ s.refs obj1 = b ∧ s.holdersOf obj1 = (if b then [1] else []) ∧
    (∀ c ∈ s.holdersOf obj1, s.ctx? c ≠ none) ∧ LogRoom s (64 * (s.holdersOf obj1).length + 1) := by
  rintro b s rfl q rfl; unfold About Served Stays
  have h : ∀ b : Bool, (objects obj1 (fun t => { t with pc := if b then 0x403C else 0x4040 })).holdersOf obj1 = (if b then [1] else []) := by
    decide +kernel
  cases b <;> refine ⟨⟨by decide +kernel, by decide, by decide +kernel⟩, by decide, by decide +kernel, rfl, by simp [objects, ready],
    by decide +kernel, h _, fun c hc => ?_, by rw [h]; unfold LogRoom; decide +kernel⟩
  · rw [h] at hc; simp at hc
  · rw [h] at hc
    obtain rfl : c = 1 := by simpa using hc
    decide +kernel
theorem witness_KernelRequests_attach : ∀ o, o = { obj1 with cbase := 2 ^ 55 } → ∀ s, s = objects o id →
    ∀ q, q = ask 1 [(8, 1), (12, 2)] none → About s q [(8, 4), (12, 2)] tenant ∧ Stays tenant ∧ (2 : BitVec 16).toNat = Req.arg q 12 2 ∧
    s.ctx? 2 = some tenant ∧ s.objOf q.ctx (Req.arg q 8 4) = some o ∧ o.st = .resident ∧ o.atts.contains 2 = false ∧
    s.allUnmapped 2 o.cbase (o.textPages + o.mpages) = true ∧ s.allUnmapped 2 o.dbase (pages64 o.datab) = true ∧
    (∃ s', s.mapObject 2 o (s.tablesOf o) = some s') ∧ ∀ z ∈ s.objs, z.handle = o.handle → z = o := by
  rintro o rfl s rfl q rfl; unfold About Served Stays
  exact ⟨⟨by decide +kernel, by decide, by decide +kernel⟩, by decide, by decide +kernel, rfl, by decide +kernel, rfl, by decide, by decide +kernel,
    by decide +kernel, Option.isSome_iff_exists.mp (by decide +kernel), by simp [objects, ready]⟩
/-- Text at page 0, which context 2 has mapped. -/
theorem witness_KernelRequests_attach_mapped : ∀ o, o = { obj1 with cbase := 0 } → ∀ s, s = objects o id →
    ∀ q, q = ask 1 [(8, 1), (12, 2)] none → About s q [(8, 4), (12, 2)] tenant ∧ Stays tenant ∧ (2 : BitVec 16).toNat = Req.arg q 12 2 ∧
    s.ctx? 2 = some tenant ∧ s.objOf q.ctx (Req.arg q 8 4) = some o ∧ o.st = .resident ∧
    ¬(s.allUnmapped 2 o.cbase (o.textPages + o.mpages) = true ∧ s.allUnmapped 2 o.dbase (pages64 o.datab) = true) := by
  rintro o rfl s rfl q rfl; unfold About Served Stays
  exact ⟨⟨by decide +kernel, by decide, by decide +kernel⟩, by decide, by decide +kernel, rfl, by decide +kernel, rfl, by decide +kernel⟩
/-- A kernel of 16 strands in groups of up to 16. -/
def kernel16 : Kernel :=
  { entry := 0x4000, tvec := 0, widf := 2 ^ 42 + 4, strands := 16, slots := 0, accrows := 0, tiles := 0, streams := 0, mtab := 0, pins := [] }
/-- A launch of that kernel: handle 1, kernel 0, priority 7, 2^32 groups, lane width 15 on 8 slots. -/
def header : List Byte := natToBytes 144 (1 + 7 * 2 ^ 48 + 63 * 2 ^ 56 + 2 ^ 32 * 2 ^ 64)
theorem witness_KernelRequests_launch : ∀ o, o = { obj1 with kernels := [kernel16] } → ∀ s, s = objects o id → ∀ q, q = ask 1 [(8, 64)] (some header) →
    About s q [(8, 8)] tenant ∧ Stays tenant ∧ BlockOf q 144 header ∧ 63 = blockField header 7 1 ∧ 2 ^ 32 = blockField header 8 8 ∧
    blockField header 6 1 < 8 ∧ 63 % 16 ≠ 0 ∧ blockField header 136 8 = 0 ∧ s.objOf q.ctx (blockField header 0 4) = some o ∧
    o.st = .resident ∧ o.kernels[blockField header 4 2]? = some kernel16 ∧ kernel16.strands ≤ 2 ^ widW kernel16.widf 0 ∧
    2 ^ 32 ≤ 2 ^ (64 - widW kernel16.widf 0) ∧ kernel16.strands ≤ kernel16.perCluster := by
  rintro o rfl s rfl q rfl; unfold About Served Stays BlockOf
  exact ⟨⟨by decide +kernel, by decide, rfl⟩, by decide, ⟨_, rfl, by decide +kernel, by decide +kernel, by decide +kernel⟩, by decide +kernel,
    by decide +kernel, by decide +kernel, by decide, by decide +kernel, by decide +kernel, rfl, by decide +kernel, by decide +kernel, by decide +kernel,
    by decide +kernel⟩

/-- Page 0 of context 1 through aperture 15. -/
def opened : State := ready { paged 0x1F id with host := { HostLink.reset with apertures := HostLink.reset.apertures.set 15 (some (1, 0)) } }
theorem witness_HostAndPackageEvents_access : ∀ s, s = opened → s.host.trained = true ∧ s.host.apertures[(15 : OSlot)] = some (1, 0) ∧
    0xFFFE + [(1 : Byte), 2].length ≤ 2 ^ 36 ∧ s.locs (walkerOf 0 1) (0 + 0xFFFE) 2 .write = .ok [0x30FFFE, 0x30FFFF] ∧
    [0x30FFFE, 0x30FFFF].Nodup ∧ s.locs (walkerOf 0 1) (0 + 0xFFFE) 2 .read = .ok [0x30FFFE, 0x30FFFF] ∧
    2 ^ 36 - 1 + [(1 : Byte)].length ≤ 2 ^ 36 ∧ s.locs (walkerOf 0 1) (0 + (2 ^ 36 - 1)) 1 .write = .error (8, 2 ^ 36 - 1) := by
  rintro s rfl; exact ⟨rfl, by decide +kernel, by decide, by decide +kernel, by decide, by decide +kernel, by decide, by decide +kernel⟩
theorem witness_HostAndPackageEvents_unbound : (ready .reset).host.trained = true ∧ (ready .reset).host.apertures[(15 : OSlot)] = none := by decide
/-- A record of priority 7 for an empty queue; for one whose level 7 is full; for one that is sealed. -/
theorem witness_HostAndPackageEvents_append : ∀ s, s = serving id id → ∀ data, data = natToBytes 64 (7 * 2 ^ 16) → ∃ q, s.host.trained = true ∧
    (s.queues.find? fun y => y.window = 0x100000 / 64 * 64) = some q ∧ s.queue? q.ctx q.va = some q ∧ 7 * 2 ^ 16 = bytesToNat data ∧
    (7 : Fin 8).val = (if q.deque then 0 else 7 * 2 ^ 16 / 2 ^ 16 % 8) ∧ 0x100000 % 64 = 0 ∧ data.length = 64 ∧ recValid q (7 * 2 ^ 16) = true ∧
    (q.levels[(7 : Fin 8)]).length < 2 ^ q.capl ∧ q.isSealed = false ∧ q.parked = [] := by
  rintro s rfl data rfl
  exact ⟨{ queue0 with ctx := 1, va := 0x20000 }, rfl, by decide +kernel, by decide +kernel, by decide +kernel, by decide, by decide, by decide,
    by decide +kernel, by decide, rfl, rfl⟩
theorem witness_HostAndPackageEvents_drop : ∀ s, s = serving (fun k => { k with deque := true, levels := k.levels.set 0 (List.replicate 8 rec1) }) id →
    ∃ q, (s.queues.find? fun y => y.window = 0x100000 / 64 * 64) = some q ∧ s.queue? q.ctx q.va = some q ∧
      (0 : Fin 8).val = (if q.deque then 0 else 7 * 2 ^ 16 / 2 ^ 16 % 8) ∧ 2 ^ q.capl ≤ (q.levels[(0 : Fin 8)]).length := by
  rintro s rfl
  exact ⟨{ queue0 with ctx := 1, va := 0x20000, deque := true, levels := queue0.levels.set 0 (List.replicate 8 rec1) }, by decide +kernel, by decide +kernel,
    by decide, by decide⟩
/-- A release report has been sent, and the host passes it. -/
theorem witness_HostAndPackageEvents_head : ∀ s, s = holding .released (fun s => { s with host := { s.host with tail := 1, sent := [(0, 0x100000084)] } }) →
    s.host.trained = true ∧ 1 = ((1 : Word).setWidth 32 - s.host.head).toNat ∧ 1 ≤ (s.host.tail - s.host.head).toNat ∧
    ∀ p ∈ (s.host.sent.drop s.host.consumed).take 1, p.2.toNat % 2 ^ 16 = 0x84 ∧
      ∀ e ∈ s.ctxs, e.1 = p.2.toNat / 2 ^ 32 % 2 ^ 16 → e.2.st = .released := by
  rintro s rfl
  refine ⟨rfl, by decide, by decide, fun p hp => ?_⟩
  obtain rfl : p = (0, 0x100000084) := by simpa [holding, ready, State.reset, HostLink.reset] using hp
  exact ⟨by decide +kernel, by decide +kernel⟩
/-- One report waits; the ring of 16 places has one left. -/
theorem witness_HostAndPackageEvents_ring : ∀ s, s = ready { State.reset with host := { HostLink.reset with waiting := [0x84], based := true, sizel := 4, tail := 15 } } →
    s.host.waiting = [0x84] ∧ s.host.trained = true ∧ s.host.based = true ∧ 4 ≤ s.host.sizel.toNat ∧ s.host.sizel.toNat ≤ 16 ∧
    (s.host.tail - s.host.head).toNat < 2 ^ s.host.sizel.toNat := by
  rintro s rfl; decide +kernel
/-- A strand that waits for the page of an address, whose context has a demand-filled range up to the end of the space. -/
def faulting (q : Byte) (va : Word) : State :=
  { paged q (fun t => { t with stat := .waiting { cause := 8, va := va, vec := false } }) with
    ctxs := [(0, .system), (1, { tenant with demand := [{ va := 2 ^ 56 - 2 ^ 21, len := 2 ^ 21, perm := 3, size := 1 }] })] }
theorem witness_HostAndPackageEvents_service : ∀ s, s = faulting 0x1F 5 → ∀ f, f = (⟨8, 5, false⟩ : OFault) → (s.strand 0).stat = .waiting f ∧
    ∃ e n, (s.walkIn (s.strand 0).ctx f.va.toNat).1 = .leaf e n ∧ pteSt e = 0 := by
  rintro s rfl f rfl; exact ⟨by decide, 0x30001F, 65536, by decide +kernel, by decide⟩
theorem witness_HostAndPackageEvents_demand : ∀ s, s = faulting 0x1F (2 ^ 56 - 1) → ∀ f, f = (⟨8, 2 ^ 56 - 1, false⟩ : OFault) →
    (s.strand 0).stat = .waiting f ∧ (s.walkIn (s.strand 0).ctx f.va.toNat).1 = .unmapped ∧ ∃ x r, s.ctx? (s.strand 0).ctx = some x ∧
    x.demand.find? (fun r => decide (r.va ≤ f.va.toNat) && decide (f.va.toNat < r.va + r.len)) = some r ∧
    s.slotFree (s.strand 0).ctx f.va.toNat r.size = true ∧ ∃ s', s.mapPage (s.strand 0).ctx (f.va.toNat / pageBytes r.size * pageBytes r.size) r.size r.perm false = some s' := by
  rintro s rfl f rfl
  exact ⟨by decide, by decide +kernel, _, ⟨2 ^ 56 - 2 ^ 21, 2 ^ 21, 3, 1⟩, rfl, by decide +kernel, by decide +kernel, Option.isSome_iff_exists.mp (by decide +kernel)⟩
theorem witness_HostAndPackageEvents_text : ∀ q va, (faulting q va).formerText ((faulting q va).strand 0).ctx va.toNat = false := by
  intro q va; rfl
/-- A fetch from the former text of an object. -/
theorem witness_HostAndPackageEvents_former : ∀ s, s = { paged 0x1F (fun t => { t with
      pc := 0x4000, stat := .waiting { cause := 8, va := 0x4000, vec := false } }) with objs := [{ obj1 with st := .unloaded }] } →
    ∀ f, f = (⟨8, 0x4000, false⟩ : OFault) → (s.strand 0).stat = .waiting f ∧ f.vec = false ∧ f.va = (s.strand 0).pc.setWidth 64 ∧
    s.formerText (s.strand 0).ctx f.va.toNat = true := by
  rintro s rfl f rfl; exact ⟨by decide, rfl, by decide, by decide +kernel⟩
/-- A page that is moving. -/
theorem witness_HostAndPackageEvents_wait : ∃ e n, ((faulting 0x5F 5).walkIn 1 5).1 = .leaf e n ∧ pteSt e = 1 :=
  ⟨0x30005F, 65536, by decide +kernel, by decide⟩
/-- A malformed leaf, and a retired one. -/
theorem witness_HostAndPackageEvents_fatal : ((faulting 0xDF 5).walkIn 1 5).1 = .malformed ∧
    ∃ e n, ((faulting 0x9F 5).walkIn 1 5).1 = .leaf e n ∧ pteSt e = 2 :=
  ⟨by decide +kernel, 0x30009F, 65536, by decide +kernel, by decide⟩
/-- Page 0 of context 1 is held, with its leaf's first byte q, and the tables are at the top of memory below r. -/
def moving (q : Byte) (l : List Tlb) : State :=
  { paged q id with holds := [{ frame := 48, n := 1, ctx := 1 }], ktop := 0x100000, caches := { State.reset.caches with tlb := l } }
def cached0 (e : Word) : Tlb := { cache := 0, ctx := 1, va := 0, size := 65536, leaf := e }
theorem apart_below (q : Byte) (l : List Tlb) : TablesOfApart (moving q l) 1 (fun a => a < (moving q l).ktop) := by
  intro m hm va
  have e : ({ moving q l with mem := m } : State).ctx? 1 = (moving q l).ctx? 1 := rfl
  have hc : ((moving q l).ctx? 1).bind (·.root) = some 0x100000 := rfl
  simp only [State.walkIn, e, hc]
  have h : ∀ a, 0x100000 ≤ a → Memory.get m a = Memory.get (tables q) a := fun a ha =>
    hm a (by have : (moving q l).ktop = 0x100000 := rfl; omega)
  have w := walk_apart (q := q) (fun a ha _ => h a ha) va
  rw [w]; rfl
/-- Page 0 is mapped; it is moving, and a translation of it is cached; it is moving, and none is. -/
theorem witness_HostAndPackageEvents_migration : ∀ p ∈ [((0x1F : Byte), (0x30001F : Word), ([] : List Tlb), 0),
      (0x5F, 0x30005F, [cached0 0x30001F], 1), (0x5F, 0x30005F, [], 1)], Memory.wf (moving p.1 p.2.2.1).mem = true ∧
    (moving p.1 p.2.2.1).walkIn 1 (5 : BitVec 56).toNat = (.leaf p.2.1 65536, p.2.1, 3, 0x202000) ∧
    pteSt p.2.1 = p.2.2.2 ∧ (moving p.1 p.2.2.1).cached 1 5 65536 = !p.2.2.1.isEmpty ∧ NoneParked (moving p.1 p.2.2.1) 1 ∧
    ∃ h ∈ (moving p.1 p.2.2.1).holds, h.frame = ptePa p.2.1 / 65536 ∧ h.n = 65536 / 65536 := by
  intro p hp
  simp only [List.mem_cons, List.not_mem_nil, or_false] at hp
  rcases hp with rfl | rfl | rfl <;>
    exact ⟨by decide +kernel, by decide +kernel, by decide, by decide +kernel, show ∀ k ∈ ([] : List Queue), _ by simp, _, List.mem_singleton.mpr rfl, by decide, by decide⟩
theorem witness_HostAndPackageEvents_migration_room : ∀ q l, (q, l) ∈ [((0x1F : Byte), ([] : List Tlb)), (0x5F, [])] →
    TablesOfApart (moving q l) 1 (fun a => a < (moving q l).ktop) ∧ (moving q l).takeFrames 1 (65536 / 65536) ≠ none ∧
    NoneParked (moving q l) 1 := by
  intro q l h
  refine ⟨apart_below q l, ?_, show ∀ k ∈ ([] : List Queue), _ by simp⟩
  intro hn
  simp only [List.mem_cons, List.not_mem_nil, or_false] at h
  rcases h with h | h <;> obtain ⟨rfl, rfl⟩ := Prod.mk.inj h <;> exact absurd (congrArg Option.isSome hn) (by decide +kernel)
/-- A strand that has run YIELD. -/
theorem witness_HostAndPackageEvents_preemption : ∀ s, s = team id (fun t => { t with ir := 0x50080000 }) → ∃ g, s.group? (s.strand 0).gkey = some g ∧
    (s.strand 0).stat = .running ∧ (s.strand 0).ir = 0x50080000 ∧ (s.strand 0).park = .none ∧ 0 ∈ g.live ∧ g.saved = [] ∧ g.live.Nodup ∧
    ∀ j ∈ g.live, (s.strand j).late = [] ∧ (s.strand j).ctx = g.ctx := by
  rintro s rfl; exact ⟨team0, by decide, by decide, by decide, by decide, by decide, rfl, by decide, by decide⟩
theorem witness_HostAndPackageEvents_preemption_not : ((team id id).strand 0).ir ≠ 0x50080000 := by decide
/-- The first group of a launch of 8 strands, on an empty machine. -/
def admitting : State :=
  ready { State.reset with
    ctxs := [(0, .system), (1, { tenant with st := .loading })], objs := [{ obj1 with kernels := [{ kernel16 with strands := 8, accrows := 4096, streams := 32 }] }]
    launches := [{ ctx := 1, lid := 1, obj := 1, kix := 0, prio := 7, lane := 63, groups := 1, s := Vector.replicate 15 9, next := 0, ended := 0, failed := none }] }
theorem witness_HostAndPackageEvents_admission : ∀ s, s = admitting → ∃ x l o k, s.ctx? 1 = some x ∧ (x.st = .loading ∨ x.st = .running) ∧
    x.halted = false ∧ s.clustersFree 1 x.clu = true ∧ s.pkg.badUnits = [] ∧ s.st.stat = .absent ∧ s.others = [] ∧ s.groups = [] ∧ s.launches = [l] ∧ l.ctx = 1 ∧ l.next < l.groups ∧
    (s.objs.find? fun y => y.handle = l.obj) = some o ∧ o.kernels[l.kix]? = some k ∧ (∀ y ∈ s.objs, y.st ≠ .retiring) ∧ k.strands ≤ 8 ∧
    k.accrows ≤ 4096 ∧ k.streams ≤ 32 ∧ x.clu.getLsbD 0 = true ∧ ∀ j, j < 0 → x.clu.getLsbD j = false := by
  rintro s rfl
  exact ⟨{ tenant with st := .loading }, _, { obj1 with kernels := [{ kernel16 with strands := 8, accrows := 4096, streams := 32 }] },
    { kernel16 with strands := 8, accrows := 4096, streams := 32 }, rfl, .inl rfl, rfl, by decide +kernel, rfl, rfl, rfl, rfl, rfl, rfl, by decide, by decide +kernel, by decide +kernel,
    by decide +kernel, by decide, by decide, by decide, by decide, by decide⟩
/-- The same once the cluster has been used by a service strand that is gone; and as it was. -/
theorem witness_HostAndPackageEvents_admission_soiled : ∀ s, s = { admitting with soiled := [0] } → ∃ x, s.ctx? 1 = some x ∧ x.st = .loading ∧
    x.halted = false ∧ (∀ g ∈ s.groups, g.2.ctx ≠ 1) ∧ s.clustersFree 1 x.clu = true ∧ (∀ k ∈ s.liveSlots, x.clu.getLsbD (clusterOf k) = false) ∧
    (∀ y ∈ s.objs, y.st ≠ .retiring) ∧ 0 ∈ s.soiled ∧ x.clu.getLsbD 0 = true ∧ NoneSoiled admitting x.clu := by
  rintro s rfl; unfold NoneSoiled
  exact ⟨{ tenant with st := .loading }, rfl, rfl, rfl, by decide, by decide +kernel, by decide +kernel, by decide +kernel, by decide, by decide, by decide +kernel⟩
/-- No image is given. (Whether an image is accepted rests on the fuses, of which the spec gives no value: no image can be shown accepted.) -/
theorem witness_HostAndPackageEvents_boot : State.reset.pkg.powered = true ∧ State.reset.pkg.state = 0 ∧
    ∀ j : BootImage, (none : Option BootImage) = some j ∨ (none : Option BootImage) = some j → ¬Accepts j := by
  refine ⟨rfl, rfl, ?_⟩; simp
theorem witness_HostAndPackageEvents_bring : ∃ s : State, s.pkg.state = 3 := ⟨{ State.reset with pkg := { Package.reset with state := 3 } }, rfl⟩
theorem witness_HostAndPackageEvents_heat : 114 = max (114 : Byte).toNat (0 : Byte).toNat ∧ 114 < 115 ∧ 115 = max (0 : Byte).toNat (115 : Byte).toNat ∧
    115 ≤ 115 := by decide
/-- The last byte of HBM. -/
theorem witness_HostAndPackageEvents_error : ∀ pa, pa = 12 * (96 * 2 ^ 30) - 1 → pa < 12 * (96 * 2 ^ 30) ∧ (11 : Fin 12).val = pa / (96 * 2 ^ 30) ∧
    (regs []).pageAt pa = none ∧
    ∀ p ∈ ((regs []).slot, (regs []).st) :: (regs []).others ++ (regs []).ending ++ (regs []).stored, p.2.cmds = [] := by
  rintro pa rfl
  refine ⟨by decide, by decide, rfl, ?_⟩
  decide +kernel
/-- A machine as it was, and with room in the log. -/
theorem witness_HostAndPackageEvents_frame_error : (12 * (96 * 2 ^ 30) - 1) / 65536 ∉ (regs []).retired ∧ LogRoom (regs []) 1 := by
  unfold LogRoom; decide +kernel
/-- A FILL of one word, whose line the error lies in. -/
theorem witness_HostAndPackageEvents_reader : ∀ c, c = cmdW (0x100000003 : Word) 0x100 0 → (0 : Nat) < 2048 ∧ c.bad = none ∧ 0 < c.n ∧
    (playing c).cmdElem (playaOf 0 (playing c).st.ctx) c 0 = .ok ((List.range 4).map (0x300100 + ·), [], []) ∧
    0x300100 ∈ (List.range 4).map (0x300100 + ·) ++ [] ++ [] ∧ 0x300100 / 128 = 0x30017F / 128 ∧
    (∀ x, x ≠ 0 → ((playing c).strand x).cmds = []) ∧ (∀ p ∈ (playing c).ending ++ (playing c).stored, p.2.cmds = []) := by
  rintro c rfl
  refine ⟨by decide, by decide, by decide, by decide +kernel, by decide, by decide, fun x hx => ?_, by decide +kernel⟩
  simp only [State.strand, if_neg (show ¬x = (playing (cmdW (0x100000003 : Word) 0x100 0)).slot from hx)]; rfl
theorem witness_HostAndPackageEvents_page_error : ∀ s, s = { moving 0x1F [] with st := .empty } → ∀ e, e = (0x30001F : Word) → s.pageAt 0x30FFFF = some (1, 0, 65536) ∧
    s.walkIn 1 0 = (.leaf e 65536, e, 3, 0x202000) ∧ pteSt e = 0 ∧ s.groups = [] ∧ s.slotsOf 1 = [] ∧ LogRoom s 1 ∧
    (∀ x r, s.ctx? 1 = some x → x.root = some r → r % 8 = 0) := by
  rintro s rfl e rfl
  refine ⟨by decide +kernel, by decide +kernel, by decide, rfl, by decide +kernel, by unfold LogRoom; decide +kernel, ?_⟩
  intro x r hx hr
  obtain rfl : tenant = x := Option.some.inj hx
  obtain rfl : 0x100000 = r := Option.some.inj hr
  decide
theorem witness_HostAndPackageEvents_nowhere : 12 * (96 * 2 ^ 30) ≤ 12 * (96 * 2 ^ 30) ∧ State.reset.pkg.powered = true ∧
    State.reset.pkg.state ≤ 1 := by decide

/-! ### The step -/

/-- A strand at 0x1003C of its context, whose page may be fetched, with memory r from that page on. -/
def fetching (r : List Host.Cell) (f : State → State) : State := f { paged 0x1F (fun t => { t with pc := 0x1003C }) with mem := tables 0x1F ++ r }
/-- A word in a cached line, in the text of an object, and in memory: each is EXIT. -/
theorem witness_StepRunsDecodedInstruction_line : ∀ s, s = fetching [] (fun s => { s with caches := { s.caches with l1i := [lineWith 0 1 0x1003C 0x500A0000] } }) →
    s.inputs = [] ∧ s.st.stat = .running ∧ s.st.startAfter = none ∧ 0x1003C = s.st.pc.toNat ∧ s.place s.me 0x1003C .fetch = .ok 0x31003C ∧
    (∃ x, (s.caches.l1i.find? fun x => x.core = coreOf s.slot && x.ctx = s.st.ctx && x.line = 0x1003C / 64 * 64) = some x ∧
      x.words.toList[0x1003C % 64 / 4]? = some 0x500A0000) ∧ decode (0x500A0000 : BitVec 32).toNat = .ok .exit ∧ s.st.pfx = none ∧ s.st.pend = 0 ∧
    s.st.queue = [] ∧ s.st.clause = none := by
  rintro s rfl
  exact ⟨rfl, rfl, rfl, by decide, by decide +kernel, ⟨lineWith 0 1 0x1003C 0x500A0000, by decide +kernel, by decide +kernel⟩, by decide +kernel, rfl, rfl, rfl, rfl⟩
theorem witness_StepRunsDecodedInstruction_text : ∀ o, o = { obj1 with cbase := 0x10000, text := natToBytes 2 0 ++ natToBytes 60 0 ++ natToBytes 4 0x500A0000 } →
    ∀ s, s = fetching [] (fun s => { s with objs := [o] }) → s.place s.me 0x1003C .fetch = .ok 0x31003C ∧ s.caches.l1i = [] ∧
    s.objAt s.st.ctx (0x1003C / 64 * 64) = some o ∧ (0x500A0000 : BitVec 32) = expandWord (o.dicts.getD
      ((o.latt.getD ((0x1003C / 64 * 64 - o.cbase) / 64) 0).toNat / 2 ^ 40 % 2 ^ 6) [])
      (o.text.drop ((o.latt.getD ((0x1003C / 64 * 64 - o.cbase) / 64) 0).toNat % 2 ^ 40)) (0x1003C % 64 / 4) := by
  rintro o rfl s rfl; exact ⟨by decide +kernel, rfl, by decide +kernel, by decide +kernel⟩
theorem witness_StepRunsDecodedInstruction_memory : ∀ s, s = fetching [(0x31003E, 0x0A), (0x31003F, 0x50)] id → s.caches.l1i = [] ∧
    s.place s.me 0x1003C .fetch = .ok 0x31003C ∧ s.objAt s.st.ctx (0x1003C / 64 * 64) = none ∧
    (0x500A0000 : BitVec 32) = BitVec.ofNat 32 (s.get [0x31003C, 0x31003C + 1, 0x31003C + 2, 0x31003C + 3]) := by
  rintro s rfl; exact ⟨rfl, by decide +kernel, by decide, by decide +kernel⟩
/-- In each of the three nothing is waited for. -/
theorem witness_StepRunsDecodedInstruction_quiet : ∀ s, s = fetching [] (fun s => { s with caches := { s.caches with l1i := [lineWith 0 1 0x1003C 0x500A0000] } }) ∨
      s = fetching [] (fun s => { s with objs := [{ obj1 with cbase := 0x10000, text := natToBytes 2 0 ++ natToBytes 60 0 ++ natToBytes 4 0x500A0000 }] }) ∨
      s = fetching [(0x31003E, 0x0A), (0x31003F, 0x50)] id →
    s.held = [] ∧ (∀ k, (s.strand k).late = []) ∧ (∀ o ∈ s.objs, o.st ≠ .retiring) ∧ s.st.sync = [] ∧ NothingBefore s.st ∧ s.st.cmds = [] ∧
    s.st.colls = [] ∧ s.st.park.scalar = false ∧ s.formerText s.st.ctx s.st.pc.toNat = false := by
  have n : ∀ k : Fin 16, strand0.streams[k].fifo = [] := by decide
  rintro s (rfl | rfl | rfl) <;>
    exact ⟨rfl, fun k => strand_late rfl rfl k, by decide, rfl, ⟨rfl, rfl, n⟩, rfl, rfl, rfl, by decide +kernel⟩
/-- A strand parked in JOINL; one at the former text of an object. -/
theorem witness_StepRunsDecodedInstruction_parked : ∀ s, s = fetching [] (fun s => { s with st := { s.st with park := .joinl, ir := 0x500A0000 } }) →
    s.inputs = [] ∧ s.held = [] ∧ (∀ k, (s.strand k).late = []) ∧ (∀ o ∈ s.objs, o.st ≠ .retiring) ∧ s.st.stat = .running ∧
    s.st.startAfter = none ∧ s.st.queue = [] ∧ s.st.sync = [] ∧ s.st.park.scalar = true ∧ decode s.st.ir.toNat = .ok .exit := by
  rintro s rfl; exact ⟨rfl, rfl, fun k => strand_late rfl rfl k, by decide, rfl, rfl, rfl, rfl, rfl, by decide +kernel⟩
theorem witness_StepRunsDecodedInstruction_former : ∀ s, s = fetching [] (fun s => { s with objs := [{ obj1 with st := .unloaded, cbase := 0x10000 }] }) →
    s.inputs = [] ∧ s.held = [] ∧ (∀ k, (s.strand k).late = []) ∧ (∀ o ∈ s.objs, o.st ≠ .retiring) ∧ s.st.stat = .running ∧
    s.st.startAfter = none ∧ s.st.queue = [] ∧ s.st.sync = [] ∧ s.st.park.scalar = false ∧ s.st.pc.toNat % 4 = 0 ∧
    s.formerText s.st.ctx s.st.pc.toNat = true := by
  rintro s rfl; exact ⟨rfl, rfl, fun k => strand_late rfl rfl k, by decide, rfl, rfl, rfl, rfl, rfl, by decide, by decide +kernel⟩
/-- A payload that may govern ADD with an immediate. -/
theorem witness_StepRunsDecodedInstruction_payload : payOk (Instr.addImm 4 4 0x8000).pay (5 : BitVec 26).toNat = true := by decide
theorem witness_StepRunsDecodedInstruction_event : ∀ s, s = { State.reset with inputs := [.row (.idle 0)] } → s.inputs = .row (.idle 0) :: [] ∧
    encode (.idle 0) = none ∧ s.held = [] ∧ (∀ k, (s.strand k).late = []) ∧ (∀ o ∈ s.objs, o.st ≠ .retiring) ∧
    (∀ q ∈ s.queues, q.parked = []) ∧ ∀ w, Instr.idle 0 ≠ .reservedEncoding w := by
  rintro s rfl; exact ⟨rfl, rfl, rfl, fun k => strand_late rfl rfl k, by decide, by decide, by simp⟩
theorem witness_DecodeAndEncodeAgree : (Instr.lih 4 0x1235).wf = true ∧ (Instr.lih 4 0x1235).sharesWord = false ∧
    encode (.lih 4 0x1235) = some 0x1C801235 ∧ 0x1C801235 < 2 ^ 32 ∧ decode 0x1C801235 = .ok (.lih 4 0x1235) := by decide +kernel

/-- What a step leaves. -/
def after (r : Host.Outcome State Fault Refusal) (f : State → Bool) : Bool := match r with | .next t => f t | _ => false
theorem step_reset : Safety.Inv .reset ∧ ∃ t, step .reset = .next t := by
  unfold Safety.Inv; exact ⟨by decide +kernel, _, rfl⟩
/-- R100: LIH s4, 0x1235 from reset writes 0x12350000 and goes on. -/
theorem test_step_lih : after (step (State.reset.withFetchWord 32 0x1C801235)) (fun t => t.st.reg 4 == 0x12350000 && t.st.pc == 4) = true := by
  decide +kernel
/-- R96: a write to s0 is discarded. -/
theorem test_step_s0 : after (step (State.reset.withFetchWord 32 0x1C001235)) (fun t => t.st.reg 0 == 0) = true := by
  decide +kernel
/-- R97: the high half of -1 times 1; the least value divided by -1; the remainder of -7 by 2. -/
theorem test_mulh : after (exec (.mulh 1 2 3) (regs [(2, -1), (3, 1)])) (fun t => t.st.reg 1 == BitVec.allOnes 64) = true := by decide +kernel
theorem test_div_least : after (exec (.div 1 2 3) (regs [(2, 2 ^ 63), (3, -1)])) (fun t => t.st.reg 1 == 2 ^ 63) = true := by decide +kernel
theorem test_rem_sign : after (exec (.rem 1 2 3) (regs [(2, -7), (3, 2)])) (fun t => t.st.reg 1 == -1) = true := by decide +kernel
/-- R41, R102: a load at an address that is not aligned enters the handler with cause 7; TVAL is the address. -/
theorem test_ld_misaligned : after (exec (.ld 5 2 .w32 0) (regs [(2, spad + 2)])) (fun t =>
    t.st.trap.code == 7 && t.st.trap.tval == spad + 2 && t.st.trap.inh && t.st.pc == 0x1000) = true := by decide +kernel
/-- R101: the last word of the scratchpad, stored and loaded, sign-extended. -/
theorem test_st_ld : after (exec (.st 3 2 .w32 0) (regs [(2, spad + 524284), (3, 0x80000001)])) (fun t =>
    after (exec (.ld 5 2 .w32 0) t) (fun u => u.st.reg 5 == 0xFFFFFFFF80000001)) = true := by decide +kernel

/-- R225: of two copies of 16 bytes to one place, B moves its first element, which its 8-byte unit makes two, then A all, then B the rest:
8 bytes of 0xAA, then 8 bytes of 0xBB. -/
def rivals : State :=
  let c : Nat → Copy := fun r => {
    kind := 0, out := true, desc := BitVec.ofNat 1024 (spad.toNat + 2 * 2 ^ 128 + 4 * 2 ^ 384 + 4 * 2 ^ 512 + 4 * 2 ^ 768),
    reg := r, regs := 1, tile := .empty, seq := 0, done := 0, status := none }
  one fun t => { t with
    copies := [c 1, c 2]
    vec := (List.range 4).foldl (fun v k => (v.setElem 1 k 32 0xAAAAAAAA).setElem 2 k 32 0xBBBBBBBB) t.vec }
theorem test_copies_interleave : (((rivals.act (.transfer 0 1 1)).act (.transfer 0 0 4)).act (.transfer 0 1 4)).get ((List.range 16).map (spadAt 0 + ·)) =
    0xBBBBBBBBBBBBBBBBAAAAAAAAAAAAAAAA := by decide +kernel
/-- R70: a younger write of s5 arrives first, and the older one is discarded when it comes. -/
theorem test_younger_write_stands : ∀ x y : SyncRead, x = { reg := 5, src := .port 18, seq := 0, grant := strand0.grant, flags := 0 } → y = { x with src := .entry } →
    ((({ strand0 with sync := [x, y], pend := 32 }).receive y 7).receive { x with reg := 0 } 9).reg 5 = 7 ∧
    (({ strand0 with sync := [x, y], pend := 32 }).receive y 7).pend = 0 := by
  rintro x y rfl rfl; decide +kernel

end Sys2Proof.Tests
end

section
/-! PROOFS. The family of the machine (01): O17 and O55. Both fail; each proof gives the state that the model takes elsewhere than
the statement says. -/

namespace Sys2Proof.Machine

open Sys2Proof.Safety

/-! ### Answers of the model -/

/-- Whether an answer is a next state that passes a test. -/
def leavesWith (p : State → Bool) : Res → Bool
  | .next t => p t
  | _ => false

theorem test_of_leavesWith {p : State → Bool} {r : Res} {t : State} (h : leavesWith p r = true) (e : r = .next t) :
    p t = true := by
  subst e; exact h

/-! ### FENCE beside a saved strand (O17) -/

/-- Whether every port command of a saved strand is still without a status. -/
def State.savedCmdsOpen (s : State) : Bool := s.stored.all fun p => p.2.cmds.all (·.status.isNone)

/-- A form that moves the scalar registers of its strand alone leaves the saved strands as they were. -/
theorem savedCmdsOpen_of_onlyRegs {s t : State} (h : OnlyRegs s t) : t.savedCmdsOpen = s.savedCmdsOpen := by
  rw [h]; rfl

/-- A command that R319 refuses, with OP 0, which has no status yet. -/
def refusedCmd : Cmd := { w0 := 0, w1 := 0, w2 := 0, w3 := 0, seq := 0, ord := 0, trans := 0, status := none }

/-- A strand runs in slot 0 with nothing of its own under way; a pre-empted group has saved a strand from the same slot, which has
pushed a command to p16. -/
def besideSaved : State :=
  { State.reset with
    st := { Strand.empty with stat := .running }
    groups := [(1, {
      ctx := 0, lid := 1, num := 0, cluster := 0, prio := 0, live := [],
      saved := [(0, { Strand.empty with stat := .running, cmds := [refusedCmd] })], bars := Vector.replicate 8 .idle })] }

theorem besideSaved_quiet : Quiet besideSaved :=
  ⟨rfl, rfl, rfl, rfl, rfl, rfl, rfl, rfl, by decide, by simp [besideSaved, State.reset], rfl, rfl, rfl, rfl⟩

/-- Before the FENCE the saved command has no status. -/
theorem besideSaved_open : besideSaved.savedCmdsOpen = true := by decide +kernel

/-- The background work that a FENCE of kind 8 waits for is that of its slot (State.work, State.cmdStrand): where the strand itself
has no command in progress, the saved one's is run, and it gets its status. -/
theorem fence_ends_savedCmd :
    leavesWith (fun t => !t.savedCmdsOpen) (exec (.fence .str 0x80) besideSaved) = true := by decide +kernel

/-- Refutes O17, by its clause on FENCE: Quiet says nothing of the saved strands, and a FENCE that selects port commands moves on
those of a strand that a pre-emption has saved from the same slot, so that more changes than the strand's registers. -/
theorem not_plainSystemForms : ¬ Obligations.PlainSystemForms := by
  unfold Obligations.PlainSystemForms
  rintro ⟨-, -, fence, -⟩
  obtain ⟨t, answer, -, only, -⟩ := fence besideSaved .str 0x80 besideSaved_quiet
  have ended := test_of_leavesWith fence_ends_savedCmd answer
  rw [savedCmdsOpen_of_onlyRegs only, besideSaved_open] at ended
  exact absurd ended (by decide)

/-! ### Walks over tables above a place -/

/-- The entry that a walk reads at a place. -/
def entryAt (m : List Host.Cell) (a : Nat) : Word := BitVec.ofNat 64 (Memory.read m a 8)

/-- What a map holds elsewhere than by default is listed. -/
theorem mem_of_lookup_ne {α : Type} {d : α} {k : Nat} : ∀ {l : List (Nat × α)}, lookup d k l ≠ d → (k, lookup d k l) ∈ l
  | [], h => absurd rfl h
  | (a, b) :: r, h => by
    by_cases e : a = k
    · simp [lookup, e]
    · simp only [lookup, e, if_false] at h ⊢
      exact List.mem_cons_of_mem _ (mem_of_lookup_ne h)

/-- The valid bit of an entry is bit 0 of its first byte (R329). -/
theorem pteV_entryAt (m : List Host.Cell) (a : Nat) : pteV (entryAt m a) = (Memory.get m a).getLsbD 0 := by
  unfold pteV entryAt
  rw [Memory.read, BitVec.getLsbD_ofNat, ← BitVec.testBit_toNat]
  simp only [Nat.testBit_zero, Nat.zero_lt_succ, decide_true, Bool.true_and, decide_eq_decide]
  omega

/-- The first byte of a valid entry is a listed cell. -/
theorem mem_of_pteV {m : List Host.Cell} {a : Nat} (h : pteV (entryAt m a) = true) : (a, Memory.get m a) ∈ m := by
  refine mem_of_lookup_ne fun e => ?_
  rw [pteV_entryAt, Memory.get, e] at h
  exact absurd h (by decide)

/-- A number is read from its own bytes alone. -/
theorem Memory.read_congr {m m' : List Host.Cell} : ∀ (n a : Nat),
    (∀ b, a ≤ b → b < a + n → Memory.get m' b = Memory.get m b) → Memory.read m' a n = Memory.read m a n
  | 0, _, _ => rfl
  | n + 1, a, h => by
    rw [Memory.read, Memory.read, h a (by omega) (by omega),
      Memory.read_congr n (a + 1) fun b hb hb' => h b (by omega) (by omega)]

theorem base_le_pteAddr (level base va : Nat) : base ≤ pteAddr level base va := by
  unfold pteAddr; split <;> omega

/-- The tables from place B on name no table below it. -/
def TablesFrom (m : List Host.Cell) (B : Nat) : Prop :=
  ∀ a, B ≤ a → pteV (entryAt m a) = true → pteLeaf (entryAt m a) = false → B ≤ ptePa (entryAt m a)

/-- Only the listed cells have to be looked at. -/
theorem tablesFrom_of_cells {m : List Host.Cell} {B : Nat}
    (h : ∀ x ∈ m, B ≤ x.1 → pteV (entryAt m x.1) = true → pteLeaf (entryAt m x.1) = false → B ≤ ptePa (entryAt m x.1)) :
    TablesFrom m B :=
  fun a ha hv => h (a, Memory.get m a) (mem_of_pteV hv) ha hv

/-- A walk in such tables reads nothing below B. -/
theorem walkFrom_congr {m m' : List Host.Cell} {B : Nat} (hm : ∀ a, B ≤ a → Memory.get m' a = Memory.get m a)
    (ht : TablesFrom m B) (va : Nat) : ∀ fuel level base, B ≤ base →
    walkFrom m' va fuel level base = walkFrom m va fuel level base
  | 0, _, _, _ => rfl
  | fuel + 1, level, base, hb => by
    have ha : B ≤ pteAddr level base va := hb.trans (base_le_pteAddr ..)
    have hr : Memory.read m' (pteAddr level base va) 8 = Memory.read m (pteAddr level base va) 8 :=
      Memory.read_congr 8 _ fun b h _ => hm b (ha.trans h)
    simp only [walkFrom, hr]
    by_cases hv : pteV (entryAt m (pteAddr level base va)) = true
    · by_cases hl : pteLeaf (entryAt m (pteAddr level base va)) = true
      · simp only [entryAt] at hl; simp [hl]
      · have down := walkFrom_congr hm ht va fuel (level + 1) _ (ht _ ha hv (by simpa using hl))
        simp only [entryAt] at down
        rw [down]
    · simp only [entryAt] at hv; simp [hv]

/-- Where the root and its tables lie at or above ktop, stores below it change no walk of the context. -/
theorem tablesOfApart_below {s : State} {c : BitVec 16} {r : Nat} (hr : (s.ctx? c).bind (·.root) = some r)
    (hb : s.ktop ≤ r) (ht : TablesFrom s.mem s.ktop) : TablesOfApart s c fun l => l < s.ktop := by
  intro m hm va
  have hc : ({ s with mem := m } : State).ctx? c = s.ctx? c := rfl
  simp only [State.walkIn, hc, hr, walk]
  rw [walkFrom_congr (fun a ha => hm a (by omega)) ht va 4 0 r hb]

/-! ### The end of a migration under a misaligned root (O55) -/

/-- Eight-byte entries from the cells of their bytes. At 0x202000 stands the migrating leaf 0x200001005F of the page at address 0
(frame 0x200001). Bytes 2 to 9 from there are the root's first entry, 0x200001, which names the table at 0x200000; that one names
0x201000, and that one 0x202000. In frame 0 a second chain from place 0 leads to another migrating leaf, 0x3005F. -/
def overlappingTables : List Host.Cell :=
  [(0x0, 0x01), (0x1, 0x10), (0x1000, 0x01), (0x1001, 0x20), (0x2000, 0x5F), (0x2002, 0x03),
    (0x200000, 0x01), (0x200001, 0x10), (0x200002, 0x20), (0x201000, 0x01), (0x201001, 0x20), (0x201002, 0x20),
    (0x202000, 0x5F), (0x202002, 0x01), (0x202004, 0x20)]

/-- Context 1 has the root 0x202002, which is no multiple of 8; its strand in slot 0 waits for the page at address 0. -/
def misrooted : State :=
  { State.reset with
    st := { Strand.empty with stat := .waiting { cause := 8, va := 0, vec := false }, ctx := 1 }
    ctxs := [(0, .system), (1, { Context.system with root := some 0x202002, clu := 1, pcg := BitVec.allOnes 288 })]
    mem := overlappingTables
    holds := [{ frame := 0, n := 1, ctx := 1 }, { frame := 0x200001, n := 1, ctx := 1 }]
    ktop := 0x20000 }

theorem misrooted_wf : Memory.wf misrooted.mem = true := by decide +kernel

/-- The page at address 0 is migrating. -/
theorem misrooted_walk :
    misrooted.walkIn 1 (0 : BitVec 56).toNat = (.leaf 0x200001005F 65536, 0x200001005F, 3, 0x202000) := by decide +kernel

theorem misrooted_apart : TablesOfApart misrooted 1 fun l => l < misrooted.ktop :=
  tablesOfApart_below (r := 0x202002) rfl (by decide) (tablesFrom_of_cells (by decide +kernel))

theorem misrooted_room : misrooted.takeFrames 1 (65536 / 65536) ≠ none := by
  intro h
  exact absurd (congrArg Option.isSome h) (by decide +kernel)

/-- The new leaf, 0x1001F, changes the root's entry too: the walk now goes down from place 0 and finds the other migrating leaf, so
that the strand is taken to wait still (State.afterMove). -/
theorem migration_leaves_waiting :
    leavesWith (fun t => (t.walkIn 1 0).1 = .leaf 0x3005F 65536 && (t.strand 0).stat ≠ .running)
      (exec (.pageMigration 1 0) misrooted) = true := by decide +kernel

/-- Refutes O55, by its clause on the end of a migration: it does not ask for a root at a multiple of 8, as the clause on lasting
errors does. Under a root 2 bytes behind the leaf's own entry the store of the new leaf turns the walk to another page that is
migrating, and the strand that waited for the end of the migration does not go on. -/
theorem not_hostAndPackageEvents : ¬ Obligations.HostAndPackageEvents := by
  unfold Obligations.HostAndPackageEvents
  rintro ⟨-, -, -, -, -, -, -, migration, -⟩
  obtain ⟨-, -, finish⟩ := migration misrooted 1 0 0x200001005F 0x200001005F 65536 3 0x202000 misrooted_wf misrooted_walk
    misrooted_apart (by simp [NoneParked, misrooted, State.reset])
  obtain ⟨t, f, answer, -, -, -, -, -, -, resumes⟩ :=
    finish (by decide) (by decide +kernel) misrooted_room ⟨_, List.mem_cons_of_mem _ List.mem_cons_self, by decide, by decide⟩
  have running : t.strand 0 = { misrooted.strand 0 with stat := .running } :=
    resumes 0 (by decide +kernel) { cause := 8, va := 0, vec := false } rfl rfl
  have waits := test_of_leavesWith migration_leaves_waiting answer
  simp [running] at waits

end Sys2Proof.Machine
end

section
/-! PROOFS. The family of the strand (02), first part: the return from a trap, commit, the end of a strand that fails (O15, O21). -/

namespace Sys2Proof.Machine

open Sys2Proof.Safety

/-! ### The return from a trap (O15) -/

/-- The clause position that TSTAT holds (R72, R73). -/
theorem clauseOfTstat_map (x : BitVec 54) :
    ((clauseOfTstat x).map fun c => (c.pos, c.len, c.cnt)) =
      if 1 ≤ x.toNat / 2 ^ 27 % 8 ∧ x.toNat / 2 ^ 27 % 8 ≤ x.toNat / 2 ^ 30 % 8 then
        some (x.toNat / 2 ^ 27 % 8, x.toNat / 2 ^ 30 % 8, BitVec.ofNat 21 (x.toNat / 2 ^ 33)) else none := by
  have hc : fld x.toNat 53 33 = x.toNat / 2 ^ 33 := Nat.mod_eq_of_lt (by have := x.isLt; omega)
  have hp : fld x.toNat 29 27 = x.toNat / 2 ^ 27 % 8 := rfl
  have hn : fld x.toNat 32 30 = x.toNat / 2 ^ 30 % 8 := rfl
  simp only [clauseOfTstat, hc, hp, hn, Bool.and_eq_true, decide_eq_true_eq]
  split <;> rfl

/-- Settles O15, by what Strand.returnFromTrap leaves in each field. -/
theorem returnFromTrap : Obligations.ReturnFromTrap := by
  unfold Obligations.ReturnFromTrap
  intro s
  refine ⟨fun hin => ?_, fun h => ?_⟩
  · have answer : exec .rett s = .next (s.mod Strand.returnFromTrap) := by
      show execRett s = _
      simp only [execRett, hin, if_true]
    refine ⟨_, answer, rfl, rfl, rfl, ?_, rfl, rfl, rfl, rfl, rfl, rfl⟩
    rintro p n rfl rfl
    exact clauseOfTstat_map _
  · have answer : exec .rett s = s.raise 2 0 := by
      show execRett s = _
      simp only [execRett, h.1, Bool.false_eq_true, if_false]
    rw [answer]
    exact State.raise_delivers h (by decide) 0

/-! ### Vector-stream forms at the scalar pipeline -/

/-- Every vector-stream form goes through State.vectorStream (R27, R28). -/
theorem exec_eq_vectorStream {i : Instr} (h : i.isVector = true) (s : State) : exec i s = s.vectorStream i := by
  cases i <;> cases h <;> rfl

/-! ### Commit -/

/-- The strand as a commit leaves it: an entry is in the queue, a scalar destination waits for it, and the scalar side goes on. -/
def State.committed (s : State) (i : Instr) : State :=
  s.mod fun t =>
    let u := match i.dest with | some d => t.await d .entry | none => t
    { u with queue := u.queue ++ [s.entry i], nextSeq := u.nextSeq + 1 }.advance

/-- A commit with no accepted store left to perform; a claim takes its place in the order (R28, R29, R194). -/
theorem State.commit_eq {s : State} {i : Instr} (hi : ∀ d a b g w, i ≠ .setvlf d a b g w) (hl : s.st.late = []) :
    s.commit i = (s.committed i).enterClaim := by
  have flushed : s.flushLate s.slot = s := State.flushLate_nil _ (by rw [State.strand_self]; exact hl)
  have grant : ∀ t : Strand, t.commitGrant i = t := by
    intro t
    cases i with
    | setvlf d a b g w => exact absurd rfl (hi d a b g w)
    | _ => rfl
  simp only [State.commit, flushed, ite_self, grant]
  rfl

/-- A claim that takes its place changes the order of the claims alone. -/
theorem State.enterClaim_eq (s : State) : s.enterClaim = { s with claims := s.enterClaim.claims } := by
  obtain h | ⟨h, -⟩ := s.enterClaim_spec <;> rw [h]

@[simp] theorem State.enterClaim_st (s : State) : s.enterClaim.st = s.st := by rw [State.enterClaim_eq]
@[simp] theorem State.enterClaim_mem (s : State) : s.enterClaim.mem = s.mem := by rw [State.enterClaim_eq]

section
variable (s : State) (i : Instr)

@[simp] theorem State.committed_mem : (s.committed i).mem = s.mem := rfl
@[simp] theorem State.committed_queue : (s.committed i).st.queue = s.st.queue ++ [s.entry i] := by
  unfold State.committed; cases i.dest <;> rfl
@[simp] theorem State.committed_nextSeq : (s.committed i).st.nextSeq = s.st.nextSeq + 1 := by
  unfold State.committed; cases i.dest <;> rfl
@[simp] theorem State.committed_pc : (s.committed i).st.pc = s.st.pc + 4 := by
  unfold State.committed; cases i.dest <;> rfl
@[simp] theorem State.committed_runAhead : (s.committed i).st.runAhead = s.st.runAhead := by
  unfold State.committed; cases i.dest <;> rfl
@[simp] theorem State.committed_park : (s.committed i).st.park = s.st.park := by
  unfold State.committed; cases i.dest <;> rfl

/-- The one read that a commit may leave waiting is that of the entry's own result. -/
theorem State.committed_sync_src (h : s.st.sync = []) : ∀ p ∈ (s.committed i).st.sync, p.src = .entry := by
  unfold State.committed
  cases i.dest with
  | none => simp [h]
  | some d => simp [Strand.await, h]

end

/-- A read of an entry's result is no read that the vector side delivers by itself. -/
theorem State.deliverReads_entries {s : State} (h : ∀ p ∈ s.st.sync, p.src = .entry) (n : Nat) : State.deliverReads n s = s := by
  have none : s.st.sync.find? s.st.deliverable = none :=
    List.find?_eq_none.mpr fun p hp => by simp [Strand.deliverable, h p hp]
  cases n <;> simp [State.deliverReads, none]

/-- Where the environment holds the vector side back, it stays where it is. -/
theorem State.drain_held {s : State} (ha : s.st.runAhead = true) (hp : s.st.park = .none) (h : ∀ p ∈ s.st.sync, p.src = .entry) :
    s.drain = s := by
  simp [State.drain, ha, hp, State.deliverReads_entries h]

/-- Outside a handler, with room, and the vector side held back, an entry of captured values is committed and nothing else done. -/
theorem exec_commits {i : Instr} {s : State} (hv : i.isVector = true) (hi : ∀ d a b g w, i ≠ .setvlf d a b g w)
    (hin : s.st.trap.inh = false) (hr : s.st.hasRoom i = true) (ha : s.st.runAhead = true) (hs : s.st.sync = [])
    (hp : s.st.park = .none) (hl : s.st.late = []) : exec i s = .next (s.committed i).enterClaim := by
  rw [exec_eq_vectorStream hv, State.vectorStream_commits hin hr, State.commit_eq hi hl, State.drain_held]
  · simpa using ha
  · simpa using hp
  · simpa using State.committed_sync_src s i hs

/-! ### The end of a strand -/

/-- What the end of strands and groups keeps: which strand moves, that it is gone once it is, and the reports that wait. -/
structure KeepsReports (s t : State) : Prop where
  slot : t.slot = s.slot
  absent : s.st.stat = .absent → t.st.stat = .absent
  reports : s.host.waiting ⊆ t.host.waiting

namespace KeepsReports
variable {s t u : State}

theorem of_eq (hs : t.slot = s.slot) (hst : t.st = s.st) (hh : t.host = s.host) : KeepsReports s t :=
  ⟨hs, fun h => hst ▸ h, fun _ h => hh ▸ h⟩

theorem refl (s : State) : KeepsReports s s := of_eq rfl rfl rfl

theorem trans (h : KeepsReports s t) (h' : KeepsReports t u) : KeepsReports s u :=
  ⟨h'.slot.trans h.slot, fun x => h'.absent (h.absent x), fun _ x => h'.reports (h.reports x)⟩

theorem foldl {α : Type} (f : State → α → State) (h : ∀ s a, KeepsReports s (f s a)) : ∀ (l : List α) (s : State),
    KeepsReports s (l.foldl f s)
  | [], s => refl s
  | a :: l, s => (h s a).trans (foldl f h l (f s a))

theorem report (s : State) (r : Report) : KeepsReports s (s.report r) := ⟨rfl, id, List.subset_append_left _ _⟩

theorem modStrand {k : Nat} {f : Strand → Strand} (h : (s.strand k).stat = .absent → (f (s.strand k)).stat = .absent) :
    KeepsReports s (s.modStrand k f) := by
  unfold State.modStrand State.putStrand
  split
  · next hk =>
    subst hk
    rw [State.strand_self] at h ⊢
    exact ⟨rfl, h, fun _ x => x⟩
  · exact of_eq rfl rfl rfl

theorem storeAll (w : Who) : ∀ (l : List (List Nat × Nat)) (s : State), KeepsReports s (State.storeAll w l s)
  | [], s => refl s
  | p :: l, s => by
    have h : KeepsReports s (s.storeNow w p.1 p.2) := by
      rw [s.storeNow_spec w p.1 p.2]; exact of_eq rfl rfl rfl
    exact h.trans (storeAll w l _)

theorem flushLate (s : State) (k : Nat) : KeepsReports s (s.flushLate k) := by
  unfold State.flushLate
  dsimp only
  split
  · exact refl s
  · exact (modStrand (f := fun x => { x with late := [] }) fun h => h).trans (storeAll _ _ _)

theorem startMove (s : State) (c : BitVec 16) (va : Nat) : KeepsReports s (s.startMove c va) := by
  unfold State.startMove; split <;> exact of_eq rfl rfl rfl

theorem invalidate (s : State) (c : BitVec 16) (va : Nat) : KeepsReports s (s.invalidate c va) := by
  unfold State.invalidate; split <;> exact of_eq rfl rfl rfl

theorem setEntry (s : State) (c : BitVec 16) (va : Nat) (f : Word → Word) : KeepsReports s (s.setEntry c va f) := by
  unfold State.setEntry; split <;> exact of_eq rfl rfl rfl

theorem unmapPage (s : State) (c : BitVec 16) (va : Nat) : KeepsReports s (s.unmapPage c va) := by
  unfold State.unmapPage
  split
  · exact (startMove s c va).trans ((invalidate _ c va).trans ((setEntry _ c va _).trans (of_eq rfl rfl rfl)))
  · exact refl s

theorem unmapPages (c : BitVec 16) : ∀ (n va : Nat) (s : State), KeepsReports s (s.unmapPages c va n)
  | 0, _, s => refl s
  | n + 1, va, s => (unmapPage s c va).trans (unmapPages c n _ _)

theorem unloadObj (s : State) (o : Obj) : KeepsReports s (s.unloadObj o) :=
  (foldl (fun (x : State) c => x.unmapPages c o.cbase (o.textPages + o.mpages)) (fun x c => unmapPages c _ _ x) o.atts s).trans
    (of_eq rfl rfl rfl)

theorem settleObjs (s : State) : KeepsReports s s.settleObjs := by
  refine foldl _ (fun x o => ?_) _ _
  split
  · exact unloadObj x o
  · exact refl x

theorem finishLaunch (s : State) (c : BitVec 16) (lid : Nat) : KeepsReports s (s.finishLaunch c lid) := by
  unfold State.finishLaunch
  split
  · exact refl s
  · split
    · exact refl s
    · exact ⟨rfl, id, List.subset_append_left _ _⟩

theorem modLaunch (s : State) (c : BitVec 16) (lid : Nat) (f : Launch → Launch) : KeepsReports s (s.modLaunch c lid f) :=
  of_eq rfl rfl rfl

theorem modGroup (s : State) (g : Nat) (f : Group → Group) : KeepsReports s (s.modGroup g f) := of_eq rfl rfl rfl

theorem finishGroup (s : State) (g : Nat) (failed : Option (Nat × Nat × Word)) : KeepsReports s (s.finishGroup g failed) := by
  unfold State.finishGroup
  split
  · exact refl s
  · split
    · exact refl s
    · extract_lets s1
      have h1 : KeepsReports s s1 := of_eq rfl rfl rfl
      exact h1.trans ((modLaunch s1 _ _ _).trans ((finishLaunch _ _ _).trans (settleObjs _)))

/-- Taking strand k out of its slot touches no report; where k is the strand that moves, it is gone then. -/
theorem removeStrand (s : State) (k : Nat) (b : Bool) :
    KeepsReports s (s.removeStrand k b) ∧ (k = s.slot → (s.removeStrand k b).st.stat = .absent) := by
  have orphan : ∀ (t : Strand) (k g : Nat), (t.orphan k g).stat = t.stat := by
    intro t k g; unfold Strand.orphan; split <;> rfl
  unfold State.removeStrand
  extract_lets s0 t s1 s2 s3
  have h1 : KeepsReports s s1 := (flushLate s k).trans (of_eq rfl rfl rfl)
  have h2 : KeepsReports s1 s2 := by
    simp only [s2]
    split
    · exact refl s1
    · split
      · exact refl s1
      · exact modStrand fun h => h
  have h3 : KeepsReports s2 s3 ∧ (k = s2.slot → s3.st.stat = .absent) := by
    refine ⟨modStrand (f := fun _ => .empty) fun _ => rfl, ?_⟩
    intro hk
    simp [s3, State.putStrand, hk, Strand.empty]
  refine ⟨h1.trans (h2.trans (h3.1.trans ⟨rfl, fun h => ?_, fun _ x => x⟩)), fun hk => ?_⟩
  · exact (orphan s3.st k t.gkey).trans h
  · exact (orphan s3.st k t.gkey).trans (h3.2 (hk.trans (h1.trans h2).slot.symm))

end KeepsReports

/-- Result fields from byte 9 on leave the first 9 bytes of a record as they are. -/
theorem exists_foldl_fields : ∀ (fs : List (Nat × Nat)) (a : Nat), (∀ p ∈ fs, 9 ≤ p.1) →
    ∃ q, fs.foldl (fun a p => a + p.2 * 256 ^ p.1) a = a + 2 ^ 72 * q
  | [], a, _ => ⟨0, rfl⟩
  | p :: fs, a, h => by
    obtain ⟨q, hq⟩ := exists_foldl_fields fs (a + p.2 * 256 ^ p.1) fun x hx => h x (List.mem_cons_of_mem _ hx)
    obtain ⟨n, hn⟩ := Nat.exists_eq_add_of_le (h p List.mem_cons_self)
    refine ⟨q + p.2 * 256 ^ n, ?_⟩
    rw [List.foldl_cons, hq, hn, pow_add]
    ring

/-- The code of a record, and a result in byte 8 (R357). -/
theorem mkReport_fields (code x : Nat) (c : BitVec 16) (fs : List (Nat × Nat)) (hc : code < 2 ^ 16) (h : ∀ p ∈ fs, 9 ≤ p.1) :
    (mkReport code 0 c 0 ((8, x) :: fs)).toNat % 2 ^ 16 = code ∧
      (mkReport code 0 c 0 ((8, x) :: fs)).toNat / 2 ^ 64 % 2 ^ 8 = x % 2 ^ 8 := by
  obtain ⟨q, hq⟩ := exists_foldl_fields fs (code + c.toNat * 2 ^ 32 + x * 256 ^ 8) h
  have hlt := c.isLt
  have value : (mkReport code 0 c 0 ((8, x) :: fs)).toNat = (code + c.toNat * 2 ^ 32 + x * 256 ^ 8 + 2 ^ 72 * q) % 2 ^ 512 := by
    rw [← hq, ← BitVec.toNat_ofNat]; simp [mkReport]
  rw [value]
  constructor
  · rw [Nat.mod_mod_of_dvd _ (Nat.pow_dvd_pow 2 (by decide))]
    omega
  · have split : 2 ^ 512 = 2 ^ 64 * 2 ^ 448 := by rw [← Nat.pow_add]
    rw [split, Nat.mod_mul_right_div_self,
      Nat.mod_mod_of_dvd _ (Nat.pow_dvd_pow 2 (by decide))]
    omega

/-- A STRAND THAT FAILS is gone, and report 0x81 with its cause waits for the ring (R40, R360). -/
theorem State.failStrand_spec (s : State) (i : FailInfo) :
    ((s.failStrand s.slot i).strand s.slot).stat = .absent ∧
      ∃ r ∈ (s.failStrand s.slot i).host.waiting, r.toNat % 2 ^ 16 = 0x81 ∧ r.toNat / 2 ^ 64 % 2 ^ 8 = i.cause % 2 ^ 8 := by
  unfold State.failStrand
  extract_lets t lid vcp s1 s2
  obtain ⟨h2, gone⟩ := KeepsReports.removeStrand s1 s.slot false
  have told : mkReport 0x81 0 t.ctx 0
    [(8, i.cause), (9, bitN i.vec), (10, s.slot), (12, i.inner), (13, i.handled), (16, i.tval.toNat), (24, i.tpc.toNat),
     (32, lid), (40, vcp), (48, i.tinst.toNat)] ∈ s2.host.waiting := h2.reports (List.mem_append_right _ List.mem_cons_self)
  have gone2 : s2.st.stat = .absent := gone rfl
  have slot2 : s2.slot = s.slot := h2.slot
  have finish : ∀ u, KeepsReports s2 u → (u.strand s.slot).stat = .absent ∧
      ∃ r ∈ u.host.waiting, r.toNat % 2 ^ 16 = 0x81 ∧ r.toNat / 2 ^ 64 % 2 ^ 8 = i.cause % 2 ^ 8 := by
    intro u hu
    refine ⟨?_, _, hu.reports told, mkReport_fields _ _ _ _ (by decide) (by simp)⟩
    rw [← slot2, ← hu.slot, State.strand_self]
    exact hu.absent gone2
  split
  · exact finish _ (KeepsReports.refl _)
  · extract_lets s3
    have h3 : KeepsReports s2 s3 := KeepsReports.foldl _ (fun x m => (KeepsReports.removeStrand x m false).1) _ _
    exact finish _ (h3.trans ((KeepsReports.modGroup _ _ _).trans (KeepsReports.finishGroup _ _ _)))

/-- Settles O21: the entry is State.entry, captured before anything moves; in a handler the double trap ends the strand. -/
theorem commitCapturesTheEntry : Obligations.CommitCapturesTheEntry := by
  unfold Obligations.CommitCapturesTheEntry
  refine ⟨fun i s hv hi hin hr ha hs hp hl => ?_, fun i s hv hin => ?_⟩
  · have operand : ∀ (o : Option SReg) (r : SReg), o = some r → s.capture o = s.r r := by rintro o r rfl; rfl
    exact ⟨_, s.entry i, exec_commits hv hi hin hr ha hs hp hl, by simp, by simp, by simp, fun a => by simp, rfl, rfl, rfl, rfl, rfl, rfl,
      rfl, rfl, rfl, rfl, rfl, operand _, operand _, operand _, operand _⟩
  · refine ⟨_, by rw [exec_eq_vectorStream hv, State.vectorStream_handler hin, State.trap_fatal (.inl hin) (by decide)], ?_⟩
    have cause : (s.st.failInfo 0 0 false).cause = 0x30 := by simp [Strand.failInfo, hin]
    obtain ⟨gone, r, hr, code, inner⟩ := s.failStrand_spec (s.st.failInfo 0 0 false)
    exact ⟨gone, r, hr, code, by rw [inner, cause]; rfl⟩

end Sys2Proof.Machine
end

section
/-! PROOFS. The family of the strand (02): O33 fails. The proof gives the load that the statement admits and the encodings do not. -/

namespace Sys2Proof.Machine

open Sys2Proof.Safety

/-- Slot 0 runs with nothing under way, VL = 1 and a handler at 4; s1 holds 0x10000, and its context maps no page. -/
def unmappedSegment : State :=
  { State.reset with
    st := { Strand.empty with
      stat := .running, grant := { id := 0, len := 1, vtype := 0 }, regs := (Vector.replicate 32 0).set 1 0x10000
      trap := { TrapRegs.reset with tvec := 4 } } }

theorem unmappedSegment_quiet : Quiet unmappedSegment :=
  ⟨rfl, rfl, rfl, rfl, rfl, rfl, rfl, rfl, by decide, by simp [unmappedSegment, State.reset], rfl, rfl, rfl, rfl⟩

/-- A load of segments of two fields of four bits, a width that no segment form has (R160, R161). -/
def nibbleSegments : Instr := .vldg 0 1 1 0 .e4 .mem

/-- The form as its table gives it: two fields of no byte each at 0x10000. -/
def nibbleForm : MemForm :=
  { reg := fun f => f, n := 2, w := .e4, legal := true, m := 0, port := none, kind := .any, place := fun _ _ => (0x10000, 0, 0) }

/-- That is what the table gives. -/
theorem memForm_nibbleSegments : memForm nibbleSegments unmappedSegment = some nibbleForm := by
  have one : emul unmappedSegment.st.grant.vtype 4 = 1 := by decide
  have legal : segOk (unmappedSegment.entry (.vldg 0 1 1 0 .e4 .mem)) 0 .e4 2 = true := by decide +kernel
  have port : srcPort .mem (unmappedSegment.entry (.vldg 0 1 1 0 .e4 .mem)) = none := by decide +kernel
  have bound : unmappedSegment.srcOk none = true := rfl
  have base : ((unmappedSegment.r 1).toNat : Int) + offOf unmappedSegment = 0x10000 := by decide +kernel
  simp [nibbleSegments, memForm, nibbleForm, one, legal, port, bound, base, EW.bits]

/-- By the checks of the table each field is on an unmapped page. -/
theorem nibbleForm_unmapped (k x : Nat) : fieldCheck unmappedSegment nibbleForm .read k x = .error (8, 0x10000) := by
  show fieldCheck unmappedSegment nibbleForm .read 0 0 = _
  decide +kernel

/-- The model tests the alignment of a field by its width of 0 bytes first (State.segEarly): no address but 0 is aligned, and the
strand traps with cause 0x07. -/
theorem nibbleSegments_misaligned :
    leavesWith (fun t => t.st.stat = .running && t.st.trap.code = 7) (exec nibbleSegments unmappedSegment) = true := by
  decide +kernel

/-- Refutes O33, by its clause on loads: it admits every form of the table, also a segment form of four bits, which the
encodings leave out. The checks of the statement then find the unmapped page at 0x10000 and make the strand wait for the Oasis
kernel (R335); the model finds the address misaligned and traps. -/
theorem not_vectorAccessFaults : ¬ Obligations.VectorAccessFaults := by
  unfold Obligations.VectorAccessFaults
  rintro ⟨loads, -⟩
  have fails : Fails unmappedSegment nibbleForm .read 0 0 8 0x10000 := by
    refine ⟨by decide, nibbleForm_unmapped 0 0, fun y c b _ hy => ?_⟩
    obtain ⟨rfl, rfl⟩ : 8 = c ∧ 0x10000 = b := by simpa [nibbleForm_unmapped] using hy
    exact ⟨fun h => absurd h (Nat.not_lt_zero y), fun h => h⟩
  obtain ⟨t, answer, ⟨-, waits, -⟩, -⟩ :=
    loads nibbleSegments unmappedSegment nibbleForm 0 0 8 0x10000 (fun _ _ => 0) unmappedSegment_quiet (by unfold Granted; decide)
      (fun x hx => absurd hx (by simp [unmappedSegment, State.reset])) rfl memForm_nibbleSegments rfl
      ⟨by decide, by decide, by decide⟩ rfl fails (fun j hj => absurd hj (Nat.not_lt_zero j))
  obtain ⟨parked, -⟩ := waits rfl rfl
  have runs := test_of_leavesWith nibbleSegments_misaligned answer
  simp [parked] at runs

end Sys2Proof.Machine
end

section
/-! PROOFS. How an entry runs on a quiet strand: its commit, its one attempt at the head of the queue, and what its outcome leaves. -/

namespace Sys2Proof.Machine

open Sys2Proof.Safety

/-! ### From the commit to the outcome of the entry -/

/-- Vector-stream forms without a scalar destination that start no grant, name no tile, release nothing and claim no slot. -/
def isPlain (i : Instr) : Bool :=
  i.isVector && i.dest.isNone && i.tile?.isNone && !i.releases &&
    match i with | .setvlf .. | .mclaim _ => false | _ => true

theorem isPlain_spec {i : Instr} (h : isPlain i = true) : i.isVector = true ∧ i.dest = none ∧ i.tile? = none ∧
    i.releases = false ∧ (∀ d a b g w, i ≠ .setvlf d a b g w) ∧ ∀ a, i ≠ .mclaim a := by
  simp only [isPlain, Bool.and_eq_true, Option.isNone_iff_eq_none, Bool.not_eq_true'] at h
  obtain ⟨⟨⟨⟨hv, hd⟩, ht⟩, hr⟩, hm⟩ := h
  refine ⟨hv, hd, ht, hr, ?_, ?_⟩
  · rintro d a b g w rfl; exact Bool.false_ne_true hm
  · rintro a rfl; exact Bool.false_ne_true hm

/-- The entry e stands alone in the queue, and no read waits. -/
def HeadOf (e : Entry) (s : State) : Prop := s.st.queue = [e] ∧ s.st.sync = []

/-- The machine with the outcome of an entry. -/
def VRes.state : VRes → State
  | .stop s => s
  | .done s _ => s

/-- The machine once its head entry has come to an outcome: the entry stays, or it has left the queue (R30). -/
def VRes.left : VRes → State
  | .stop s => s
  | .done s _ => s.mod fun t => { t with queue := [], prog := 0 }

/-- A quiet strand has room. -/
theorem hasRoom_of_quiet {s : State} (h : Quiet s) (i : Instr) : s.st.hasRoom i = true := by
  obtain ⟨-, -, -, hqueue, hsync, -⟩ := h
  simp [Strand.hasRoom, hqueue, hsync]

section
variable {s : State} {i : Instr}

/-- A plain form's commit on a quiet strand. -/
theorem committed_st_of_quiet (h : Quiet s) (hi : isPlain i = true) :
    (s.committed i).st = { s.st with queue := [s.entry i], nextSeq := s.st.nextSeq + 1 }.advance := by
  obtain ⟨-, -, -, hqueue, -⟩ := h
  obtain ⟨-, hdest, -⟩ := isPlain_spec hi
  simp [State.committed, hdest, hqueue]

/-- After the commit the entry stands alone in the queue. -/
theorem committed_head (h : Quiet s) (hi : isPlain i = true) : HeadOf (s.entry i) (s.committed i) := by
  obtain ⟨-, -, -, -, hsync, -⟩ := id h
  exact ⟨by rw [committed_st_of_quiet h hi]; rfl, by rw [committed_st_of_quiet h hi]; exact hsync⟩

/-- Nothing holds the entry back: it is issued at once. -/
theorem headStep_committed (h : Quiet s) (hi : isPlain i = true) :
    (s.committed i).headStep = match issue i (s.entry i) (s.committed i) with
      | .stop s2 => (s2, false)
      | .done s2 v => ((State.deliverReads 8 (s2.mod fun t => t.finishEntry (s.entry i) v)).enterClaim, true) := by
  obtain ⟨hstat, hinh, hpark, -, hsync, hcopies, -⟩ := id h
  obtain ⟨hq, hs⟩ := committed_head h hi
  obtain ⟨-, -, htile, hrel, -⟩ := isPlain_spec hi
  have st := committed_st_of_quiet h hi
  have copies : (s.committed i).st.copies = [] := by rw [st]; exact hcopies
  have moves : (s.committed i).st.vectorMoves = true := by
    rw [st]
    simp [Strand.vectorMoves, Strand.advance, hstat, hinh, hpark, Park.atBarrier]
  have free : (s.committed i).interlock (s.entry i) = s.committed i := by
    have wait : (s.committed i).st.tileWaits (s.entry i) = none := by
      have : (s.entry i).instr.tile? = none := htile
      simp [Strand.tileWaits, this]
    simp [State.interlock, Strand.openCopies, copies, wait]
  have released : (s.entry i).instr.releases = false := hrel
  have held : (s.committed i).st.headHeld (s.entry i) = false := by simp [Strand.headHeld, copies, released, hs]
  unfold State.headStep
  simp only [moves, Bool.not_true, Bool.false_eq_true, if_false, hq, released, free, State.deliverReads_nil hs, held]
  rfl

/-- THE RUN OF AN ENTRY: on a quiet strand a plain form commits its entry, and the machine is left as the entry's outcome says. -/
theorem exec_of_quiet (h : Quiet s) (hi : isPlain i = true) {r : VRes}
    (hr : issue i (s.entry i) (s.committed i) = r) (hh : HeadOf (s.entry i) r.state) : exec i s = .next r.left := by
  obtain ⟨-, hinh, -, hqueue, -, -, -, -, -, -, hlate, -, -, hahead⟩ := id h
  obtain ⟨hv, -, -, -, hg, hclaim⟩ := isPlain_spec hi
  obtain ⟨hq, hs⟩ := hh
  have noClaim : (s.committed i).enterClaim = s.committed i := by
    unfold State.enterClaim
    rw [(committed_head h hi).1]
    split
    · next heq =>
      have form := congrArg (fun l : List Entry => l.head?.map Entry.instr) heq
      exact absurd (Option.some.inj form) (hclaim _)
    · rfl
  have length : (s.committed i).st.queue.length = 1 := by rw [(committed_head h hi).1]; rfl
  have ahead : (s.committed i).st.runAhead = false := by simpa using hahead
  rw [exec_eq_vectorStream hv, State.vectorStream_commits hinh (hasRoom_of_quiet h i), State.commit_eq hg hlate, noClaim]
  simp only [State.drain, ahead, length, State.drainN, headStep_committed h hi, hr, Bool.not_false, if_true]
  cases r with
  | stop s2 => exact congrArg _ (State.deliverReads_nil hs 8)
  | done s2 v =>
    have fin : (s2.mod fun t => t.finishEntry (s.entry i) v) = (VRes.done s2 v).left := by
      have hs2 : s2.st.sync = [] := hs
      have hq2 : s2.st.queue = [s.entry i] := hq
      simp [State.mod, VRes.left, Strand.finishEntry, hs2, hq2]
    have quiet : (VRes.done s2 v).left.st.sync = [] := hs
    simp only [fin, State.deliverReads_nil quiet, State.enterClaim_quiet (s := (VRes.done s2 v).left) rfl]

end

end Sys2Proof.Machine
end

section
/-! PROOFS. The elements of an entry in order (R34): what one element comes to, the loop over them, and its completion or stop. -/

namespace Sys2Proof.Machine

open Sys2Proof.Safety

/-! ### Modes of classes -/

/-- The model's mode of a class is the statements'. -/
theorem modeOf_eq_mode (s : State) (i : Nat) : modeOf s.st.csr.xact i = mode s i := by
  have width : 2 * i + 1 + 1 - 2 * i = 2 := by omega
  simp only [modeOf, mode, fld, width, Nat.pow_mul, Nat.reducePow]

/-- A class acts unless its mode is flag (R36). -/
theorem acts_iff (s : State) (c : Cls) : c.acts s.st.csr.xact = true ↔ Acts s c := by
  simp [Cls.acts, Acts, modeOf_eq_mode, List.any_eq_true]

theorem mem_inMode (s : State) (c : Cls) (m j : Nat) :
    j ∈ c.inMode s.st.csr.xact m ↔ j < 6 ∧ c.getLsbD j = true ∧ mode s j = m := by
  simp [Cls.inMode, modeOf_eq_mode]

/-- The trap-mode cause is that of a class in trap mode, the first one (R36). -/
theorem trapCause_eq_some {s : State} {c : Cls} {j : Nat} (hj : j < 6) (hc : c.getLsbD j = true) (hm : mode s j = 2)
    (first : ∀ i, i < j → c.getLsbD i = true → mode s i ≠ 2) : c.trapCause s.st.csr.xact = some (0x10 + j) := by
  have found : (List.range 6).find? (fun i => c.getLsbD i && modeOf s.st.csr.xact i == 2) = some j := by
    refine List.find?_range_eq_some.mpr ⟨by simp [hc, modeOf_eq_mode, hm], List.mem_range.mpr hj, fun i hi => ?_⟩
    simpa [modeOf_eq_mode, imp_iff_not_or] using first i hi
  simp [Cls.trapCause, Cls.inMode, List.head?_filter, found]

theorem trapCause_eq_none {s : State} {c : Cls} (h : ∀ j, j < 6 → c.getLsbD j = true → mode s j ≠ 2) :
    c.trapCause s.st.csr.xact = none := by
  have empty : c.inMode s.st.csr.xact 2 = [] :=
    List.eq_nil_iff_forall_not_mem.mpr fun j hj => by
      obtain ⟨h6, hc, hm⟩ := (mem_inMode s c 2 j).mp hj
      exact h j h6 hc hm
  simp [Cls.trapCause, empty]

/-! ### The machine in the middle of an entry -/

/-- The machine with other vector registers and more flags. -/
def State.loopAt (u : State) (v : VecFile) (c : Cls) : State :=
  u.mod fun t => { t with vec := v, csr := { t.csr with xflags := t.csr.xflags ||| c } }

theorem State.loopAt_zero (u : State) : u.loopAt u.st.vec 0 = u := by
  have : u.st.csr.xflags ||| (0 : Cls) = u.st.csr.xflags := BitVec.or_zero
  simp only [State.loopAt, State.mod, this]

@[simp] theorem State.loopAt_vec (u : State) (v : VecFile) (c : Cls) : (u.loopAt v c).st.vec = v := rfl

theorem State.loopAt_modVec (u : State) (v : VecFile) (c : Cls) (f : VecFile → VecFile) :
    (u.loopAt v c).modVec f = u.loopAt (f v) c := rfl

theorem State.loopAt_raiseFlags {u : State} (hs : u.st.sync = []) (v : VecFile) (c d : Cls) :
    (u.loopAt v c).raiseFlags d = u.loopAt v (c ||| d) := by
  simp [State.raiseFlags, State.raiseScalar, State.modCsr, State.loopAt, State.mod, hs, BitVec.or_assoc]

/-! ### One element -/

/-- What comes of an entry whose element k, of classes c, is the first that acts; s is the machine before it (R35, R36). -/
def stopOutcome (s : State) (e : Entry) (vs k : Nat) (c : Cls) (after : Nat → State → State) : VRes :=
  match c.trapCause e.xact with
  | some cause => .stop ((s.setVstart k).trap cause 0 true)
  | none =>
    if k = vs then .stop ((s.setVstart k).trap (0x10 + (c.inMode e.xact 1).headD 0) 0 true)
    else .done (after k ((s.mod fun t => t.setTrim e.grant k).complete1 k)) none

/-- With `.xmN` an element always completes, with its mask bit (R37). -/
theorem fpx_marked {xm : MReg} (hx : xm ≠ 0) (s s1 : State) (e : Entry) (vs i : Nat) (c : Cls) (after : Nat → State → State) :
    fpx s s1 e xm vs i c after = (none, (s1.raiseFlags c).modVec fun f => f.setMbit xm i (c.acts e.xact)) := by
  simp [fpx, hx]

/-- Without it, an element of which no class acts completes. -/
theorem fpx_passes {s s1 : State} {e : Entry} {c : Cls} (hc : c.acts e.xact = false) (vs i : Nat) (after : Nat → State → State) :
    fpx s s1 e 0 vs i c after = (none, s1.raiseFlags c) := by
  have none_in : ∀ m, m ≠ 0 → c.inMode e.xact m = [] := by
    intro m hm
    simp only [Cls.acts, List.any_eq_false, Bool.and_eq_true, bne_iff_ne, not_and, not_not] at hc
    simp only [Cls.inMode, List.filter_eq_nil_iff, Bool.and_eq_true, beq_iff_eq, not_and]
    exact fun j hj hb hmode => hm (hmode.symm.trans (hc j hj hb))
  simp [fpx, Cls.trapCause, none_in]

/-- An element of which a class stops the entry is its end. -/
theorem fpx_stops {s s1 : State} {e : Entry} {c : Cls} (hc : c.trapCause e.xact ≠ none ∨ c.inMode e.xact 1 ≠ []) (vs i : Nat)
    (after : Nat → State → State) : fpx s s1 e 0 vs i c after = (some (stopOutcome s e vs i c after), s) := by
  unfold fpx stopOutcome
  simp only [ne_eq, not_true_eq_false, if_false]
  cases htrap : c.trapCause e.xact with
  | some cause => rfl
  | none =>
    have trims : c.inMode e.xact 1 ≠ [] := hc.resolve_left (· htrap)
    simp only [List.isEmpty_iff, trims, if_false]
    split <;> rfl

/-! ### The loop -/

/-- What the elements of a form do to the vector registers: which act, what they write, and the classes they raise. -/
structure LoopBody where
  act : VecFile → Nat → Bool
  write : VecFile → Nat → VecFile
  cls : VecFile → Nat → Cls

namespace LoopBody

/-- An element function of the model that does just that. -/
def Runs (b : LoopBody) (u : State) (f : State → Nat → Elt) : Prop :=
  ∀ v c i, f (u.loopAt v c) i = .ok (u.loopAt (b.write v i) c) (b.cls v i)

/-- What an element that executes leaves of the registers, with its bit of `.xmN` (R37). -/
def mark (b : LoopBody) (xact : BitVec 12) (xm : MReg) (v : VecFile) (i : Nat) : VecFile :=
  if xm ≠ 0 then (b.write v i).setMbit xm i ((b.cls v i).acts xact) else b.write v i

/-- Registers and flags after n elements from element lo on. -/
def upTo (b : LoopBody) (xact : BitVec 12) (xm : MReg) (v : VecFile) (lo : Nat) : Nat → VecFile × Cls
  | 0 => (v, 0)
  | n + 1 =>
    let p := b.upTo xact xm v lo n
    if b.act p.1 (lo + n) then (b.mark xact xm p.1 (lo + n), p.2 ||| b.cls p.1 (lo + n)) else p

variable {b : LoopBody} {u s0 : State} {f : State → Nat → Elt} {e : Entry} {xm : MReg} {v : VecFile} {lo : Nat}

/-- The machine after n elements. -/
def stateAt (b : LoopBody) (u : State) (e : Entry) (xm : MReg) (lo n : Nat) : State :=
  u.loopAt (b.upTo e.xact xm u.st.vec lo n).1 (b.upTo e.xact xm u.st.vec lo n).2

theorem stateAt_zero (b : LoopBody) (u : State) (e : Entry) (xm : MReg) (lo : Nat) : b.stateAt u e xm lo 0 = u := u.loopAt_zero

/-- Element number n completes: with `.xmN`, or where none of its classes acts. -/
def Passes (b : LoopBody) (u : State) (e : Entry) (xm : MReg) (lo n : Nat) : Prop :=
  b.act (b.upTo e.xact xm u.st.vec lo n).1 (lo + n) = true →
      xm ≠ 0 ∨ (b.cls (b.upTo e.xact xm u.st.vec lo n).1 (lo + n)).acts e.xact = false

/-- One turn of the loop over an element that completes. -/
theorem vloop_succ (hs : u.st.sync = []) (hf : b.Runs u f) {top vs n j : Nat} {after : Nat → State → State}
    (hp : b.Passes u e xm lo j) :
    vloop top s0 e xm b.act f after vs (n + 1) (lo + j) (b.stateAt u e xm lo j) =
      vloop top s0 e xm b.act f after vs n (lo + (j + 1)) (b.stateAt u e xm lo (j + 1)) := by
  simp only [stateAt, Passes, upTo] at hp ⊢
  generalize b.upTo e.xact xm u.st.vec lo j = p at hp ⊢
  simp only [vloop, State.loopAt_vec, hf p.1 p.2 (lo + j), ← Nat.add_assoc]
  by_cases hact : b.act p.1 (lo + j) = true
  · by_cases hx : xm = 0
    · subst hx
      simp [hact, fpx_passes ((hp hact).resolve_left (· rfl)), State.loopAt_raiseFlags hs, mark]
    · simp [hact, fpx_marked hx, State.loopAt_raiseFlags hs, State.loopAt_modVec, mark, hx]
  · simp [hact]

/-- All elements of a loop complete. -/
theorem vloop_completes (hs : u.st.sync = []) (hf : b.Runs u f) {top vs : Nat} {after : Nat → State → State} :
    ∀ n j, top ≤ lo + (j + n) → (∀ m, j ≤ m → m < j + n → b.Passes u e xm lo m) →
      vloop top s0 e xm b.act f after vs n (lo + j) (b.stateAt u e xm lo j) =
        .done (after (lo + (j + n)) ((b.stateAt u e xm lo (j + n)).complete1 (lo + (j + n)))) none
  | 0, j, htop, _ => by simp only [vloop, Nat.add_zero] at htop ⊢; rw [if_neg (by omega)]
  | n + 1, j, htop, hp => by
    rw [vloop_succ hs hf (hp j (Nat.le_refl j) (by omega)),
      vloop_completes hs hf n (j + 1) (by omega) fun m h1 h2 => hp m (by omega) (by omega)]
    rw [show j + 1 + n = j + (n + 1) by omega]

/-- Element number k ends the loop. -/
theorem vloop_stops (hs : u.st.sync = []) (hf : b.Runs u f) {top vs k : Nat} {after : Nat → State → State}
    (hact : b.act (b.upTo e.xact 0 u.st.vec lo k).1 (lo + k) = true)
    (hstop : (b.cls (b.upTo e.xact 0 u.st.vec lo k).1 (lo + k)).trapCause e.xact ≠ none ∨
      (b.cls (b.upTo e.xact 0 u.st.vec lo k).1 (lo + k)).inMode e.xact 1 ≠ []) :
    ∀ n j, j ≤ k → k < j + n → (∀ m, j ≤ m → m < k → b.Passes u e 0 lo m) →
      vloop top s0 e 0 b.act f after vs n (lo + j) (b.stateAt u e 0 lo j) =
        stopOutcome (b.stateAt u e 0 lo k) e vs (lo + k) (b.cls (b.upTo e.xact 0 u.st.vec lo k).1 (lo + k)) after
  | 0, j, h1, h2, _ => by omega
  | n + 1, j, h1, h2, hp => by
    by_cases hjk : j = k
    · subst hjk
      simp only [stateAt] at hact hstop ⊢
      generalize b.upTo e.xact 0 u.st.vec lo j = p at hact hstop ⊢
      simp only [vloop, State.loopAt_vec, hact, if_true, hf p.1 p.2 (lo + j), fpx_stops hstop]
    · rw [vloop_succ hs hf (hp j (Nat.le_refl j) (by omega)),
        vloop_stops hs hf hact hstop n (j + 1) (by omega) (by omega) fun m h3 h4 => hp m (by omega) h4]

end LoopBody

/-! ### Entries with an element count -/

section
variable {u : State} {e : Entry} {checks : Bool} {xm : MReg} {act : VecFile → Nat → Bool} {f : State → Nat → Elt}
  {after : Nat → State → State}

/-- An entry that begins at or above its effective length executes nothing and makes no check (R38). -/
theorem ventry_retires (h : u.st.effLen e ≤ u.vstart) :
    u.ventry e checks xm act f after = .done (after (u.st.effLen e) (u.complete1 (u.st.effLen e))) none := by
  simp [State.ventry, State.ventryN, h]

/-- A failed check traps before any element executes (R123). -/
theorem ventry_illegal (h : u.vstart < u.st.effLen e) : u.ventry e false xm act f after = .stop (u.trap 2 0 true) := by
  simp [State.ventry, State.ventryN, Nat.not_le.mpr h]

/-- Else its elements execute from VSTART on. -/
theorem ventry_runs (h : u.vstart < u.st.effLen e) (hprog : u.st.prog = 0) (hgoal : u.st.goal = 0) :
    u.ventry e true xm act f after =
      vloop (u.st.effLen e) u e xm act f after u.vstart (u.st.effLen e - u.vstart) u.vstart u := by
  simp [State.ventry, State.ventryN, Nat.not_le.mpr h, hprog, hgoal]

end

end Sys2Proof.Machine
end

section
/-! PROOFS. What an entry leaves that a class stops (R35, R36), as the statements say it. -/

namespace Sys2Proof.Machine

open Sys2Proof.Safety

/-! ### Lengths -/

theorem vlmax_le (vt : BitVec 5) : vlmax vt ≤ 16384 := by revert vt; decide

theorem vlNow_le_len (t : Strand) : t.vlNow ≤ t.grant.len := by
  unfold Strand.vlNow; split
  · exact Nat.min_le_left _ _
  · exact Nat.le_refl _

/-- The trim limit of the current grant is its length from then on (R33). -/
theorem vlNow_setTrim {t : Strand} {k : Nat} (h : k ≤ t.grant.len) : (t.setTrim t.grant.id k).vlNow = k := by
  simp only [Strand.vlNow, Strand.setTrim_trims, Strand.setTrim_grant, List.find?_cons, decide_true]
  exact Nat.min_eq_right h

/-- A new entry's effective length is that of the current grant. -/
theorem effLen_entry (s : State) (i : Instr) : s.st.effLen (s.entry i) = s.st.vlNow := rfl

section
variable {s : State} {i : Instr}

theorem effLen_committed (h : Quiet s) (hi : isPlain i = true) : (s.committed i).st.effLen (s.entry i) = s.st.vlNow := by
  rw [committed_st_of_quiet h hi]; rfl

theorem vstart_committed (h : Quiet s) (hi : isPlain i = true) : (s.committed i).vstart = s.st.csr.vstart.toNat := by
  unfold State.vstart; rw [committed_st_of_quiet h hi]; rfl

theorem vec_committed (h : Quiet s) (hi : isPlain i = true) : (s.committed i).st.vec = s.st.vec := by
  rw [committed_st_of_quiet h hi]; rfl

theorem csr_committed (h : Quiet s) (hi : isPlain i = true) : (s.committed i).st.csr = s.st.csr := by
  rw [committed_st_of_quiet h hi]; rfl

/-- A vector-stream form always answers a next state. -/
theorem exec_vector_next (hv : i.isVector = true) (s : State) : ∃ t, exec i s = .next t := by
  rw [exec_eq_vectorStream hv, State.vectorStream]
  split
  · exact ⟨_, rfl⟩
  · split <;> exact ⟨_, rfl⟩

/-! ### The stop -/

/-- Element k of a quiet strand's entry shortens it: what is left (R33, R35). -/
theorem exec_shortens (h : Quiet s) (hi : isPlain i = true) {V : VecFile} {C : Cls} {k : Nat}
    (hr : issue i (s.entry i) (s.committed i) =
      .done ((((s.committed i).loopAt V C).mod fun t => t.setTrim (s.entry i).grant k).complete1 k) none) :
    ∃ t, exec i s = .next t ∧ t.st.vec = V ∧ SameMemory s t ∧ t.st.queue = [] ∧ t.st.trap = s.st.trap ∧
      t.st.csr = { s.st.csr with al := BitVec.ofNat 32 k, vstart := 0, xflags := s.st.csr.xflags ||| C } ∧
      (k ≤ s.st.grant.len → t.st.vlNow = k) := by
  have st := committed_st_of_quiet h hi
  refine ⟨_, exec_of_quiet h hi hr (committed_head h hi), rfl, fun a => rfl, rfl, ?_, ?_, fun hk => ?_⟩
  · show (s.committed i).st.trap = _; rw [st]; rfl
  · show { (s.committed i).st.csr with
      al := BitVec.ofNat 32 k, vstart := 0, xflags := (s.committed i).st.csr.xflags ||| C } = _
    rw [csr_committed h hi]
  · show ((s.committed i).st.setTrim s.st.grant.id k).vlNow = k
    rw [st]; exact vlNow_setTrim hk

/-- Element k of a quiet strand's entry traps to the handler: what is left (R35, R41). -/
theorem exec_traps (h : Quiet s) (hi : isPlain i = true) (hh : HasHandler s) {V : VecFile} {C : Cls} {k c : Nat} (hc : c ≠ 8)
    (hr : issue i (s.entry i) (s.committed i) = .stop ((((s.committed i).loopAt V C).setVstart k).trap c 0 true)) :
    ∃ t, exec i s = .next t ∧ t.st.vec = V ∧ SameMemory s t ∧ t.st.queue.length = 1 ∧ t.st.trap.inh = true ∧
      t.st.trap.vec = true ∧ t.st.trap.tval = 0 ∧ t.st.trap.code = BitVec.ofNat 8 c ∧ t.st.pc = s.st.trap.tvec ∧
      t.st.trap.tpc = s.st.pc + 4 ∧
      t.st.csr = { s.st.csr with vstart := BitVec.ofNat 20 k, xflags := s.st.csr.xflags ||| C } := by
  have st := committed_st_of_quiet h hi
  have handler : HasHandler (((s.committed i).loopAt V C).setVstart k) := by
    unfold HasHandler at hh ⊢
    show (s.committed i).st.trap.inh = _ ∧ (s.committed i).st.trap.tvec ≠ 0
    rw [st]; exact hh
  have unparked : (((s.committed i).loopAt V C).setVstart k).st.park ≠ .qpop := by
    obtain ⟨-, -, hpark, -⟩ := h
    show (s.committed i).st.park ≠ _
    rw [st]; simp [Strand.advance, hpark]
  rw [State.trap_handler handler hc, State.leaveParked_of unparked] at hr
  obtain ⟨hqueue, hsync⟩ := committed_head h hi
  refine ⟨_, exec_of_quiet h hi hr ⟨hqueue, hsync⟩, rfl, fun a => rfl, ?_, rfl, rfl, rfl, rfl, ?_, ?_, ?_⟩
  · show (s.committed i).st.queue.length = 1; rw [hqueue]; rfl
  · show (s.committed i).st.trap.tvec = _; rw [st]; rfl
  · show (s.committed i).st.pc = _; simp
  · show { (s.committed i).st.csr with
      vstart := BitVec.ofNat 20 k, xflags := (s.committed i).st.csr.xflags ||| C } = _
    rw [csr_committed h hi]

/-- The first class of a set that is in trap mode. -/
theorem exists_first_trap {c : Cls} (h : ¬∀ j, j < 6 → c.getLsbD j = true → mode s j ≠ 2) :
    ∃ j, j < 6 ∧ c.getLsbD j = true ∧ mode s j = 2 ∧ ∀ i, i < j → c.getLsbD i = true → mode s i ≠ 2 := by
  have ex : ∃ j, j < 6 ∧ c.getLsbD j = true ∧ mode s j = 2 := by push Not at h; exact h
  classical
  obtain ⟨h6, hc, hm⟩ := Nat.find_spec ex
  exact ⟨Nat.find ex, h6, hc, hm, fun i hi hb he => Nat.find_min ex hi ⟨by omega, hb, he⟩⟩

/-- An element that stops the entry does so by a trap-mode class, or by one in trim mode. -/
theorem stops_cases {c : Cls} (h : Stops s c) :
    c.trapCause s.st.csr.xact ≠ none ∨ c.inMode s.st.csr.xact 1 ≠ [] := by
  obtain ⟨j, h6, hc, hm⟩ := h
  by_cases ht : ∀ j, j < 6 → c.getLsbD j = true → mode s j ≠ 2
  · right
    exact List.ne_nil_of_mem ((mem_inMode s c 1 j).mpr ⟨h6, hc, hm.resolve_right (ht j h6 hc)⟩)
  · left
    obtain ⟨j, h6, hc, hm, first⟩ := exists_first_trap ht
    simp [trapCause_eq_some h6 hc hm first]

/-- THE STOP OF AN ENTRY, as the statements say it: V and C are what the elements before k have left. -/
theorem stopsAt_of_outcome (h : Quiet s) (hg : Granted s) (hi : isPlain i = true) {V : VecFile} {C c : Cls} {k : Nat}
    (hk : k < s.st.vlNow) (hstop : Stops s c)
    (hr : issue i (s.entry i) (s.committed i) =
      stopOutcome ((s.committed i).loopAt V C) (s.entry i) s.st.csr.vstart.toNat k c fun _ s => s)
    {done : State → Prop} (hdone : ∀ t, t.st.vec = V → t.st.csr.xflags = s.st.csr.xflags ||| C → done t) :
    ∃ t, exec i s = .next t ∧ StopsAt s t s.st.csr.vstart.toNat k c (done t) := by
  have hk' : k < 16384 := lt_of_lt_of_le hk (hg.trans (vlmax_le _))
  have hv : i.isVector = true := (isPlain_spec hi).1
  have wide : (BitVec.ofNat 20 k).toNat = k := by rw [BitVec.toNat_ofNat]; omega
  have xact : (s.entry i).xact = s.st.csr.xact := rfl
  rw [stopOutcome, xact] at hr
  by_cases ht : ∀ j, j < 6 → c.getLsbD j = true → mode s j ≠ 2
  · rw [trapCause_eq_none ht] at hr
    by_cases hkv : k = s.st.csr.vstart.toNat
    · by_cases hh : HasHandler s
      · obtain ⟨j, h6, hc, hm, hj⟩ : ∃ j, j < 6 ∧ c.getLsbD j = true ∧ mode s j = 1 ∧ (c.inMode s.st.csr.xact 1).headD 0 = j := by
          obtain ⟨j, l, hl⟩ := List.exists_cons_of_ne_nil ((stops_cases hstop).resolve_left (· (trapCause_eq_none ht)))
          obtain ⟨h6, hc, hm⟩ := (mem_inMode s c 1 j).mp (hl ▸ List.mem_cons_self)
          exact ⟨j, h6, hc, hm, by simp [hl]⟩
        simp only [hkv, if_true, hj] at hr
        obtain ⟨t, answer, vec, mem, queue, inh, tvec, tval, code, pc, tpc, csr⟩ := exec_traps h hi hh (by omega) (hkv ▸ hr)
        have trapped : t.st.trap.code.toNat = 0x10 + j := by rw [code, BitVec.toNat_ofNat]; omega
        have vstart : t.st.csr.vstart.toNat = k := by rw [csr]; exact wide
        refine ⟨t, answer, fun _ hne => absurd hkv hne, fun _ _ _ => ?_, fun j h6 hc hm => absurd hm (ht j h6 hc)⟩
        exact ⟨hdone t vec (by rw [csr]), ⟨mem, by rw [csr]⟩, ⟨inh, tvec, tval, vstart, pc, tpc, by rw [csr], queue⟩,
          j, h6, hc, hm, trapped⟩
      · obtain ⟨t, answer⟩ := exec_vector_next hv s
        exact ⟨t, answer, fun _ hne => absurd hkv hne, fun _ _ hh' => absurd hh' hh, fun _ _ _ _ hh' => absurd hh' hh⟩
    · simp only [hkv, if_false] at hr
      obtain ⟨t, answer, vec, mem, queue, trap, csr, vl⟩ := exec_shortens h hi hr
      have al : t.st.csr.al.toNat = k := by rw [csr]; show (BitVec.ofNat 32 k).toNat = k; rw [BitVec.toNat_ofNat]; omega
      refine ⟨t, answer, fun _ _ => ?_, fun _ he => absurd he hkv, fun j h6 hc hm => absurd hm (ht j h6 hc)⟩
      exact ⟨hdone t vec (by rw [csr]), ⟨mem, by rw [csr]⟩, al, by rw [csr], vl (hk.le.trans (vlNow_le_len _)), queue, trap⟩
  · obtain ⟨j, h6, hc, hm, first⟩ := exists_first_trap ht
    rw [trapCause_eq_some h6 hc hm first] at hr
    by_cases hh : HasHandler s
    · obtain ⟨t, answer, vec, mem, queue, inh, tvec, tval, code, pc, tpc, csr⟩ := exec_traps h hi hh (by omega) hr
      have vstart : t.st.csr.vstart.toNat = k := by rw [csr]; exact wide
      refine ⟨t, answer, fun no => absurd no ht, fun no => absurd no ht, fun j' h6' hc' hm' _ first' => ?_⟩
      have same : j' = j := by
        rcases Nat.lt_trichotomy j' j with hlt | heq | hgt
        · exact absurd hm' (first j' hlt hc')
        · exact heq
        · exact absurd hm (first' j hgt hc)
      have trapped : t.st.trap.code.toNat = 0x10 + j' := by rw [code, BitVec.toNat_ofNat, same]; omega
      exact ⟨hdone t vec (by rw [csr]), ⟨mem, by rw [csr]⟩, ⟨inh, tvec, tval, vstart, pc, tpc, by rw [csr], queue⟩, trapped⟩
    · obtain ⟨t, answer⟩ := exec_vector_next hv s
      exact ⟨t, answer, fun no => absurd no ht, fun no => absurd no ht, fun _ _ _ _ hh' => absurd hh' hh⟩

end

end Sys2Proof.Machine
end

section
/-! PROOFS. Elements of a register group: the bits of one element, legal groups, and what a form's elements leave of its sources. -/

namespace Sys2Proof.Machine

open Sys2Proof.Safety

/-! ### The bits of an element -/

/-- A width that a register holds elements of. -/
def Width (w : Nat) : Prop := 0 < w ∧ w ≤ 8192

section
variable {w : Nat}

theorem perReg_mul_le (w : Nat) : perReg w * w ≤ 8192 := by
  unfold perReg
  split
  · next h => subst h; norm_num
  · exact Nat.div_mul_le_self 8192 w

theorem perReg_pos (h : Width w) : 0 < perReg w := by
  obtain ⟨pos, le⟩ := h
  unfold perReg
  split
  · norm_num
  · exact Nat.div_pos le pos

/-- Every element lies within its register (R80). -/
theorem elem_room (h : Width w) (k : Nat) : k % perReg w * w + w ≤ 8192 := by
  have lt : k % perReg w + 1 ≤ perReg w := Nat.mod_lt _ (perReg_pos h)
  calc k % perReg w * w + w = (k % perReg w + 1) * w := by ring
    _ ≤ perReg w * w := Nat.mul_le_mul_right _ lt
    _ ≤ 8192 := perReg_mul_le w

variable {d : VReg} {k : Nat} {f g : VecFile}

/-- Bits outside an element are not written with it. -/
theorem setElem_bit_outside (hw : Width w) (hd : d.val + k / perReg w < 32) (x : Nat) {r : Fin 32} {j : Nat}
    (h : ¬InElem d w k r j) : (f.setElem d.val k w x).v[r].getLsbD j = f.v[r].getLsbD j := by
  unfold VecFile.setElem VecFile.reg
  have hn : (Fin.ofNat 32 (d.val + k / perReg w)).val = d.val + k / perReg w := by simp [Nat.mod_eq_of_lt hd]
  simp only [Fin.getElem_fin, Vector.getElem_set, Nat.mod_eq_of_lt hd, hn]
  split
  · next hr =>
    rw [testBit_putField _ _ _ _ _ (elem_room hw k), if_neg]
    · simp only [hr]
    · rintro ⟨lo, hi⟩
      exact h ⟨hr.symm, lo, by linarith [Nat.add_mul (k % perReg w) 1 w]⟩
  · rfl

/-- An element is as its bits are. -/
theorem elem_congr (hd : d.val + k / perReg w < 32) (h : ∀ r j, InElem d w k r j → f.v[r].getLsbD j = g.v[r].getLsbD j) :
    f.elem d.val k w = g.elem d.val k w := by
  unfold VecFile.elem VecFile.reg
  apply Nat.eq_of_testBit_eq
  intro p
  rw [testBit_getField, testBit_getField]
  by_cases hp : p < w
  · have bit := h ⟨d.val + k / perReg w, hd⟩ (k % perReg w * w + p) ⟨rfl, by omega, by linarith [Nat.add_mul (k % perReg w) 1 w]⟩
    simp only [Fin.getElem_fin] at bit
    simp only [Nat.mod_eq_of_lt hd, bit]
  · simp [hp]

/-- An element holds what has been written to it. -/
theorem elem_setElem_self (hw : Width w) (x : Nat) : (f.setElem d.val k w x).elem d.val k w = x % 2 ^ w := by
  unfold VecFile.elem VecFile.setElem VecFile.reg
  have h : (Fin.ofNat 32 ((d.val + k / perReg w) % 32)).val = (d.val + k / perReg w) % 32 := by simp
  simp only [Vector.getElem_set, h, if_true]
  exact getField_putField _ _ _ _ (elem_room hw k)

theorem elem_lt (f : VecFile) (v k w : Nat) : f.elem v k w < 2 ^ w := Nat.mod_lt _ (by positivity)

/-- No bit lies in two elements of a group. -/
theorem inElem_unique {i : Nat} {r : Fin 32} {j : Nat} (hi : InElem d w i r j) (hk : InElem d w k r j) : i = k := by
  obtain ⟨ri, loi, hii⟩ := hi
  obtain ⟨rk, lok, hik⟩ := hk
  have reg : i / perReg w = k / perReg w := by omega
  have pos : i % perReg w = k % perReg w :=
    Nat.le_antisymm (Nat.lt_succ_iff.mp (Nat.lt_of_mul_lt_mul_right (loi.trans_lt hik)))
      (Nat.lt_succ_iff.mp (Nat.lt_of_mul_lt_mul_right (lok.trans_lt hii)))
  rw [← Nat.div_add_mod i (perReg w), ← Nat.div_add_mod k (perReg w), reg, pos]

end

/-! ### Legal groups -/

/-- A group of at most eight registers holds VLMAX elements (R123). -/
theorem vlmax_le_group {vt : BitVec 5} {w : Nat} (h : emul vt w ≤ 8) : vlmax vt ≤ emul vt w * perReg w := by
  unfold emul at h ⊢
  dsimp only at h ⊢
  split at h
  · next h1 => rw [if_pos h1, Nat.one_mul]; exact h1
  · next h1 =>
    rw [if_neg h1]
    split at h
    · next h2 => rw [if_pos h2]; exact h2
    · next h2 =>
      rw [if_neg h2]
      split at h
      · next h4 => rw [if_pos h4]; exact h4
      · next h4 =>
        rw [if_neg h4]
        split at h
        · next h8 => rw [if_pos h8]; exact h8
        · omega

theorem VGroup.ok_iff {g : VGroup} : g.ok = true ↔ (g.n ≤ 8 ∧ g.v % g.n = 0) ∧ g.v + g.n ≤ 32 := by
  simp [VGroup.ok]

theorem VGroup.meets_eq_false_iff {g h : VGroup} : g.meets h = false ↔ h.v + h.n ≤ g.v ∨ g.v + g.n ≤ h.v := by
  simp [VGroup.meets]; omega

section
variable {e : Entry} {d a : VReg} {w wa k : Nat}

/-- The registers of a legal group's elements. -/
theorem reg_of_legal (hok : (e.group d w).ok = true) (hk : k < vlmax e.vtype) :
    k / perReg w < emul e.vtype w ∧ d.val + emul e.vtype w ≤ 32 := by
  obtain ⟨⟨small, -⟩, room⟩ := VGroup.ok_iff.mp hok
  exact ⟨Nat.div_lt_of_lt_mul (hk.trans_le (by rw [Nat.mul_comm]; exact vlmax_le_group small)), room⟩

theorem reg_lt_of_legal (hok : (e.group d w).ok = true) (hk : k < vlmax e.vtype) : d.val + k / perReg w < 32 := by
  obtain ⟨h1, h2⟩ := reg_of_legal hok hk; omega

/-- Groups that do not meet have no bit in common. -/
theorem not_inElem_of_apart (ha : (e.group a wa).ok = true) (hd : (e.group d w).ok = true)
    (h : (e.group a wa).meets (e.group d w) = false) {i : Nat} (hi : i < vlmax e.vtype) (hk : k < vlmax e.vtype) {r : Fin 32} {j : Nat}
    (hin : InElem a wa i r j) : ¬InElem d w k r j := by
  rintro ⟨rk, -⟩
  obtain ⟨ri, -⟩ := hin
  obtain ⟨li, -⟩ := reg_of_legal ha hi
  obtain ⟨lk, -⟩ := reg_of_legal hd hk
  have disjoint := VGroup.meets_eq_false_iff.mp h
  simp only [Entry.group] at disjoint
  generalize i / perReg wa = p at ri li
  generalize k / perReg w = q at rk lk
  omega

/-- The overlap rule (R143): the groups do not meet, or are one. -/
theorem overlapOk_cases {exact : Bool} (h : (e.group a wa).overlapOk (e.group d w) exact = true) :
    (e.group a wa).meets (e.group d w) = false ∨ (exact = true ∧ a = d ∧ wa = w) := by
  simp only [VGroup.overlapOk, Bool.or_eq_true, Bool.not_eq_true', Bool.and_eq_true, beq_iff_eq] at h
  refine h.imp id fun ⟨he, hg⟩ => ⟨he, ?_⟩
  simp only [Entry.group, VGroup.mk.injEq] at hg
  exact ⟨Fin.ext hg.1, hg.2.2⟩

end

/-! ### What the elements so far leave of the registers -/

/-- No bit outside the elements P of a group differs. -/
def KeepsOutside (d : VReg) (w : Nat) (P : Nat → Prop) (v v' : VecFile) : Prop :=
  ∀ (r : Fin 32) (j : Nat), (∀ k, P k → ¬InElem d w k r j) → v'.v[r].getLsbD j = v.v[r].getLsbD j

section
variable {s : State} {i : Instr} {d a : VReg} {w wa k : Nat} {P : Nat → Prop} {v v' : VecFile}

theorem KeepsOutside.refl (v : VecFile) : KeepsOutside d w P v v := fun _ _ _ => rfl

/-- One more element has been written. -/
theorem KeepsOutside.setElem {Q : Nat → Prop} (h : KeepsOutside d w P v v') (hPQ : ∀ j, P j → Q j) (hk : Q k) (hw : Width w)
    (hd : d.val + k / perReg w < 32) (x : Nat) : KeepsOutside d w Q v (v'.setElem d.val k w x) := fun r j hj => by
  rw [setElem_bit_outside hw hd x (hj k hk)]
  exact h r j fun i hi => hj i (hPQ i hi)

theorem KeepsOutside.mono {Q : Nat → Prop} (h : KeepsOutside d w P v v') (hPQ : ∀ j, P j → Q j) : KeepsOutside d w Q v v' :=
  fun r j hj => h r j fun i hi => hj i (hPQ i hi)

/-- An element of the destination that is not among those written. -/
theorem KeepsOutside.elem_same (h : KeepsOutside d w P v v') (hd : d.val + k / perReg w < 32) (hk : ¬P k) :
    v'.elem d.val k w = v.elem d.val k w :=
  elem_congr hd fun r j hin => h r j fun _ hi hin' => hk (inElem_unique hin' hin ▸ hi)

/-- An element of a group apart from the destination. -/
theorem KeepsOutside.elem_apart {e : Entry} (h : KeepsOutside d w P v v') (ha : (e.group a wa).ok = true)
    (hd : (e.group d w).ok = true) (hm : (e.group a wa).meets (e.group d w) = false) (hP : ∀ j, P j → j < vlmax e.vtype)
    (hk : k < vlmax e.vtype) : v'.elem a.val k wa = v.elem a.val k wa :=
  elem_congr (reg_lt_of_legal ha hk) fun r j hin => h r j fun i hi => not_inElem_of_apart ha hd hm hk (hP i hi) hin

/-- What legal operands are (R123, R143, R37). -/
theorem legalOps_iff {srcs : List (VReg × Nat)} {exact : Bool} {m xm : MReg} :
    legalOps s i d w srcs exact m xm = true ↔ ((s.entry i).group d w).ok = true ∧
      (∀ x ∈ srcs, ((s.entry i).group x.1 x.2).ok = true ∧
        ((s.entry i).group x.1 x.2).overlapOk ((s.entry i).group d w) exact = true) ∧ (xm = 0 ∨ xm ≠ m) := by
  simp only [legalOps, Bool.and_eq_true, List.all_eq_true, Bool.or_eq_true, beq_iff_eq, bne_iff_ne, and_assoc]

/-- A source's element k or a later one, while the elements below k alone have been written. -/
theorem source_same {exact : Bool} {j : Nat} (hg : Granted s) (ha : ((s.entry i).group a wa).ok = true)
    (hd : ((s.entry i).group d w).ok = true) (ho : ((s.entry i).group a wa).overlapOk ((s.entry i).group d w) exact = true)
    (h : KeepsOutside d w (fun q => P q ∧ q < k) v v') (hk : k ≤ s.st.vlNow) (hj : j < vlmax s.st.grant.vtype)
    (hkj : exact = true → k ≤ j) : v'.elem a.val j wa = v.elem a.val j wa := by
  obtain apart | ⟨he, rfl, rfl⟩ := overlapOk_cases ho
  · exact h.elem_apart ha hd apart (fun q hq => lt_of_lt_of_le hq.2 (hk.trans hg)) hj
  · exact h.elem_same (reg_lt_of_legal hd hj) fun hq => absurd hq.2 (Nat.not_lt.mpr (hkj he))

end

end Sys2Proof.Machine
end

section
/-! PROOFS. A loop that follows what the statements say of its elements:
it stops at the first element a class stops (R35, R36), or completes. -/

namespace Sys2Proof.Machine

open Sys2Proof.Safety

/-- The loop body does what a statement says of the elements from lo up to N: P executes, with classes cls, and before element k
the registers stand as Inv k says. -/
structure LoopBody.Follows (b : LoopBody) (xact : BitVec 12) (xm : MReg) (v : VecFile) (lo N : Nat) (P : Nat → Prop) (cls : Nat → Cls)
    (Inv : Nat → VecFile → Prop) : Prop where
  start : Inv lo v
  act : ∀ k v', lo ≤ k → k < N → Inv k v' → (b.act v' k = true ↔ P k)
  raises : ∀ k v', lo ≤ k → k < N → P k → Inv k v' → b.cls v' k = cls k
  step : ∀ k v', lo ≤ k → k < N → P k → Inv k v' → Inv (k + 1) (b.mark xact xm v' k)
  skip : ∀ k v', lo ≤ k → k < N → ¬P k → Inv k v' → Inv (k + 1) v'

/-- C is the union of the classes of the elements P (R36). -/
def Union (P : Nat → Prop) (cls : Nat → Cls) (C : Cls) : Prop :=
  ∀ q, C.getLsbD q = true ↔ ∃ k, P k ∧ (cls k).getLsbD q = true

namespace LoopBody.Follows

variable {b : LoopBody} {xact : BitVec 12} {xm : MReg} {v : VecFile} {lo N : Nat} {P : Nat → Prop} {cls : Nat → Cls}
  {Inv : Nat → VecFile → Prop}

/-- Registers and flags after n elements. -/
theorem upTo (h : b.Follows xact xm v lo N P cls Inv) : ∀ n, lo + n ≤ N →
    Inv (lo + n) (b.upTo xact xm v lo n).1 ∧ Union (fun k => P k ∧ lo ≤ k ∧ k < lo + n) cls (b.upTo xact xm v lo n).2
  | 0, _ => ⟨h.start, fun q => by
      constructor
      · intro hq; simp [LoopBody.upTo] at hq
      · rintro ⟨k, ⟨-, h1, h2⟩, -⟩; omega⟩
  | n + 1, hn => by
    obtain ⟨inv, union⟩ := h.upTo n (by omega)
    have lower : lo ≤ lo + n := Nat.le_add_right _ _
    have upper : lo + n < N := by omega
    simp only [LoopBody.upTo]
    by_cases hP : P (lo + n)
    · rw [if_pos ((h.act _ _ lower upper inv).mpr hP), h.raises _ _ lower upper hP inv]
      refine ⟨h.step _ _ lower upper hP inv, fun q => ?_⟩
      rw [BitVec.getLsbD_or, Bool.or_eq_true, union q]
      constructor
      · rintro (⟨k, ⟨hk, h1, h2⟩, hq⟩ | hq)
        · exact ⟨k, ⟨hk, h1, by omega⟩, hq⟩
        · exact ⟨lo + n, ⟨hP, lower, by omega⟩, hq⟩
      · rintro ⟨k, ⟨hk, h1, h2⟩, hq⟩
        rcases Nat.lt_succ_iff_lt_or_eq.mp h2 with hlt | rfl
        · exact .inl ⟨k, ⟨hk, h1, hlt⟩, hq⟩
        · exact .inr hq
    · rw [if_neg (mt (h.act _ _ lower upper inv).mp hP)]
      refine ⟨h.skip _ _ lower upper hP inv, fun q => (union q).trans ?_⟩
      constructor
      · rintro ⟨k, ⟨hk, h1, h2⟩, hq⟩; exact ⟨k, ⟨hk, h1, by omega⟩, hq⟩
      · rintro ⟨k, ⟨hk, h1, h2⟩, hq⟩
        have : k ≠ lo + n := by rintro rfl; exact hP hk
        exact ⟨k, ⟨hk, h1, by omega⟩, hq⟩

end LoopBody.Follows

section
variable {s : State} {i : Instr} {b : LoopBody} {f : State → Nat → Elt} {xm : MReg} {N : Nat} {P : Nat → Prop} {cls : Nat → Cls}
  {Inv : Nat → VecFile → Prop} {after : Nat → State → State}

/-- On a quiet strand the elements of an entry execute from VSTART on. -/
theorem ventry_committed (h : Quiet s) (hi : isPlain i = true) (hlo : s.st.csr.vstart.toNat < s.st.vlNow)
    (act : VecFile → Nat → Bool) :
    (s.committed i).ventry (s.entry i) true xm act f after =
      vloop s.st.vlNow (s.committed i) (s.entry i) xm act f after s.st.csr.vstart.toNat
        (s.st.vlNow - s.st.csr.vstart.toNat) s.st.csr.vstart.toNat (s.committed i) := by
  have eff := effLen_committed h hi
  have vs := vstart_committed h hi
  obtain ⟨-, -, -, -, -, -, -, -, -, -, -, hprog, hgoal, -⟩ := id h
  have prog : (s.committed i).st.prog = 0 := by rw [committed_st_of_quiet h hi]; exact hprog
  have goal : (s.committed i).st.goal = 0 := by rw [committed_st_of_quiet h hi]; exact hgoal
  rw [ventry_runs (by rw [eff, vs]; exact hlo) prog goal, eff, vs]

/-- An element of which no class acts, or any with `.xmN`, completes. -/
theorem passes_of_follows {u : State} {xact : BitVec 12} {lo n : Nat} (he : (s.entry i).xact = xact)
    (h : b.Follows xact xm u.st.vec lo N P cls Inv) (hn : lo + n < N)
    (hp : P (lo + n) → xm ≠ 0 ∨ ¬(cls (lo + n)).acts xact = true) : b.Passes u (s.entry i) xm lo n := by
  subst he
  obtain ⟨inv, -⟩ := h.upTo n hn.le
  intro hact
  have executes := (h.act _ _ (Nat.le_add_right _ _) hn inv).mp hact
  rw [h.raises _ _ (Nat.le_add_right _ _) hn executes inv]
  exact (hp executes).imp id fun no => Bool.eq_false_iff.mpr no

/-- THE STOP OF A LOOP: the first element that a class stops, without `.xmN`. -/
theorem stops_of_follows (h : Quiet s) (hg : Granted s) (hi : isPlain i = true) {k : Nat}
    (hr : issue i (s.entry i) (s.committed i) = (s.committed i).ventry (s.entry i) true 0 b.act f)
    (hf : b.Runs (s.committed i) f)
    (hb : b.Follows s.st.csr.xact 0 s.st.vec s.st.csr.vstart.toNat s.st.vlNow P cls Inv)
    (hlo : s.st.csr.vstart.toNat ≤ k) (hk : k < s.st.vlNow) (hP : P k) (hstop : Stops s (cls k))
    (hprev : ∀ j, s.st.csr.vstart.toNat ≤ j → j < k → P j → ¬Acts s (cls j)) {done : State → Prop}
    (hdone : ∀ t C, Inv k t.st.vec → Union (fun j => P j ∧ s.st.csr.vstart.toNat ≤ j ∧ j < k) cls C →
      t.st.csr.xflags = s.st.csr.xflags ||| C → done t) :
    ∃ t, exec i s = .next t ∧ StopsAt s t s.st.csr.vstart.toNat k (cls k) (done t) := by
  obtain ⟨n, rfl⟩ := Nat.exists_eq_add_of_le hlo
  have vec := vec_committed h hi
  obtain ⟨-, sync⟩ := committed_head h hi
  obtain ⟨inv, union⟩ := hb.upTo n hk.le
  have act := (hb.act _ _ hlo hk inv).mpr hP
  have raised := hb.raises _ _ hlo hk hP inv
  have passes : ∀ m, 0 ≤ m → m < n → b.Passes (s.committed i) (s.entry i) 0 s.st.csr.vstart.toNat m := fun m _ hm =>
    passes_of_follows rfl (vec.symm ▸ hb) (by omega) fun hPm => .inr fun ha =>
      hprev _ (Nat.le_add_right _ _) (by omega) hPm ((acts_iff s _).mp ha)
  have outcome : issue i (s.entry i) (s.committed i) = stopOutcome ((s.committed i).loopAt
        (b.upTo s.st.csr.xact 0 s.st.vec s.st.csr.vstart.toNat n).1 (b.upTo s.st.csr.xact 0 s.st.vec s.st.csr.vstart.toNat n).2)
      (s.entry i) s.st.csr.vstart.toNat (s.st.csr.vstart.toNat + n) (cls (s.st.csr.vstart.toNat + n)) fun _ s => s := by
    rw [hr, ventry_committed h hi (by omega)]
    have stop := LoopBody.vloop_stops (b := b) (u := s.committed i) (s0 := s.committed i) (e := s.entry i) sync hf
      (top := s.st.vlNow) (vs := s.st.csr.vstart.toNat) (lo := s.st.csr.vstart.toNat) (k := n) (after := fun _ s => s)
      (by rw [vec]; exact act) (by rw [vec]; exact raised.symm ▸ stops_cases hstop)
      (s.st.vlNow - s.st.csr.vstart.toNat) 0 (Nat.zero_le n) (by omega) passes
    rw [LoopBody.stateAt_zero, Nat.add_zero] at stop
    rw [stop, LoopBody.stateAt, vec]
    exact congrArg (fun c => stopOutcome _ _ _ _ c _) raised
  exact stopsAt_of_outcome h hg hi hk hstop outcome fun t hv hx => hdone t _ (hv ▸ inv) union hx

/-- All elements complete: what the entry comes to. -/
theorem completes_of_follows (h : Quiet s) (hi : isPlain i = true)
    (hr : issue i (s.entry i) (s.committed i) = (s.committed i).ventry (s.entry i) true xm b.act f after)
    (hf : b.Runs (s.committed i) f)
    (hb : b.Follows s.st.csr.xact xm s.st.vec s.st.csr.vstart.toNat s.st.vlNow P cls Inv)
    (hlo : s.st.csr.vstart.toNat < s.st.vlNow)
    (hpass : ∀ j, s.st.csr.vstart.toNat ≤ j → j < s.st.vlNow → P j → xm ≠ 0 ∨ ¬Acts s (cls j)) :
    ∃ V C, issue i (s.entry i) (s.committed i) =
        .done (after s.st.vlNow (((s.committed i).loopAt V C).complete1 s.st.vlNow)) none ∧
      Inv s.st.vlNow V ∧ Union (fun j => P j ∧ s.st.csr.vstart.toNat ≤ j ∧ j < s.st.vlNow) cls C := by
  have vec := vec_committed h hi
  obtain ⟨-, sync⟩ := committed_head h hi
  obtain ⟨n, hn⟩ := Nat.exists_eq_add_of_le hlo.le
  obtain ⟨inv, union⟩ := hb.upTo n hn.ge
  rw [← hn] at inv union
  refine ⟨_, _, ?_, inv, union⟩
  have passes : ∀ m, 0 ≤ m → m < 0 + n → b.Passes (s.committed i) (s.entry i) xm s.st.csr.vstart.toNat m := fun m _ hm =>
    passes_of_follows rfl (vec.symm ▸ hb) (by omega) fun hPm =>
      (hpass _ (Nat.le_add_right _ _) (by omega) hPm).imp id (mt (acts_iff s _).mp)
  have loop := LoopBody.vloop_completes (b := b) (u := s.committed i) (s0 := s.committed i) (e := s.entry i) sync hf
    (top := s.st.vlNow) (vs := s.st.csr.vstart.toNat) (lo := s.st.csr.vstart.toNat) (xm := xm) (after := after)
    n 0 (by omega) passes
  rw [LoopBody.stateAt_zero, Nat.add_zero, Nat.zero_add, ← hn] at loop
  rw [hr, ventry_committed h hi hlo,
    show s.st.vlNow - s.st.csr.vstart.toNat = n by omega, loop, LoopBody.stateAt, vec]
  rfl

end

end Sys2Proof.Machine
end

section
/-! PROOFS. Element-wise forms (R130): what their elements leave of the registers and masks, element by element. -/

namespace Sys2Proof.Machine

open Sys2Proof.Safety

/-! ### Mask bits -/

/-- A bit of a mask register after one has been written. -/
theorem getLsbD_setMbit (f : VecFile) (m r : MReg) (i j : Nat) (b : Bool) (hi : i < 16384) :
    (f.setMbit m i b).m[r].getLsbD j = if r = m ∧ j = i then b else f.m[r].getLsbD j := by
  unfold VecFile.setMbit
  simp only [Fin.getElem_fin, Vector.getElem_set]
  by_cases hr : m.val = r.val
  · obtain rfl : m = r := Fin.ext hr
    rw [if_pos rfl, testBit_putField _ _ _ _ _ (by omega)]
    by_cases hj : j = i
    · subst hj; cases b <;> simp [bitN]
    · rw [if_neg (by omega)]; simp [hj]
  · have : r ≠ m := fun e => hr (congrArg Fin.val e).symm
    simp [hr, this]

/-- The masks as `.xmN` leaves them once the elements Q have executed: their bits tell whether a class of theirs acted (R37). -/
def MasksOn (s : State) (xm : MReg) (Q : Nat → Prop) (cls : Nat → Cls) (v' : VecFile) : Prop :=
  ∀ (r : MReg) (q : Nat),
    (r = xm → xm ≠ 0 → Q q → v'.m[r].getLsbD q = (cls q).acts s.st.csr.xact) ∧
    (¬(r = xm ∧ xm ≠ 0 ∧ Q q) → v'.m[r].getLsbD q = s.st.vec.m[r].getLsbD q)

section
variable {s : State} {xm m : MReg} {P Q : Nat → Prop} {cls : Nat → Cls} {k : Nat} {v' : VecFile}

theorem MasksOn.congr (h : MasksOn s xm P cls v') (hPQ : ∀ j, P j ↔ Q j) : MasksOn s xm Q cls v' := fun r q => by
  rw [← hPQ q]; exact h r q

/-- The bit of one more element. -/
theorem MasksOn.setMbit (h : MasksOn s xm Q cls v') (hx : xm ≠ 0) (hk : k < 16384) :
    MasksOn s xm (fun j => Q j ∨ j = k) cls (v'.setMbit xm k ((cls k).acts s.st.csr.xact)) := fun r q => by
  rw [getLsbD_setMbit _ _ _ _ _ _ hk]
  by_cases hrq : r = xm ∧ q = k
  · rw [if_pos hrq]
    obtain ⟨rfl, rfl⟩ := hrq
    exact ⟨fun _ _ _ => rfl, fun hn => absurd ⟨rfl, hx, .inr rfl⟩ hn⟩
  · rw [if_neg hrq]
    exact ⟨fun h1 h2 hq => (h r q).1 h1 h2 (hq.resolve_right fun e => hrq ⟨h1, e⟩),
      fun hn => (h r q).2 fun ⟨h1, h2, hq⟩ => hn ⟨h1, h2, .inl hq⟩⟩

/-- Without `.xmN` no mask changes. -/
theorem MasksOn.masks_same (h : MasksOn s 0 Q cls v') : v'.m = s.st.vec.m :=
  Vector.ext fun n hn => BitVec.eq_of_getLsbD_eq fun q _ => (h ⟨n, hn⟩ q).2 fun ⟨_, h0, _⟩ => h0 rfl

theorem MasksOn.of_same (h : v'.m = s.st.vec.m) : MasksOn s 0 Q cls v' := fun r q =>
  ⟨fun _ h0 => absurd rfl h0, fun _ => by rw [h]⟩

theorem MasksOn.masksAfter {t : State} (h : MasksOn s xm Q cls t.st.vec) : MasksAfter s t xm Q cls := fun r q =>
  ⟨fun h1 h2 hq => by rw [(h r q).1 h1 h2 hq]; exact acts_iff s _, (h r q).2⟩

/-- Element by element: before element k the elements P below it have executed. -/
def MasksUpTo (s : State) (xm : MReg) (P : Nat → Prop) (cls : Nat → Cls) (k : Nat) (v' : VecFile) : Prop :=
  MasksOn s xm (fun j => P j ∧ j < k) cls v'

theorem and_lt_succ_iff (hk : ¬P k) (j : Nat) : P j ∧ j < k ↔ P j ∧ j < k + 1 :=
  and_congr_right fun hj => ⟨Nat.lt_succ_of_lt, fun hlt => Nat.lt_of_le_of_ne (Nat.lt_succ_iff.mp hlt) fun e => hk (e ▸ hj)⟩

theorem and_lt_or_eq_iff (hk : P k) (j : Nat) : (P j ∧ j < k) ∨ j = k ↔ P j ∧ j < k + 1 := by
  constructor
  · rintro (⟨hj, hlt⟩ | rfl)
    · exact ⟨hj, Nat.lt_succ_of_lt hlt⟩
    · exact ⟨hk, Nat.lt_succ_self _⟩
  · rintro ⟨hj, hlt⟩
    exact (Nat.lt_succ_iff_lt_or_eq.mp hlt).imp (fun h => ⟨hj, h⟩) id

theorem MasksUpTo.start {lo : Nat} (hP : ∀ j, P j → lo ≤ j) : MasksUpTo s xm P cls lo s.st.vec := fun _ q =>
  ⟨fun _ _ hq => absurd (hP q hq.1) (Nat.not_le.mpr hq.2), fun _ => rfl⟩

/-- The mask lets the same elements execute as before: only bits of earlier elements have changed. -/
theorem MasksUpTo.mbit_same (h : MasksUpTo s xm P cls k v') : v'.mbit m k = allows s m k := by
  unfold VecFile.mbit allows
  rw [(h m k).2 fun ⟨_, _, _, hlt⟩ => absurd hlt (Nat.lt_irrefl k)]

theorem MasksUpTo.skip (h : MasksUpTo s xm P cls k v') (hk : ¬P k) : MasksUpTo s xm P cls (k + 1) v' :=
  h.congr (and_lt_succ_iff hk)

/-- One more element has executed. -/
theorem MasksUpTo.mark {b : LoopBody} (h : MasksUpTo s xm P cls k v') (hP : P k) (hk : k < 16384) (hc : b.cls v' k = cls k)
    (hm : (b.write v' k).m = v'.m) : MasksUpTo s xm P cls (k + 1) (b.mark s.st.csr.xact xm v' k) := by
  have same : MasksOn s xm (fun j => P j ∧ j < k) cls (b.write v' k) := fun r q => by rw [hm]; exact h r q
  unfold LoopBody.mark
  split
  · next hx => rw [hc]; exact (same.setMbit hx hk).congr (and_lt_or_eq_iff hP)
  · next hx =>
    obtain rfl := not_not.mp hx
    exact MasksOn.of_same same.masks_same

end

/-! ### Elements -/

/-- The elements Q of a group hold their values, and no other bit has changed (R38). -/
structure ElemsOn (s : State) (d : VReg) (w : Nat) (Q : Nat → Prop) (val : Nat → Nat) (v' : VecFile) : Prop where
  keeps : KeepsOutside d w Q s.st.vec v'
  holds : ∀ j, Q j → v'.elem d.val j w = val j % 2 ^ w

/-- Element by element, the registers are as the statements say: the elements P below k hold their values. -/
structure ElemsUpTo (s : State) (d : VReg) (w : Nat) (P : Nat → Prop) (val : Nat → Nat) (k : Nat) (v' : VecFile) : Prop where
  rest : v' = { s.st.vec with v := v'.v, wext := v'.wext, m := v'.m }
  elems : ElemsOn s d w (fun j => P j ∧ j < k) val v'

section
variable {s : State} {i : Instr} {d : VReg} {w : Nat} {xm : MReg} {P Q : Nat → Prop} {val : Nat → Nat} {k : Nat} {v' : VecFile}

theorem ElemsOn.congr (h : ElemsOn s d w P val v') (hPQ : ∀ j, P j ↔ Q j) : ElemsOn s d w Q val v' where
  keeps := h.keeps.mono fun j => (hPQ j).mp
  holds j hj := h.holds j ((hPQ j).mpr hj)

/-- One more element has been written. -/
theorem ElemsOn.write (h : ElemsOn s d w Q val v') (hQ : ∀ j, Q j → j < vlmax s.st.grant.vtype) (hw : Width w)
    (hd : ((s.entry i).group d w).ok = true) (hk : k < vlmax s.st.grant.vtype) :
    ElemsOn s d w (fun j => Q j ∨ j = k) val (v'.setElem d.val k w (val k)) where
  keeps := h.keeps.setElem (fun _ hj => .inl hj) (.inr rfl) hw (reg_lt_of_legal hd hk) _
  holds j hj := by
    have one : KeepsOutside d w (· = k) v' (v'.setElem d.val k w (val k)) :=
      KeepsOutside.setElem (P := (· = k)) (.refl v') (fun _ h => h) rfl hw (reg_lt_of_legal hd hk) _
    by_cases hjk : j = k
    · rw [hjk]; exact elem_setElem_self hw _
    · have hjQ := hj.resolve_right hjk
      rw [one.elem_same (reg_lt_of_legal hd (hQ j hjQ)) hjk]; exact h.holds j hjQ

theorem ElemsUpTo.keeps (h : ElemsUpTo s d w P val k v') : KeepsOutside d w (fun j => P j ∧ j < k) s.st.vec v' := h.elems.keeps

theorem ElemsUpTo.start {lo : Nat} (hP : ∀ j, P j → lo ≤ j) : ElemsUpTo s d w P val lo s.st.vec where
  rest := rfl
  elems := ⟨.refl _, fun j hj => absurd (hP j hj.1) (Nat.not_le.mpr hj.2)⟩

theorem ElemsUpTo.skip (h : ElemsUpTo s d w P val k v') (hk : ¬P k) : ElemsUpTo s d w P val (k + 1) v' :=
  ⟨h.rest, h.elems.congr (and_lt_succ_iff hk)⟩

/-- A mask bit is no bit of an element. -/
theorem ElemsUpTo.setMbit (h : ElemsUpTo s d w P val k v') (q : Nat) (c : Bool) : ElemsUpTo s d w P val k (v'.setMbit xm q c) where
  rest := by rw [h.rest]; rfl
  elems := ⟨h.elems.keeps, h.elems.holds⟩

theorem ElemsUpTo.write (h : ElemsUpTo s d w P val k v') (hP : P k) (hw : Width w) (hd : ((s.entry i).group d w).ok = true)
    (hk : k < vlmax s.st.grant.vtype) : ElemsUpTo s d w P val (k + 1) (v'.setElem d.val k w (val k)) where
  rest := by rw [h.rest]; rfl
  elems := (h.elems.write (fun _ hj => hj.2.trans hk) hw hd hk).congr (and_lt_or_eq_iff hP)

/-- One more element has executed. -/
theorem ElemsUpTo.mark {b : LoopBody} {xact : BitVec 12} (h : ElemsUpTo s d w P val k v') (hP : P k) (hw : Width w)
    (hd : ((s.entry i).group d w).ok = true) (hk : k < vlmax s.st.grant.vtype)
    (hb : b.write v' k = v'.setElem d.val k w (val k)) : ElemsUpTo s d w P val (k + 1) (b.mark xact xm v' k) := by
  unfold LoopBody.mark
  rw [hb]
  split
  · exact (h.write hP hw hd hk).setMbit _ _
  · exact h.write hP hw hd hk

theorem ElemsOn.elemsAfter {t : State} (h : ElemsOn s d w Q val t.st.vec) : ElemsAfter s t d w Q val := ⟨h.holds, h.keeps⟩

theorem ElemsUpTo.elemsAfter {t : State} (h : ElemsUpTo s d w P val k t.st.vec) : ElemsAfter s t d w (fun j => P j ∧ j < k) val :=
  h.elems.elemsAfter

end

/-! ### Forms -/

/-- What element k of a form may read: of its destination the elements from k on, of its sources every element (from k on, where a
source may be the destination), and what no element changes. -/
structure KeepsSources (s : State) (d : VReg) (w : Nat) (srcs : List (VReg × Nat)) (exact : Bool) (k : Nat) (v' : VecFile) : Prop where
  rest : v' = { s.st.vec with v := v'.v, wext := v'.wext, m := v'.m }
  dest : ∀ j, k ≤ j → j < vlmax s.st.grant.vtype → v'.elem d.val j w = el s d j w
  source : ∀ x ∈ srcs, ∀ j, (exact = true → k ≤ j) → j < vlmax s.st.grant.vtype → v'.elem x.1.val j x.2 = el s x.1 j x.2

/-- With legal operands the elements below k leave all that. -/
theorem ElemsUpTo.keepsSources {s : State} {i : Instr} {d : VReg} {w : Nat} {P : Nat → Prop} {val : Nat → Nat} {k : Nat} {v' : VecFile}
    {srcs : List (VReg × Nat)} {exact : Bool} {m xm : MReg} (h : ElemsUpTo s d w P val k v') (hg : Granted s)
    (hl : legalOps s i d w srcs exact m xm = true) (hk : k ≤ s.st.vlNow) : KeepsSources s d w srcs exact k v' := by
  obtain ⟨hd, hsrcs, -⟩ := legalOps_iff.mp hl
  exact ⟨h.rest,
    fun j hkj hj => h.keeps.elem_same (reg_lt_of_legal hd hj) fun hq => absurd hq.2 (Nat.not_lt.mpr hkj),
    fun x hx j hkj hj => source_same hg (hsrcs x hx).1 hd (hsrcs x hx).2 h.keeps hk hj hkj⟩

/-- The loop body of an element-wise form with value and classes g. -/
def elemBody (f : ElemForm) (g : VecFile → Nat → Nat × Cls) : LoopBody where
  act v k := v.mbit f.m k
  write v k := v.setElem f.d.val k f.w (g v k).1
  cls v k := (g v k).2

/-- The element of an element-wise form in the model. -/
def elemStep (f : ElemForm) (g : VecFile → Nat → Nat × Cls) (u : State) (k : Nat) : Elt :=
  .ok (u.modVec fun v => v.setElem f.d.val k f.w (g u.st.vec k).1) (g u.st.vec k).2

theorem elemBody_runs (f : ElemForm) (g : VecFile → Nat → Nat × Cls) (u : State) : (elemBody f g).Runs u (elemStep f g) :=
  fun _ _ _ => rfl

/-- The model runs i as an element-wise form: the entry is a loop over elements with value and classes g. -/
structure Elementwise (i : Instr) (s : State) (f : ElemForm) (g : VecFile → Nat → Nat × Cls) : Prop where
  plain : isPlain i = true
  start : f.start = s.st.csr.vstart.toNat
  issued : issue i (s.entry i) (s.committed i) = (s.committed i).ventry (s.entry i) f.legal f.xm (elemBody f g).act (elemStep f g)

/-- What g gives for element k is the statement's, from all that earlier elements leave. -/
def Computes (s : State) (i : Instr) (f : ElemForm) (g : VecFile → Nat → Nat × Cls) : Prop :=
  ∃ srcs exact, legalOps s i f.d f.w srcs exact f.m f.xm = true ∧ Width f.w ∧
    ∀ k v', k < s.st.vlNow → k < vlmax s.st.grant.vtype → KeepsSources s f.d f.w srcs exact k v' → g v' k = f.val k

/-- THE ELEMENTS OF AN ELEMENT-WISE FORM: its loop does what the statement says, element by element. -/
theorem elementwise_follows {s : State} {i : Instr} {f : ElemForm} {g : VecFile → Nat → Nat × Cls} (hg : Granted s)
    (hs : f.start = s.st.csr.vstart.toNat) (hc : Computes s i f g) :
    (elemBody f g).Follows s.st.csr.xact f.xm s.st.vec s.st.csr.vstart.toNat s.st.vlNow (Executes s f.start f.m)
      (fun k => (f.val k).2) fun k v' => ElemsUpTo s f.d f.w (Executes s f.start f.m) (fun k => (f.val k).1) k v' ∧
        MasksUpTo s f.xm (Executes s f.start f.m) (fun k => (f.val k).2) k v' := by
  obtain ⟨srcs, exact, legal, width, computes⟩ := hc
  have lower : ∀ j, Executes s f.start f.m j → s.st.csr.vstart.toNat ≤ j := fun j hj => hs ▸ hj.1
  have value : ∀ k v', k < s.st.vlNow → ElemsUpTo s f.d f.w (Executes s f.start f.m) (fun k => (f.val k).1) k v' →
      g v' k = f.val k := fun k v' hk h => computes k v' hk (hk.trans_le hg) (h.keepsSources hg legal hk.le)
  refine ⟨⟨.start lower, .start lower⟩, ?_, ?_, ?_, ?_⟩
  · rintro k v' hlo hk ⟨-, masks⟩
    show v'.mbit f.m k = true ↔ _
    rw [masks.mbit_same]
    exact ⟨fun ha => ⟨hs ▸ hlo, hk, ha⟩, fun ha => ha.2.2⟩
  · rintro k v' - hk - ⟨elems, -⟩
    exact congrArg Prod.snd (value k v' hk elems)
  · rintro k v' - hk hP ⟨elems, masks⟩
    have val := value k v' hk elems
    obtain ⟨hd, -⟩ := legalOps_iff.mp legal
    exact ⟨elems.mark hP width hd (hk.trans_le hg) (by simp only [elemBody, val]),
      masks.mark hP (hk.trans_le (hg.trans (vlmax_le _))) (congrArg Prod.snd val) rfl⟩
  · rintro k v' - - hP ⟨elems, masks⟩
    exact ⟨elems.skip hP, masks.skip hP⟩

end Sys2Proof.Machine
end

section
/-! PROOFS. The forms that the model runs element by element: integer and floating forms, and conversions. -/

namespace Sys2Proof.Machine

open Sys2Proof.Safety

/-! ### Operations on elements -/

section
variable {w x y d : Nat}

/-- The model's signed elements are the statements'. -/
theorem sx_eq_signedOf (hw : 0 < w) (hx : x < 2 ^ w) : sx w x = signedOf w x := by
  obtain ⟨n, rfl⟩ := Nat.exists_eq_succ_of_ne_zero hw.ne'
  have double : 2 ^ (n + 1) = 2 * 2 ^ n := by rw [Nat.pow_succ, Nat.mul_comm]
  unfold sx signedOf
  rw [BitVec.toInt_eq_toNat_cond, BitVec.toNat_ofNat, Nat.mod_eq_of_lt hx]
  simp only [Nat.succ_eq_add_one, Nat.add_sub_cancel, double]
  by_cases h : x < 2 ^ n
  · rw [if_pos (by omega), if_pos h]
  · rw [if_neg (by omega), if_neg h, ← double]; norm_num

/-- The model's saturation is the statements' (R85). -/
theorem satW_eq_satTo (w : Nat) (z : Int) : satW w z = satTo w z := by
  simp only [satW, satInt, rangeOf, if_true, satTo]
  split
  · rfl
  · split <;> rfl

theorem modulo_natCast (w n : Nat) : modulo w n = n % 2 ^ w := by
  unfold modulo
  rw [← Nat.cast_ofNat, ← Nat.cast_pow, ← Int.natCast_mod, Int.toNat_natCast]

/-- The remainder of R132, in the overflow case too. -/
theorem iRem_eq (hw : 0 < w) (hx : x < 2 ^ w) (hy : y < 2 ^ w) : iRem w x y d =
    if y = 0 then (x, 2) else (modulo w (signedOf w x - signedOf w y * (signedOf w x).tdiv (signedOf w y)), 0) := by
  unfold iRem
  rw [sx_eq_signedOf hw hx, sx_eq_signedOf hw hy]
  split
  · rfl
  · split
    · next ovf =>
      simp only [Bool.and_eq_true, decide_eq_true_eq] at ovf
      obtain ⟨hmin, hneg⟩ := ovf
      rw [hmin, hneg]
      simp [modulo]
    · rw [Int.tmod_def]; rfl

end

/-- The b operand of an entry, as the model names it. -/
def bSrcOf : VReg ⊕ SReg → BSrc
  | .inl v => .v v
  | .inr _ => .x

/-- The operation of an integer form of one width in the model. -/
def intModel : Instr → Nat → Nat → Nat → Nat → Nat × Cls
  | .vadd .. | .vaddVx .. => iAdd
  | .vsub .. | .vsubVx .. => iSub
  | .vrsub .. | .vrsubVx .. => iRsub
  | .vmul .. | .vmulVx .. => iMul
  | .vmulh .. | .vmulhVx .. => iMulh
  | .vmacc .. | .vmaccVx .. => iMacc
  | .vmerge .. | .vmergeVx .. => iMerge
  | .vand .. | .vandVx .. => iAnd
  | .vor .. | .vorVx .. => iOr
  | .vxor .. | .vxorVx .. => iXor
  | .vsll .. | .vsllVx .. => iSll
  | .vsrl .. | .vsrlVx .. => iSrl
  | .vsra .. | .vsraVx .. => iSra
  | .vmin .. | .vminVx .. => iMin
  | .vmax .. | .vmaxVx .. => iMax
  | .vminn .. | .vminnVx .. => iMinn
  | .vmaxn .. | .vmaxnVx .. => iMaxn
  | .vsadd .. | .vsaddVx .. => iSadd
  | .vssub .. | .vssubVx .. => iSsub
  | .vdiv .. | .vdivVx .. => iDiv
  | .vrem .. | .vremVx .. => iRem
  | _ => fun _ _ _ _ => (0, 0)

theorem issue_intFields {i : Instr} {d a : VReg} {b : VReg ⊕ SReg} {m xm : MReg} {w : Nat}
    (h : intFields i = some (d, a, b, m, xm, w)) (e : Entry) (u : State) :
    isPlain i = true ∧ (∀ r, b = .inr r → i.reads.b = some r) ∧
      ∃ w' : IW, w'.bits = w ∧ issue i e u = u.vint e d a (bSrcOf b) m xm w' (intModel i) := by
  unfold intFields at h
  split at h <;> cases h <;> exact ⟨rfl, by rintro _ ⟨⟩ <;> rfl, _, rfl, rfl⟩

/-- It computes what R132 says of elements of w bits. -/
theorem intModel_eq {i : Instr} {w x y d : Nat} (hw : 0 < w) (hx : x < 2 ^ w) (hy : y < 2 ^ w) (hd : d < 2 ^ w) :
    intModel i w x y d = (intOp i w x y d).getD (0, 0) := by
  have sx_x := sx_eq_signedOf hw hx
  have sx_y := sx_eq_signedOf hw hy
  have sx_d := sx_eq_signedOf hw hd
  cases i with
  | vmul | vmulVx | vsll | vsllVx => exact congrArg (·, 0) (by exact_mod_cast (modulo_natCast w _).symm)
  | vmulh | vmulhVx | vsra | vsraVx => simp only [intModel, intOp, iMulh, iSra, sx_x, sx_y]; rfl
  | vmacc | vmaccVx | vsadd | vsaddVx | vssub | vssubVx =>
    simp only [intModel, intOp, iMacc, iSadd, iSsub, sx_x, sx_y, sx_d, satW_eq_satTo, Option.getD_some]
  | vmin | vminVx | vmax | vmaxVx =>
    simp only [intModel, intOp, iMin, iMax, sx_x, sx_y, ← not_lt, ite_not, Option.getD_some]
  | vdiv | vdivVx => simp only [intModel, intOp, iDiv, sx_x, sx_y, Bool.and_eq_true, decide_eq_true_eq]; rfl
  | vrem | vremVx => exact iRem_eq (d := d) hw hx hy
  | _ => rfl

/-! ### The forms run element by element -/

theorem IW.width (w : IW) : Width w.bits ∧ Width (2 * w.bits) := by unfold Width; cases w <;> decide

theorem FF.width (f : FF) : Width f.bits := by unfold Width; cases f <;> decide

theorem Elem.width (u : Elem) : Width u.bits := by unfold Width; cases u <;> decide

section
variable {s : State} {i : Instr} {d a : VReg} {b : VReg ⊕ SReg} {m xm : MReg} {w wb : Nat}

/-- The model's checks of an element-wise form are the statements'. -/
theorem elementwise_legal (srcs : List (VReg × Nat)) (exact : Bool) : (((s.entry i).group d w).ok &&
      (srcs.map fun x => (s.entry i).group x.1 x.2).all (fun x => x.ok && x.overlapOk ((s.entry i).group d w) exact) && xmOk xm m) =
    legalOps s i d w srcs exact m xm := by
  simp [legalOps, xmOk, List.all_map, Function.comp_def]

/-- The groups of a b operand. -/
theorem bSrcOf_groups (e : Entry) : (bSrcOf b).groups e w = (bSrc b w).map fun x => e.group x.1 x.2 := by
  cases b <;> rfl

/-- A b operand as the statements have it. -/
theorem bSrcOf_elem {v' : VecFile} {k : Nat} (hr : ∀ r, b = .inr r → i.reads.b = some r)
    (hv : ∀ v, b = .inl v → v'.elem v.val k wb = el s v k wb) : (bSrcOf b).elem (s.entry i) v' k wb = bOf s b k wb := by
  cases b with
  | inl v => exact hv v rfl
  | inr r =>
    show (s.entry i).opd.b.toNat % 2 ^ wb = _
    have captured : (s.entry i).opd.b = s.r r := by simp only [State.entry, State.opds, hr r rfl]; rfl
    rw [captured]; rfl

theorem bOf_lt (k : Nat) : bOf s b k w < 2 ^ w := by
  cases b with
  | inl v => exact elem_lt _ _ _ _
  | inr r => exact Nat.mod_lt _ (by positivity)

/-- A form over operands a, at one width, and b: destination, widths, masks, and the statement's value of each element. -/
def operandForm (i : Instr) (s : State) (d a : VReg) (b : VReg ⊕ SReg) (m xm : MReg) (w wa wb : Nat) (val : Nat → Nat × BitVec 6) :
    ElemForm where
  d := d
  w := w
  legal := legalOps s i d w ((a, wa) :: bSrc b wb) true m xm
  m := m
  xm := xm
  start := s.st.csr.vstart.toNat
  val := val

/-- What the model computes for such a form with operation F on the elements of a, b and d. -/
def operandVal (i : Instr) (s : State) (d a : VReg) (b : VReg ⊕ SReg) (w wa wb : Nat) (F : Nat → Nat → Nat → Nat × Cls)
    (v : VecFile) (k : Nat) : Nat × Cls :=
  F (v.elem a.val k wa) ((bSrcOf b).elem (s.entry i) v k wb) (v.elem d.val k w)

section
variable {wa : Nat} {val : Nat → Nat × BitVec 6} {F : Nat → Nat → Nat → Nat × Cls}

theorem elementwise_of_operands (hp : isPlain i = true) {srcs : List VGroup}
    (hsrcs : ∀ p, srcs.all p = ((s.entry i).group a wa :: (bSrcOf b).groups (s.entry i) wb).all p)
    (hi : issue i (s.entry i) (s.committed i) =
      (s.committed i).elementwise (s.entry i) d w srcs true m xm (operandVal i s d a b w wa wb F)) :
    Elementwise i s (operandForm i s d a b m xm w wa wb val) (operandVal i s d a b w wa wb F) := by
  refine ⟨hp, rfl, ?_⟩
  have legal := elementwise_legal (s := s) (i := i) (d := d) (m := m) (xm := xm) (w := w) ((a, wa) :: bSrc b wb) true
  rw [List.map_cons, ← bSrcOf_groups, ← hsrcs] at legal
  rw [hi]
  exact congrArg (fun c => (s.committed i).ventry _ c _ _ _) legal

/-- Element by element it computes what the statement does. -/
theorem computes_of_operands (hw : Width w) (hr : ∀ r, b = .inr r → i.reads.b = some r)
    (hval : ∀ k, F (el s a k wa) (bOf s b k wb) (el s d k w) = val k) (hl : (operandForm i s d a b m xm w wa wb val).legal = true) :
    Computes s i (operandForm i s d a b m xm w wa wb val) (operandVal i s d a b w wa wb F) := by
  refine ⟨_, true, hl, hw, fun k v' _ hk h => ?_⟩
  have hb : (bSrcOf b).elem (s.entry i) v' k wb = bOf s b k wb := bSrcOf_elem hr fun v hv =>
    h.source (v, wb) (by simp [hv, bSrc]) k (fun _ => Nat.le_refl k) hk
  have hd : v'.elem d.val k w = el s d k w := h.dest k (Nat.le_refl k) hk
  rw [operandVal, h.source (a, wa) (List.mem_cons_self ..) k (fun _ => Nat.le_refl k) hk, hb, hd, hval]
  rfl

/-- Both. -/
theorem runs_of_operands (hp : isPlain i = true) {srcs : List VGroup}
    (hsrcs : ∀ p, srcs.all p = ((s.entry i).group a wa :: (bSrcOf b).groups (s.entry i) wb).all p)
    (hi : issue i (s.entry i) (s.committed i) =
      (s.committed i).elementwise (s.entry i) d w srcs true m xm (operandVal i s d a b w wa wb F))
    (hw : Width w) (hr : ∀ r, b = .inr r → i.reads.b = some r)
    (hval : ∀ k, F (el s a k wa) (bOf s b k wb) (el s d k w) = val k) :
    ∃ g, Elementwise i s (operandForm i s d a b m xm w wa wb val) g ∧
      ((operandForm i s d a b m xm w wa wb val).legal = true → Computes s i (operandForm i s d a b m xm w wa wb val) g) :=
  ⟨_, elementwise_of_operands hp hsrcs hi, computes_of_operands hw hr hval⟩

end

/-- VWMACC in the model (R132). -/
def wideOp (w x y z : Nat) : Nat × Cls := (wrap (2 * w) ((z : Int) + sx w x * sx w y), 0)

/-- VNSRA in the model (R132). -/
def narrowOp (r : XM) (w x y _ : Nat) : Nat × Cls :=
  ((satW w (fxRound r (sx (2 * w) x) (y % (2 * w))).1).1,
    (fxRound r (sx (2 * w) x) (y % (2 * w))).2 ||| (satW w (fxRound r (sx (2 * w) x) (y % (2 * w))).1).2)

theorem wideOp_eq {x y : Nat} (hw : 0 < w) (hx : x < 2 ^ w) (hy : y < 2 ^ w) (z : Nat) :
    wideOp w x y z = (modulo (2 * w) (z + signedOf w x * signedOf w y), 0) := by
  rw [wideOp, sx_eq_signedOf hw hx, sx_eq_signedOf hw hy]; rfl

theorem narrowOp_eq {x : Nat} (hw : 0 < w) (hx : x < 2 ^ (2 * w)) (r : XM) (y z : Nat) :
    narrowOp r w x y z = ((satTo w (fxRound r (signedOf (2 * w) x) (y % (2 * w))).1).1,
      (fxRound r (signedOf (2 * w) x) (y % (2 * w))).2 ||| (satTo w (fxRound r (signedOf (2 * w) x) (y % (2 * w))).1).2) := by
  rw [narrowOp, sx_eq_signedOf (by omega) hx, satW_eq_satTo]

/-- Every integer form runs element by element (R130, R132). -/
theorem elementwise_of_intForm {f : ElemForm} (h : intForm i s = some f) :
    ∃ g, Elementwise i s f g ∧ (f.legal = true → Computes s i f g) := by
  have wide (d a : VReg) (b : VReg ⊕ SReg) (w : IW) (k : Nat) :=
    wideOp_eq (IW.width w).1.1 (elem_lt s.st.vec a.val k w.bits) (bOf_lt (s := s) (b := b) k) (el s d k (2 * w.bits))
  have narrow (d a : VReg) (b : VReg ⊕ SReg) (w : IW) (k : Nat) :=
    narrowOp_eq (IW.width w).1.1 (elem_lt s.st.vec a.val k (2 * w.bits)) (s.entry i).xm (bOf s b k w.bits) (el s d k w.bits)
  unfold intForm at h
  split at h
  · next d a b m w =>
    cases h
    exact runs_of_operands (b := .inl b) (F := wideOp w.bits) rfl (fun _ => rfl) rfl (IW.width w).2 (by rintro _ ⟨⟩) (wide d a (.inl b) w)
  · next d a b m w =>
    cases h
    exact runs_of_operands (b := .inr b) (F := wideOp w.bits) rfl (fun _ => rfl) rfl (IW.width w).2 (by rintro _ ⟨⟩; rfl)
      (wide d a (.inr b) w)
  · next d a b m x w =>
    cases h
    exact runs_of_operands (b := .inl b) (F := narrowOp (s.entry _).xm w.bits) rfl (fun _ => rfl) rfl (IW.width w).1 (by rintro _ ⟨⟩)
      (narrow d a (.inl b) w)
  · next d a b m x w =>
    cases h
    exact runs_of_operands (b := .inr b) (F := narrowOp (s.entry _).xm w.bits) rfl (fun _ => rfl) rfl (IW.width w).1
      (by rintro _ ⟨⟩; rfl) (narrow d a (.inr b) w)
  · obtain ⟨⟨d, a, b, m, xm, w⟩, fields, rfl⟩ := Option.map_eq_some_iff.mp h
    obtain ⟨plain, reads, w', rfl, issued⟩ := issue_intFields fields (s.entry i) (s.committed i)
    exact runs_of_operands (F := intModel i w'.bits) plain (fun _ => rfl) issued (IW.width w').1 reads fun k =>
      intModel_eq (IW.width w').1.1 (elem_lt _ _ _ _) (bOf_lt k) (elem_lt _ _ _ _)

/-- A floating form runs as an element-wise form over a and b, or over a alone. -/
theorem issue_floatFields {ff : FF} (h : floatFields i = some (d, a, b, m, xm, ff)) :
    isPlain i = true ∧ (∀ r, b = .inr r → i.reads.b = some r) ∧ ∃ srcs : List VGroup,
      (∀ p, srcs.all p = ((s.entry i).group a ff.bits :: (bSrcOf b).groups (s.entry i) ff.bits).all p) ∧
      issue i (s.entry i) (s.committed i) = (s.committed i).elementwise (s.entry i) d ff.bits srcs true m xm
        (operandVal i s d a b ff.bits ff.bits ff.bits fun x y z => (floatOp i ff.fp (s.entry i).rm x y z).getD (0, 0)) := by
  unfold floatFields at h
  split at h <;> cases h
  all_goals
    refine ⟨rfl, by rintro _ ⟨⟩ <;> rfl, _, fun p => ?_, rfl⟩
    simp [bSrcOf, BSrc.groups]

/-- Every floating form runs element by element (R130, R133, R134). -/
theorem elementwise_of_floatForm {f : ElemForm} (h : floatForm i s = some f) :
    ∃ g, Elementwise i s f g ∧ (f.legal = true → Computes s i f g) := by
  obtain ⟨⟨d, a, b, m, xm, ff⟩, fields, rfl⟩ := Option.map_eq_some_iff.mp h
  obtain ⟨plain, reads, srcs, hsrcs, issued⟩ := issue_floatFields fields
  exact runs_of_operands plain hsrcs issued (FF.width ff) reads fun k => rfl

/-- A form over one source that may be its destination; ok: a further check. -/
theorem computes_of_source {f : ElemForm} {g : VecFile → Nat → Nat × Cls} {wa : Nat} {ok : Bool}
    (hl : f.legal = (legalOps s i f.d f.w [(a, wa)] true f.m f.xm && ok)) (hw : Width f.w)
    (hg : ∀ v' k, v'.q = s.st.vec.q → v'.elem a.val k wa = el s a k wa → g v' k = f.val k) (h : f.legal = true) :
    Computes s i f g := by
  refine ⟨[(a, wa)], true, (Bool.and_eq_true_iff.mp (hl ▸ h)).1, hw, fun k v' _ hk hsrc => hg v' k ?_ ?_⟩
  · rw [hsrc.rest]
  · exact hsrc.source (a, wa) List.mem_cons_self k (fun _ => Nat.le_refl k) hk

theorem runs_of_source {f : ElemForm} {g : VecFile → Nat → Nat × Cls} {wa : Nat} (hp : isPlain i = true)
    (hs : f.start = s.st.csr.vstart.toNat)
    (hl : f.legal = (legalOps s i f.d f.w [(a, wa)] true f.m f.xm && true)) (hw : Width f.w)
    (hi : issue i (s.entry i) (s.committed i) =
      (s.committed i).elementwise (s.entry i) f.d f.w [(s.entry i).group a wa] true f.m f.xm g)
    (hg : ∀ v' k, v'.q = s.st.vec.q → v'.elem a.val k wa = el s a k wa → g v' k = f.val k) :
    Elementwise i s f g ∧ (f.legal = true → Computes s i f g) := by
  refine ⟨⟨hp, hs, ?_⟩, computes_of_source hl hw hg⟩
  rw [hi, hl, Bool.and_true, ← elementwise_legal]
  rfl

/-- An element of VBDQ in the model (R139). -/
def bdqElem (u : Elem) (q : QReg) (r : RM) (a : VReg) (v : VecFile) (k : Nat) : Nat × Cls :=
  if v.scale q (k / 32) = 255 then (0x7FC00000, 0)
  else match scaledVal u (v.elem a.val k u.bits) with
    | .fin n m z => FP.f32.round r (.fin n m (z + v.scale q (k / 32) - 127))
    | x => finish .f32 r (x, Cls.when x.snan Cls.nv)

/-- The checks of a form over one source under no mask. -/
theorem legalOps_unmasked {wa : Nat} (x : MReg) : legalOps s i d w [(a, wa)] true 0 x = (((s.entry i).group d w).ok &&
    ((s.entry i).group a wa).ok && ((s.entry i).group a wa).overlapOk ((s.entry i).group d w) true) := by
  have free : (x == 0 || x != 0) = true := by simp [bne]
  simp only [legalOps, free, List.all_cons, List.all_nil, Bool.and_true, Bool.and_assoc]

/-- Every conversion or move of which a class may be raised runs element by element (R135, R136, R139). -/
theorem elementwise_of_moveForm {f : ElemForm} (h : moveForm i s = some f) :
    (∃ g, Elementwise i s f g ∧ (f.legal = true → Computes s i f g)) ∨ ∀ k, (f.val k).2 = 0 := by
  have byte : Width 8 := by unfold Width; decide
  have word : Width 32 := by unfold Width; decide
  unfold moveForm at h
  split at h
  case h_1 d a u m x t =>
    cases h
    exact .inl ⟨fun v k => cvtElem u t (s.entry _).rm (s.entry _).xm (v.elem a.val k u.bits),
      runs_of_source rfl rfl rfl (Elem.width t) rfl fun v' k _ h => by rw [h]⟩
  case h_2 d a c m =>
    cases h
    exact .inl ⟨fun v k => packElem c (v.elem a.val k 8), runs_of_source rfl rfl rfl (Elem.width c) rfl fun v' k _ h => by rw [h]⟩
  case h_3 d a c m =>
    cases h
    exact .inl ⟨fun v k => unpackElem c (v.elem a.val k c.bits), runs_of_source rfl rfl rfl byte rfl fun v' k _ h => by rw [h]⟩
  case h_4 d a u q x =>
    cases h
    refine .inl ⟨bdqElem u q (s.entry (.vbdq d a u q x)).rm a, ⟨rfl, rfl, ?_⟩, computes_of_source rfl word fun v' k hq h => ?_⟩
    · rw [legalOps_unmasked]; rfl
    · have scale : v'.scale q (k / 32) = s.st.vec.scale q (k / 32) := by simp only [VecFile.scale, hq]
      rw [bdqElem, scale, h]
      by_cases hs : s.st.vec.scale q (k / 32) = 255
      · simp only [hs, if_true]
      · simp only [hs, if_false]
        cases scaledVal u (el s a k u.bits) <;> rfl
  case h_12 => cases h
  all_goals
    cases h
    exact .inr fun _ => rfl

end

end Sys2Proof.Machine
end

section
/-! PROOFS. The obligation on entries that retire or are illegal, and the stop of an element-wise form. -/

namespace Sys2Proof.Machine

open Sys2Proof.Safety

section
variable {s : State} {i : Instr}

/-- A clause after one more position (R68). -/
theorem clause_advance (t : Strand) : (t.advance.clause.map fun c => (c.pos, c.len, c.cnt)) =
    t.clause.bind fun c => if c.len ≤ c.pos then none else some (c.pos + 1, c.len, c.cnt) := by
  cases hc : t.clause with
  | none => simp [Strand.advance, hc]
  | some c =>
    simp only [Strand.advance, hc, Option.bind_some, Clause.next]
    split <;> rfl

/-- A completed entry of a quiet strand, as the statements say it: V and C are what its elements have left, K the counter. -/
theorem exec_completes (h : Quiet s) (hi : isPlain i = true) {V : VecFile} {C : Cls} {K : BitVec 128} {al : Nat}
    (hr : issue i (s.entry i) (s.committed i) =
      .done ((((s.committed i).loopAt V C).complete1 al).mod fun t => { t with ctr := K }) none) :
    ∃ t, exec i s = .next t ∧ t.st.vec = V ∧ t.st.ctr = K ∧
      EntryDone s { t with st := { t.st with ctr := s.st.ctr } } al C := by
  obtain ⟨-, -, -, hqueue, -, -, -, -, -, -, -, hprog, -⟩ := id h
  have whole : s.committed i = { s with st := { s.st with queue := [s.entry i], nextSeq := s.st.nextSeq + 1 }.advance } := by
    rw [← committed_st_of_quiet h hi]; rfl
  refine ⟨_, exec_of_quiet h hi hr (committed_head h hi), rfl, rfl, ⟨?_, ?_, ?_, ?_⟩, fun a => rfl, ?_⟩
  · exact State.committed_pc s i
  · rw [whole]; rfl
  · rw [whole]; rfl
  · rw [whole]; exact clause_advance s.st
  · rw [whole]
    simp only [VRes.left, State.mod, State.complete1, State.modCsr, State.loopAt, Strand.advance, hqueue, hprog]

/-- The same for an entry that does not move the counter. -/
theorem exec_completes_plain (h : Quiet s) (hi : isPlain i = true) {V : VecFile} {C : Cls} {al : Nat}
    (hr : issue i (s.entry i) (s.committed i) = .done (((s.committed i).loopAt V C).complete1 al) none) :
    ∃ t, exec i s = .next t ∧ t.st.vec = V ∧ EntryDone s t al C := by
  have ctr : (s.committed i).st.ctr = s.st.ctr := by rw [committed_st_of_quiet h hi]; rfl
  obtain ⟨t, answer, vec, same, entry⟩ := exec_completes h hi (K := s.st.ctr) (V := V) (C := C) (al := al) (by rw [hr, ← ctr]; rfl)
  rw [← same] at entry
  exact ⟨t, answer, vec, entry⟩

/-- The current machine, written as one in the middle of an entry. -/
theorem committed_loopAt (h : Quiet s) (hi : isPlain i = true) : (s.committed i).loopAt s.st.vec 0 = s.committed i := by
  have vec := vec_committed h hi
  rw [← vec, State.loopAt_zero]

/-- An entry that begins at or above its length retires (R38). -/
theorem exec_retires (h : Quiet s) {f : ElemForm} {g : VecFile → Nat → Nat × Cls} (hf : Elementwise i s f g)
    (hvl : s.st.vlNow ≤ s.st.csr.vstart.toNat) : ∃ t, exec i s = .next t ∧ EntryDone s t s.st.vlNow 0 ∧ t.st.vec = s.st.vec := by
  have hi := hf.plain
  have retired := ventry_retires (u := s.committed i) (e := s.entry i) (checks := f.legal) (xm := f.xm) (act := (elemBody f g).act)
    (f := elemStep f g) (after := fun _ s => s) (by rw [effLen_committed h hi, vstart_committed h hi]; exact hvl)
  obtain ⟨t, answer, vec, entry⟩ := exec_completes_plain h hi (V := s.st.vec) (C := 0) (al := s.st.vlNow)
    (by rw [hf.issued, retired, effLen_committed h hi, committed_loopAt h hi])
  exact ⟨t, answer, entry, vec⟩

/-- Illegal operands trap on the leading element (R123, R143). -/
theorem exec_illegal (h : Quiet s) (hh : HasHandler s) {f : ElemForm} {g : VecFile → Nat → Nat × Cls} (hf : Elementwise i s f g)
    (hl : f.legal = false) (hvl : s.st.csr.vstart.toNat < s.st.vlNow) : ∃ t, exec i s = .next t ∧ t.st.trap.code = 2 ∧
      t.st.trap.vec = true ∧ t.st.trap.inh = true ∧ t.st.trap.tval = 0 ∧ t.st.pc = s.st.trap.tvec ∧ t.st.csr = s.st.csr ∧
      t.st.vec = s.st.vec ∧ t.st.queue.length = 1 ∧ SameMemory s t := by
  have hi := hf.plain
  have same : (BitVec.ofNat 20 s.st.csr.vstart.toNat) = s.st.csr.vstart := BitVec.ofNat_toNat _ _ |>.trans (BitVec.setWidth_eq _)
  have unmoved : (s.committed i).setVstart s.st.csr.vstart.toNat = s.committed i := by
    rw [State.setVstart, same]
    have : (s.committed i).st.csr.vstart = s.st.csr.vstart := by rw [csr_committed h hi]
    rw [← this]; rfl
  have illegal := ventry_illegal (u := s.committed i) (e := s.entry i) (xm := f.xm) (act := (elemBody f g).act) (f := elemStep f g)
    (after := fun _ s => s) (by rw [effLen_committed h hi, vstart_committed h hi]; exact hvl)
  obtain ⟨t, answer, vec, mem, queue, inh, tvec, tval, code, pc, -, csr⟩ := exec_traps h hi hh (c := 2) (by decide) (V := s.st.vec)
    (C := 0) (k := s.st.csr.vstart.toNat) (by rw [hf.issued, hl, illegal, committed_loopAt h hi, unmoved])
  exact ⟨t, answer, code, tvec, inh, tval, pc, by rw [csr, same]; simp, vec, queue, mem⟩

/-- Settles O27: an entry retires without a check at or above its length, and below it illegal operands trap. -/
theorem retiringAndIllegalEntries : Obligations.RetiringAndIllegalEntries := by
  have elementwise : ∀ (i : Instr) (s : State) (f : ElemForm), intForm i s = some f ∨ floatForm i s = some f →
      ∃ g, Elementwise i s f g := by
    rintro i s f (hf | hf)
    · obtain ⟨g, hg, -⟩ := elementwise_of_intForm hf; exact ⟨g, hg⟩
    · obtain ⟨g, hg, -⟩ := elementwise_of_floatForm hf; exact ⟨g, hg⟩
  constructor
  · intro i s f h hf hvl
    obtain ⟨g, hg⟩ := elementwise i s f hf
    exact exec_retires h hg hvl
  · intro i s f h hf hl hvl hh
    obtain ⟨g, hg⟩ := elementwise i s f hf
    exact exec_illegal h hh hg hl hvl

/-! ### The stop of an element-wise form -/

/-- A class that stops an entry is a class. -/
theorem not_stops_zero : ¬Stops s 0 := by
  rintro ⟨j, -, hj, -⟩
  simp at hj

theorem Union.congr {P Q : Nat → Prop} {cls : Nat → Cls} {C : Cls} (h : Union P cls C) (hPQ : ∀ j, P j ↔ Q j) : Union Q cls C :=
  fun q => (h q).trans (exists_congr fun j => and_congr_left' (hPQ j))

/-- The flags after the elements of a union have been set. -/
theorem flagsSet_of_union {t : State} {P : Nat → Prop} {cls : Nat → Cls} {C : Cls} (h : Union P cls C)
    (hx : t.st.csr.xflags = s.st.csr.xflags ||| C) : FlagsSet s t P cls := fun q _ => by
  rw [hx, BitVec.getLsbD_or, Bool.or_eq_true, h q]

/-- An element-wise form at the first element that a class stops (R35, R36). -/
theorem elementwise_stops (h : Quiet s) (hg : Granted s) {f : ElemForm} {g : VecFile → Nat → Nat × Cls} (hf : Elementwise i s f g)
    (hc : Computes s i f g) (hl : f.legal = true) (hxm : f.xm = 0) {k : Nat} (hk : Executes s f.start f.m k)
    (hstop : Stops s (f.val k).2) (hprev : ∀ j, j < k → Executes s f.start f.m j → ¬Acts s (f.val j).2) :
    ∃ t, exec i s = .next t ∧ StopsAt s t f.start k (f.val k).2
      (ElemsAfter s t f.d f.w (fun j => Executes s f.start f.m j ∧ j < k) (fun j => (f.val j).1) ∧ VecRest s t ∧
        t.st.vec.m = s.st.vec.m ∧ FlagsSet s t (fun j => Executes s f.start f.m j ∧ j < k) (fun j => (f.val j).2)) := by
  have follows := elementwise_follows hg hf.start hc
  rw [hxm] at follows
  rw [hf.start]
  have executes := hf.start ▸ hk
  refine stops_of_follows h hg hf.plain (by rw [hf.issued, hl, hxm]) (elemBody_runs f g _) follows executes.1 executes.2.1 hk hstop
    (fun j _ hj => hprev j hj) ?_
  rintro t C ⟨elems, masks⟩ union xflags
  rw [← hf.start]
  refine ⟨elems.elemsAfter, elems.rest, masks.masks_same, flagsSet_of_union (union.congr fun j => ?_) xflags⟩
  exact ⟨fun ⟨hj, _, hlt⟩ => ⟨hj, hlt⟩, fun ⟨hj, hlt⟩ => ⟨hj, hf.start ▸ hj.1, hlt⟩⟩

end

end Sys2Proof.Machine
end

section
/-! PROOFS. The stop of a compare (R131): forms with a mask destination, bit by bit. -/

namespace Sys2Proof.Machine

open Sys2Proof.Safety

section
variable {s : State} {i : Instr} {f : MaskForm}

/-- The element of a form with a mask destination in the model. -/
def maskStep (d : MReg) (rel : VecFile → Nat → Bool × Cls) (u : State) (k : Nat) : Elt :=
  .ok (u.modVec fun v => v.setMbit d k (rel u.st.vec k).1) (rel u.st.vec k).2

/-- Its loop body. -/
def maskBody (d m : MReg) (rel : VecFile → Nat → Bool × Cls) : LoopBody where
  act v k := v.mbit m k
  write v k := v.setMbit d k (rel v k).1
  cls v k := (rel v k).2

/-- The model runs i as a form with a mask destination, whose relation reads vector registers alone. -/
structure Maskwise (i : Instr) (s : State) (f : MaskForm) (rel : VecFile → Nat → Bool × Cls) : Prop where
  plain : isPlain i = true
  issued : issue i (s.entry i) (s.committed i) =
    (s.committed i).ventry (s.entry i) f.legal f.xm (maskBody f.d f.m rel).act (maskStep f.d rel)
  computes : ∀ v' k, v'.v = s.st.vec.v → rel v' k = f.rel k

/-- A floating compare in the model. -/
def fcmpElem (r : FRel) (g : FF) (a b : VReg) (v : VecFile) (k : Nat) : Bool × Cls :=
  g.fp.cmp r (v.elem a.val k g.bits) (v.elem b.val k g.bits)

theorem fcmpElem_congr (r : FRel) (g : FF) (a b : VReg) {v v' : VecFile} (h : v'.v = v.v) (k : Nat) :
    fcmpElem r g a b v' k = fcmpElem r g a b v k := by
  simp only [fcmpElem, VecFile.elem, VecFile.reg, h]

/-- A form that the model runs over a floating compare. -/
theorem maskwise_of_fcmp {d : MReg} {a b : VReg} {m xm : MReg} {g : FF} {r : FRel} (hp : isPlain i = true)
    (hi : issue i (s.entry i) (s.committed i) = (s.committed i).maskwise (s.entry i) d
      [(s.entry i).group a g.bits, (s.entry i).group b g.bits] m xm (fcmpElem r g a b)) :
    Maskwise i s
      { d := d, m := m, xm := xm, rel := fcmpElem r g a b s.st.vec,
        legal := ([(a, g.bits), (b, g.bits)].all fun x => ((s.entry i).group x.1 x.2).ok) && (xm == 0 || (xm != m && xm != d)) }
      (fcmpElem r g a b) := by
  refine ⟨hp, ?_, fun v' k h => fcmpElem_congr r g a b h k⟩
  rw [hi]
  refine congrArg (fun c => (s.committed i).ventry _ c _ _ _) ?_
  have others : [d].contains xm = (xm == d) := by simp [beq_eq_decide]
  simp only [xmOk, others, List.all_cons, List.all_nil, Bool.and_true, bne]

/-- Every form with a mask destination of which a class may be raised is a floating compare (R131, R133). -/
theorem maskwise_of_maskForm (h : maskForm i s = some f) : (∃ rel, Maskwise i s f rel) ∨ ∀ k, (f.rel k).2 = 0 := by
  unfold maskForm at h
  split at h
  case h_13 d a b m x g => cases h; exact .inl ⟨_, maskwise_of_fcmp (r := .eq) rfl rfl⟩
  case h_14 d a b m x g => cases h; exact .inl ⟨_, maskwise_of_fcmp (r := .lt) rfl rfl⟩
  case h_15 d a b m x g => cases h; exact .inl ⟨_, maskwise_of_fcmp (r := .le) rfl rfl⟩
  case h_16 d a b m x g => cases h; exact .inl ⟨_, maskwise_of_fcmp (r := .un) rfl rfl⟩
  case h_21 => cases h
  all_goals
    cases h
    exact .inr fun _ => rfl

/-- Bit by bit, the masks are as the statement says: before element k the bits below it that execute hold the relation. -/
structure BitsUpTo (s : State) (d : MReg) (P : Nat → Prop) (bit : Nat → Bool) (k : Nat) (v' : VecFile) : Prop where
  rest : v' = { s.st.vec with m := v'.m }
  holds : ∀ j, P j → j < k → v'.m[d].getLsbD j = bit j
  keeps : ∀ (r : MReg) (j : Nat), ¬(r = d ∧ P j ∧ j < k) → v'.m[r].getLsbD j = s.st.vec.m[r].getLsbD j

/-- THE BITS OF A COMPARE: its loop does what the statement says, bit by bit. -/
theorem maskwise_follows (hg : Granted s) {rel : VecFile → Nat → Bool × Cls} (hf : Maskwise i s f rel) :
    (maskBody f.d f.m rel).Follows s.st.csr.xact 0 s.st.vec s.st.csr.vstart.toNat s.st.vlNow
      (Executes s s.st.csr.vstart.toNat f.m) (fun k => (f.rel k).2)
      (BitsUpTo s f.d (Executes s s.st.csr.vstart.toNat f.m) fun k => (f.rel k).1) := by
  have value : ∀ k v', BitsUpTo s f.d (Executes s s.st.csr.vstart.toNat f.m) (fun k => (f.rel k).1) k v' → rel v' k = f.rel k :=
    fun k v' h => hf.computes v' k (by rw [h.rest])
  constructor
  case start => exact ⟨rfl, fun j hj hlt => absurd hj.1 (Nat.not_le.mpr hlt), fun _ _ _ => rfl⟩
  case act =>
    intro k v' hlo hk h
    have same : v'.mbit f.m k = allows s f.m k := by
      unfold VecFile.mbit allows
      rw [h.keeps f.m k fun hn => Nat.lt_irrefl k hn.2.2]
    show v'.mbit f.m k = true ↔ _
    rw [same]
    exact ⟨fun ha => ⟨hlo, hk, ha⟩, fun ha => ha.2.2⟩
  case raises => intro k v' _ _ _ h; exact congrArg Prod.snd (value k v' h)
  case step =>
    intro k v' _ hk hP h
    have inside : k < 16384 := hk.trans_le (hg.trans (vlmax_le _))
    have written : (maskBody f.d f.m rel).mark s.st.csr.xact 0 v' k = v'.setMbit f.d k (f.rel k).1 := by
      simp [LoopBody.mark, maskBody, value k v' h]
    rw [written]
    refine ⟨by rw [h.rest]; rfl, fun j hj hlt => ?_, fun r j hn => ?_⟩
    · rw [getLsbD_setMbit _ _ _ _ _ _ inside]
      by_cases hjk : j = k
      · rw [if_pos ⟨rfl, hjk⟩, hjk]
      · rw [if_neg fun e => hjk e.2]; exact h.holds j hj (by omega)
    · rw [getLsbD_setMbit _ _ _ _ _ _ inside, if_neg]
      · exact h.keeps r j fun e => hn ⟨e.1, e.2.1, by omega⟩
      · rintro ⟨rfl, rfl⟩; exact hn ⟨rfl, hP, Nat.lt_succ_self j⟩
  case skip =>
    intro k v' _ _ hP h
    have below : ∀ j, Executes s s.st.csr.vstart.toNat f.m j → j < k + 1 → j < k := fun j hj hlt =>
      Nat.lt_of_le_of_ne (Nat.lt_succ_iff.mp hlt) fun e => hP (e ▸ hj)
    exact ⟨h.rest, fun j hj hlt => h.holds j hj (below j hj hlt), fun r j hn => h.keeps r j fun e => hn ⟨e.1, e.2.1, by omega⟩⟩

/-- A compare at the first element that a class stops (R35, R36, R131). -/
theorem maskForm_stops (h : Quiet s) (hg : Granted s) (hf : maskForm i s = some f) (hl : f.legal = true) (hxm : f.xm = 0) {k : Nat}
    (hk : Executes s s.st.csr.vstart.toNat f.m k) (hstop : Stops s (f.rel k).2)
    (hprev : ∀ j, j < k → Executes s s.st.csr.vstart.toNat f.m j → ¬Acts s (f.rel j).2) :
    ∃ t, exec i s = .next t ∧ StopsAt s t s.st.csr.vstart.toNat k (f.rel k).2
      (t.st.vec = { s.st.vec with m := t.st.vec.m } ∧
        (∀ j, Executes s s.st.csr.vstart.toNat f.m j → j < k → t.st.vec.m[f.d].getLsbD j = (f.rel j).1) ∧
        (∀ (r : MReg) (j : Nat), ¬(r = f.d ∧ Executes s s.st.csr.vstart.toNat f.m j ∧ j < k) →
          t.st.vec.m[r].getLsbD j = s.st.vec.m[r].getLsbD j) ∧
        FlagsSet s t (fun j => Executes s s.st.csr.vstart.toNat f.m j ∧ j < k) (fun j => (f.rel j).2)) := by
  obtain ⟨rel, hrel⟩ | zero := maskwise_of_maskForm hf
  · refine stops_of_follows h hg hrel.plain (by rw [hrel.issued, hl, hxm]) (fun _ _ _ => rfl) (maskwise_follows hg hrel) hk.1 hk.2.1 hk
      hstop (fun j _ hj => hprev j hj) ?_
    rintro t C bits union xflags
    exact ⟨bits.rest, bits.holds, bits.keeps, flagsSet_of_union
      (union.congr fun j => ⟨fun ⟨hj, _, hlt⟩ => ⟨hj, hlt⟩, fun ⟨hj, hlt⟩ => ⟨hj, hj.1, hlt⟩⟩) xflags⟩
  · exact absurd (zero k ▸ hstop) not_stops_zero

end

end Sys2Proof.Machine
end

section
/-! PROOFS. The stop of an ordered reduction and of a scan (R152 to R157). -/

namespace Sys2Proof.Machine

open Sys2Proof.Safety

/-! ### Combining steps -/

/-- A combining step of the model does what a statement's does on elements and on the identity (R153). -/
structure Step.Agrees (q p : Step) : Prop where
  width : q.w = p.w
  ident : q.id = p.id
  op : ∀ x y, x = p.id ∨ x < 2 ^ p.w → y < 2 ^ p.w → q.op x y = p.op x y

theorem Step.Agrees.refl (p : Step) : p.Agrees p := ⟨rfl, rfl, fun _ _ _ _ => rfl⟩

/-- An integer step agrees where its identity is an element. -/
theorem Step.Agrees.of_signed {q p : Step} (hw : q.w = p.w) (hid : q.id = p.id) (pos : 0 < p.w) (small : p.id < 2 ^ p.w)
    (hop : ∀ x y, sx p.w x = signedOf p.w x → sx p.w y = signedOf p.w y → q.op x y = p.op x y) : q.Agrees p :=
  ⟨hw, hid, fun x y hx hy => hop x y (sx_eq_signedOf pos (hx.elim (fun e => e ▸ small) fun lt => lt)) (sx_eq_signedOf pos hy)⟩

/-- The loop body that writes what out gives to the element that dest names. -/
def setBody (act : VecFile → Nat → Bool) (d : VReg) (w : Nat) (dest : VecFile → Nat → Nat) (out : VecFile → Nat → Nat × Cls) :
    LoopBody where
  act := act
  write v k := v.setElem d.val (dest v k) w (out v k).1
  cls v k := (out v k).2

/-- Its element in the model. -/
def setStep (d : VReg) (w : Nat) (dest : VecFile → Nat → Nat) (out : VecFile → Nat → Nat × Cls) (u : State) (k : Nat) : Elt :=
  .ok (u.modVec fun v => v.setElem d.val (dest u.st.vec k) w (out u.st.vec k).1) (out u.st.vec k).2

theorem setBody_runs (act : VecFile → Nat → Bool) (d : VReg) (w : Nat) (dest : VecFile → Nat → Nat) (out : VecFile → Nat → Nat × Cls)
    (u : State) : (setBody act d w dest out).Runs u (setStep d w dest out) := fun _ _ _ => rfl

/-- The destination element of an ordered reduction, and its value and classes, in the model (R154). -/
def segDest (m : MReg) (g : Bool) (v : VecFile) (k : Nat) : Nat := if g then v.segment m k else 0
/-- Value and classes. -/
def foldElem (d a : VReg) (m : MReg) (g : Bool) (q : Step) (v : VecFile) (k : Nat) : Nat × Cls :=
  q.op (if g && v.head m k then q.id else v.elem d.val (segDest m g v k) q.w) (v.elem a.val k q.w)
/-- Value and classes of a scan (R156). -/
def scanElem (d a : VReg) (m : MReg) (g : Bool) (q : Step) (v : VecFile) (k : Nat) : Nat × Cls :=
  q.op (scanAcc g m d q v k) (v.elem a.val k q.w)

section
variable {s : State} {i : Instr} {d a : VReg} {m xm : MReg} {g : Bool} {p q : Step} {k w : Nat} {v' : VecFile}

theorem LoopBody.mark_unmasked (b : LoopBody) (xact : BitVec 12) (v : VecFile) (k : Nat) : b.mark xact 0 v k = b.write v k := by
  simp [LoopBody.mark]

/-- The checks of a reduction are the statements' (R143, R157). -/
theorem redOk_eq : redOk (s.entry i) d a w m xm = legalOps s i d w [(a, w)] false m xm := by
  simp [redOk, legalOps, xmOk, Bool.and_assoc]

/-- The model's sum of two elements is the statements' (R83, R153). -/
theorem stepFsum_eq (f : FF) (r : RM) :
    stepFsum f r = { w := f.bits, op := fun x y => redFields.sumOf f r x y, id := f.fp.signBit } := by
  simp only [stepFsum, fAddE, finish, redFields.sumOf]

theorem half_lt (h : 0 < w) : 2 ^ (w - 1) < 2 ^ w := Nat.pow_lt_pow_right (by decide) (Nat.sub_one_lt h.ne')

/-- An ordered reduction is a loop over elements. -/
theorem vreduce_eq (hw : q.w = p.w) (u : State) : u.vreduce (s.entry i) d a m xm g q =
    u.ventry (s.entry i) (legalOps s i d p.w [(a, p.w)] false m xm) xm (redActive g m)
      (setStep d q.w (segDest m g) (foldElem d a m g q)) := by
  rw [← redOk_eq, ← hw]; rfl

/-- A scan is a loop over elements. -/
theorem vscanForm_eq (hw : q.w = p.w) (u : State) : u.vscanForm (s.entry i) d a m xm g q =
    u.ventry (s.entry i) (legalOps s i d p.w [(a, p.w)] false m xm) xm (redActive g m)
      (setStep d q.w (fun _ k => k) (scanElem d a m g q)) := by
  rw [← redOk_eq, ← hw]; rfl

/-- How the model runs an ordered reduction. -/
theorem issue_ordered (h : redFields i s = some (d, a, m, xm, g, p)) (hk : redKind i = .ordered) :
    isPlain i = true ∧ Width p.w ∧ ∃ q : Step, q.Agrees p ∧ ∀ u, issue i (s.entry i) u = u.vreduce (s.entry i) d a m xm g q := by
  unfold redFields at h
  split at h
  case h_1 d a w m x g =>
    cases h
    refine ⟨rfl, (IW.width w).1, stepSum w, .of_signed rfl rfl (IW.width w).1.1 (by positivity) fun x y hx hy => ?_, fun _ => rfl⟩
    simp only [stepSum, hx, hy, satW_eq_satTo]
  case h_2 d a w m g =>
    cases h
    refine ⟨rfl, (IW.width w).1, stepMax w, .of_signed rfl rfl (IW.width w).1.1 (half_lt (IW.width w).1.1) fun x y hx hy => ?_,
      fun _ => rfl⟩
    simp only [stepMax, hx, hy]
  case h_3 d a w m g =>
    cases h
    refine ⟨rfl, (IW.width w).1, stepMin w, .of_signed rfl rfl (IW.width w).1.1
      ((Nat.sub_le _ _).trans_lt (half_lt (IW.width w).1.1)) fun x y hx hy => ?_, fun _ => rfl⟩
    simp only [stepMin, hx, hy]
  case h_6 d a w m x g =>
    cases h
    exact ⟨rfl, FF.width w, _, stepFsum_eq w _ ▸ .refl _, fun _ => rfl⟩
  case h_9 => cases h
  all_goals cases hk

/-- How the model runs a scan. -/
theorem issue_scan (h : redFields i s = some (d, a, m, xm, g, p)) (hk : redKind i = .scan) :
    isPlain i = true ∧ Width p.w ∧ ∃ q : Step, q.Agrees p ∧ ∀ u, issue i (s.entry i) u = u.vscanForm (s.entry i) d a m xm g q := by
  unfold redFields at h
  split at h
  case h_4 d a w m x g =>
    cases h
    refine ⟨rfl, (IW.width w).1, stepSum w, .of_signed rfl rfl (IW.width w).1.1 (by positivity) fun x y hx hy => ?_, fun _ => rfl⟩
    simp only [stepSum, hx, hy, satW_eq_satTo]
  case h_7 d a w m x g =>
    cases h
    exact ⟨rfl, FF.width w, _, stepFsum_eq w _ ▸ .refl _, fun _ => rfl⟩
  case h_9 => cases h
  all_goals cases hk

end

/-! ### The elements that take part, in order -/

section
variable {s : State} {i : Instr} {d a : VReg} {m xm : MReg} {g : Bool} {p q : Step} {k : Nat} {v' : VecFile}

/-- Whether element k takes part. -/
def takesPart (s : State) (m : MReg) (g : Bool) (k : Nat) : Bool := decide (s.st.csr.vstart.toNat ≤ k) && (g || allows s m k)

theorem takesPart_iff (hk : k < s.st.vlNow) : takesPart s m g k = true ↔ TakesPart s m g k := by
  simp [takesPart, TakesPart, hk]

/-- Those below k. -/
theorem partBelow_eq (hk : k ≤ s.st.vlNow) : partBelow s m g k = (List.range k).filter (takesPart s m g) := by
  obtain ⟨n, hn⟩ := Nat.exists_eq_add_of_le hk
  have beyond : (((List.range n).map (k + ·)).filter fun j => decide (j < k) && takesPart s m g j) = [] := by
    simp [List.filter_eq_nil_iff]
  have below : ((List.range k).filter fun j => decide (j < k) && takesPart s m g j) = (List.range k).filter (takesPart s m g) :=
    List.filter_congr fun j hj => by simp [List.mem_range.mp hj]
  rw [partBelow, partList, List.filter_filter, hn, List.range_add, List.filter_append]
  exact (congrArg₂ (· ++ ·) below beyond).trans (List.append_nil _)

theorem partBelow_start (h : s.st.csr.vstart.toNat ≤ s.st.vlNow) : partBelow s m g s.st.csr.vstart.toNat = [] := by
  rw [partBelow_eq h, List.filter_eq_nil_iff]
  intro j hj
  simp [takesPart, Nat.not_le.mpr (List.mem_range.mp hj)]

/-- One more element takes part. -/
theorem partBelow_succ (hP : TakesPart s m g k) : partBelow s m g (k + 1) = partBelow s m g k ++ [k] := by
  have hk : k < s.st.vlNow := hP.2.1
  rw [partBelow_eq hk, partBelow_eq hk.le, List.range_succ, List.filter_append, List.filter_cons_of_pos ((takesPart_iff hk).mpr hP),
    List.filter_nil]

theorem partBelow_skip (hk : k < s.st.vlNow) (hP : ¬TakesPart s m g k) : partBelow s m g (k + 1) = partBelow s m g k := by
  rw [partBelow_eq hk, partBelow_eq hk.le, List.range_succ, List.filter_append,
    List.filter_cons_of_neg (mt (takesPart_iff hk).mp hP), List.filter_nil, List.append_nil]

/-! ### Ordered reductions -/

theorem orderedFold_append (l : List Nat) (k : Nat) (acc : Nat → Nat) :
    orderedFold s d a m g p (l ++ [k]) acc = orderedFold s d a m g p [k] (orderedFold s d a m g p l acc) := by
  induction l generalizing acc with
  | nil => rfl
  | cons x l ih => simp only [List.cons_append, orderedFold]; exact ih _

/-- The destination element of element k. -/
def foldDest (s : State) (m : MReg) (g : Bool) (k : Nat) : Nat := if g then segOf s m k else 0

theorem foldDest_le : foldDest s m g k ≤ k := by
  unfold foldDest segOf
  split
  · exact (List.countP_le_length).trans (by simp)
  · exact Nat.zero_le k

/-- The fold of the elements below k. -/
def foldBelow (s : State) (d a : VReg) (m : MReg) (g : Bool) (p : Step) (k : Nat) : Nat → Nat :=
  orderedFold s d a m g p (partBelow s m g k) fun j => el s d j p.w

/-- What element k is combined with, and what comes of it. -/
def foldOut (s : State) (d a : VReg) (m : MReg) (g : Bool) (p : Step) (k : Nat) : Nat × Cls :=
  p.op (if g && opens s m k then p.id else foldBelow s d a m g p k (foldDest s m g k)) (el s a k p.w)

theorem foldBelow_succ (hP : TakesPart s m g k) (j : Nat) : foldBelow s d a m g p (k + 1) j =
    if j = foldDest s m g k then (foldOut s d a m g p k).1 % 2 ^ p.w else foldBelow s d a m g p k j := by
  rw [foldBelow, partBelow_succ hP, orderedFold_append]
  rfl

/-- Element by element, a reduction stands as the statement says: before element k every element of the destination is that of the fold,
and no bit outside those written has changed. -/
structure FoldUpTo (s : State) (d a : VReg) (m : MReg) (g : Bool) (p : Step) (k : Nat) (v' : VecFile) : Prop where
  rest : v' = { s.st.vec with v := v'.v, wext := v'.wext }
  keeps : KeepsOutside d p.w (fun j => ∃ n, TakesPart s m g n ∧ n < k ∧ j = foldDest s m g n) s.st.vec v'
  holds : ∀ j, j < vlmax s.st.grant.vtype → v'.elem d.val j p.w = foldBelow s d a m g p k j

/-- A file with the masks of before opens and numbers the same segments. -/
theorem head_of_masks (h : v'.m = s.st.vec.m) : v'.head m k = opens s m k := by
  simp only [VecFile.head, VecFile.mbit, h, opens, allows]

theorem segment_of_masks (h : v'.m = s.st.vec.m) : v'.segment m k = segOf s m k := by
  simp only [VecFile.segment, VecFile.mbit, h, segOf, allows, List.countP_eq_length_filter]

theorem active_of_masks (h : v'.m = s.st.vec.m) (hlo : s.st.csr.vstart.toNat ≤ k) (hk : k < s.st.vlNow) :
    redActive g m v' k = true ↔ TakesPart s m g k := by
  simp only [redActive, VecFile.mbit, h, TakesPart, allows, hlo, hk, true_and, Bool.or_eq_true]

/-- THE ELEMENTS OF AN ORDERED REDUCTION: its loop folds as the statement does. -/
theorem foldElem_follows (hg : Granted s) (hvl : s.st.csr.vstart.toNat ≤ s.st.vlNow) (hw : Width p.w) (hq : q.Agrees p)
    (hl : legalOps s i d p.w [(a, p.w)] false m xm = true) :
    (setBody (redActive g m) d q.w (segDest m g) (foldElem d a m g q)).Follows s.st.csr.xact 0 s.st.vec s.st.csr.vstart.toNat
      s.st.vlNow (TakesPart s m g) (fun k => (foldOut s d a m g p k).2) (FoldUpTo s d a m g p) := by
  obtain ⟨hd, hsrc, -⟩ := legalOps_iff.mp hl
  obtain ⟨ha, overlap⟩ := hsrc (a, p.w) (List.mem_singleton_self _)
  have apart := (overlapOk_cases overlap).resolve_right fun h => absurd h.1 (by decide)
  have inside : ∀ k, k < s.st.vlNow → foldDest s m g k < vlmax s.st.grant.vtype := fun k hk =>
    (foldDest_le.trans_lt hk).trans_le hg
  have dest : ∀ k v', FoldUpTo s d a m g p k v' → segDest m g v' k = foldDest s m g k := fun k v' h => by
    rw [segDest, segment_of_masks (by rw [h.rest])]; rfl
  have out : ∀ k v', k < s.st.vlNow → FoldUpTo s d a m g p k v' → foldElem d a m g q v' k = foldOut s d a m g p k := by
    intro k v' hk h
    have source : v'.elem a.val k p.w = el s a k p.w := h.keeps.elem_apart ha hd apart
      (by rintro j ⟨n, hn, -, rfl⟩; exact inside n hn.2.1) (hk.trans_le hg)
    rw [foldElem, dest k v' h, hq.ident, hq.width, source, head_of_masks (by rw [h.rest]), h.holds _ (inside k hk)]
    refine hq.op _ _ ?_ (elem_lt _ _ _ _)
    by_cases ho : (g && opens s m k) = true
    · exact .inl (if_pos ho)
    · rw [if_neg ho, ← h.holds _ (inside k hk)]; exact .inr (elem_lt _ _ _ _)
  constructor
  case start =>
    refine ⟨rfl, .refl _, fun j _ => ?_⟩
    rw [foldBelow, partBelow_start hvl]; rfl
  case act => intro k v' hlo hk h; exact active_of_masks (by rw [h.rest]) hlo hk
  case raises => intro k v' _ hk _ h; exact congrArg Prod.snd (out k v' hk h)
  case step =>
    intro k v' _ hk hP h
    have written : (setBody (redActive g m) d q.w (segDest m g) (foldElem d a m g q)).mark s.st.csr.xact 0 v' k =
        v'.setElem d.val (foldDest s m g k) p.w (foldOut s d a m g p k).1 := by
      rw [LoopBody.mark_unmasked, ← dest k v' h, ← out k v' hk h, ← hq.width]; rfl
    have room := reg_lt_of_legal hd (inside k hk)
    rw [written]
    refine ⟨by rw [h.rest]; rfl, ?_, fun j hj => ?_⟩
    · exact h.keeps.setElem (fun j ⟨n, hn, hlt, e⟩ => ⟨n, hn, hlt.trans (Nat.lt_succ_self k), e⟩) ⟨k, hP, Nat.lt_succ_self k, rfl⟩ hw room _
    · rw [foldBelow_succ hP]
      split
      · next e => rw [e]; exact elem_setElem_self hw _
      · next e =>
        have one := KeepsOutside.setElem (P := (· = foldDest s m g k)) (.refl v') (fun _ h => h) rfl hw room (foldOut s d a m g p k).1
        rw [one.elem_same (reg_lt_of_legal hd hj) e, h.holds j hj]
  case skip =>
    intro k v' _ hk hP h
    refine ⟨h.rest, h.keeps.mono fun j ⟨n, hn, hlt, e⟩ => ⟨n, hn, hlt.trans (Nat.lt_succ_self k), e⟩, fun j hj => ?_⟩
    rw [h.holds j hj, foldBelow, foldBelow, partBelow_skip hk hP]

/-! ### Scans -/

/-- The running value behind the elements below k, as the model reads it back from the destination (R156). -/
def running (d : VReg) (m : MReg) (g : Bool) (w : Nat) (v : VecFile) (k : Nat) : Nat :=
  if g then v.elem d.val (k - 1) w
  else match (List.range k).reverse.find? fun j => v.mbit m j with
    | some j => v.elem d.val j w
    | none => v.elem d.val 0 w

theorem scanAcc_eq (v : VecFile) : scanAcc g m d p v k = if g && v.head m k then p.id else running d m g p.w v k := by
  unfold scanAcc running
  cases g
  · simp only [Bool.false_and, Bool.false_eq_true, if_false] <;> rfl
  · simp

/-- The running value of the statement before element k. -/
def scanBelow (s : State) (d a : VReg) (m : MReg) (g : Bool) (p : Step) (k : Nat) : Nat :=
  scanFold s a m g p (partBelow s m g k) (scanStart s d m g p.w)

/-- What element k is combined with, and what comes of it. -/
def scanOut (s : State) (d a : VReg) (m : MReg) (g : Bool) (p : Step) (k : Nat) : Nat × Cls :=
  p.op (if g && opens s m k then p.id else scanBelow s d a m g p k) (el s a k p.w)

theorem scanFold_append (l : List Nat) (x : Nat) (acc : Nat) :
    scanFold s a m g p (l ++ [x]) acc = scanFold s a m g p [x] (scanFold s a m g p l acc) := by
  induction l generalizing acc with
  | nil => rfl
  | cons y l ih => simp only [List.cons_append, scanFold]; exact ih _

theorem scanBelow_succ (hP : TakesPart s m g k) : scanBelow s d a m g p (k + 1) = (scanOut s d a m g p k).1 % 2 ^ p.w := by
  rw [scanBelow, partBelow_succ hP, scanFold_append]; rfl

/-- Where nothing has been written, the running value is the one that the scan finds in its destination. -/
theorem running_start : running d m g p.w s.st.vec s.st.csr.vstart.toNat = scanStart s d m g p.w := by
  unfold running scanStart
  cases g
  · simp only [Bool.false_eq_true, if_false]; rfl
  · rfl

/-- An element that takes part has just been written: it is the running value. -/
theorem running_succ (h : redActive g m v' k = true) (w : Nat) : running d m g w v' (k + 1) = v'.elem d.val k w := by
  unfold running
  cases g
  · have active : v'.mbit m k = true := h
    simp [List.range_succ, active]
  · simp

/-- An element that takes no part leaves the running value. -/
theorem running_skip (h : redActive g m v' k = false) (w : Nat) : running d m g w v' (k + 1) = running d m g w v' k := by
  simp only [redActive, Bool.or_eq_false_iff] at h
  obtain ⟨rfl, inactive⟩ := h
  simp [running, List.range_succ, inactive]

/-- Element by element, a scan stands as the statement says. -/
structure ScanUpTo (s : State) (d a : VReg) (m : MReg) (g : Bool) (p : Step) (k : Nat) (v' : VecFile) : Prop where
  elems : ElemsUpTo s d p.w (TakesPart s m g) (fun j => scanBelow s d a m g p (j + 1)) k v'
  masks : v'.m = s.st.vec.m
  value : running d m g p.w v' k = scanBelow s d a m g p k

theorem scanBelow_lt (hP : TakesPart s m g k) : scanBelow s d a m g p (k + 1) % 2 ^ p.w = (scanOut s d a m g p k).1 % 2 ^ p.w := by
  rw [scanBelow_succ hP, Nat.mod_mod]

theorem running_lt (w : Nat) : running d m g w v' k < 2 ^ w := by
  unfold running
  split
  · exact elem_lt _ _ _ _
  · split <;> exact elem_lt _ _ _ _

theorem setElem_mod (f : VecFile) (v k w x : Nat) : f.setElem v k w (x % 2 ^ w) = f.setElem v k w x := by
  simp only [VecFile.setElem, putField, Nat.mod_mod]

/-- THE ELEMENTS OF A SCAN: its loop goes on as the statement does. -/
theorem scanElem_follows (hg : Granted s) (hvl : s.st.csr.vstart.toNat ≤ s.st.vlNow) (hw : Width p.w) (hq : q.Agrees p)
    (hl : legalOps s i d p.w [(a, p.w)] false m xm = true) :
    (setBody (redActive g m) d q.w (fun _ k => k) (scanElem d a m g q)).Follows s.st.csr.xact 0 s.st.vec s.st.csr.vstart.toNat
      s.st.vlNow (TakesPart s m g) (fun k => (scanOut s d a m g p k).2) (ScanUpTo s d a m g p) := by
  obtain ⟨hd, -⟩ := legalOps_iff.mp hl
  have out : ∀ k v', k < s.st.vlNow → ScanUpTo s d a m g p k v' → scanElem d a m g q v' k = scanOut s d a m g p k := by
    intro k v' hk h
    have source : v'.elem a.val k p.w = el s a k p.w := (h.elems.keepsSources hg hl hk.le).source (a, p.w) (List.mem_singleton_self _) k
      (fun no => absurd no (by decide)) (hk.trans_le hg)
    rw [scanElem, scanAcc_eq, hq.ident, hq.width, source, head_of_masks h.masks, h.value]
    refine hq.op _ _ ?_ (elem_lt _ _ _ _)
    by_cases ho : (g && opens s m k) = true
    · exact .inl (if_pos ho)
    · rw [if_neg ho, ← h.value]; exact .inr (running_lt _)
  constructor
  case start =>
    refine ⟨.start fun j hj => hj.1, rfl, ?_⟩
    rw [running_start, scanBelow, partBelow_start hvl]; rfl
  case act => intro k v' hlo hk h; exact active_of_masks h.masks hlo hk
  case raises => intro k v' _ hk _ h; exact congrArg Prod.snd (out k v' hk h)
  case step =>
    intro k v' hlo hk hP h
    have written : (setBody (redActive g m) d q.w (fun _ k => k) (scanElem d a m g q)).mark s.st.csr.xact 0 v' k =
        v'.setElem d.val k p.w (scanBelow s d a m g p (k + 1)) := by
      rw [LoopBody.mark_unmasked, scanBelow_succ hP, setElem_mod, ← out k v' hk h, ← hq.width]; rfl
    rw [written]
    refine ⟨h.elems.write hP hw hd (hk.trans_le hg), h.masks, ?_⟩
    have active : redActive g m (v'.setElem d.val k p.w (scanBelow s d a m g p (k + 1))) k = true :=
      (active_of_masks h.masks hlo hk).mpr hP
    rw [running_succ active, elem_setElem_self hw, scanBelow_lt hP, ← scanBelow_succ hP]
  case skip =>
    intro k v' hlo hk hP h
    refine ⟨h.elems.skip hP, h.masks, ?_⟩
    rw [running_skip (Bool.eq_false_iff.mpr (mt (active_of_masks h.masks hlo hk).mp hP)), h.value, scanBelow, scanBelow,
      partBelow_skip hk hP]

/-! ### The stop -/

/-- A reduction or scan at the first element that a class stops (R35, R36, R154, R156). -/
theorem reduction_stops {scan : Bool} (h : Quiet s) (hg : Granted s) (hf : redFields i s = some (d, a, m, 0, g, p))
    (hk : redKind i = if scan then .scan else .ordered) (hl : legalOps s i d p.w [(a, p.w)] false m 0 = true)
    (hP : TakesPart s m g k) (hstop : Stops s (stepCls s scan d a m g p k))
    (hprev : ∀ j, j < k → TakesPart s m g j → ¬Acts s (stepCls s scan d a m g p j)) :
    ∃ t, exec i s = .next t ∧ StopsAt s t s.st.csr.vstart.toNat k (stepCls s scan d a m g p k)
      ((scan = false → ElemsAfter s t d p.w (fun j => ∃ q, TakesPart s m g q ∧ q < k ∧ j = if g then segOf s m q else 0)
          (orderedFold s d a m g p (partBelow s m g k) fun j => el s d j p.w)) ∧
        (scan = true → ElemsAfter s t d p.w (fun j => TakesPart s m g j ∧ j < k)
          fun j => scanFold s a m g p (partBelow s m g (j + 1)) (scanStart s d m g p.w)) ∧
        VecRest s t ∧ t.st.vec.m = s.st.vec.m ∧
        FlagsSet s t (fun j => TakesPart s m g j ∧ j < k) (stepCls s scan d a m g p)) := by
  obtain ⟨lower, upper, -⟩ := id hP
  have hvl := lower.trans upper.le
  have flags : ∀ {t : State} {C : Cls} {cls : Nat → Cls},
      Union (fun j => TakesPart s m g j ∧ s.st.csr.vstart.toNat ≤ j ∧ j < k) cls C →
      t.st.csr.xflags = s.st.csr.xflags ||| C → FlagsSet s t (fun j => TakesPart s m g j ∧ j < k) cls := fun union xflags =>
    flagsSet_of_union (union.congr fun j => ⟨fun ⟨hj, _, hlt⟩ => ⟨hj, hlt⟩, fun ⟨hj, hlt⟩ => ⟨hj, hj.1, hlt⟩⟩) xflags
  cases scan with
  | false =>
    obtain ⟨plain, width, q, agrees, issued⟩ := issue_ordered hf hk
    refine stops_of_follows h hg plain (by rw [issued, vreduce_eq agrees.width, hl]; rfl) (setBody_runs _ _ _ _ _ _)
      (foldElem_follows hg hvl width agrees hl) lower upper hP hstop (fun j _ hj => hprev j hj) ?_
    rintro t C fold union xflags
    refine ⟨fun _ => ⟨?_, fold.keeps⟩, fun no => absurd no (by decide), ?_, by rw [fold.rest], flags union xflags⟩
    · rintro j ⟨n, hn, -, rfl⟩
      have inside : foldDest s m g n < vlmax s.st.grant.vtype := (foldDest_le.trans_lt hn.2.1).trans_le hg
      have held := fold.holds _ inside
      exact held.trans (Nat.mod_eq_of_lt (held ▸ elem_lt _ _ _ _)).symm
    · show t.st.vec = _
      rw [fold.rest]
  | true =>
    obtain ⟨plain, width, q, agrees, issued⟩ := issue_scan hf hk
    refine stops_of_follows h hg plain (by rw [issued, vscanForm_eq agrees.width, hl]; rfl) (setBody_runs _ _ _ _ _ _)
      (scanElem_follows hg hvl width agrees hl) lower upper hP hstop (fun j _ hj => hprev j hj) ?_
    rintro t C scan union xflags
    exact ⟨fun no => absurd no (by decide), fun _ => scan.elems.elemsAfter, scan.elems.rest, scan.masks, flags union xflags⟩

end

end Sys2Proof.Machine
end

section
/-! PROOFS. The stop of a tree reduction (R152, R155, R157), segment by segment. -/

namespace Sys2Proof.Machine

open Sys2Proof.Safety

/-! ### Segments -/

/-- What the list of segments is: they follow one another, in the order of their numbers, below vl. -/
structure SegmentsOf (l : List (Nat × Nat × Nat)) (vl : Nat) : Prop where
  ordered : l.Pairwise fun x y => x.1 < y.1 ∧ x.2.2 ≤ y.2.1
  number : ∀ x ∈ l, x.1 < vl
  first : ∀ x ∈ l, x.2.1 ≤ x.2.2
  last : ∀ x ∈ l, x.2.2 ≤ vl

/-- The heads of an ascending list, each with the next one, are segments. -/
theorem segmentsOf_heads {hs : List Nat} {vl : Nat} (sorted : hs.Pairwise (· < ·)) (below : ∀ h ∈ hs, h < vl) :
    SegmentsOf ((List.range hs.length).map fun j => (j, hs.getD j 0, hs.getD (j + 1) vl)) vl := by
  have strict : ∀ i j, i < j → (hj : j < hs.length) → hs.getD i 0 < hs.getD j 0 := fun i j hij hj => by
    rw [List.getD_eq_getElem _ _ hj, List.getD_eq_getElem _ _ (hij.trans hj)]
    exact List.pairwise_iff_getElem.mp sorted i j _ _ hij
  have next : ∀ j, (j + 1 < hs.length ∧ hs.getD (j + 1) vl = hs.getD (j + 1) 0) ∨ (hs.length ≤ j + 1 ∧ hs.getD (j + 1) vl = vl) := by
    intro j
    by_cases hj : j + 1 < hs.length
    · exact .inl ⟨hj, by rw [List.getD_eq_getElem _ _ hj, List.getD_eq_getElem _ _ hj]⟩
    · exact .inr ⟨Nat.not_lt.mp hj, List.getD_eq_default _ _ (Nat.not_lt.mp hj)⟩
  have head : ∀ j, j < hs.length → hs.getD j 0 < vl := fun j hj => by
    rw [List.getD_eq_getElem _ _ hj]; exact below _ (List.getElem_mem hj)
  have room : ∀ j, j < hs.length → j ≤ hs.getD j 0 := by
    intro j
    induction j with
    | zero => exact fun _ => Nat.zero_le _
    | succ j ih => exact fun hj => (ih (by omega)).trans_lt (strict j (j + 1) (Nat.lt_succ_self j) hj)
  constructor
  · rw [List.pairwise_map]
    refine (List.pairwise_lt_range).imp_of_mem fun {i j} _ hj hij => ⟨hij, ?_⟩
    have hj' := List.mem_range.mp hj
    obtain ⟨_, e⟩ | ⟨hn, _⟩ := next i
    · rw [e]
      rcases Nat.lt_or_eq_of_le hij with hlt | rfl
      · exact (strict _ _ hlt hj').le
      · exact Nat.le_refl _
    · omega
  all_goals
    intro x hx
    obtain ⟨j, hj, rfl⟩ := List.mem_map.mp hx
    have hj' := List.mem_range.mp hj
  · exact (room j hj').trans_lt (head j hj')
  · obtain ⟨hn, e⟩ | ⟨_, e⟩ := next j
    · rw [e]; exact (strict j (j + 1) (Nat.lt_succ_self j) hn).le
    · rw [e]; exact (head j hj').le
  · obtain ⟨hn, e⟩ | ⟨_, e⟩ := next j
    · rw [e]; exact (head _ hn).le
    · rw [e]

theorem SegmentsOf.filter {l : List (Nat × Nat × Nat)} {vl : Nat} (h : SegmentsOf l vl) (c : Nat × Nat × Nat → Bool) :
    SegmentsOf (l.filter c) vl where
  ordered := h.ordered.filter c
  number x hx := h.number x (List.mem_of_mem_filter hx)
  first x hx := h.first x (List.mem_of_mem_filter hx)
  last x hx := h.last x (List.mem_of_mem_filter hx)

theorem SegmentsOf.left {l r : List (Nat × Nat × Nat)} {vl : Nat} (h : SegmentsOf (l ++ r) vl) : SegmentsOf l vl where
  ordered := (List.pairwise_append.mp h.ordered).1
  number x hx := h.number x (List.mem_append_left r hx)
  first x hx := h.first x (List.mem_append_left r hx)
  last x hx := h.last x (List.mem_append_left r hx)

/-- The segments of an entry (R152). -/
theorem segmentsOf_segments (v : VecFile) (m : MReg) (g : Bool) {vs vl : Nat} (h : vs < vl) : SegmentsOf (segments v m g vs vl) vl := by
  unfold segments
  cases g
  · exact ⟨List.pairwise_singleton _ _, by simp; omega, by simp, by simp⟩
  · simp only [Bool.not_true, Bool.false_eq_true, if_false]
    exact (segmentsOf_heads ((List.pairwise_lt_range).filter _) fun x hx =>
      List.mem_range.mp (List.mem_of_mem_filter hx)).filter _

/-! ### Trees -/

/-- A tree depends on its leaves alone. -/
theorem treeSum_congr {op : Nat → Nat → Nat × Cls} {f f' : Nat → Option Nat} {lo hi init : Nat} (h : ∀ j, j < hi → f j = f' j) :
    treeSum op f lo hi init = treeSum op f' lo hi init := by
  have leaves : ((List.range hi).map fun j => if lo ≤ j then f j else none) =
      (List.range hi).map fun j => if lo ≤ j then f' j else none :=
    List.map_congr_left fun j hj => by rw [h j (List.mem_range.mp hj)]
  unfold treeSum
  rw [leaves]

section
variable {s : State} {i : Instr} {d a : VReg} {m xm : MReg} {g : Bool} {p : Step}

/-- The tree of segment (j, b, _) below n, over the registers v, as the model forms it. -/
def treeIn (v : VecFile) (d a : VReg) (m : MReg) (g : Bool) (p : Step) (vs j b n : Nat) : Nat × Cls :=
  treeSum p.op (fun i => if redActive g m v i then some (v.elem a.val i p.w) else none) (Nat.max b vs) n
    (if g && Nat.max b vs == b then p.id else v.elem d.val j p.w)

/-- The segments done: each has its tree in its element, and no other bit has changed. -/
structure TreesUpTo (s : State) (d a : VReg) (m : MReg) (g : Bool) (p : Step) (l : List (Nat × Nat × Nat)) (v : VecFile) (c : Cls) :
    Prop where
  rest : v = { s.st.vec with v := v.v, wext := v.wext }
  keeps : KeepsOutside d p.w (fun j => ∃ x ∈ l, j = x.1) s.st.vec v
  holds : ∀ x ∈ l, v.elem d.val x.1 p.w = (treeTo s d a m g p x.1 x.2.1 x.2.2).1 % 2 ^ p.w
  flags : ∀ q, c.getLsbD q = true ↔ ∃ x ∈ l, (treeTo s d a m g p x.1 x.2.1 x.2.2).2.getLsbD q = true

theorem TreesUpTo.nil : TreesUpTo s d a m g p [] s.st.vec 0 :=
  ⟨rfl, .refl _, by simp, by simp⟩

/-- Another tree is as in the registers of before. -/
theorem TreesUpTo.treeIn_eq {l : List (Nat × Nat × Nat)} {v : VecFile} {c : Cls} (h : TreesUpTo s d a m g p l v c) (hg : Granted s)
    (hl : legalOps s i d p.w [(a, p.w)] false m xm = true) (hin : ∀ x ∈ l, x.1 < s.st.vlNow) {j b n : Nat} (hj : j < s.st.vlNow)
    (hn : n ≤ s.st.vlNow) (hnew : ∀ x ∈ l, j ≠ x.1) :
    treeIn v d a m g p s.st.csr.vstart.toNat j b n = treeTo s d a m g p j b n := by
  obtain ⟨hd, hsrc, -⟩ := legalOps_iff.mp hl
  obtain ⟨ha, overlap⟩ := hsrc (a, p.w) (List.mem_singleton_self _)
  have apart := (overlapOk_cases overlap).resolve_right fun h => absurd h.1 (by decide)
  have masks : v.m = s.st.vec.m := by rw [h.rest]
  have source : ∀ k, k < n → v.elem a.val k p.w = el s a k p.w := fun k hk =>
    h.keeps.elem_apart ha hd apart (by rintro q ⟨x, hx, rfl⟩; exact (hin x hx).trans_le hg) ((hk.trans_le hn).trans_le hg)
  have init : v.elem d.val j p.w = el s d j p.w :=
    h.keeps.elem_same (reg_lt_of_legal hd (hj.trans_le hg)) fun ⟨x, hx, e⟩ => hnew x hx e
  unfold treeIn treeTo
  rw [init]
  refine treeSum_congr fun k hk => ?_
  rw [source k hk]
  simp only [redActive, VecFile.mbit, masks, allows]
  rfl

/-- One more segment is done. -/
theorem TreesUpTo.write {l : List (Nat × Nat × Nat)} {v : VecFile} {c : Cls} (h : TreesUpTo s d a m g p l v c) (hg : Granted s)
    (hw : Width p.w) (hd : ((s.entry i).group d p.w).ok = true) (hin : ∀ x ∈ l, x.1 < s.st.vlNow) {y : Nat × Nat × Nat}
    (hj : y.1 < s.st.vlNow) (hnew : ∀ x ∈ l, y.1 ≠ x.1) :
    TreesUpTo s d a m g p (l ++ [y]) (v.setElem d.val y.1 p.w (treeTo s d a m g p y.1 y.2.1 y.2.2).1)
      (c ||| (treeTo s d a m g p y.1 y.2.1 y.2.2).2) := by
  have room := reg_lt_of_legal hd (hj.trans_le hg)
  refine ⟨by rw [h.rest]; rfl, h.keeps.setElem ?_ ⟨y, by simp, rfl⟩ hw room _, fun x hx => ?_, fun q => ?_⟩
  · rintro j ⟨x, hx, e⟩; exact ⟨x, by simp [hx], e⟩
  · rcases List.mem_append.mp hx with hx | hx
    · have one := KeepsOutside.setElem (P := (· = y.1)) (.refl v) (fun _ h => h) rfl hw room (treeTo s d a m g p y.1 y.2.1 y.2.2).1
      rw [one.elem_same (reg_lt_of_legal hd ((hin x hx).trans_le hg)) (hnew x hx).symm, h.holds x hx]
    · rw [List.mem_singleton.mp hx]; exact elem_setElem_self hw _
  · rw [BitVec.getLsbD_or, Bool.or_eq_true, h.flags q]
    simp [or_and_right, exists_or]

/-! ### The segments in the model -/

section
variable {u : State} {e : Entry} {vs vl j b n k : Nat} {r : List (Nat × Nat × Nat)} {v : VecFile} {c : Cls}

/-- The first element of a segment at which a class acts. -/
theorem find_in_segment {lo : Nat} {f : Nat → Bool} (hlo : lo ≤ k) (hk : k < n) (hf : f k = true)
    (first : ∀ i, lo ≤ i → i < k → f i = false) : ((List.range (n - lo)).map (· + lo)).find? f = some k := by
  have found : (List.range (n - lo)).find? (f ∘ (· + lo)) = some (k - lo) := by
    refine List.find?_range_eq_some.mpr ⟨?_, List.mem_range.mpr (by omega), fun i hi => ?_⟩
    · simp [Nat.sub_add_cancel hlo, hf]
    · simp [first (i + lo) (by omega) (by omega)]
  rw [List.find?_map, found, Option.map_some, Nat.sub_add_cancel hlo]

theorem find_not_in_segment {lo : Nat} {f : Nat → Bool} (no : ∀ i, lo ≤ i → i < n → f i = false) :
    ((List.range (n - lo)).map (· + lo)).find? f = none := by
  refine List.find?_eq_none.mpr fun i hi => ?_
  obtain ⟨q, hq, rfl⟩ := List.mem_map.mp hi
  have hq' := List.mem_range.mp hq
  simp [no (q + lo) (by omega) (by omega)]

/-- The machine with the tree of a segment written. -/
def treeWrite (w : State) (d a : VReg) (m : MReg) (g : Bool) (p : Step) (vs j b n : Nat) : State :=
  (w.raiseFlags (treeIn w.st.vec d a m g p vs j b n).2).modVec fun v => v.setElem d.val j p.w (treeIn w.st.vec d a m g p vs j b n).1

theorem treeWrite_loopAt (hs : u.st.sync = []) : treeWrite (u.loopAt v c) d a m g p vs j b n =
    u.loopAt (v.setElem d.val j p.w (treeIn v d a m g p vs j b n).1) (c ||| (treeIn v d a m g p vs j b n).2) := by
  rw [treeWrite, State.loopAt_raiseFlags hs]; rfl

/-- A segment of which no tree so far acts is written. -/
theorem treeSegments_passes {w : State}
    (hno : ∀ i, Nat.max b vs ≤ i → i < n → (treeIn w.st.vec d a m g p vs j b (i + 1)).2.acts e.xact = false) :
    treeSegments e d a m 0 g p vs vl ((j, b, n) :: r) w = treeSegments e d a m 0 g p vs vl r (treeWrite w d a m g p vs j b n) := by
  have notFound := find_not_in_segment hno
  simp only [treeIn] at notFound
  simp only [treeSegments, ne_eq, not_true_eq_false, if_false, notFound, ite_self]
  rfl

/-- The first element of whose tree so far a class acts ends the entry; the elements of its segment before it make a tree. -/
theorem treeSegments_stops {w : State} (hx : e.xact ≠ 0) (hlo : Nat.max b vs ≤ k) (hk : k < n)
    (hprev : ∀ i, Nat.max b vs ≤ i → i < k → (treeIn w.st.vec d a m g p vs j b (i + 1)).2.acts e.xact = false)
    (hact : (treeIn w.st.vec d a m g p vs j b (k + 1)).2.acts e.xact = true)
    (hstop : (treeIn w.st.vec d a m g p vs j b (k + 1)).2.trapCause e.xact ≠ none ∨
      (treeIn w.st.vec d a m g p vs j b (k + 1)).2.inMode e.xact 1 ≠ []) :
    treeSegments e d a m 0 g p vs vl ((j, b, n) :: r) w =
      stopOutcome (if k = Nat.max b vs then w else treeWrite w d a m g p vs j b k) e vs k
        (treeIn w.st.vec d a m g p vs j b (k + 1)).2 fun _ s => s := by
  have found := find_in_segment hlo hk hact hprev
  have stop := fun s1 : State => fpx_stops (s := s1) (s1 := s1) (e := e) hstop vs k fun _ s => s
  simp only [treeIn] at found stop
  simp only [treeSegments, ne_eq, not_true_eq_false, if_false, hx, found, stop]
  rfl

end

/-! ### The stop -/

/-- A class that stops an entry is in a mode other than flag. -/
theorem xact_ne_zero {c : Cls} (h : Stops s c) : s.st.csr.xact ≠ 0 := by
  rintro zero
  obtain ⟨j, -, -, hm⟩ := h
  simp [mode, zero] at hm

theorem acts_of_stops {c : Cls} (h : Stops s c) : c.acts s.st.csr.xact = true := by
  obtain ⟨j, h6, hc, hm⟩ := h
  exact (acts_iff s c).mpr ⟨j, h6, hc, by omega⟩

/-- The segments before one in which no tree so far acts are written. -/
theorem treeSegments_before {u : State} {e : Entry} (hg : Granted s) (hw : Width p.w)
    (hl : legalOps s i d p.w [(a, p.w)] false m xm = true) (hs : u.st.sync = []) (hx : e.xact = s.st.csr.xact)
    {vl : Nat} {r : List (Nat × Nat × Nat)} : ∀ {pre l : List (Nat × Nat × Nat)} {v : VecFile} {c : Cls},
    TreesUpTo s d a m g p l v c → SegmentsOf (l ++ pre) s.st.vlNow →
    (∀ x ∈ pre, ∀ q, Nat.max x.2.1 s.st.csr.vstart.toNat ≤ q → q < x.2.2 → ¬Acts s (treeTo s d a m g p x.1 x.2.1 (q + 1)).2) →
    ∃ v' c', TreesUpTo s d a m g p (l ++ pre) v' c' ∧
      treeSegments e d a m 0 g p s.st.csr.vstart.toNat vl (pre ++ r) (u.loopAt v c) =
        treeSegments e d a m 0 g p s.st.csr.vstart.toNat vl r (u.loopAt v' c')
  | [], l, v, c, h, _, _ => ⟨v, c, by rw [List.append_nil]; exact h, rfl⟩
  | (j, b, n) :: pre, l, v, c, h, hseg, hno => by
    obtain ⟨hd, -⟩ := legalOps_iff.mp hl
    have inside : ∀ x ∈ l, x.1 < s.st.vlNow := fun x hx => hseg.number x (by simp [hx])
    have mine : (j, b, n) ∈ l ++ (j, b, n) :: pre := by simp
    have number := hseg.number _ mine
    have new : ∀ x ∈ l, j ≠ x.1 := fun x hx => by
      have := (List.pairwise_append.mp hseg.ordered).2.2 x hx (j, b, n) List.mem_cons_self
      exact this.1.ne'
    have tree : ∀ k, k ≤ n → treeIn v d a m g p s.st.csr.vstart.toNat j b k = treeTo s d a m g p j b k := fun k hk =>
      h.treeIn_eq hg hl inside number (hk.trans (hseg.last _ mine)) new
    have written := h.write (y := (j, b, n)) hg hw hd inside number new
    obtain ⟨v', c', done, eq⟩ := treeSegments_before hg hw hl hs hx (r := r) (vl := vl) written
      (by rw [List.append_assoc]; exact hseg) fun x hx => hno x (List.mem_cons_of_mem _ hx)
    refine ⟨v', c', by rw [List.append_assoc] at done; exact done, ?_⟩
    rw [List.cons_append, treeSegments_passes, treeWrite_loopAt hs, tree n (Nat.le_refl n), eq]
    intro q hlo hq
    rw [State.loopAt_vec, tree (q + 1) hq, hx, Bool.eq_false_iff, ne_eq, acts_iff]
    exact hno _ List.mem_cons_self q hlo hq

/-- How the model runs a tree reduction. -/
theorem issue_tree (h : redFields i s = some (d, a, m, xm, g, p)) (hk : redKind i = .tree) :
    isPlain i = true ∧ Width p.w ∧ ∀ u, issue i (s.entry i) u = u.vtree (s.entry i) d a m xm g p := by
  unfold redFields at h
  split at h
  case h_5 d a w m x g => cases h; exact ⟨rfl, FF.width w, fun _ => by rw [← stepFsum_eq]; rfl⟩
  case h_8 d a w m x g => cases h; exact ⟨rfl, FF.width w, fun _ => rfl⟩
  case h_9 => cases h
  all_goals cases hk

/-- A tree reduction is its segments, one after another. -/
theorem vtree_committed (h : Quiet s) (hi : isPlain i = true) (hvl : s.st.csr.vstart.toNat < s.st.vlNow)
    (hl : legalOps s i d p.w [(a, p.w)] false m xm = true) : (s.committed i).vtree (s.entry i) d a m xm g p =
      treeSegments (s.entry i) d a m xm g p s.st.csr.vstart.toNat s.st.vlNow
        (segments s.st.vec m g s.st.csr.vstart.toNat s.st.vlNow) (s.committed i) := by
  obtain ⟨-, -, -, -, -, -, -, -, -, -, -, -, hgoal, -⟩ := id h
  have goal : (s.committed i).st.goal = 0 := by rw [committed_st_of_quiet h hi]; exact hgoal
  have ok : redOk (s.entry i) d a p.w m xm = true := redOk_eq.trans hl
  simp only [State.vtree, effLen_committed h hi, vstart_committed h hi, vec_committed h hi, Nat.not_le.mpr hvl, ok, goal, if_false,
    Bool.not_true, Bool.false_eq_true, ne_eq, not_true_eq_false]

/-- A tree reduction at the first element of whose tree so far a class acts (R35, R36, R155, R157). -/
theorem tree_stops {sg : List (Nat × Nat × Nat)} {j b n k : Nat} (h : Quiet s) (hg : Granted s)
    (hf : redFields i s = some (d, a, m, 0, g, p)) (hk : redKind i = .tree) (hl : legalOps s i d p.w [(a, p.w)] false m 0 = true)
    (hvl : s.st.csr.vstart.toNat < s.st.vlNow) (hsg : sg = segments s.st.vec m g s.st.csr.vstart.toNat s.st.vlNow)
    (hmem : (j, b, n) ∈ sg) (hlo : max b s.st.csr.vstart.toNat ≤ k) (hn : k < n)
    (hstop : Stops s (treeTo s d a m g p j b (k + 1)).2)
    (hprev : ∀ x ∈ sg, ∀ q, max x.2.1 s.st.csr.vstart.toNat ≤ q → q < x.2.2 → q < k →
      ¬Acts s (treeTo s d a m g p x.1 x.2.1 (q + 1)).2) :
    ∃ t, exec i s = .next t ∧
      StopsAt s t s.st.csr.vstart.toNat k (treeTo s d a m g p j b (k + 1)).2
        ((∀ x ∈ sg, x.2.2 ≤ k → el t d x.1 p.w = (treeTo s d a m g p x.1 x.2.1 x.2.2).1 % 2 ^ p.w) ∧
          (max b s.st.csr.vstart.toNat < k → el t d j p.w = (treeTo s d a m g p j b k).1 % 2 ^ p.w) ∧
          (∀ (r : Fin 32) (q : Nat), (∀ x ∈ sg, x.2.2 ≤ k → ¬InElem d p.w x.1 r q) →
            (max b s.st.csr.vstart.toNat < k → ¬InElem d p.w j r q) → t.st.vec.v[r].getLsbD q = s.st.vec.v[r].getLsbD q) ∧
          VecRest s t ∧ t.st.vec.m = s.st.vec.m ∧
          ∀ q, q < 6 → (t.st.csr.xflags.getLsbD q = true ↔ s.st.csr.xflags.getLsbD q = true ∨
            (∃ x ∈ sg, x.2.2 ≤ k ∧ (treeTo s d a m g p x.1 x.2.1 x.2.2).2.getLsbD q = true) ∨
            (max b s.st.csr.vstart.toNat < k ∧ (treeTo s d a m g p j b k).2.getLsbD q = true))) := by
  obtain ⟨plain, width, issued⟩ := issue_tree hf hk
  obtain ⟨hd, -⟩ := legalOps_iff.mp hl
  have segs : SegmentsOf sg s.st.vlNow := hsg ▸ segmentsOf_segments _ _ _ hvl
  obtain ⟨pre, post, split⟩ := List.append_of_mem hmem
  rw [split] at segs
  obtain ⟨ordPre, ordPost, across⟩ := List.pairwise_append.mp segs.ordered
  have before : ∀ x ∈ pre, x.2.2 ≤ b ∧ x.1 < j := fun x hx =>
    ⟨(across x hx _ List.mem_cons_self).2, (across x hx _ List.mem_cons_self).1⟩
  have within : ∀ x, x ∈ pre ↔ x ∈ sg ∧ x.2.2 ≤ k := by
    intro x
    rw [split]
    constructor
    · intro hx; exact ⟨by simp [hx], (before x hx).1.trans ((le_max_left _ _).trans hlo)⟩
    · rintro ⟨hx, hxk⟩
      rcases List.mem_append.mp hx with hx | hx
      · exact hx
      · exfalso
        rcases List.mem_cons.mp hx with rfl | hx
        · exact Nat.not_le.mpr hn hxk
        · have follows := (List.pairwise_cons.mp ordPost).1 x hx
          have first := segs.first x (by simp [hx])
          dsimp only at follows
          omega
  have number := segs.number (j, b, n) (by simp)
  have room := segs.last (j, b, n) (by simp)
  have inside : ∀ x ∈ pre, x.1 < s.st.vlNow := fun x hx => segs.number x (by simp [hx])
  have new : ∀ x ∈ pre, j ≠ x.1 := fun x hx => (before x hx).2.ne'
  obtain ⟨-, sync⟩ := committed_head h plain
  obtain ⟨v, c, done, eq⟩ := treeSegments_before (i := i) (u := s.committed i) (e := s.entry i) (vl := s.st.vlNow) (l := [])
    (r := (j, b, n) :: post) (pre := pre) hg width hl sync rfl .nil segs.left
    fun x hx q hq1 hq2 => hprev x ((within x).mp hx).1 q hq1 hq2 (hq2.trans_le ((within x).mp hx).2)
  rw [List.nil_append] at done
  have tree : ∀ q, q ≤ n → treeIn ((s.committed i).loopAt v c).st.vec d a m g p s.st.csr.vstart.toNat j b q =
      treeTo s d a m g p j b q := fun q hq => done.treeIn_eq hg hl inside number (hq.trans room) new
  have stop := treeSegments_stops (r := post) (vl := s.st.vlNow) (e := s.entry i) (w := (s.committed i).loopAt v c) (k := k)
    (xact_ne_zero hstop) hlo hn
    (fun q h1 h2 => by
      rw [tree _ (by omega), Bool.eq_false_iff, ne_eq, show (s.entry i).xact = s.st.csr.xact from rfl, acts_iff]
      exact hprev _ hmem q h1 (h2.trans hn) h2)
    (by rw [tree _ hn]; exact acts_of_stops hstop) (by rw [tree _ hn]; exact stops_cases hstop)
  obtain ⟨v', c', last, hlast, after, machine⟩ : ∃ v' c' last,
      (∀ x, x ∈ last ↔ x ∈ pre ∨ (max b s.st.csr.vstart.toNat < k ∧ x = (j, b, k))) ∧
      TreesUpTo s d a m g p last v' c' ∧ (if k = Nat.max b s.st.csr.vstart.toNat then (s.committed i).loopAt v c
        else treeWrite ((s.committed i).loopAt v c) d a m g p s.st.csr.vstart.toNat j b k) = (s.committed i).loopAt v' c' := by
    by_cases hkl : k = Nat.max b s.st.csr.vstart.toNat
    · have none : ¬max b s.st.csr.vstart.toNat < k := by rw [hkl]; exact Nat.lt_irrefl _
      exact ⟨v, c, pre, fun x => by simp [none], done, if_pos hkl⟩
    · have some : max b s.st.csr.vstart.toNat < k := Nat.lt_of_le_of_ne hlo (Ne.symm hkl)
      refine ⟨_, _, pre ++ [(j, b, k)], fun x => by simp [some],
        done.write (y := (j, b, k)) hg width hd inside number new, ?_⟩
      rw [if_neg hkl, treeWrite_loopAt sync]
      have same := tree k hn.le
      rw [State.loopAt_vec] at same
      rw [same]
  have outcome : issue i (s.entry i) (s.committed i) = stopOutcome ((s.committed i).loopAt v' c') (s.entry i) s.st.csr.vstart.toNat k
      (treeTo s d a m g p j b (k + 1)).2 fun _ s => s := by
    rw [issued, vtree_committed h plain hvl hl, ← hsg, split]
    rw [committed_loopAt h plain] at eq
    rw [eq, stop, machine, tree _ hn]
  refine stopsAt_of_outcome h hg plain (hn.trans_le room) hstop outcome ?_
  rintro t rfl xflags
  refine ⟨fun x hx hxk => after.holds x ((hlast x).mpr (.inl ((within x).mpr ⟨hx, hxk⟩))),
    fun hlt => after.holds (j, b, k) ((hlast _).mpr (.inr ⟨hlt, rfl⟩)),
    fun r q h1 h2 => after.keeps r q ?_, ?_, by rw [after.rest], fun q _ => ?_⟩
  · rintro _ ⟨x, hx, rfl⟩
    obtain hx | ⟨hlt, rfl⟩ := (hlast x).mp hx
    · exact h1 x ((within x).mp hx).1 ((within x).mp hx).2
    · exact h2 hlt
  · show t.st.vec = _
    rw [after.rest]
  · rw [xflags, BitVec.getLsbD_or, Bool.or_eq_true, after.flags q]
    simp only [hlast, within, or_and_right, exists_or, and_assoc, exists_and_left, exists_eq_left]

end

end Sys2Proof.Machine
end

section
/-! PROOFS. The obligation on trim mode and trap mode. -/

namespace Sys2Proof.Machine

open Sys2Proof.Safety

/-- Integer, floating and moving forms of which a class is raised run element by element. -/
theorem elementwise_of_form {s : State} {i : Instr} {f : ElemForm}
    (h : intForm i s = some f ∨ floatForm i s = some f ∨ moveForm i s = some f) :
    (∃ g, Elementwise i s f g ∧ (f.legal = true → Computes s i f g)) ∨ ∀ k, (f.val k).2 = 0 := by
  obtain h | h | h := h
  · exact .inl (elementwise_of_intForm h)
  · exact .inl (elementwise_of_floatForm h)
  · exact elementwise_of_moveForm h

/-- Settles O26: the first element that a class stops ends the entry, for element-wise forms, compares, reductions, scans and trees. -/
theorem shorteningAndTrapMode : Obligations.ShorteningAndTrapMode := by
  refine ⟨?_, ?_, ?_, ?_⟩
  · intro i s f k h hg hf hl hxm hk hstop hprev
    obtain ⟨g, hrun, hc⟩ | zero := elementwise_of_form hf
    · exact elementwise_stops h hg hrun (hc hl) hl hxm hk hstop hprev
    · exact absurd (zero k ▸ hstop) not_stops_zero
  · intro i s f k h hg hf hl hxm hk hstop hprev
    exact maskForm_stops h hg hf hl hxm hk hstop hprev
  · intro i s d a m g scan p k h hg hf hk hl hP hstop hprev
    exact reduction_stops h hg hf hk hl hP hstop hprev
  · intro i s d a m g p sg j b n k h hg hf hk hl hvl hsg hmem hlo hn hstop hprev
    exact tree_stops h hg hf hk hl hvl hsg hmem hlo hn hstop hprev

end Sys2Proof.Machine
end

section
/-! PROOFS. Generator draws (R141) and Hadamard stages (R140). -/

namespace Sys2Proof.Machine

open Sys2Proof.Safety

section
variable {s : State} {i : Instr}

/-! ### Draws -/

/-- A draw as an element-wise form that raises nothing. -/
def drawForm (s : State) (d : VReg) (u : Elem) (m : MReg) : ElemForm where
  d := d
  w := u.bits
  legal := legalOps s (.vrng d u m) d u.bits [] true m 0
  m := m
  xm := 0
  start := s.st.csr.vstart.toNat
  val k := (drawOf u (mix s.st.key (s.st.ctr + BitVec.ofNat 128 k)), 0)

theorem drawElem_eq (u : Elem) (z : Word) : drawElem u z = drawOf u z := by cases u <;> rfl

/-- The element of a draw in the model. -/
def drawStep (d : VReg) (u : Elem) (t : State) (k : Nat) : Elt :=
  .ok (t.modVec fun v => v.setElem d.val k u.bits (drawElem u (mix t.st.key (t.st.ctr + BitVec.ofNat 128 k)))) 0

theorem drawStep_runs {d : VReg} {u : Elem} {m : MReg} {t : State} (hk : t.st.key = s.st.key) (hc : t.st.ctr = s.st.ctr) :
    (elemBody (drawForm s d u m) fun _ => (drawForm s d u m).val).Runs t (drawStep d u) := fun v c k => by
  have key : (t.loopAt v c).st.key = s.st.key := hk
  have ctr : (t.loopAt v c).st.ctr = s.st.ctr := hc
  rw [drawStep, key, ctr, drawElem_eq]
  rfl

theorem union_zero {P : Nat → Prop} {C : Cls} (h : Union P (fun _ => 0) C) : C = 0 :=
  BitVec.eq_of_getLsbD_eq fun q _ => Bool.eq_iff_iff.mpr (by rw [h q]; simp)

/-- The counter moves on by the number of elements (R141). -/
def movesCtr (al : Nat) (t : State) : State := t.mod fun x => { x with ctr := x.ctr + BitVec.ofNat 128 al }

theorem issue_vrng {d : VReg} {u : Elem} {m : MReg} (hl : legalOps s (.vrng d u m) d u.bits [] true 0 0 = true) (t : State) :
    issue (.vrng d u m) (s.entry (.vrng d u m)) t =
      t.ventry (s.entry (.vrng d u m)) true 0 (fun v k => v.mbit m k) (drawStep d u) movesCtr := by
  have ok : ((s.entry (.vrng d u m)).group d u.bits).ok = true := (legalOps_iff.mp hl).1
  rw [← ok]; rfl

/-- VRNG (R141). -/
theorem vrng_draws {d : VReg} {u : Elem} {m : MReg} (h : Quiet s) (hg : Granted s)
    (hl : legalOps s (.vrng d u m) d u.bits [] true 0 0 = true) :
    ∃ t, exec (.vrng d u m) s = .next t ∧ EntryDone s { t with st := { t.st with ctr := s.st.ctr } } s.st.vlNow 0 ∧
      t.st.ctr = s.st.ctr + BitVec.ofNat 128 s.st.vlNow ∧ VecRest s t ∧ t.st.vec.m = s.st.vec.m ∧
      ElemsAfter s t d u.bits (Executes s s.st.csr.vstart.toNat m)
        (fun i => drawOf u (mix s.st.key (s.st.ctr + BitVec.ofNat 128 i))) := by
  have hi : isPlain (.vrng d u m) = true := rfl
  have key : (s.committed (.vrng d u m)).st.key = s.st.key := by rw [committed_st_of_quiet h hi]; rfl
  have ctr : (s.committed (.vrng d u m)).st.ctr = s.st.ctr := by rw [committed_st_of_quiet h hi]; rfl
  suffices outcome : ∃ V, issue (.vrng d u m) (s.entry (.vrng d u m)) (s.committed (.vrng d u m)) =
        .done (movesCtr s.st.vlNow (((s.committed (.vrng d u m)).loopAt V 0).complete1 s.st.vlNow)) none ∧
      V = { s.st.vec with v := V.v, wext := V.wext, m := V.m } ∧ V.m = s.st.vec.m ∧
      ElemsOn s d u.bits (Executes s s.st.csr.vstart.toNat m) (fun k => ((drawForm s d u m).val k).1) V by
    obtain ⟨V, done, rest, masks, elems⟩ := outcome
    obtain ⟨t, answer, rfl, counter, entry⟩ := exec_completes h hi (V := V) (C := 0) (al := s.st.vlNow)
      (K := (s.committed (.vrng d u m)).st.ctr + BitVec.ofNat 128 s.st.vlNow) done
    exact ⟨t, answer, entry, by rw [counter, ctr], rest, masks, elems.elemsAfter⟩
  by_cases hvl : s.st.csr.vstart.toNat < s.st.vlNow
  · have computes : Computes s (.vrng d u m) (drawForm s d u m) fun _ => (drawForm s d u m).val := by
      refine ⟨[], true, ?_, Elem.width u, fun _ _ _ _ _ => rfl⟩
      obtain ⟨ok, -⟩ := legalOps_iff.mp hl
      exact legalOps_iff.mpr ⟨ok, by simp, .inl rfl⟩
    obtain ⟨V, C, done, ⟨elems, masks⟩, union⟩ := completes_of_follows h hi (issue_vrng hl _) (drawStep_runs key ctr)
      (elementwise_follows hg rfl computes) hvl fun j _ _ _ => .inr fun ⟨_, _, no, _⟩ => by simp [drawForm] at no
    obtain rfl := union_zero union
    exact ⟨V, done, elems.rest, masks.masks_same, elems.elems.congr fun j => ⟨And.left, fun hj => ⟨hj, hj.2.1⟩⟩⟩
  · have vl := Nat.not_lt.mp hvl
    refine ⟨s.st.vec, ?_, rfl, rfl, .refl _, fun j hj => absurd (hj.1.trans_lt hj.2.1) hvl⟩
    rw [issue_vrng hl, ventry_retires (by rw [effLen_committed h hi, vstart_committed h hi]; exact vl), effLen_committed h hi,
      committed_loopAt h hi]

end

end Sys2Proof.Machine
end

section
/-! PROOFS. Hadamard stages (R140): into a vector group, or into vc. -/

namespace Sys2Proof.Machine

open Sys2Proof.Safety

/-! ### One element -/

/-- Element i of a stage in the model. -/
def hadElem (a : VReg) (k : Nat) (y h : Bool) (f : FF) (r : RM) (v : VecFile) (i : Nat) : Nat × Cls :=
  let rd := fun j => f.fp.val (if y then v.vcElem j f.bits else v.elem a.val j f.bits)
  let p := if i / 2 ^ k % 2 == 0 then (rd i).add r (rd (i ^^^ 2 ^ k)) else (rd (i ^^^ 2 ^ k)).add r (rd i).negate
  finish f.fp r (if h then p.1.overRoot2 else p.1, p.2)

/-- What a stage does behind its last element (R47). -/
def hadAfter (y : Bool) (vl vs al : Nat) (t : State) : State := if y && al = vl && decide (vs < vl) then t.modVec VecFile.clearVc else t

/-- Its element, with the destination. -/
def hadStep (d a : VReg) (k : Nat) (y z h : Bool) (f : FF) (r : RM) (t : State) (i : Nat) : Elt :=
  .ok (t.modVec fun v => if z then v.setVc i f (hadElem a k y h f r t.st.vec i).1
    else v.setElem d.val i f.bits (hadElem a k y h f r t.st.vec i).1) (hadElem a k y h f r t.st.vec i).2

/-- The partner of an element of whole groups of 2^(k+1) is an element (R140). -/
theorem partner_lt {n i k : Nat} (hn : n % 2 ^ (k + 1) = 0) (hi : i < n) : i ^^^ 2 ^ k < n := by
  obtain ⟨c, rfl⟩ := Nat.dvd_of_mod_eq_zero hn
  have pos : 0 < 2 ^ (k + 1) := by positivity
  have upper : 2 ^ k / 2 ^ (k + 1) = 0 := Nat.div_eq_of_lt (Nat.pow_lt_pow_right (by decide) (Nat.lt_succ_self k))
  have group : (i ^^^ 2 ^ k) / 2 ^ (k + 1) = i / 2 ^ (k + 1) := by
    rw [← Nat.shiftRight_eq_div_pow, Nat.shiftRight_xor_distrib, Nat.shiftRight_eq_div_pow, Nat.shiftRight_eq_div_pow, upper, Nat.xor_zero]
  exact (Nat.div_lt_iff_lt_mul pos).mp (group ▸ Nat.div_lt_of_lt_mul hi) |>.trans_eq (Nat.mul_comm _ _)

section
variable {s : State} {d a : VReg} {k : Fin 32} {y z h : Bool} {x : MReg} {f : FF}

/-- With its two sources as before, an element is the statement's. -/
theorem hadElem_eq {v : VecFile} {i : Nat}
    (hsrc : ∀ j, j = i ∨ j = i ^^^ 2 ^ k.val → (if y then v.vcElem j f.bits else v.elem a.val j f.bits) =
      if y then s.st.vec.vcElem j f.bits else el s a j f.bits) :
    hadElem a k.val y h f (s.entry (.vhad d a k y z h x f)).rm v i = hadOut s a k.val y h f i := by
  have same := hsrc i (.inl rfl)
  have partner := hsrc _ (.inr rfl)
  unfold hadElem hadOut
  simp only [same, partner]
  have low : (i / 2 ^ k.val % 2 == 0) = !i.testBit k.val := by
    rw [Nat.testBit_eq_decide_div_mod_eq]
    rcases Nat.mod_two_eq_zero_or_one (i / 2 ^ k.val) with e | e <;> simp [e]
  rw [low]
  cases i.testBit k.val <;> rfl

/-- A stage with legal operands is a loop over elements. -/
theorem issue_vhad (hq : Quiet s) (hvl : s.st.vlNow % 2 ^ (k.val + 1) = 0) (hyz : ¬(y = true ∧ z = true))
    (hd : if z then emul s.st.grant.vtype f.bits = 1 else ((s.entry (.vhad d a k y z h x f)).group d f.bits).ok = true)
    (ha : if y then emul s.st.grant.vtype f.bits = 1 ∧ s.st.vec.vcFmt = f
      else ((s.entry (.vhad d a k y z h x f)).group a f.bits).ok = true)
    (ho : y = false → z = false → ((s.entry (.vhad d a k y z h x f)).group a f.bits).overlapOk
      ((s.entry (.vhad d a k y z h x f)).group d f.bits) false = true) :
    issue (.vhad d a k y z h x f) (s.entry (.vhad d a k y z h x f)) (s.committed (.vhad d a k y z h x f)) =
      (s.committed (.vhad d a k y z h x f)).ventry (s.entry (.vhad d a k y z h x f)) true x (fun _ _ => true)
        (hadStep d a k.val y z h f (s.entry (.vhad d a k y z h x f)).rm) (hadAfter y s.st.vlNow s.st.csr.vstart.toNat) := by
  have hi : isPlain (.vhad d a k y z h x f) = true := rfl
  have checks : ((if z then emul s.st.grant.vtype f.bits == 1 else ((s.entry (.vhad d a k y z h x f)).group d f.bits).ok) &&
      (if y then emul s.st.grant.vtype f.bits == 1 && s.st.vec.vcFmt == f else ((s.entry (.vhad d a k y z h x f)).group a f.bits).ok) &&
      s.st.vlNow % 2 ^ (k.val + 1) == 0 && !(y && z) && (y || z || ((s.entry (.vhad d a k y z h x f)).group a f.bits).overlapOk
        ((s.entry (.vhad d a k y z h x f)).group d f.bits) false)) = true := by
    cases y <;> cases z <;> simp_all
  have eff := effLen_committed hq hi
  have vs := vstart_committed hq hi
  have vec := vec_committed hq hi
  rw [← eff, ← vec] at checks
  rw [← eff, ← vs]
  exact congrArg (fun c => (s.committed (.vhad d a k y z h x f)).ventry _ c x _ _ _) checks

/-! ### Into a vector group -/

/-- A stage into a vector group as an element-wise form. -/
def hadForm (s : State) (d a : VReg) (k : Nat) (y h : Bool) (x : MReg) (f : FF) : ElemForm where
  d := d
  w := f.bits
  legal := true
  m := 0
  xm := x
  start := s.st.csr.vstart.toNat
  val := hadOut s a k y h f

/-- It computes what the statement does. -/
theorem hadForm_computes (hvl : s.st.vlNow % 2 ^ (k.val + 1) = 0) (hg : Granted s)
    (hd : ((s.entry (.vhad d a k y false h x f)).group d f.bits).ok = true)
    (ha : y = false → ((s.entry (.vhad d a k y false h x f)).group a f.bits).ok = true)
    (ho : y = false → ((s.entry (.vhad d a k y false h x f)).group a f.bits).overlapOk
      ((s.entry (.vhad d a k y false h x f)).group d f.bits) false = true) :
    Computes s (.vhad d a k y false h x f) (hadForm s d a k.val y h x f)
      (hadElem a k.val y h f (s.entry (.vhad d a k y false h x f)).rm) := by
  refine ⟨if y then [] else [(a, f.bits)], false, legalOps_iff.mpr ⟨hd, ?_, eq_or_ne x 0⟩, FF.width f, fun i v' hi _ hsrc => ?_⟩
  · cases y
    · simpa using ⟨ha rfl, ho rfl⟩
    · simp
  · refine hadElem_eq fun j hj => ?_
    have hjv : j < vlmax s.st.grant.vtype := by
      obtain rfl | rfl := hj
      · exact hi.trans_le hg
      · exact (partner_lt hvl hi).trans_le hg
    cases y
    · exact hsrc.source (a, f.bits) (by simp) j (fun no => absurd no (by decide)) hjv
    · simp only [if_true, VecFile.vcElem]
      rw [hsrc.rest]

/-! ### Into vc -/

/-- The loop body of a stage into vc. -/
def vcBody (a : VReg) (k : Nat) (y h : Bool) (f : FF) (r : RM) : LoopBody where
  act _ _ := true
  write v i := v.setVc i f (hadElem a k y h f r v i).1
  cls v i := (hadElem a k y h f r v i).2

/-- Before element n, vc holds the elements from lo on below it, and no other bit of it has changed. -/
structure VcUpTo (s : State) (f : FF) (lo : Nat) (val : Nat → Nat) (n : Nat) (v' : VecFile) : Prop where
  rest : v' = { s.st.vec with vc := v'.vc, vcDirty := v'.vcDirty, vcFmt := v'.vcFmt, m := v'.m }
  format : lo < n → v'.vcDirty = true ∧ v'.vcFmt = f
  holds : ∀ j, lo ≤ j → j < n → getField v'.vc (j * f.bits) f.bits = val j % 2 ^ f.bits
  keeps : ∀ p, (∀ j, lo ≤ j → j < n → ¬(j * f.bits ≤ p ∧ p < (j + 1) * f.bits)) → v'.vc.getLsbD p = s.st.vec.vc.getLsbD p

theorem VcUpTo.setMbit {lo n : Nat} {val : Nat → Nat} {v' : VecFile} (hv : VcUpTo s f lo val n v') (m : MReg) (q : Nat) (c : Bool) :
    VcUpTo s f lo val n (v'.setMbit m q c) :=
  ⟨by rw [hv.rest]; rfl, hv.format, hv.holds, hv.keeps⟩

/-- One more element of vc. -/
theorem VcUpTo.setVc {lo n : Nat} {val : Nat → Nat} {v' : VecFile} (hv : VcUpTo s f lo val n v') (hlo : lo ≤ n)
    (hn : n * f.bits + f.bits ≤ 8192) :
    VcUpTo s f lo val (n + 1) (v'.setVc n f (val n)) := by
  refine ⟨by rw [hv.rest]; rfl, fun _ => ⟨rfl, rfl⟩, fun j hj1 hj2 => ?_, fun p hp => ?_⟩
  · rcases Nat.lt_succ_iff_lt_or_eq.mp hj2 with hlt | rfl
    · have apart : j * f.bits + f.bits ≤ n * f.bits := by rw [← Nat.succ_mul]; exact Nat.mul_le_mul_right _ hlt
      exact (getField_putField_apart _ _ _ _ _ _ hn (.inl apart)).trans (hv.holds j hj1 hlt)
    · exact getField_putField _ _ _ _ hn
  · have here : ¬(n * f.bits ≤ p ∧ p < n * f.bits + f.bits) := by rw [← Nat.succ_mul]; exact hp n hlo (Nat.lt_succ_self n)
    exact (testBit_putField _ _ _ _ _ hn).trans ((if_neg here).trans (hv.keeps p fun j h1 h2 => hp j h1 (Nat.lt_succ_of_lt h2)))

/-- THE ELEMENTS OF A STAGE INTO vc: its loop does what the statement says, element by element. -/
theorem vcBody_follows (hg : Granted s) (hd : emul s.st.grant.vtype f.bits = 1) :
    (vcBody a k.val false h f (s.entry (.vhad d a k false true h x f)).rm).Follows s.st.csr.xact x s.st.vec s.st.csr.vstart.toNat s.st.vlNow
      (Executes s s.st.csr.vstart.toNat 0) (fun i => (hadOut s a k.val false h f i).2) fun n v' =>
        VcUpTo s f s.st.csr.vstart.toNat (fun i => (hadOut s a k.val false h f i).1) n v' ∧
        MasksUpTo s x (Executes s s.st.csr.vstart.toNat 0) (fun i => (hadOut s a k.val false h f i).2) n v' := by
  have value : ∀ n v', n < s.st.vlNow → VcUpTo s f s.st.csr.vstart.toNat (fun i => (hadOut s a k.val false h f i).1) n v' →
      hadElem a k.val false h f (s.entry (.vhad d a k false true h x f)).rm v' n = hadOut s a k.val false h f n :=
    fun n v' _ hv => hadElem_eq fun j _ => by simp only [Bool.false_eq_true, if_false, el]; rw [hv.rest]; rfl
  constructor
  case start => exact ⟨⟨rfl, fun no => absurd no (Nat.lt_irrefl _), fun j h1 h2 => by omega, fun _ _ => rfl⟩, .start fun j hj => hj.1⟩
  case act => intro n v' hlo hn _; exact ⟨fun _ => ⟨hlo, hn, rfl⟩, fun _ => rfl⟩
  case raises => rintro n v' - hn - ⟨hv, -⟩; exact congrArg Prod.snd (value n v' hn hv)
  case step =>
    rintro n v' hlo hn hP ⟨hv, masks⟩
    have val := value n v' hn hv
    have covers := vlmax_le_group (vt := s.st.grant.vtype) (w := f.bits) (by omega)
    rw [hd, Nat.one_mul] at covers
    have room : n * f.bits + f.bits ≤ 8192 := by
      rw [← Nat.succ_mul]
      exact (Nat.mul_le_mul_right _ ((hn.trans_le hg).trans_le covers)).trans (perReg_mul_le _)
    refine ⟨?_, masks.mark hP (hn.trans_le (hg.trans (vlmax_le _))) (congrArg Prod.snd val) rfl⟩
    have written := hv.setVc hlo room
    rw [← congrArg Prod.fst val] at written
    unfold LoopBody.mark
    split
    · exact written.setMbit _ _ _
    · exact written
  case skip => intro n v' hlo hn hP _; exact absurd ⟨hlo, hn, rfl⟩ hP

/-! ### The stage -/

theorem hadAfter_end (hvl : s.st.csr.vstart.toNat < s.st.vlNow) (u : State) (V : VecFile) (C : Cls) :
    hadAfter y s.st.vlNow s.st.csr.vstart.toNat s.st.vlNow ((u.loopAt V C).complete1 s.st.vlNow) =
      (u.loopAt (if y then V.clearVc else V) C).complete1 s.st.vlNow := by
  cases y
  · rfl
  · simp only [hadAfter, hvl, Bool.true_and, decide_true, if_true]; rfl

theorem unionOf_of_union {P : Nat → Prop} {cls : Nat → Cls} {C : Cls} (hC : Union P cls C) : UnionOf P cls C := fun q _ => hC q

theorem executes_union (m : MReg) {lo : Nat} {cls : Nat → Cls} {C : Cls}
    (hC : Union (fun j => Executes s lo m j ∧ lo ≤ j ∧ j < s.st.vlNow) cls C) : UnionOf (Executes s lo m) cls C :=
  unionOf_of_union (hC.congr fun _ => ⟨And.left, fun hj => ⟨hj, hj.1, hj.2.1⟩⟩)

/-- VHAD (R140). -/
theorem vhad_stage (hq : Quiet s) (hg : Granted s) (hlo : s.st.csr.vstart.toNat < s.st.vlNow) (hvl : s.st.vlNow % 2 ^ (k.val + 1) = 0)
    (hyz : ¬(y = true ∧ z = true))
    (hd : if z then emul s.st.grant.vtype f.bits = 1 else ((s.entry (.vhad d a k y z h x f)).group d f.bits).ok = true)
    (ha : if y then emul s.st.grant.vtype f.bits = 1 ∧ s.st.vec.vcFmt = f
      else ((s.entry (.vhad d a k y z h x f)).group a f.bits).ok = true)
    (ho : y = false → z = false → ((s.entry (.vhad d a k y z h x f)).group a f.bits).overlapOk
      ((s.entry (.vhad d a k y z h x f)).group d f.bits) false = true)
    (hpass : x = 0 → ∀ i, Executes s s.st.csr.vstart.toNat 0 i → ¬Acts s (hadOut s a k.val y h f i).2) :
    ∃ t c, exec (.vhad d a k y z h x f) s = .next t ∧ EntryDone s t s.st.vlNow c ∧
      UnionOf (Executes s s.st.csr.vstart.toNat 0) (fun i => (hadOut s a k.val y h f i).2) c ∧
      MasksAfter s t x (Executes s s.st.csr.vstart.toNat 0) (fun i => (hadOut s a k.val y h f i).2) ∧
      t.st.vec.q = s.st.vec.q ∧
      (z = false → ElemsAfter s t d f.bits (Executes s s.st.csr.vstart.toNat 0) (fun i => (hadOut s a k.val y h f i).1) ∧
        t.st.vec.vcFmt = s.st.vec.vcFmt ∧ t.st.vec.vcDirty = (s.st.vec.vcDirty && !y) ∧ (y = false → t.st.vec.vc = s.st.vec.vc)) ∧
      (z = true → t.st.vec.v = s.st.vec.v ∧ t.st.vec.wext = s.st.vec.wext ∧ t.st.vec.vcDirty = true ∧ t.st.vec.vcFmt = f ∧
        (∀ i, Executes s s.st.csr.vstart.toNat 0 i →
          t.st.vec.vc.toNat / 2 ^ (i * f.bits) % 2 ^ f.bits = (hadOut s a k.val y h f i).1 % 2 ^ f.bits) ∧
        (∀ p, (∀ i, Executes s s.st.csr.vstart.toNat 0 i → ¬(i * f.bits ≤ p ∧ p < (i + 1) * f.bits)) →
          t.st.vec.vc.getLsbD p = s.st.vec.vc.getLsbD p)) := by
  have hi : isPlain (.vhad d a k y z h x f) = true := rfl
  have issued := issue_vhad hq hvl hyz hd ha ho
  have passes : ∀ j, s.st.csr.vstart.toNat ≤ j → j < s.st.vlNow → Executes s s.st.csr.vstart.toNat 0 j →
      x ≠ 0 ∨ ¬Acts s (hadOut s a k.val y h f j).2 := fun j _ _ hj => (eq_or_ne x 0).symm.imp id fun h0 => hpass h0 j hj
  have all : ∀ j, Executes s s.st.csr.vstart.toNat 0 j ∧ j < s.st.vlNow ↔ Executes s s.st.csr.vstart.toNat 0 j := fun _ =>
    ⟨And.left, fun hj => ⟨hj, hj.2.1⟩⟩
  cases z with
  | false =>
    have computes := hadForm_computes (x := x) (y := y) (h := h) hvl hg hd (fun hy => by simpa [hy] using ha) fun hy => ho hy rfl
    obtain ⟨V, C, done, ⟨elems, masks⟩, union⟩ := completes_of_follows hq hi issued (fun _ _ _ => rfl)
      (elementwise_follows hg rfl computes) hlo passes
    rw [hadAfter_end hlo] at done
    obtain ⟨t, answer, vec, entry⟩ := exec_completes_plain hq hi done
    have cleared : t.st.vec = { V with vcDirty := V.vcDirty && !y, vc := if y then 0 else V.vc } := by
      rw [vec]
      cases y
      · simp
      · simp [VecFile.clearVc]
    have onElems : ElemsOn s d f.bits (Executes s s.st.csr.vstart.toNat 0) (fun i => (hadOut s a k.val y h f i).1) t.st.vec := by
      rw [cleared]; exact ⟨(elems.elems.congr all).keeps, (elems.elems.congr all).holds⟩
    have onMasks : MasksOn s x (Executes s s.st.csr.vstart.toNat 0) (fun i => (hadOut s a k.val y h f i).2) t.st.vec := by
      rw [cleared]; exact masks.congr all
    refine ⟨t, C, answer, entry, executes_union 0 union, onMasks.masksAfter, by rw [cleared, elems.rest], fun _ => ⟨onElems.elemsAfter,
      by rw [cleared, elems.rest], by rw [cleared, elems.rest],
       fun hy => by rw [cleared, elems.rest, hy]; rfl⟩, fun no => absurd no (by decide)⟩
  | true =>
    obtain rfl : y = false := by simpa using hyz
    obtain ⟨V, C, done, ⟨held, masks⟩, union⟩ := completes_of_follows hq hi issued (fun _ _ _ => rfl)
      (vcBody_follows (d := d) hg hd) hlo passes
    rw [hadAfter_end hlo] at done
    obtain ⟨t, answer, rfl, entry⟩ := exec_completes_plain hq hi done
    obtain ⟨dirty, format⟩ := held.format hlo
    refine ⟨t, C, answer, entry, executes_union 0 union, (masks.congr all).masksAfter, by rw [held.rest], fun no => absurd no (by decide),
      fun _ => ⟨by rw [held.rest], by rw [held.rest], dirty, format, fun j hj => held.holds j hj.1 hj.2.1, fun p hp =>
        held.keeps p fun j h1 h2 => hp j ⟨h1, h2, rfl⟩⟩⟩

end

end Sys2Proof.Machine
end

section
/-! PROOFS. Block quantisation (R137, R138), block by block. -/

namespace Sys2Proof.Machine

open Sys2Proof.Safety

/-! ### Scale bytes -/

/-- The scale registers of an entry's blocks (R137). -/
theorem scale_room {vt : BitVec 5} {q : QReg} {j : Nat} (h : qOk vt q = true) (hj : 32 * j < vlmax vt) : q.val + j / 64 < 8 := by
  simp only [qOk, Bool.and_eq_true, decide_eq_true_eq] at h
  obtain ⟨-, room⟩ := h
  unfold qgroup at room
  dsimp only at room
  split at room
  · omega
  · split at room
    · omega
    · split at room
      · omega
      · split at room <;> omega

section
variable {q : QReg} {j i : Nat} {f : VecFile}

theorem scale_setScale_self (x : Nat) (hx : x < 256) : (f.setScale q j x).scale q j = x := by
  unfold VecFile.scale VecFile.setScale
  have h : (Fin.ofNat 8 ((q.val + j / 64) % 8)).val = (q.val + j / 64) % 8 := by simp
  simp only [Vector.getElem_set, h, if_true]
  exact (getField_putField _ _ _ _ (by omega)).trans (Nat.mod_eq_of_lt hx)

/-- A scale byte leaves the bits outside it. -/
theorem setScale_bit (hj : q.val + j / 64 < 8) (x : Nat) {r : Fin 8} {p : Nat} (h : ¬(r.val = q.val + j / 64 ∧ p / 8 = j % 64)) :
    (f.setScale q j x).q[r].getLsbD p = f.q[r].getLsbD p := by
  unfold VecFile.setScale
  have hn : (Fin.ofNat 8 ((q.val + j / 64) % 8)).val = q.val + j / 64 := by simp [Nat.mod_eq_of_lt hj]
  simp only [Fin.getElem_fin, Vector.getElem_set, hn]
  split
  · next hr =>
    rw [testBit_putField _ _ _ _ _ (by omega), if_neg]
    · simp only [hr, Nat.mod_eq_of_lt r.isLt]
    · rintro ⟨h1, h2⟩; exact h ⟨hr.symm, by omega⟩
  · rfl

/-- A scale byte is as its bits are. -/
theorem scale_congr {g : VecFile} (hj : q.val + j / 64 < 8)
    (h : ∀ (r : Fin 8) p, r.val = q.val + j / 64 → p / 8 = j % 64 → f.q[r].getLsbD p = g.q[r].getLsbD p) : f.scale q j = g.scale q j := by
  unfold VecFile.scale
  apply Nat.eq_of_testBit_eq
  intro p
  rw [testBit_getField, testBit_getField]
  by_cases hp : p < 8
  · have bit := h ⟨q.val + j / 64, hj⟩ (j % 64 * 8 + p) rfl (by omega)
    simp only [Fin.getElem_fin] at bit
    simp only [Nat.mod_eq_of_lt hj, bit]
  · simp [hp]

theorem scale_setScale_ne (hi : q.val + i / 64 < 8) (hj : q.val + j / 64 < 8) (hij : i ≠ j) (x : Nat) :
    (f.setScale q j x).scale q i = f.scale q i :=
  scale_congr hi fun r p hr hp => setScale_bit hj x fun ⟨hr', hp'⟩ => hij (by omega)

/-- A scale is a byte (R87). -/
theorem blockScale_lt (t : Elem) (vs : List Val) : blockScale t vs < 256 := by
  unfold blockScale
  split
  · decide
  · split
    · decide
    · omega

end

/-! ### Lists of elements -/

section
variable {s : State} {i : Instr} {d : VReg} {w : Nat} {x : MReg} {Q : Nat → Prop} {out : Nat → Nat × Cls} {v : VecFile} {c : Cls}

/-- Registers after a list of elements has been written. -/
def writeAll (d : VReg) (w : Nat) (out : Nat → Nat × Cls) (l : List Nat) (v : VecFile) : VecFile :=
  l.foldl (fun f i => f.setElem d.val i w (out i).1) v

/-- Masks after their bits of `.xmN` have been written. -/
def markAll (x : MReg) (xact : BitVec 12) (out : Nat → Nat × Cls) (l : List Nat) (v : VecFile) : VecFile :=
  l.foldl (fun f i => f.setMbit x i ((out i).2.acts xact)) v

/-- Flags after their classes have been set. -/
def raiseAll (out : Nat → Nat × Cls) (l : List Nat) (c : Cls) : Cls := l.foldl (fun c i => c ||| (out i).2) c

theorem writeAll_rest (l : List Nat) (v : VecFile) :
    writeAll d w out l v = { v with v := (writeAll d w out l v).v, wext := (writeAll d w out l v).wext } := by
  induction l generalizing v with
  | nil => rfl
  | cons i l ih => exact ih (v.setElem d.val i w (out i).1)

theorem markAll_rest (xact : BitVec 12) (l : List Nat) (v : VecFile) :
    markAll x xact out l v = { v with m := (markAll x xact out l v).m } := by
  induction l generalizing v with
  | nil => rfl
  | cons i l ih => exact ih (v.setMbit x i ((out i).2.acts xact))

theorem getLsbD_raiseAll (l : List Nat) (c : Cls) (q : Nat) :
    (raiseAll out l c).getLsbD q = true ↔ c.getLsbD q = true ∨ ∃ i ∈ l, (out i).2.getLsbD q = true := by
  induction l generalizing c with
  | nil => simp [raiseAll]
  | cons i l ih =>
    refine (ih (c ||| (out i).2)).trans ?_
    simp [or_assoc]

theorem ElemsOn.writeAll {l : List Nat} (hQ : ∀ j, Q j → j < vlmax s.st.grant.vtype) (hw : Width w)
    (hd : ((s.entry i).group d w).ok = true) (h : ElemsOn s d w Q (fun k => (out k).1) v) (hl : ∀ k ∈ l, k < vlmax s.st.grant.vtype) :
    ElemsOn s d w (fun j => Q j ∨ j ∈ l) (fun k => (out k).1) (writeAll d w out l v) := by
  induction l generalizing Q v with
  | nil => exact h.congr fun j => by simp
  | cons k l ih =>
    have hk := hl k List.mem_cons_self
    refine (ih (Q := fun j => Q j ∨ j = k) ?_ (h.write hQ hw hd hk) fun n hn => hl n (List.mem_cons_of_mem _ hn)).congr fun j => ?_
    · rintro j (hj | rfl)
      · exact hQ j hj
      · exact hk
    · simp [or_assoc]

theorem MasksOn.markAll {l : List Nat} (hx : x ≠ 0) (h : MasksOn s x Q (fun k => (out k).2) v) (hl : ∀ k ∈ l, k < 16384) :
    MasksOn s x (fun j => Q j ∨ j ∈ l) (fun k => (out k).2) (markAll x s.st.csr.xact out l v) := by
  induction l generalizing Q v with
  | nil => exact h.congr fun j => by simp
  | cons k l ih =>
    refine (ih (Q := fun j => Q j ∨ j = k) (h.setMbit hx (hl k List.mem_cons_self)) fun n hn => hl n (List.mem_cons_of_mem _ hn)).congr
      fun j => ?_
    simp [or_assoc]

/-- Flags and mask bits of a list of elements, in the machine. -/
theorem marks_loopAt {u : State} (hs : u.st.sync = []) (xact : BitVec 12) (l : List Nat) (v : VecFile) (c : Cls) :
    l.foldl (fun (s : State) i => (s.raiseFlags (out i).2).modVec fun f => f.setMbit x i ((out i).2.acts xact)) (u.loopAt v c) =
      u.loopAt (markAll x xact out l v) (raiseAll out l c) := by
  induction l generalizing v c with
  | nil => rfl
  | cons i l ih =>
    rw [List.foldl_cons, State.loopAt_raiseFlags hs, State.loopAt_modVec]
    exact ih _ _

end

/-! ### Blocks in the model -/

/-- The elements of block j below vl. -/
def blockMembers (vl j : Nat) : List Nat := (List.range (Nat.min 32 (vl - 32 * j))).map (· + 32 * j)

/-- Those from vs on. -/
def blockActive (vs vl j : Nat) : List Nat := (blockMembers vl j).filter fun i => vs ≤ i

theorem mem_blockActive {vs vl j i : Nat} : i ∈ blockActive vs vl j ↔ vs ≤ i ∧ i < vl ∧ i / 32 = j := by
  simp only [blockActive, blockMembers, List.mem_filter, List.mem_map, List.mem_range, decide_eq_true_eq]
  constructor
  · rintro ⟨⟨r, hr, rfl⟩, hvs⟩
    have h1 : r < 32 := hr.trans_le (Nat.min_le_left _ _)
    have h2 : r < vl - 32 * j := hr.trans_le (Nat.min_le_right _ _)
    omega
  · rintro ⟨hvs, hvl, rfl⟩
    exact ⟨⟨i - 32 * (i / 32), lt_min (by omega) (by omega), by omega⟩, hvs⟩

section
variable {e : Entry} {d : VReg} {t : Elem} {q : QReg} {x : MReg} {rd : VecFile → Nat → Val} {vs vl n j X : Nat}
  {after : Nat → State → State} {w : State} {out : Nat → Nat × Cls}

/-- The machine with a block's elements and its scale byte. -/
def blockWrite (w : State) (d : VReg) (t : Elem) (q : QReg) (out : Nat → Nat × Cls) (vs vl j X : Nat) : State :=
  w.modVec fun f => (writeAll d t.bits out (blockActive vs vl j) f).setScale q j X

theorem block_elements (hout : ∀ i ∈ blockActive vs vl j, quantElem t e.rm X (rd w.st.vec i) = out i) :
    (((blockMembers vl j).filter fun i => vs ≤ i).map fun i => (i, quantElem t e.rm X (rd w.st.vec i))) =
      (blockActive vs vl j).map fun i => (i, out i) :=
  List.map_congr_left fun i hi => by rw [hout i hi]

/-- With `.xmN` every block completes. -/
theorem vbqBlocks_marked (hx : x ≠ 0) (hX : blockScale t ((blockMembers vl j).map (rd w.st.vec)) = X)
    (hout : ∀ i ∈ blockActive vs vl j, quantElem t e.rm X (rd w.st.vec i) = out i) :
    vbqBlocks e d t q x rd vs vl after (n + 1) j w = vbqBlocks e d t q x rd vs vl after n (j + 1)
      ((blockActive vs vl j).foldl (fun s i => (s.raiseFlags (out i).2).modVec fun f => f.setMbit x i ((out i).2.acts e.xact))
        (blockWrite w d t q out vs vl j X)) := by
  have ys := block_elements hout
  simp only [blockMembers] at hX ys
  simp only [vbqBlocks, ne_eq, hx, not_false_eq_true, if_true, hX, ys]
  simp only [List.foldl_map]
  rfl

/-- Without it, a block of which no class acts does. -/
theorem vbqBlocks_passes (hX : blockScale t ((blockMembers vl j).map (rd w.st.vec)) = X)
    (hout : ∀ i ∈ blockActive vs vl j, quantElem t e.rm X (rd w.st.vec i) = out i)
    (hno : (raiseAll out (blockActive vs vl j) 0).acts e.xact = false) :
    vbqBlocks e d t q 0 rd vs vl after (n + 1) j w = vbqBlocks e d t q 0 rd vs vl after n (j + 1)
      ((blockWrite w d t q out vs vl j X).raiseFlags (raiseAll out (blockActive vs vl j) 0)) := by
  have ys := block_elements hout
  have passes := fpx_passes (s := w) (s1 := blockWrite w d t q out vs vl j X) hno vs (Nat.max vs (32 * j)) after
  simp only [blockMembers] at hX ys
  simp only [raiseAll, blockWrite, writeAll] at passes
  simp only [vbqBlocks, ne_eq, not_true_eq_false, if_false, hX, ys]
  simp only [List.foldl_map, passes]
  rfl

end

/-! ### The entry -/

section
variable {s : State} {d a : VReg} {u : Elem} {q : QReg} {x : MReg} {c : Bool} {out : Nat → Nat × Cls}

/-- What the model reads of source element i (R138). -/
def bqRead (s : State) (a : VReg) (c : Bool) (v : VecFile) (i : Nat) : Val :=
  if c then s.st.vec.vcFmt.fp.val (v.vcElem i s.st.vec.vcFmt.bits) else FP.f32.val (v.elem a.val i 32)

/-- Block by block, the machine stands as the statement says: the elements of the blocks from that of VSTART on, below block j, are
done, and so are their scale bytes. -/
structure BlocksUpTo (s : State) (d : VReg) (u : Elem) (q : QReg) (x : MReg) (out : Nat → Nat × Cls) (scale : Nat → Nat) (j : Nat)
    (v : VecFile) (C : Cls) : Prop where
  rest : v = { s.st.vec with v := v.v, wext := v.wext, m := v.m, q := v.q }
  elems : ElemsOn s d u.bits (fun i => Executes s s.st.csr.vstart.toNat 0 i ∧ i / 32 < j) (fun i => (out i).1) v
  masks : MasksOn s x (fun i => Executes s s.st.csr.vstart.toNat 0 i ∧ i / 32 < j) (fun i => (out i).2) v
  flags : Union (fun i => Executes s s.st.csr.vstart.toNat 0 i ∧ i / 32 < j) (fun i => (out i).2) C
  scales : ∀ n, s.st.csr.vstart.toNat / 32 ≤ n → n < j → v.scale q n = scale n
  scaleBits : ∀ (r : Fin 8) p, (∀ n, s.st.csr.vstart.toNat / 32 ≤ n → n < j → ¬(r.val = q.val + n / 64 ∧ p / 8 = n % 64)) →
    v.q[r].getLsbD p = s.st.vec.q[r].getLsbD p

theorem BlocksUpTo.start (scale : Nat → Nat) :
    BlocksUpTo s d u q x out scale (s.st.csr.vstart.toNat / 32) s.st.vec 0 := by
  have none : ∀ i, ¬(Executes s s.st.csr.vstart.toNat 0 i ∧ i / 32 < s.st.csr.vstart.toNat / 32) := fun i ⟨hi, hlt⟩ => by
    have := hi.1; omega
  exact ⟨rfl, ⟨.refl _, fun i hi => absurd hi (none i)⟩, fun r i => ⟨fun _ _ hi => absurd hi (none i), fun _ => rfl⟩,
    fun b => ⟨fun no => by simp at no, fun ⟨i, hi, _⟩ => absurd hi (none i)⟩, fun n h1 h2 => by omega, fun _ _ _ => rfl⟩

/-- The elements of one more block. -/
theorem block_done_iff (i j : Nat) :
    (Executes s s.st.csr.vstart.toNat 0 i ∧ i / 32 < j) ∨ i ∈ blockActive s.st.csr.vstart.toNat s.st.vlNow j ↔
    Executes s s.st.csr.vstart.toNat 0 i ∧ i / 32 < j + 1 := by
  rw [mem_blockActive]
  have all : Executes s s.st.csr.vstart.toNat 0 i ↔ s.st.csr.vstart.toNat ≤ i ∧ i < s.st.vlNow := by simp [Executes, allows]
  rw [all]
  omega

/-- Elements are what the registers hold. -/
theorem ElemsOn.of_regs {w : Nat} {Q : Nat → Prop} {val : Nat → Nat} {v v' : VecFile} (h : ElemsOn s d w Q val v) (hv : v'.v = v.v) :
    ElemsOn s d w Q val v' where
  keeps r j hj := by rw [hv]; exact h.keeps r j hj
  holds j hj := by
    have same : v'.elem d.val j w = v.elem d.val j w := by simp only [VecFile.elem, VecFile.reg, hv]
    rw [same, h.holds j hj]

/-- The file with the elements and the scale byte of one more block. -/
def blockFile (s : State) (d : VReg) (u : Elem) (q : QReg) (out : Nat → Nat × Cls) (scale : Nat → Nat) (j : Nat) (v : VecFile) : VecFile :=
  (writeAll d u.bits out (blockActive s.st.csr.vstart.toNat s.st.vlNow j) v).setScale q j (scale j)

theorem blockFile_rest (scale : Nat → Nat) (j : Nat) (v : VecFile) : blockFile s d u q out scale j v =
    { v with v := (blockFile s d u q out scale j v).v, wext := (blockFile s d u q out scale j v).wext,
             q := (blockFile s d u q out scale j v).q } := by
  unfold blockFile
  rw [writeAll_rest]
  rfl

/-- One more block is done: w is its file, with the masks as `.xmN` leaves them, and C' its flags. -/
theorem BlocksUpTo.block {scale : Nat → Nat} {j : Nat} {v w : VecFile} {C C' : Cls} (h : BlocksUpTo s d u q x out scale j v C)
    (hg : Granted s) (hd : ((s.entry (.vbq d a u q x c)).group d u.bits).ok = true) (hq : qOk s.st.grant.vtype q = true)
    (hlo : s.st.csr.vstart.toNat / 32 ≤ j) (hj : 32 * j < s.st.vlNow) (hscale : ∀ n, scale n < 256)
    (hw : w = { blockFile s d u q out scale j v with m := w.m })
    (hm : MasksOn s x (fun i => (Executes s s.st.csr.vstart.toNat 0 i ∧ i / 32 < j) ∨ i ∈ blockActive s.st.csr.vstart.toNat s.st.vlNow j)
      (fun i => (out i).2) w)
    (hC : ∀ b, C'.getLsbD b = true ↔ C.getLsbD b = true ∨
      ∃ i ∈ blockActive s.st.csr.vstart.toNat s.st.vlNow j, (out i).2.getLsbD b = true) :
    BlocksUpTo s d u q x out scale (j + 1) w C' := by
  have inside : ∀ i ∈ blockActive s.st.csr.vstart.toNat s.st.vlNow j, i < vlmax s.st.grant.vtype := fun i hi =>
    (mem_blockActive.mp hi).2.1.trans_le hg
  have room : ∀ n, n ≤ j → q.val + n / 64 < 8 := fun n hn => scale_room hq ((by omega : 32 * n < s.st.vlNow).trans_le hg)
  have written := (h.elems.writeAll (fun i hi => hi.1.2.1.trans_le hg) (Elem.width u) hd inside).congr fun i => block_done_iff i j
  have scaleOf : ∀ n, w.scale q n = (blockFile s d u q out scale j v).scale q n := fun n => by rw [hw]; rfl
  have same : (writeAll d u.bits out (blockActive s.st.csr.vstart.toNat s.st.vlNow j) v).q = v.q := by rw [writeAll_rest]
  refine ⟨?_, ?_, hm.congr fun i => block_done_iff i j, fun b => ?_, fun n h1 h2 => ?_, fun r p hp => ?_⟩
  · rw [hw, blockFile_rest, h.rest]
  · exact written.of_regs (by rw [hw]; rfl)
  · rw [hC b, h.flags b]
    simp only [← block_done_iff, or_and_right, exists_or]
  · rw [scaleOf, blockFile]
    rcases Nat.lt_succ_iff_lt_or_eq.mp h2 with hlt | rfl
    · rw [scale_setScale_ne (room n hlt.le) (room j (Nat.le_refl j)) hlt.ne]
      simp only [VecFile.scale, same]
      exact h.scales n h1 hlt
    · exact scale_setScale_self _ (hscale n)
  · have bits : w.q = (blockFile s d u q out scale j v).q := by rw [hw]
    rw [bits, blockFile, setScale_bit (room j (Nat.le_refl j)) _ (hp j hlo (Nat.lt_succ_self j)), same]
    exact h.scaleBits r p fun n h1 h2 => hp n h1 (Nat.lt_succ_of_lt h2)

/-- What the model reads for a block is the statement's, whatever the blocks before it have written (R138). -/
theorem BlocksUpTo.reads {scale : Nat → Nat} {j : Nat} {v : VecFile} {C : Cls} (h : BlocksUpTo s d u q x out scale j v C)
    (hg : Granted s) (hl : legalOps s (.vbq d a u q x c) d u.bits (if c then [] else [(a, 32)]) false 0 0 = true) {i : Nat}
    (hi : i < s.st.vlNow) : bqRead s a c v i = quantIn s a c i := by
  obtain ⟨hd, hsrc, -⟩ := legalOps_iff.mp hl
  unfold bqRead quantIn
  cases c
  · obtain ⟨ha, overlap⟩ := hsrc (a, 32) (by simp)
    have apart := (overlapOk_cases overlap).resolve_right fun h => absurd h.1 (by decide)
    have source : v.elem a.val i 32 = el s a i 32 :=
      h.elems.keeps.elem_apart ha hd apart (fun n hn => hn.1.2.1.trans_le hg) (hi.trans_le hg)
    simp only [Bool.false_eq_true, if_false, source]
  · simp only [if_true, VecFile.vcElem]
    rw [h.rest]

/-- The members of a block. -/
theorem blockMembers_map (f : Nat → Val) (vl j : Nat) :
    (blockMembers vl j).map f = (List.range (min 32 (vl - 32 * j))).map fun i => f (32 * j + i) := by
  simp only [blockMembers, List.map_map]
  exact List.map_congr_left fun i _ => by simp [Nat.add_comm]

/-- The scale byte of block j, and the element i of the statement (R138). -/
def bqScale (s : State) (a : VReg) (u : Elem) (c : Bool) (j : Nat) : Nat := blockScale u (blockOf s a c j)
/-- Element i. -/
def bqOut (s : State) (d a : VReg) (u : Elem) (q : QReg) (x : MReg) (c : Bool) (i : Nat) : Nat × Cls :=
  quantElem u (s.entry (.vbq d a u q x c)).rm (bqScale s a u c (i / 32)) (quantIn s a c i)

/-- Behind its last element an entry that reads vc clears the dirty bit (R47). -/
def bqAfter (c : Bool) (vl al : Nat) (t : State) : State := if c && al = vl then t.modVec VecFile.clearVc else t

theorem bqAfter_end (vl : Nat) (t : State) (V : VecFile) (C : Cls) :
    bqAfter c vl vl ((t.loopAt V C).complete1 vl) = (t.loopAt (if c then V.clearVc else V) C).complete1 vl := by
  cases c
  · rfl
  · simp only [bqAfter, Bool.true_and, decide_true, if_true]; rfl

/-- The blocks done so far. -/
abbrev BqUpTo (s : State) (d a : VReg) (u : Elem) (q : QReg) (x : MReg) (c : Bool) : Nat → VecFile → Cls → Prop :=
  BlocksUpTo s d u q x (bqOut s d a u q x c) (bqScale s a u c)

/-- One block in the model. -/
theorem vbq_block {j n vl : Nat} {v : VecFile} {C : Cls} {t : State} {after : Nat → State → State} (h : BqUpTo s d a u q x c j v C)
    (hg : Granted s) (hs : t.st.sync = []) (hvl : vl = s.st.vlNow) (hq : qOk s.st.grant.vtype q = true)
    (hl : legalOps s (.vbq d a u q x c) d u.bits (if c then [] else [(a, 32)]) false 0 0 = true)
    (hlo : s.st.csr.vstart.toNat / 32 ≤ j) (hj : 32 * j < s.st.vlNow)
    (hpass : x = 0 → ∀ i, Executes s s.st.csr.vstart.toNat 0 i → ¬Acts s (bqOut s d a u q x c i).2) :
    ∃ v' C', BqUpTo s d a u q x c (j + 1) v' C' ∧
      vbqBlocks (s.entry (.vbq d a u q x c)) d u q x (bqRead s a c) s.st.csr.vstart.toNat vl after (n + 1) j (t.loopAt v C) =
        vbqBlocks (s.entry (.vbq d a u q x c)) d u q x (bqRead s a c) s.st.csr.vstart.toNat vl after n (j + 1) (t.loopAt v' C') := by
  subst hvl
  obtain ⟨hd, -⟩ := legalOps_iff.mp hl
  have scale : blockScale u ((blockMembers s.st.vlNow j).map (bqRead s a c (t.loopAt v C).st.vec)) = bqScale s a u c j := by
    rw [blockMembers_map]
    refine congrArg (blockScale u) (List.map_congr_left fun i hi => h.reads hg hl ?_)
    have := lt_min_iff.mp (List.mem_range.mp hi)
    omega
  have value : ∀ i ∈ blockActive s.st.csr.vstart.toNat s.st.vlNow j,
      quantElem u (s.entry (.vbq d a u q x c)).rm (bqScale s a u c j) (bqRead s a c (t.loopAt v C).st.vec i) = bqOut s d a u q x c i := by
    intro i hi
    obtain ⟨-, hlt, rfl⟩ := mem_blockActive.mp hi
    rw [State.loopAt_vec, h.reads hg hl hlt]; rfl
  have inside : ∀ i ∈ blockActive s.st.csr.vstart.toNat s.st.vlNow j, i < 16384 := fun i hi =>
    (mem_blockActive.mp hi).2.1.trans_le (hg.trans (vlmax_le _))
  have masks : MasksOn s x (fun i => Executes s s.st.csr.vstart.toNat 0 i ∧ i / 32 < j) (fun i => (bqOut s d a u q x c i).2)
      (blockFile s d u q (bqOut s d a u q x c) (bqScale s a u c) j v) := fun r i => by
    rw [blockFile_rest]; exact h.masks r i
  by_cases hx : x = 0
  · subst hx
    refine ⟨_, C ||| raiseAll (bqOut s d a u q 0 c) (blockActive s.st.csr.vstart.toNat s.st.vlNow j) 0,
      h.block hg hd hq hlo hj (fun n => blockScale_lt _ _) rfl (MasksOn.of_same masks.masks_same) ?_,
      (vbqBlocks_passes scale value ?_).trans ?_⟩
    · intro b
      rw [BitVec.getLsbD_or, Bool.or_eq_true, getLsbD_raiseAll]; simp
    · rw [Bool.eq_false_iff, ne_eq, show (s.entry (.vbq d a u q 0 c)).xact = s.st.csr.xact from rfl, acts_iff]
      rintro ⟨b, h6, hb, hm⟩
      obtain no | ⟨i, hi, hbit⟩ := (getLsbD_raiseAll _ _ _).mp hb
      · simp at no
      · obtain ⟨h1, h2, -⟩ := mem_blockActive.mp hi
        exact hpass rfl i ⟨h1, h2, rfl⟩ ⟨b, h6, hbit, hm⟩
    · rw [← State.loopAt_raiseFlags hs]; rfl
  · refine ⟨_, _, h.block hg hd hq hlo hj (fun n => blockScale_lt _ _) ?_ (masks.markAll hx inside) (getLsbD_raiseAll _ _),
      (vbqBlocks_marked hx scale value).trans ?_⟩
    · rw [markAll_rest]
    · rw [← marks_loopAt hs]; rfl

/-- All blocks. -/
theorem vbq_blocks {vl : Nat} {t : State} {after : Nat → State → State} (hg : Granted s) (hs : t.st.sync = []) (hvl : vl = s.st.vlNow)
    (hq : qOk s.st.grant.vtype q = true)
    (hl : legalOps s (.vbq d a u q x c) d u.bits (if c then [] else [(a, 32)]) false 0 0 = true)
    (hpass : x = 0 → ∀ i, Executes s s.st.csr.vstart.toNat 0 i → ¬Acts s (bqOut s d a u q x c i).2) :
    ∀ n j v C, BqUpTo s d a u q x c j v C → s.st.csr.vstart.toNat / 32 ≤ j → j + n = (vl + 31) / 32 →
    ∃ v' C', BqUpTo s d a u q x c ((vl + 31) / 32) v' C' ∧
      vbqBlocks (s.entry (.vbq d a u q x c)) d u q x (bqRead s a c) s.st.csr.vstart.toNat vl after n j (t.loopAt v C) =
        .done (after vl ((t.loopAt v' C').complete1 vl)) none
  | 0, j, v, C, h, _, hn => by
    obtain rfl : j = (vl + 31) / 32 := hn
    exact ⟨v, C, h, by rw [vbqBlocks, if_neg (by omega)]⟩
  | n + 1, j, v, C, h, hlo, hn => by
    obtain ⟨v', C', h', step⟩ := vbq_block (n := n) (after := after) h hg hs hvl hq hl hlo (by omega) hpass
    obtain ⟨v'', C'', h'', rest⟩ := vbq_blocks hg hs hvl hq hl hpass n (j + 1) v' C' h' (by omega) (by omega)
    exact ⟨v'', C'', h'', step.trans rest⟩

/-- An entry with legal operands is its blocks, one after another. -/
theorem issue_vbq (h : Quiet s) (hlo : s.st.csr.vstart.toNat < s.st.vlNow) (hq : qOk s.st.grant.vtype q = true)
    (hl : legalOps s (.vbq d a u q x c) d u.bits (if c then [] else [(a, 32)]) false 0 0 = true)
    (hc : c = true → emul s.st.grant.vtype s.st.vec.vcFmt.bits = 1) :
    issue (.vbq d a u q x c) (s.entry (.vbq d a u q x c)) (s.committed (.vbq d a u q x c)) =
      vbqBlocks (s.entry (.vbq d a u q x c)) d u q x (bqRead s a c) s.st.csr.vstart.toNat s.st.vlNow (bqAfter c s.st.vlNow)
        ((s.st.vlNow + 31) / 32 - s.st.csr.vstart.toNat / 32) (s.st.csr.vstart.toNat / 32) (s.committed (.vbq d a u q x c)) := by
  have hi : isPlain (.vbq d a u q x c) = true := rfl
  obtain ⟨hd, hsrc, -⟩ := legalOps_iff.mp hl
  have checks : (((s.entry (.vbq d a u q x c)).group d u.bits).ok && qOk s.st.grant.vtype q &&
      (if c then emul s.st.grant.vtype s.st.vec.vcFmt.bits == 1 else ((s.entry (.vbq d a u q x c)).group a 32).ok &&
        ((s.entry (.vbq d a u q x c)).group a 32).overlapOk ((s.entry (.vbq d a u q x c)).group d u.bits) false)) = true := by
    cases c
    · obtain ⟨ha, overlap⟩ := hsrc (a, 32) (by simp)
      simp [hd, hq, ha, overlap]
    · simp [hd, hq, hc rfl]
  obtain ⟨-, -, -, -, -, -, -, -, -, -, -, hprog, hgoal, -⟩ := id h
  have prog : (s.committed (.vbq d a u q x c)).st.prog = 0 := by rw [committed_st_of_quiet h hi]; exact hprog
  have goal : (s.committed (.vbq d a u q x c)).st.goal = 0 := by rw [committed_st_of_quiet h hi]; exact hgoal
  have vec := vec_committed h hi
  have top : Nat.max s.st.csr.vstart.toNat 0 = s.st.csr.vstart.toNat := Nat.max_eq_left (Nat.zero_le _)
  show effVbq d a u q x c _ _ = _
  unfold effVbq
  rw [effLen_committed h hi, vstart_committed h hi, vec, prog, goal]
  rw [if_neg (Nat.not_le.mpr hlo), if_neg]
  · rw [top, if_pos rfl]; rfl
  · exact fun no => by simp only [Bool.not_eq_true'] at no; exact absurd (checks.symm.trans no) (by decide)

/-- VBQ (R138). -/
theorem vbq_quantises (h : Quiet s) (hg : Granted s) (hlo : s.st.csr.vstart.toNat < s.st.vlNow) (hq : qOk s.st.grant.vtype q = true)
    (hl : legalOps s (.vbq d a u q x c) d u.bits (if c then [] else [(a, 32)]) false 0 0 = true)
    (hc : c = true → emul s.st.grant.vtype s.st.vec.vcFmt.bits = 1)
    (hpass : x = 0 → ∀ i, Executes s s.st.csr.vstart.toNat 0 i → ¬Acts s (bqOut s d a u q x c i).2) :
    ∃ t cl, exec (.vbq d a u q x c) s = .next t ∧ EntryDone s t s.st.vlNow cl ∧
      UnionOf (Executes s s.st.csr.vstart.toNat 0) (fun i => (bqOut s d a u q x c i).2) cl ∧
      MasksAfter s t x (Executes s s.st.csr.vstart.toNat 0) (fun i => (bqOut s d a u q x c i).2) ∧
      ElemsAfter s t d u.bits (Executes s s.st.csr.vstart.toNat 0) (fun i => (bqOut s d a u q x c i).1) ∧
      t.st.vec.vcFmt = s.st.vec.vcFmt ∧ t.st.vec.vcDirty = (s.st.vec.vcDirty && !c) ∧ (c = false → t.st.vec.vc = s.st.vec.vc) ∧
      (∀ j, s.st.csr.vstart.toNat / 32 ≤ j → 32 * j < s.st.vlNow → t.st.vec.scale q j = bqScale s a u c j) ∧
      (∀ (r : Fin 8) (p : Nat),
        (∀ j, s.st.csr.vstart.toNat / 32 ≤ j → 32 * j < s.st.vlNow → ¬(r.val = q.val + j / 64 ∧ p / 8 = j % 64)) →
        t.st.vec.q[r].getLsbD p = s.st.vec.q[r].getLsbD p) := by
  have hi : isPlain (.vbq d a u q x c) = true := rfl
  obtain ⟨-, sync⟩ := committed_head h hi
  obtain ⟨V, C, done, blocks⟩ := vbq_blocks (after := bqAfter c s.st.vlNow) hg sync rfl hq hl hpass
    ((s.st.vlNow + 31) / 32 - s.st.csr.vstart.toNat / 32) _ _ _ (.start _) (Nat.le_refl _) (by omega)
  rw [committed_loopAt h hi, ← issue_vbq h hlo hq hl hc, bqAfter_end] at blocks
  obtain ⟨t, answer, vec, entry⟩ := exec_completes_plain h hi blocks
  have all : ∀ i, Executes s s.st.csr.vstart.toNat 0 i ∧ i / 32 < (s.st.vlNow + 31) / 32 ↔ Executes s s.st.csr.vstart.toNat 0 i :=
    fun i => ⟨And.left, fun hx => ⟨hx, by have := hx.2.1; omega⟩⟩
  have cleared : t.st.vec = { V with vcDirty := V.vcDirty && !c, vc := if c then 0 else V.vc } := by
    rw [vec]
    cases c
    · simp
    · simp [VecFile.clearVc]
  have regs : t.st.vec.v = V.v := by rw [cleared]
  have scales : t.st.vec.q = V.q := by rw [cleared]
  have masks : MasksOn s x (Executes s s.st.csr.vstart.toNat 0) (fun i => (bqOut s d a u q x c i).2) t.st.vec := by
    rw [cleared]; exact done.masks.congr all
  refine ⟨t, C, answer, entry, unionOf_of_union (done.flags.congr all), masks.masksAfter,
    ((done.elems.congr all).of_regs regs).elemsAfter, by rw [cleared, done.rest], by rw [cleared, done.rest],
    fun hc' => by rw [cleared, done.rest, hc']; rfl, fun j h1 h2 => ?_, fun r p hp => ?_⟩
  · simp only [VecFile.scale, scales]
    exact done.scales j h1 (by omega)
  · rw [scales]
    exact done.scaleBits r p fun n h1 h2 => hp n h1 (by omega)

end

/-- Settles O37: VRNG draws, VHAD combines pairs, VBQ quantises block by block. -/
theorem drawsStagesAndBlocks : Obligations.DrawsStagesAndBlocks := by
  refine ⟨?_, ?_, ?_⟩
  · intro s d u m h hg hl
    exact vrng_draws h hg hl
  · intro s d a k y z hh x f h hg hlo hvl hyz hd ha ho hpass
    exact vhad_stage h hg hlo hvl hyz hd ha ho hpass
  · intro s d a u q x c out h hg hlo hq hl hc hout hpass
    obtain rfl : out = bqOut s d a u q x c := funext hout
    exact vbq_quantises h hg hlo hq hl hc hpass

end Sys2Proof.Machine
end

section
/-! SUPPORT. Fields of instruction words: the codes of the enumerated ones, the laws of a packed word, what the decoder reads (04). -/

namespace Sys2Proof

/-! ### Codes of enumerated fields

Each code is a field of some bits: a digit, below the number of values of these bits. The decoder's table gives back what has the
code (R60 to R63). -/

/-- The code of EW, as a field of 3 bits. -/
def EW.digit (x : EW) : Fin 8 := ⟨x.code, by cases x <;> decide⟩
theorem EW.code_eq_digit (x : EW) : x.code = x.digit := rfl
theorem EW.ofCode?_eq_some_iff {n : Nat} {x : EW} : EW.ofCode? n = some x ↔ n = x.code := by
  constructor
  · intro h; unfold EW.ofCode? at h; split at h <;> cases h <;> rfl
  · rintro rfl; cases x <;> rfl
theorem EW.ofCode?_digit (x : EW) : EW.ofCode? x.digit = some x := EW.ofCode?_eq_some_iff.2 rfl

/-- The code of FF, as a field of 2 bits. -/
def FF.digit (x : FF) : Fin 4 := ⟨x.code, by cases x <;> decide⟩
theorem FF.code_eq_digit (x : FF) : x.code = x.digit := rfl
theorem FF.ofCode?_eq_some_iff {n : Nat} {x : FF} : FF.ofCode? n = some x ↔ n = x.code := by
  constructor
  · intro h; unfold FF.ofCode? at h; split at h <;> cases h <;> rfl
  · rintro rfl; cases x <;> rfl
theorem FF.ofCode?_digit (x : FF) : FF.ofCode? x.digit = some x := FF.ofCode?_eq_some_iff.2 rfl

/-- The code of Elem, as a field of 5 bits. -/
def Elem.digit (x : Elem) : Fin 32 := ⟨x.code, by cases x <;> decide⟩
theorem Elem.code_eq_digit (x : Elem) : x.code = x.digit := rfl
theorem Elem.ofCode?_eq_some_iff {n : Nat} {x : Elem} : Elem.ofCode? n = some x ↔ n = x.code := by
  constructor
  · intro h; unfold Elem.ofCode? at h; split at h <;> cases h <;> rfl
  · rintro rfl; cases x <;> rfl
theorem Elem.ofCode?_digit (x : Elem) : Elem.ofCode? x.digit = some x := Elem.ofCode?_eq_some_iff.2 rfl

/-- The code of MMode, as a field of 4 bits. -/
def MMode.digit (x : MMode) : Fin 16 := ⟨x.code, by cases x <;> decide⟩
theorem MMode.code_eq_digit (x : MMode) : x.code = x.digit := rfl
theorem MMode.ofCode?_eq_some_iff {n : Nat} {x : MMode} : MMode.ofCode? n = some x ↔ n = x.code := by
  constructor
  · intro h; unfold MMode.ofCode? at h; split at h <;> cases h <;> rfl
  · rintro rfl; cases x <;> rfl
theorem MMode.ofCode?_digit (x : MMode) : MMode.ofCode? x.digit = some x := MMode.ofCode?_eq_some_iff.2 rfl

/-- The code of RCode, as a field of 4 bits. -/
def RCode.digit (x : RCode) : Fin 16 := ⟨x.code, by cases x <;> decide⟩
theorem RCode.code_eq_digit (x : RCode) : x.code = x.digit := rfl
theorem RCode.ofCode?_eq_some_iff {n : Nat} {x : RCode} : RCode.ofCode? n = some x ↔ n = x.code := by
  constructor
  · intro h; unfold RCode.ofCode? at h; split at h <;> cases h <;> rfl
  · rintro rfl; cases x <;> rfl
theorem RCode.ofCode?_digit (x : RCode) : RCode.ofCode? x.digit = some x := RCode.ofCode?_eq_some_iff.2 rfl

/-- The code of SFT, as a field of 3 bits. -/
def SFT.digit (x : SFT) : Fin 8 := ⟨x.code, by cases x <;> decide⟩
theorem SFT.code_eq_digit (x : SFT) : x.code = x.digit := rfl
theorem SFT.ofCode?_eq_some_iff {n : Nat} {x : SFT} : SFT.ofCode? n = some x ↔ n = x.code := by
  constructor
  · intro h; unfold SFT.ofCode? at h; split at h <;> cases h <;> rfl
  · rintro rfl; cases x <;> rfl
theorem SFT.ofCode?_digit (x : SFT) : SFT.ofCode? x.digit = some x := SFT.ofCode?_eq_some_iff.2 rfl

/-- The code of AccM, as a field of 2 bits. -/
def AccM.digit (x : AccM) : Fin 4 := ⟨x.code, by cases x <;> decide⟩
theorem AccM.code_eq_digit (x : AccM) : x.code = x.digit := rfl
theorem AccM.ofCode?_eq_some_iff {n : Nat} {x : AccM} : AccM.ofCode? n = some x ↔ n = x.code := by
  constructor
  · intro h; unfold AccM.ofCode? at h; split at h <;> cases h <;> rfl
  · rintro rfl; cases x <;> rfl
theorem AccM.ofCode?_digit (x : AccM) : AccM.ofCode? x.digit = some x := AccM.ofCode?_eq_some_iff.2 rfl

/-- The code of Scope, as a field of 3 bits. -/
def Scope.digit (x : Scope) : Fin 8 := ⟨x.code, by cases x <;> decide⟩
theorem Scope.code_eq_digit (x : Scope) : x.code = x.digit := rfl
theorem Scope.ofCode?_eq_some_iff {n : Nat} {x : Scope} : Scope.ofCode? n = some x ↔ n = x.code := by
  constructor
  · intro h; unfold Scope.ofCode? at h; split at h <;> cases h <;> rfl
  · rintro rfl; cases x <;> rfl
theorem Scope.ofCode?_digit (x : Scope) : Scope.ofCode? x.digit = some x := Scope.ofCode?_eq_some_iff.2 rfl

/-- The code of VCond, as a field of 3 bits. -/
def VCond.digit (x : VCond) : Fin 8 := ⟨x.code, by cases x <;> decide⟩
theorem VCond.code_eq_digit (x : VCond) : x.code = x.digit := rfl
theorem VCond.ofCode?_eq_some_iff {n : Nat} {x : VCond} : VCond.ofCode? n = some x ↔ n = x.code := by
  constructor
  · intro h; unfold VCond.ofCode? at h; split at h <;> cases h <;> rfl
  · rintro rfl; cases x <;> rfl
theorem VCond.ofCode?_digit (x : VCond) : VCond.ofCode? x.digit = some x := VCond.ofCode?_eq_some_iff.2 rfl

/-- The code of PKind, as a field of 2 bits. -/
def PKind.digit (k : PKind) : Fin 4 := ⟨k.code, by cases k <;> decide⟩
theorem PKind.code_eq_digit (k : PKind) : k.code = k.digit := rfl
theorem PKind.ofCode?_eq_some_iff {n : Nat} {k : PKind} : PKind.ofCode? n = some k ↔ n = k.code := by
  constructor
  · intro h; unfold PKind.ofCode? at h; split at h <;> cases h <;> rfl
  · rintro rfl; cases k <;> rfl
theorem PKind.ofCode?_digit (k : PKind) : PKind.ofCode? k.digit = some k := PKind.ofCode?_eq_some_iff.2 rfl

/-- The code of a control register, as a field of 12 bits. -/
def Csr.digit (n : Csr) : Fin 4096 := ⟨n.code, by cases n <;> simp only [Csr.code] <;> omega⟩
theorem Csr.code_eq_digit (n : Csr) : n.code = n.digit := rfl
theorem Csr.ofCode?_eq_some_iff {m : Nat} {n : Csr} : Csr.ofCode? m = some n ↔ m = n.code := by
  constructor
  · intro h; unfold Csr.ofCode? at h; split at h <;> cases h <;> rfl
  · rintro rfl
    cases n with
    | shape k => revert k; decide
    | _ => rfl
theorem Csr.ofCode?_digit (n : Csr) : Csr.ofCode? n.digit = some n := Csr.ofCode?_eq_some_iff.2 rfl

/-- The code of IW, as a field of 2 bits. -/
def IW.digit (x : IW) : Fin 4 := ⟨x.code, by cases x <;> decide⟩
theorem IW.code_eq_digit (x : IW) : x.code = x.digit := rfl
theorem IW.ofCode_digit (x : IW) : IW.ofCode x.digit = x := by cases x <;> rfl
theorem IW.code_ofCode (n : Nat) : (IW.ofCode (n % 4)).code = n % 4 :=
  (by decide : ∀ d : Fin 4, (IW.ofCode d.val).code = d.val) ⟨n % 4, Nat.mod_lt _ (by decide)⟩

/-- The code of Ordr, as a field of 2 bits. -/
def Ordr.digit (x : Ordr) : Fin 4 := ⟨x.code, by cases x <;> decide⟩
theorem Ordr.code_eq_digit (x : Ordr) : x.code = x.digit := rfl
theorem Ordr.ofCode_digit (x : Ordr) : Ordr.ofCode x.digit = x := by cases x <;> rfl
theorem Ordr.code_ofCode (n : Nat) : (Ordr.ofCode (n % 4)).code = n % 4 :=
  (by decide : ∀ d : Fin 4, (Ordr.ofCode d.val).code = d.val) ⟨n % 4, Nat.mod_lt _ (by decide)⟩

/-- The code of MW, as a field of 1 bit. -/
def MW.digit (x : MW) : Fin 2 := ⟨x.code, by cases x <;> decide⟩
theorem MW.code_eq_digit (x : MW) : x.code = x.digit := rfl
theorem MW.ofCode_digit (x : MW) : MW.ofCode x.digit = x := by cases x <;> rfl
theorem MW.code_ofCode (n : Nat) : (MW.ofCode (n % 2)).code = n % 2 :=
  (by decide : ∀ d : Fin 2, (MW.ofCode d.val).code = d.val) ⟨n % 2, Nat.mod_lt _ (by decide)⟩

/-- The code of LW, as a field of 2 bits. -/
def LW.digit (x : LW) : Fin 4 := ⟨x.code, by cases x <;> decide⟩
theorem LW.code_eq_digit (x : LW) : x.code = x.digit := rfl
theorem LW.ofCode_digit (x : LW) : LW.ofCode x.digit = x := by cases x <;> rfl
theorem LW.code_ofCode (n : Nat) : (LW.ofCode (n % 4)).code = n % 4 :=
  (by decide : ∀ d : Fin 4, (LW.ofCode d.val).code = d.val) ⟨n % 4, Nat.mod_lt _ (by decide)⟩

/-- The code of Grp, as a field of 2 bits. -/
def Grp.digit (x : Grp) : Fin 4 := ⟨x.code, by cases x <;> decide⟩
theorem Grp.code_eq_digit (x : Grp) : x.code = x.digit := rfl
theorem Grp.ofCode_digit (x : Grp) : Grp.ofCode x.digit = x := by cases x <;> rfl
theorem Grp.code_ofCode (n : Nat) : (Grp.ofCode (n % 4)).code = n % 4 :=
  (by decide : ∀ d : Fin 4, (Grp.ofCode d.val).code = d.val) ⟨n % 4, Nat.mod_lt _ (by decide)⟩

/-- The code of Src, as a field of 2 bits. -/
def Src.digit (x : Src) : Fin 4 := ⟨x.code, by cases x <;> decide⟩
theorem Src.code_eq_digit (x : Src) : x.code = x.digit := rfl
theorem Src.ofCode_digit (x : Src) : Src.ofCode x.digit = x := by cases x <;> rfl
theorem Src.code_ofCode (n : Nat) : (Src.ofCode (n % 4)).code = n % 4 :=
  (by decide : ∀ d : Fin 4, (Src.ofCode d.val).code = d.val) ⟨n % 4, Nat.mod_lt _ (by decide)⟩

/-- The code of SctT, as a field of 2 bits. -/
def SctT.digit (x : SctT) : Fin 4 := ⟨x.code, by cases x <;> decide⟩
theorem SctT.code_eq_digit (x : SctT) : x.code = x.digit := rfl
theorem SctT.ofCode_digit (x : SctT) : SctT.ofCode x.digit = x := by cases x <;> rfl
theorem SctT.code_ofCode (n : Nat) : (SctT.ofCode (n % 4)).code = n % 4 :=
  (by decide : ∀ d : Fin 4, (SctT.ofCode d.val).code = d.val) ⟨n % 4, Nat.mod_lt _ (by decide)⟩

/-! ### Fields of a packed word

The encoder writes a word as a sum, the place of each field a multiple of the span of the next one. The laws say what a part of
such a sum is: a field above a part goes, one below it stays or is cut off. -/

/-- A field x below the part of p, in a gap of the sum X, does not carry into it. -/
theorem packed_no_carry {n X k p : Nat} (x : Fin n) (hp : p % (n * k) = 0) (h0 : p ≠ 0) (hX : X % (n * k) < k) :
    X % p + x.val * k < p := by
  obtain ⟨j, rfl⟩ := Nat.dvd_of_mod_eq_zero hp
  have hq : X % (n * k * j) / (n * k) + 1 ≤ j :=
    Nat.div_lt_of_lt_mul (Nat.mod_lt _ (Nat.pos_of_ne_zero h0))
  have hr := Nat.mod_mod_of_dvd X (Nat.dvd_mul_right (n * k) j)
  have hsplit := Nat.div_add_mod (X % (n * k * j)) (n * k)
  have hx : (x.val + 1) * k ≤ n * k := Nat.mul_le_mul_right k x.isLt
  have hj := Nat.mul_le_mul_left (n * k) hq
  rw [Nat.mul_add] at hj
  rw [Nat.add_mul] at hx
  omega

theorem packed_mod_below {n X k p : Nat} (x : Fin n) (hp : p % (n * k) = 0) (h0 : p ≠ 0) (hX : X % (n * k) < k) :
    (X + x.val * k) % p = X % p + x.val * k := by
  rw [← Nat.mod_add_mod, Nat.mod_eq_of_lt (packed_no_carry x hp h0 hX)]

theorem packed_div_below {n X k p : Nat} (x : Fin n) (hp : p % (n * k) = 0) (h0 : p ≠ 0) (hX : X % (n * k) < k) :
    (X + x.val * k) / p = X / p := by
  have h := packed_no_carry x hp h0 hX
  conv_lhs => rw [← Nat.div_add_mod X p, Nat.add_assoc, Nat.mul_add_div (Nat.pos_of_ne_zero h0), Nat.div_eq_of_lt h,
    Nat.add_zero]

theorem packed_mod_above {n X k p : Nat} (x : Fin n) (h : k % p = 0) : (X + x.val * k) % p = X % p := by
  obtain ⟨j, rfl⟩ := Nat.dvd_of_mod_eq_zero h
  rw [Nat.mul_left_comm, Nat.add_mul_mod_self_left]

theorem packed_div_above {n X k p : Nat} (x : Fin n) (h : k % p = 0) (h0 : p ≠ 0) :
    (X + x.val * k) / p = X / p + x.val * (k / p) := by
  obtain ⟨j, rfl⟩ := Nat.dvd_of_mod_eq_zero h
  have hp := Nat.pos_of_ne_zero h0
  rw [Nat.mul_div_cancel_left j hp, Nat.mul_left_comm, Nat.add_mul_div_left _ _ hp]

/-- A sum that equals c has the digit of c at each place. -/
theorem packed_eq_iff {n X k : Nat} (x : Fin n) (c : Nat) (h0 : k ≠ 0) (hX : X % (n * k) < k) :
    X + x.val * k = c ↔ x.val = c / k % n ∧ X + c / k % n * k = c := by
  have hk := Nat.pos_of_ne_zero h0
  have hdigit : (X + x.val * k) / k % n = x.val := by
    have hXk : X / k % n = 0 := by
      rw [← Nat.mod_mul_right_div_self, Nat.mul_comm k n, Nat.div_eq_of_lt hX]
    rw [Nat.add_mul_div_right _ _ hk, Nat.add_mod, hXk, Nat.zero_add, Nat.mod_mod, Nat.mod_eq_of_lt x.isLt]
  constructor
  · rintro rfl
    rw [hdigit]
    exact ⟨rfl, rfl⟩
  · rintro ⟨hx, hc⟩
    rwa [hx]

/-! The field that stands at bit 0. -/

theorem packed_mod_below_one {n X p : Nat} (x : Fin n) (hp : p % n = 0) (h0 : p ≠ 0) (hX : X % n = 0) :
    (X + x.val) % p = X % p + x.val := by
  simpa using packed_mod_below (k := 1) x (by simpa using hp) h0 (by simp [hX])

theorem packed_div_below_one {n X p : Nat} (x : Fin n) (hp : p % n = 0) (h0 : p ≠ 0) (hX : X % n = 0) :
    (X + x.val) / p = X / p := by
  simpa using packed_div_below (k := 1) x (by simpa using hp) h0 (by simp [hX])

theorem packed_eq_iff_one {n X : Nat} (x : Fin n) (c : Nat) (hX : X % n = 0) :
    X + x.val = c ↔ x.val = c % n ∧ X + c % n = c := by
  simpa using packed_eq_iff (k := 1) x c one_ne_zero (by simp [hX])

/-! The field of the lowest place, where no sum stands above it, and the part of a field. -/

theorem packed_mod_above_zero {n k p : Nat} (x : Fin n) (h : k % p = 0) : x.val * k % p = 0 := by
  simpa using packed_mod_above (X := 0) x h

theorem packed_eq_iff_zero {n k : Nat} (x : Fin n) (c : Nat) (h0 : k ≠ 0) :
    x.val * k = c ↔ x.val = c / k % n ∧ c / k % n * k = c := by
  simpa using packed_eq_iff (X := 0) x c h0 (by simpa using Nat.pos_of_ne_zero h0)

theorem digit_eq_of_le {n c : Nat} (x : Fin n) (h : n ≤ c) : (x.val = c) = False :=
  eq_false (Nat.ne_of_lt (Nat.lt_of_lt_of_le x.isLt h))

/-- The part of a field from place p on. -/
def upperDigit {n : Nat} (p : Nat) (x : Fin n) : Fin ((n - 1) / p + 1) :=
  ⟨x.val / p, Nat.lt_succ_of_le (Nat.div_le_div_right (Nat.le_pred_of_lt x.isLt))⟩

theorem packed_div_across {n X p : Nat} (x : Fin n) (hn : n % p = 0) (hX : X % n = 0) :
    (X + x.val) / p = X / p + (upperDigit p x).val :=
  Nat.add_div_of_dvd_right ((Nat.dvd_of_mod_eq_zero hn).trans (Nat.dvd_of_mod_eq_zero hX))

/-! ### Fields of the decoder and of the encoder -/

/-- A flag, as a field of 1 bit. -/
def bitDigit (b : Bool) : Fin 2 := ⟨bitN b, by cases b <;> decide⟩
theorem bitN_eq_digit (b : Bool) : bitN b = bitDigit b := rfl
theorem bitDigit_beq_one (b : Bool) : ((bitDigit b).val == 1) = b := by cases b <;> rfl
theorem bitN_beq_one (n : Nat) : bitN (n % 2 == 1) = n % 2 := by
  obtain h | h := Nat.mod_two_eq_zero_or_one n <;> rw [h] <;> rfl

/-- The number of a port, as a field of 5 bits. -/
def Port.digit (p : Port) : Fin 32 := p.castLE (by decide)
theorem Port.val_eq_digit (p : Port) : p.val = (Port.digit p).val := rfl
theorem Port.digit_lt (p : Port) : (Port.digit p).val < 19 := p.isLt
theorem Port.mk_digit (p : Port) (h : (Port.digit p).val < 19) : (⟨(Port.digit p).val, h⟩ : Fin 19) = p := rfl

theorem ofNat_eq_ofFin (n w : Nat) : BitVec.ofNat n w = BitVec.ofFin ⟨w % 2 ^ n, Nat.mod_lt _ (Nat.two_pow_pos n)⟩ := rfl

theorem r3?_eq_some_iff {w lo : Nat} {d : Fin 8} : r3? w lo = some d ↔ w / lo % 32 = d.val := by
  unfold r3?; split <;> simp only [Option.some.injEq, Fin.ext_iff, reduceCtorEq, false_iff]; omega
theorem r4?_eq_some_iff {w lo : Nat} {d : Fin 16} : r4? w lo = some d ↔ w / lo % 32 = d.val := by
  unfold r4?; split <;> simp only [Option.some.injEq, Fin.ext_iff, reduceCtorEq, false_iff]; omega
theorem port?_eq_some_iff {w lo : Nat} {d : Port} : port? w lo = some d ↔ w / lo % 32 = d.val := by
  unfold port?; split <;> simp only [Option.some.injEq, Fin.ext_iff, reduceCtorEq, false_iff]; omega

end Sys2Proof
end

section
/-! PROOFS. Decode and encode agree (04): O58. -/

namespace Sys2Proof

/-! ### The word of a form decodes to it

Each form is one line of arithmetic on a packed word: the laws above compute the tests of the decoder and the fields. -/

theorem Csr.digit_ne_of_writable {n : Csr} (h : (n != .vstart && n != .xflags) = true) :
    n.digit.val ≠ 2 ∧ n.digit.val ≠ 32 := by
  cases n with
  | shape k => simp only [Csr.digit, Csr.code]; omega
  | _ => revert h; decide

/-- VSTART and XFLAGS are written by rows of their own (R31, R39); a CSRW of another register is told apart by its code. -/
theorem decodeForm_csrw {a : SReg} {n : Csr} (h : Instr.wf (.csrw a n) = true) :
    decodeForm (1275072512 + a.val * 65536 + n.code) = some (.csrw a n) := by
  obtain ⟨h2, h32⟩ := Csr.digit_ne_of_writable h
  simp only [decodeForm, decode13, packed_div_above, packed_div_below, packed_mod_above, packed_mod_below, packed_mod_below_one,
    packed_div_below_one, packed_eq_iff, packed_eq_iff_one, Csr.code_eq_digit, Csr.ofCode?_digit, r5, Fin.eta,
    Option.bind_some, Nat.reduceAdd, Nat.reduceMul, Nat.reduceMod, Nat.reduceDiv, Nat.reduceLT, Nat.reduceEqDiff,
    ↓reduceIte, zero_add, add_zero, mul_one, ne_eq, not_false_eq_true, and_true, and_false, and_self, h2, h32]

/-- Services 0 to 2 of SYSC have rows of their own (R117). -/
theorem decodeForm_unofferedSyscService {d : SReg} {i : BitVec 17} (h : Instr.wf (.unofferedSyscService d i) = true) :
    decodeForm (1342308352 + d.val * 2097152 + i.toNat) = some (.unofferedSyscService d i) := by
  have h3 : 3 ≤ i.toFin.val := of_decide_eq_true h
  have h0 : i.toFin.val ≠ 0 := by omega
  have h1 : i.toFin.val ≠ 1 := by omega
  have h2 : i.toFin.val ≠ 2 := by omega
  simp only [decodeForm, decode14, packed_div_above, packed_div_below, packed_mod_above, packed_mod_below, packed_mod_below_one,
    packed_div_below_one, packed_div_across, packed_eq_iff, packed_eq_iff_one, ← BitVec.val_toFin, ofNat_eq_ofFin,
    BitVec.ofFin_toFin, r5, Fin.eta, Nat.reduceAdd, Nat.reduceMul, Nat.reduceMod, Nat.reduceDiv, Nat.reducePow,
    Nat.reduceSub, Nat.reduceLT, Nat.reduceEqDiff, ↓reduceIte, zero_add, add_zero, mul_one, ne_eq, not_false_eq_true,
    and_true, and_false, and_self, h0, h1, h2]

/-! The case split over the forms, in parts by their number in the list of Instr, each short enough to check at once. -/

/-- The forms from setvlf to vcmpLen. -/
theorem decodeForm_encode_vectorInteger {i : Instr} {w : Nat} (h : encode i = some w) (hs : i.sharesWord = false)
    (hu : i.ctorIdx < 31) : decodeForm w = some i := by
  cases i <;> simp only [Instr.ctorIdx, Nat.reduceLT] at hu <;> cases h <;> cases hs
  all_goals
    simp only [decodeForm, decode17, decode18, decode19, decode1A, decode1B, packed_div_above, packed_div_below, packed_mod_above,
      packed_mod_below, packed_mod_below_one, packed_div_below_one, packed_eq_iff, packed_eq_iff_one, EW.code_eq_digit,
      IW.code_eq_digit, Grp.code_eq_digit, EW.ofCode?_digit, IW.ofCode_digit, Grp.ofCode_digit, r3, r5, r3?, Fin.eta,
      Fin.is_lt, Option.bind_some, Nat.reduceMul, Nat.reduceMod, Nat.reduceDiv, Nat.reduceLT, Nat.reduceEqDiff, ↓reduceIte,
      ↓reduceDIte, zero_add, add_zero, mul_one, ne_eq, not_false_eq_true, and_false]

/-- The forms from vaddVx to vcmpLenVx. -/
theorem decodeForm_encode_vectorScalarInteger {i : Instr} {w : Nat} (h : encode i = some w) (hs : i.sharesWord = false)
    (hl : 31 ≤ i.ctorIdx) (hu : i.ctorIdx < 60) : decodeForm w = some i := by
  cases i <;> simp only [Instr.ctorIdx, Nat.reduceLT, Nat.reduceLeDiff] at hl hu <;> cases h <;> cases hs
  all_goals
    simp only [decodeForm, decode1C, decode1D, decode1E, decode1F, packed_div_above, packed_div_below, packed_mod_above,
      packed_mod_below, packed_mod_below_one, packed_div_below_one, packed_eq_iff, IW.code_eq_digit, IW.ofCode_digit, r3,
      r5, r3?, Fin.eta, Fin.is_lt, Option.bind_some, Nat.reduceMul, Nat.reduceMod, Nat.reduceDiv, Nat.reduceLT,
      Nat.reduceEqDiff, ↓reduceIte, ↓reduceDIte, zero_add, add_zero, mul_one, ne_eq, not_false_eq_true, and_false]

/-- The forms from vfadd to vcvt. -/
theorem decodeForm_encode_vectorFloat {i : Instr} {w : Nat} (h : encode i = some w) (hs : i.sharesWord = false)
    (hl : 60 ≤ i.ctorIdx) (hu : i.ctorIdx < 89) : decodeForm w = some i := by
  cases i <;> simp only [Instr.ctorIdx, Nat.reduceLT, Nat.reduceLeDiff] at hl hu <;> cases h <;> cases hs
  all_goals
    simp only [decodeForm, decode20, decode21, decode22, decode23, decode24, packed_div_above, packed_div_below, packed_mod_above,
      packed_mod_below, packed_mod_below_one, packed_div_below_one, packed_eq_iff, packed_eq_iff_zero, FF.code_eq_digit,
      Elem.code_eq_digit, FF.ofCode?_digit, Elem.ofCode?_digit, r3, r5, r3?, Fin.eta, Fin.is_lt, Option.bind_some,
      Nat.reduceMul, Nat.reduceMod, Nat.reduceDiv, Nat.reduceLT, Nat.reduceEqDiff, ↓reduceIte, ↓reduceDIte, zero_add,
      add_zero, mul_one, ne_eq, not_false_eq_true, and_true, and_false, false_and, and_self]

/-- The forms from vbq to mfirst. -/
theorem decodeForm_encode_vectorRearrange {i : Instr} {w : Nat} (h : encode i = some w) (hs : i.sharesWord = false)
    (hl : 89 ≤ i.ctorIdx) (hu : i.ctorIdx < 117) : decodeForm w = some i := by
  cases i <;> simp only [Instr.ctorIdx, Nat.reduceLT, Nat.reduceLeDiff] at hl hu <;> cases h <;> cases hs
  all_goals
    simp only [decodeForm, decode25, decode26, decode27, decode28, packed_div_above, packed_div_below, packed_mod_above,
      packed_mod_below, packed_mod_below_one, packed_div_below_one, packed_div_across, packed_mod_above_zero, packed_eq_iff,
      packed_eq_iff_one, packed_eq_iff_zero, digit_eq_of_le, FF.code_eq_digit, Elem.code_eq_digit, IW.code_eq_digit,
      FF.ofCode?_digit, Elem.ofCode?_digit, IW.ofCode_digit, bitN_eq_digit, bitDigit_beq_one, r3, r5, r3?, Fin.eta,
      Fin.is_lt, Option.bind_some, Nat.reduceAdd, Nat.reduceMul, Nat.reduceMod, Nat.reduceDiv, Nat.reduceSub, Nat.reduceLT,
      Nat.reduceLeDiff, Nat.reduceEqDiff, ↓reduceIte, ↓reduceDIte, zero_add, add_zero, mul_one, ne_eq, not_false_eq_true,
      and_true, and_false, false_and, and_self]

/-- The forms from vslideup to vscadd. -/
theorem decodeForm_encode_vectorMemory {i : Instr} {w : Nat} (h : encode i = some w) (hs : i.sharesWord = false)
    (hl : 117 ≤ i.ctorIdx) (hu : i.ctorIdx < 138) : decodeForm w = some i := by
  cases i <;> simp only [Instr.ctorIdx, Nat.reduceLT, Nat.reduceLeDiff] at hl hu <;> cases h <;> cases hs
  all_goals
    simp only [decodeForm, decode28, decode29, decode2A, decode2B, decode2C, decode2D, packed_div_above, packed_div_below,
      packed_mod_above, packed_mod_below, packed_mod_below_one, packed_div_below_one, packed_eq_iff, packed_eq_iff_zero,
      EW.code_eq_digit, VCond.code_eq_digit, Ordr.code_eq_digit, MW.code_eq_digit, Src.code_eq_digit, SctT.code_eq_digit,
      EW.ofCode?_digit, VCond.ofCode?_digit, Ordr.ofCode_digit, MW.ofCode_digit, Src.ofCode_digit, SctT.ofCode_digit,
      bitN_eq_digit, bitDigit_beq_one, r3, r5, r3?, Fin.eta, Fin.is_lt, Option.bind_some, Nat.reduceMul, Nat.reduceMod,
      Nat.reduceDiv, Nat.reduceLT, Nat.reduceEqDiff, ↓reduceIte, ↓reduceDIte, zero_add, add_zero, mul_one, ne_eq,
      not_false_eq_true, and_true, and_false, false_and, and_self]

/-- The forms from tdef to sel. -/
theorem decodeForm_encode_tileAndInteger {i : Instr} {w : Nat} (h : encode i = some w) (hs : i.sharesWord = false)
    (hl : 138 ≤ i.ctorIdx) (hu : i.ctorIdx < 186) : decodeForm w = some i := by
  cases i <;> simp only [Instr.ctorIdx, Nat.reduceLT, Nat.reduceLeDiff] at hl hu <;> cases h <;> cases hs
  all_goals
    simp only [decodeForm, decode2E, decode2F, decode30, decode31, decode34, decode38, decode39, decode3A, decode01, decode02,
      decode03, packed_div_above, packed_div_below, packed_mod_above, packed_mod_below, packed_mod_below_one,
      packed_mod_above_zero, packed_eq_iff, packed_eq_iff_zero, MMode.code_eq_digit, RCode.code_eq_digit,
      AccM.code_eq_digit, MMode.ofCode?_digit, RCode.ofCode?_digit, AccM.ofCode?_digit, bitN_eq_digit, bitDigit_beq_one, r3,
      r4, r5, r3?, r4?, Fin.eta, Fin.is_lt, Option.bind_some, Nat.reduceMul, Nat.reduceMod, Nat.reduceDiv, Nat.reduceLT,
      Nat.reduceEqDiff, ↓reduceIte, ↓reduceDIte, zero_add, add_zero, mul_one, ne_eq, not_false_eq_true, and_true, and_false,
      false_and, and_self]

/-- The forms from addImm to jalr. -/
theorem decodeForm_encode_immediateAndMemory {i : Instr} {w : Nat} (h : encode i = some w) (hs : i.sharesWord = false)
    (hl : 186 ≤ i.ctorIdx) (hu : i.ctorIdx < 219) : decodeForm w = some i := by
  cases i <;> simp only [Instr.ctorIdx, Nat.reduceLT, Nat.reduceLeDiff] at hl hu <;> cases h <;> cases hs
  all_goals
    simp only [decodeForm, decode04, decode05, decode06, decode07, decode08, decode09, decode0A, decode0B, decode0C, decode0D,
      decode0E, packed_div_above, packed_div_below, packed_mod_above, packed_mod_below_one, packed_div_below_one,
      packed_div_across, packed_eq_iff_one, Ordr.code_eq_digit, MW.code_eq_digit, LW.code_eq_digit, Ordr.ofCode_digit,
      MW.ofCode_digit, LW.ofCode_digit, ← BitVec.val_toFin, ofNat_eq_ofFin, BitVec.ofFin_toFin, r5, Fin.eta, Nat.reduceAdd,
      Nat.reduceMul, Nat.reduceMod, Nat.reduceDiv, Nat.reducePow, Nat.reduceSub, Nat.reduceLT, Nat.reduceEqDiff, ↓reduceIte,
      zero_add, add_zero, mul_one, ne_eq, not_false_eq_true, and_true, and_false, and_self]

/-- The forms from fadd to setvl. -/
theorem decodeForm_encode_floatAndSystem {i : Instr} {w : Nat} (h : encode i = some w) (hs : i.sharesWord = false) (hw : i.wf = true)
    (hl : 219 ≤ i.ctorIdx) (hu : i.ctorIdx < 250) : decodeForm w = some i := by
  cases i <;> simp only [Instr.ctorIdx, Nat.reduceLT, Nat.reduceLeDiff] at hl hu <;> cases h <;> cases hs
  case csrw.refl.refl => exact decodeForm_csrw hw
  all_goals
    simp only [decodeForm, decode10, decode11, decode12, decode13, decode14, decode15, decode17, packed_div_above, packed_div_below,
      packed_mod_above, packed_mod_below, packed_mod_below_one, packed_div_below_one, packed_div_across,
      packed_mod_above_zero, packed_eq_iff, packed_eq_iff_one, packed_eq_iff_zero, digit_eq_of_le, EW.code_eq_digit,
      SFT.code_eq_digit, Scope.code_eq_digit, PKind.code_eq_digit, Csr.code_eq_digit, Grp.code_eq_digit, EW.ofCode?_digit,
      SFT.ofCode?_digit, Scope.ofCode?_digit, PKind.ofCode?_digit, Csr.ofCode?_digit, Grp.ofCode_digit, ← BitVec.val_toFin,
      ofNat_eq_ofFin, BitVec.ofFin_toFin, r5, Fin.eta, Option.bind_some, Nat.reduceAdd, Nat.reduceMul, Nat.reduceMod,
      Nat.reduceDiv, Nat.reducePow, Nat.reduceSub, Nat.reduceLT, Nat.reduceLeDiff, Nat.reduceEqDiff, ↓reduceIte, zero_add,
      add_zero, mul_one, ne_eq, not_false_eq_true, and_true, and_false, false_and, and_self]

/-- PUSH and the forms after it. -/
theorem decodeForm_encode_others {i : Instr} {w : Nat} (h : encode i = some w) (hs : i.sharesWord = false) (hw : i.wf = true)
    (hl : 250 ≤ i.ctorIdx) : decodeForm w = some i := by
  cases i <;> simp only [Instr.ctorIdx, Nat.reduceLeDiff] at hl <;> cases h <;> cases hs
  case unofferedSyscService.refl.refl => exact decodeForm_unofferedSyscService hw
  all_goals
    simp only [decodeForm, decode32, decode33, decode36, decode37, decode38, decode3A, decode3B, decode3E, decode3F,
      packed_div_above, packed_div_below, packed_mod_above, packed_mod_below, packed_mod_below_one, packed_div_below_one,
      packed_mod_above_zero, packed_eq_iff, packed_eq_iff_zero, digit_eq_of_le, Port.val_eq_digit, Port.digit_lt,
      Port.mk_digit, ← BitVec.val_toFin, ofNat_eq_ofFin, BitVec.ofFin_toFin, r3, r5, r4?, port?, Fin.eta, Fin.is_lt,
      Option.bind_some, Nat.reduceMul, Nat.reduceMod, Nat.reduceDiv, Nat.reducePow, Nat.reduceLT, Nat.reduceLeDiff,
      Nat.reduceEqDiff, ↓reduceIte, ↓reduceDIte, zero_add, add_zero, mul_one, ↓Nat.div_one, ne_eq, not_false_eq_true,
      and_true, and_false, false_and, and_self]

theorem decodeForm_encode {i : Instr} {w : Nat} (h : encode i = some w) (hs : i.sharesWord = false) (hw : i.wf = true) :
    decodeForm w = some i := by
  obtain u31 | l31 := Nat.lt_or_ge i.ctorIdx 31
  · exact decodeForm_encode_vectorInteger h hs u31
  obtain u60 | l60 := Nat.lt_or_ge i.ctorIdx 60
  · exact decodeForm_encode_vectorScalarInteger h hs l31 u60
  obtain u89 | l89 := Nat.lt_or_ge i.ctorIdx 89
  · exact decodeForm_encode_vectorFloat h hs l60 u89
  obtain u117 | l117 := Nat.lt_or_ge i.ctorIdx 117
  · exact decodeForm_encode_vectorRearrange h hs l89 u117
  obtain u138 | l138 := Nat.lt_or_ge i.ctorIdx 138
  · exact decodeForm_encode_vectorMemory h hs l117 u138
  obtain u186 | l186 := Nat.lt_or_ge i.ctorIdx 186
  · exact decodeForm_encode_tileAndInteger h hs l138 u186
  obtain u219 | l219 := Nat.lt_or_ge i.ctorIdx 219
  · exact decodeForm_encode_immediateAndMemory h hs l186 u219
  obtain u250 | l250 := Nat.lt_or_ge i.ctorIdx 250
  · exact decodeForm_encode_floatAndSystem h hs hw l219 u250
  exact decodeForm_encode_others h hs hw l250

/-! ### A word that decodes is the word of what it decodes to

The part of a word from place p on is its head at p. A field is the difference of two heads, so the sum of the encoder telescopes,
from the lowest field up to the major code; what a field must be, the test of the decoder says. -/

/-- The part of a word from place p on. -/
def wordHead (w p : Nat) : Int := ((w / p : Nat) : Int)
theorem cast_div_eq_head (w p : Nat) : ((w / p : Nat) : Int) = wordHead w p := rfl
theorem head_div (w p q : Nat) : wordHead (w / p) q = wordHead w (p * q) := by
  rw [wordHead, wordHead, Nat.div_div_eq_div_mul]
theorem cast_mod_eq_head (w q : Nat) : ((w % q : Nat) : Int) = w - q * wordHead w q := by
  rw [wordHead, Int.natCast_mod, Int.natCast_div, Int.emod_def]

/-- Whatever form a decoder gives, the word is its word. -/
def Spells (w : Nat) (r : Option Instr) : Prop := ∀ i, r = some i → encode i = some w ∧ i.sharesWord = false

/-! The rules that go through a decoder. -/

theorem spells_none {w : Nat} : Spells w none := fun _ h => nomatch h

theorem spells_ite {w : Nat} {p : Prop} [Decidable p] {a b : Option Instr} (ha : p → Spells w a) (hb : Spells w b) :
    Spells w (if p then a else b) := by
  split
  · exact ha ‹_›
  · exact hb

theorem spells_bind {α : Type} {w : Nat} {o : Option α} {f : α → Option Instr} (h : ∀ x, o = some x → Spells w (f x)) :
    Spells w (o.bind f) := by
  cases o with
  | none => exact spells_none
  | some x => exact h x rfl

theorem spells_form {w n : Nat} {i : Instr} (he : encode i = some n) (hs : i.sharesWord = false) (h : n = w) :
    Spells w (some i) := by
  rintro _ ⟨⟩
  exact ⟨h ▸ he, hs⟩

/-! The majors, in parts: a rule for each branch of a decoder, then the sum of each form. -/

theorem decodeForm_spells_scalarMajors {w : Nat} (hu : w / 67108864 < 16) : Spells w (decodeForm w) := by
  interval_cases h : w / 67108864
  all_goals
    simp only [decodeForm, h, decode01, decode02, decode03, decode04, decode05, decode06, decode07, decode08, decode09, decode0A,
      decode0B, decode0C, decode0D, decode0E]
    repeat' first
      | exact spells_none
      | refine spells_ite ?_ ?_
      | refine spells_bind ?_
      | refine spells_form rfl rfl ?_
      | intro _
  all_goals
    simp only [r5, BitVec.toNat_ofNat, Ordr.code_ofCode, MW.code_ofCode, LW.code_ofCode, ← Int.natCast_inj, Nat.cast_add,
      Nat.cast_mul, Nat.cast_ofNat, cast_div_eq_head, head_div, cast_mod_eq_head, Nat.reduceMul, Nat.reducePow] at *
    omega

theorem decodeForm_spells_systemMajors {w : Nat} (hl : 16 ≤ w / 67108864) (hu : w / 67108864 < 24) : Spells w (decodeForm w) := by
  interval_cases h : w / 67108864
  all_goals
    simp only [decodeForm, h, decode10, decode11, decode12, decode13, decode14, decode15, decode17]
    repeat' first
      | exact spells_none
      | refine spells_ite ?_ ?_
      | refine spells_bind ?_
      | refine spells_form rfl rfl ?_
      | intro _
  all_goals
    simp only [r5, r3?_eq_some_iff, BitVec.toNat_ofNat, EW.ofCode?_eq_some_iff, SFT.ofCode?_eq_some_iff, Scope.ofCode?_eq_some_iff,
      PKind.ofCode?_eq_some_iff, Csr.ofCode?_eq_some_iff, Grp.code_ofCode, ← Int.natCast_inj, Nat.cast_add, Nat.cast_mul,
      Nat.cast_ofNat, cast_div_eq_head, head_div, cast_mod_eq_head, Nat.reduceMul, Nat.reducePow] at *
    omega

theorem decodeForm_spells_integerMajors {w : Nat} (hl : 24 ≤ w / 67108864) (hu : w / 67108864 < 32) : Spells w (decodeForm w) := by
  interval_cases h : w / 67108864
  all_goals
    simp only [decodeForm, h, decode18, decode19, decode1A, decode1B, decode1C, decode1D, decode1E, decode1F]
    repeat' first
      | exact spells_none
      | refine spells_ite ?_ ?_
      | refine spells_bind ?_
      | refine spells_form rfl rfl ?_
      | intro _
  all_goals
    simp only [r5, r3, r3?_eq_some_iff, IW.code_ofCode, ← Int.natCast_inj, Nat.cast_add, Nat.cast_mul, Nat.cast_ofNat,
      cast_div_eq_head, head_div, cast_mod_eq_head, Nat.reduceMul] at *
    omega

theorem decodeForm_spells_floatMajors {w : Nat} (hl : 32 ≤ w / 67108864) (hu : w / 67108864 < 40) : Spells w (decodeForm w) := by
  interval_cases h : w / 67108864
  all_goals
    simp only [decodeForm, h, decode20, decode21, decode22, decode23, decode24, decode25, decode26, decode27]
    repeat' first
      | exact spells_none
      | refine spells_ite ?_ ?_
      | refine spells_bind ?_
      | refine spells_form rfl rfl ?_
      | intro _
  all_goals
    simp only [r5, r3, r3?_eq_some_iff, bitN_beq_one, FF.ofCode?_eq_some_iff, Elem.ofCode?_eq_some_iff, IW.code_ofCode,
      ← Int.natCast_inj, Nat.cast_add, Nat.cast_mul, Nat.cast_ofNat, cast_div_eq_head, head_div, cast_mod_eq_head,
      Nat.reduceMul] at *
    omega

theorem decodeForm_spells_memoryMajors {w : Nat} (hl : 40 ≤ w / 67108864) (hu : w / 67108864 < 48) : Spells w (decodeForm w) := by
  interval_cases h : w / 67108864
  all_goals
    simp only [decodeForm, h, decode28, decode29, decode2A, decode2B, decode2C, decode2D, decode2E, decode2F]
    repeat' first
      | exact spells_none
      | refine spells_ite ?_ ?_
      | refine spells_bind ?_
      | refine spells_form rfl rfl ?_
      | intro _
  all_goals
    simp only [r5, r3, r3?_eq_some_iff, r4?_eq_some_iff, bitN_beq_one, EW.ofCode?_eq_some_iff, VCond.ofCode?_eq_some_iff,
      Ordr.code_ofCode, MW.code_ofCode, Src.code_ofCode, SctT.code_ofCode, ← Int.natCast_inj, Nat.cast_add, Nat.cast_mul,
      Nat.cast_ofNat, cast_div_eq_head, head_div, cast_mod_eq_head, Nat.reduceMul] at *
    omega

theorem decodeForm_spells_lastMajors {w : Nat} (hl : 48 ≤ w / 67108864) (hu : w / 67108864 < 64) : Spells w (decodeForm w) := by
  interval_cases h : w / 67108864
  all_goals
    simp only [decodeForm, h, decode30, decode31, decode32, decode33, decode34, decode36, decode37, decode38, decode39, decode3A,
      decode3B, decode3E, decode3F]
    repeat' first
      | exact spells_none
      | refine spells_ite ?_ ?_
      | refine spells_bind ?_
      | refine spells_form rfl rfl ?_
      | intro _
  all_goals
    simp only [r5, r4, r3, r3?_eq_some_iff, r4?_eq_some_iff, port?_eq_some_iff, bitN_beq_one, BitVec.toNat_ofNat,
      MMode.ofCode?_eq_some_iff, RCode.ofCode?_eq_some_iff, AccM.ofCode?_eq_some_iff, ← Int.natCast_inj, Nat.cast_add,
      Nat.cast_mul, Nat.cast_ofNat, Nat.div_one, cast_div_eq_head, head_div, cast_mod_eq_head, Nat.reduceMul, Nat.reducePow] at *
    omega

theorem decodeForm_spells {w : Nat} (hw : w < 2 ^ 32) : Spells w (decodeForm w) := by
  obtain u16 | l16 := Nat.lt_or_ge (w / 67108864) 16
  · exact decodeForm_spells_scalarMajors u16
  obtain u24 | l24 := Nat.lt_or_ge (w / 67108864) 24
  · exact decodeForm_spells_systemMajors l16 u24
  obtain u32 | l32 := Nat.lt_or_ge (w / 67108864) 32
  · exact decodeForm_spells_integerMajors l24 u32
  obtain u40 | l40 := Nat.lt_or_ge (w / 67108864) 40
  · exact decodeForm_spells_floatMajors l32 u40
  obtain u48 | l48 := Nat.lt_or_ge (w / 67108864) 48
  · exact decodeForm_spells_memoryMajors l40 u48
  exact decodeForm_spells_lastMajors l48 (by omega)

/-! ### Decode and encode agree (O58) -/

theorem decode_eq_ok_iff {w : Nat} {i : Instr} : decode w = .ok i ↔ decodeForm w = some i ∧ i.wf = true := by
  unfold decode
  cases decodeForm w with
  | none => simp
  | some j => by_cases hj : j.wf <;> simp [hj] <;> rintro rfl <;> simp [hj]

/-- Only a word of 32 bits has a form. -/
theorem lt_of_decodeForm {w : Nat} {i : Instr} (h : decodeForm w = some i) : w < 2 ^ 32 := by
  unfold decodeForm at h
  split at h
  all_goals first | omega | cases h

/-- Settles O58: the encoder's sum is taken apart by its places, and put together by its heads. -/
theorem decodeAndEncodeAgree : Obligations.DecodeAndEncodeAgree := by
  unfold Obligations.DecodeAndEncodeAgree
  refine ⟨fun i w hw hs h => ?_, fun i w hlt h => ?_⟩
  · have form := decodeForm_encode h hs hw
    exact ⟨lt_of_decodeForm form, decode_eq_ok_iff.2 ⟨form, hw⟩⟩
  · obtain ⟨form, hw⟩ := decode_eq_ok_iff.1 h
    obtain ⟨word, hs⟩ := decodeForm_spells hlt i form
    exact ⟨word, hw, hs⟩

end Sys2Proof
end

section
/-! SUPPORT. What a step does where nothing waits: it fetches the word at pc from a cached line, from the text of an object or from
memory, no test holds the word back, and its instruction runs (04: R65, R66; 16: R254, R255). -/

namespace Sys2Proof.Machine

open Sys2Proof.Safety

/-! ### A step that meets nothing but a fetch -/

/-- The state in which a step acts where no object retires: time has passed (R116). -/
def State.later (s : State) : State :=
  { s with elapsed := s.elapsed + 1 + Config.stepCycles s.ticks, ticks := s.ticks + 1, passed := false }

theorem State.elapsed_lt_later (s : State) : s.elapsed < s.later.elapsed := by
  show s.elapsed < s.elapsed + 1 + Config.stepCycles s.ticks
  omega

/-- Where no object retires none is unloaded (R248). -/
theorem State.settleObjs_eq {s : State} (h : ∀ o ∈ s.objs, o.st ≠ .retiring) : s.settleObjs = s := by
  have keeps : ∀ l : List Obj, (∀ o ∈ l, o.st ≠ .retiring) →
      l.foldl (fun x o => if o.st = .retiring && !x.refs o then x.unloadObj o else x) s = s := by
    intro l hl
    induction l with
    | nil => rfl
    | cons o l ih =>
      have stays : (decide (o.st = .retiring) && !s.refs o) = false := by simp [hl o List.mem_cons_self]
      rw [List.foldl_cons, stays]
      exact ih fun x hx => hl x (List.mem_cons_of_mem _ hx)
  exact keeps s.objs h

theorem State.tick_eq {s : State} (h : ∀ o ∈ s.objs, o.st ≠ .retiring) : s.tick = s.later :=
  State.settleObjs_eq (s := s.later) h

/-- Without an input, with no step of the Oasis kernel that waits, the strand that moves fetches. -/
theorem step_fetches {s : State} (hi : s.inputs = []) (hh : s.held = []) (ho : ∀ o ∈ s.objs, o.st ≠ .retiring) :
    step s = runFetched s.later.fetchNext := by
  have held : s.later.held = [] := hh
  have inputs : s.later.inputs = [] := hi
  simp only [step, State.tick_eq ho, held, State.nextHeld, inputs]

/-- A row that the environment supplies runs next. -/
theorem step_row {s : State} {i : Instr} {rest : List Input} (hi : s.inputs = .row i :: rest) (hh : s.held = [])
    (ho : ∀ o ∈ s.objs, o.st ≠ .retiring) : step s = runRow i { s.later with inputs := rest } := by
  have held : s.later.held = [] := hh
  have inputs : s.later.inputs = .row i :: rest := hi
  simp only [step, State.tick_eq ho, held, State.nextHeld, inputs]

/-- A child that waits for no parent may start (R288). -/
theorem State.mayStart_eq {s : State} (h : s.st.startAfter = none) : s.mayStart = true := by
  simp only [State.mayStart, h]

theorem State.mod_started {s : State} (h : s.st.startAfter = none) : (s.mod fun t => { t with startAfter := none }) = s := by
  show { s with st := { s.st with startAfter := none } } = s
  rw [← h]

theorem State.vectorGoesOn_eq {s : State} (hq : s.st.queue = []) (hs : s.st.sync = []) : s.vectorGoesOn = s := by
  simp [State.vectorGoesOn, hq, hs]

section
variable {s : State} (hr : s.st.stat = .running) (hst : s.st.startAfter = none) (hq : s.st.queue = []) (hs : s.st.sync = [])
include hr hst hq hs

/-- A strand whose scalar side is parked takes the instruction in its register (R291). -/
theorem State.fetchNext_parked (hp : s.st.park.scalar = true) : s.fetchNext = .run (instrOf s.st.ir) s := by
  simp [State.fetchNext, hr, State.mayStart_eq hst, State.mod_started hst, State.vectorGoesOn_eq hq hs, hp]

theorem State.fetchNext_error (hp : s.st.park.scalar = false) {c : Nat} (h : s.fetchWord = .error c) :
    s.fetchNext =
      .done ((s.mod fun t => { t with ir := 0 }).trapAccess c s.st.pc.toNat s.st.pc.toNat .fetch false) := by
  simp [State.fetchNext, hr, State.mayStart_eq hst, State.mod_started hst, State.vectorGoesOn_eq hq hs, hp, h]

theorem State.fetchNext_ok (hp : s.st.park.scalar = false) {w : BitVec 32} {t : State} (h : s.fetchWord = .ok (w, t)) :
    s.fetchNext = (t.mod fun x => { x with ir := w }).gate w := by
  simp [State.fetchNext, hr, State.mayStart_eq hst, State.mod_started hst, State.vectorGoesOn_eq hq hs, hp, h]

end

theorem instrOf_eq {w : BitVec 32} {i : Instr} (h : decode w.toNat = .ok i) : instrOf w = i := by
  simp only [instrOf, h]

/-! ### Accepted stores -/

theorem State.flushAll_nil {s : State} (h : ∀ k, (s.strand k).late = []) : s.flushAll = s := by
  have keeps : ∀ l : List Nat, l.foldl State.flushLate s = s := by
    intro l
    induction l with
    | nil => rfl
    | cons k l ih => rw [List.foldl_cons, State.flushLate_nil k (h k), ih]
  exact keeps _

theorem State.settleStores_nil {s : State} (h : ∀ k, (s.strand k).late = []) (i : Instr) : s.settleStores i = s := by
  unfold State.settleStores
  split
  · exact State.flushAll_nil h
  · split
    · exact State.flushLate_nil _ (h _)
    · rfl

/-- What strands have accepted depends on no field outside the strands. -/
theorem State.late_nil_of_same {s t : State} (hk : t.slot = s.slot) (ho : t.others = s.others) (hl : t.st.late = s.st.late)
    (h : ∀ k, (s.strand k).late = []) : ∀ k, (t.strand k).late = [] := by
  intro k
  have hs := h k
  unfold State.strand at hs ⊢
  rw [hk, ho]
  split at hs <;> rename_i hks
  · rw [if_pos hks, hl]; exact hs
  · rw [if_neg hks]; exact hs

/-! ### The tests on a fetched word -/

/-- No register waits where no bit of pend is set (R31). -/
theorem Strand.waitsFor_eq {t : Strand} (h : t.pend = 0) (r : SReg) : t.waitsFor r = false := by
  simp [Strand.waitsFor, h]

theorem State.stalls_eq {s : State} (h : s.st.pend = 0) (i : Instr) : s.stalls i = false := by
  have reads : (s.readList i).any s.st.waitsFor = false := by simp [Strand.waitsFor_eq h]
  unfold State.stalls
  rw [reads]
  cases i.dest with
  | none => simp
  | some d => simp [Strand.waitsFor_eq h d]

theorem State.undersized_eq {s : State} (h : s.st.clause = none ∨ s.st.csr.chkstall = false) (i : Instr) :
    s.undersized i = false := by
  unfold State.undersized
  rcases h with h | h <;> simp [h]

theorem Strand.behindAcquire_eq {t : Strand} (hq : t.queue = []) (hs : t.sync = []) (i : Instr) : t.behindAcquire i = false := by
  simp [Strand.behindAcquire, Strand.popWaits, hq, hs]

/-- With nothing under way every access has performed. -/
theorem Strand.accessesDone_eq {t : Strand} (hn : NothingBefore t) (hc : t.cmds = []) (hl : t.colls = []) :
    t.accessesDone = true := by
  obtain ⟨queue, copies, fifos⟩ := hn
  have words : t.wordsDone = true := by
    simp only [Strand.wordsDone, List.all_eq_true, Vector.mem_toList_iff, List.isEmpty_iff]
    intro x hx
    obtain ⟨n, hn, rfl⟩ := Vector.mem_iff_getElem.mp hx
    exact fifos ⟨n, hn⟩
  simp [Strand.accessesDone, Strand.copiesDone, Strand.cmdsDone, queue, copies, words, hc, hl]

theorem Strand.payFits_eq {t : Strand} {i : Instr} (h : t.pfx = none ∨ ∃ p, t.pfx = some p ∧ payOk i.pay p.toNat = true) :
    t.payFits i = true := by
  obtain h | ⟨p, h, ok⟩ := h
  · simp only [Strand.payFits, h]
  · simp only [Strand.payFits, h, ok]

/-- A fetched word that no test holds back runs (R65 to R71). -/
theorem State.gate_runs {s : State} {w : BitVec 32} {i : Instr} (hd : decode w.toNat = .ok i)
    (hlate : ∀ k, (s.strand k).late = [])
    (hpay : s.st.pfx = none ∨ ∃ p, s.st.pfx = some p ∧ payOk i.pay p.toNat = true) (hpend : s.st.pend = 0)
    (hclause : s.st.clause = none ∨ s.st.csr.chkstall = false) (hs : s.st.sync = []) (hn : NothingBefore s.st)
    (hc : s.st.cmds = []) (hl : s.st.colls = []) : s.gate w = .run i s := by
  unfold State.gate
  simp only [instrOf_eq hd, Strand.payFits_eq hpay, State.settleStores_nil hlate, State.undersized_eq hclause,
    State.stalls_eq hpend, Strand.behindAcquire_eq hn.1 hs, Strand.accessesDone_eq hn hc hl]
  simp

/-! ### The word at pc (R254 to R256) -/

@[simp] theorem State.l2Access_l1i (s : State) (c : BitVec 16) (pa : Nat) : (s.l2Access c pa).l1i = s.caches.l1i := by
  unfold State.l2Access
  dsimp only
  split
  · rfl
  · split
    · rfl
    · split <;> rfl

@[simp] theorem State.l2Lines_l1i (c : BitVec 16) (ls : List Nat) (s : State) :
    (s.l2Lines c ls).caches.l1i = s.caches.l1i := by
  induction ls generalizing s with
  | nil => rfl
  | cons l r ih => rw [State.l2Lines, ih]; exact s.l2Access_l1i _ _

theorem Caches.keepLeaf_l1i (k : Caches) (cache : Nat) (c : BitVec 16) (va : Nat) (leaf : Word) (size : Nat) :
    (k.keepLeaf cache c va leaf size).l1i = k.l1i := by
  simp only [Caches.keepLeaf, apply_ite Caches.l1i, ite_self]

@[simp] theorem State.keep_l1i (s : State) (w : Who) (a : Nat) : (s.keep w a).caches.l1i = s.caches.l1i := by
  unfold State.keep
  split
  · rfl
  · split
    · exact Caches.keepLeaf_l1i _ _ _ _ _ _
    · rfl

theorem State.fillLine_spec (s : State) (core : Nat) (c : BitVec 16) (va : Nat) : SameButCaches s (s.fillLine core c va) := by
  unfold State.fillLine
  dsimp only
  split
  · rfl
  · split
    · rfl
    · exact (SameButCaches.set s _).trans (State.l2Lines_spec _ _ _)

/-- A line that its core holds is not filled. -/
theorem State.fillLine_held {s : State} {core : Nat} {c : BitVec 16} {va : Nat} {x : ILine}
    (h : (s.caches.l1i.find? fun x => x.core = core && x.ctx = c && x.line = va / 64 * 64) = some x) :
    s.fillLine core c va = s := by
  have held := List.isSome_find? (xs := s.caches.l1i) (f := fun x => x.core = core && x.ctx = c && x.line = va / 64 * 64)
  rw [h] at held
  simp only [State.fillLine, ← held, Option.isSome_some, if_true]

section
variable {s : State} {core : Nat} {c : BitVec 16} {va : Nat}
  (h : ∀ x ∈ s.caches.l1i, ¬(x.core = core ∧ x.ctx = c ∧ x.line = va / 64 * 64))
include h

theorem State.not_lineCached : (s.caches.l1i.any fun x => x.core = core && x.ctx = c && x.line = va / 64 * 64) = false := by
  simp only [List.any_eq_false, Bool.and_eq_true, decide_eq_true_eq, and_assoc]
  exact h

/-- Outside every object nothing is filled. -/
theorem State.fillLine_outside (ho : s.objAt c (va / 64 * 64) = none) : s.fillLine core c va = s := by
  simp only [State.fillLine, State.not_lineCached h, Bool.false_eq_true, if_false, ho]

/-- A line that its core does not hold is expanded from the text of its object (R255). -/
theorem State.fillLine_find {o : Obj} (ho : s.objAt c (va / 64 * 64) = some o) :
    ∃ x, ((s.fillLine core c va).caches.l1i.find? fun x => x.core = core && x.ctx = c && x.line = va / 64 * 64) = some x ∧
      x.words = o.expand ((va / 64 * 64 - o.cbase) / 64) := by
  refine ⟨{ core := core, ctx := c, line := va / 64 * 64, words := o.expand ((va / 64 * 64 - o.cbase) / 64),
            pin := s.lineHeld core c o ((va / 64 * 64 - o.cbase) / 64) }, ?_, rfl⟩
  simp only [State.fillLine, State.not_lineCached h, Bool.false_eq_true, if_false, ho, State.l2Lines_l1i]
  exact List.find?_cons_of_pos (by simp)

end

/-- The word that a fetch takes from the cached line at its address, without a fault. -/
theorem State.fetchWord_line {s : State} {a l : Nat} {x : ILine} {w : BitVec 32} (ha : a = s.st.pc.toNat) (h4 : a % 4 = 0)
    (hf : s.formerText s.st.ctx a = false) (hl : s.place s.me a .fetch = .ok l)
    (hx : (((s.keep s.me a).fillLine (coreOf s.slot) s.st.ctx a).caches.l1i.find? fun x =>
      x.core = coreOf s.slot && x.ctx = s.st.ctx && x.line = a / 64 * 64) = some x)
    (hw : x.words.toList[a % 64 / 4]? = some w) :
    s.fetchWord = .ok (w, (s.keep s.me a).fillLine (coreOf s.slot) s.st.ctx a) := by
  subst ha
  have word : x.words[s.st.pc.toNat % 64 / 4]'(by omega) = w := by
    obtain ⟨hn, hw⟩ := List.getElem?_eq_some_iff.mp hw
    rw [← hw, Vector.getElem_toList]
  simp only [State.fetchWord, h4, hf, hl, hx, word]
  simp

/-- The word that a fetch takes from memory, where its core has no line at its address. -/
theorem State.fetchWord_memory {s : State} {a l : Nat} (ha : a = s.st.pc.toNat) (h4 : a % 4 = 0)
    (hf : s.formerText s.st.ctx a = false) (hl : s.place s.me a .fetch = .ok l)
    (hx : ∀ x ∈ s.caches.l1i, ¬(x.core = coreOf s.slot ∧ x.ctx = s.st.ctx ∧ x.line = a / 64 * 64))
    (ho : s.objAt s.st.ctx (a / 64 * 64) = none) :
    ∃ t, SameButCaches s t ∧ s.fetchWord = .ok (BitVec.ofNat 32 (s.get [l, l + 1, l + 2, l + 3]), t) := by
  subst ha
  have kept := s.keep_spec s.me s.st.pc.toNat
  have cached : ∀ x ∈ (s.keep s.me s.st.pc.toNat).caches.l1i,
      ¬(x.core = coreOf s.slot ∧ x.ctx = s.st.ctx ∧ x.line = s.st.pc.toNat / 64 * 64) := by
    rw [State.keep_l1i]; exact hx
  have outside : (s.keep s.me s.st.pc.toNat).objAt s.st.ctx (s.st.pc.toNat / 64 * 64) = none := by rw [kept]; exact ho
  have none_found : ((s.keep s.me s.st.pc.toNat).caches.l1i.find? fun x =>
      x.core = coreOf s.slot && x.ctx = s.st.ctx && x.line = s.st.pc.toNat / 64 * 64) = none := by
    simp only [List.find?_eq_none, Bool.and_eq_true, decide_eq_true_eq, and_assoc]
    exact cached
  have bytes : (s.keep s.me s.st.pc.toNat).get [l, l + 1, l + 2, l + 3] = s.get [l, l + 1, l + 2, l + 3] := by rw [kept]; rfl
  refine ⟨_, kept.trans (State.l2Lines_spec s.st.ctx (globalLines [l, l + 1, l + 2, l + 3]) _), ?_⟩
  simp only [State.fetchWord, h4, hf, hl, State.fillLine_outside cached outside, none_found, ← bytes]
  simp [List.range_succ]

/-- Word k of a line of an object (R254, R255). -/
theorem Obj.expand_word (o : Obj) (n : Nat) {k : Nat} (hk : k < 16) :
    (o.expand n).toList[k]? = some (expandWord (o.dicts.getD ((o.latt.getD n 0).toNat / 2 ^ 40 % 2 ^ 6) [])
      (o.text.drop ((o.latt.getD n 0).toNat % 2 ^ 40)) k) := by
  simp [Obj.expand, fld, hk]

/-- Where the word at an address of the strand that moves comes from: a cached line, the text of an object, or memory. -/
def State.WordAt (s : State) (a l : Nat) (w : BitVec 32) : Prop :=
  (∃ x, (s.caches.l1i.find? fun x => x.core = coreOf s.slot && x.ctx = s.st.ctx && x.line = a / 64 * 64) = some x ∧
      x.words.toList[a % 64 / 4]? = some w) ∨
    ((∀ x ∈ s.caches.l1i, ¬(x.core = coreOf s.slot ∧ x.ctx = s.st.ctx ∧ x.line = a / 64 * 64)) ∧
      ((∃ o, s.objAt s.st.ctx (a / 64 * 64) = some o ∧ w = expandWord (o.dicts.getD
          ((o.latt.getD ((a / 64 * 64 - o.cbase) / 64) 0).toNat / 2 ^ 40 % 2 ^ 6) [])
          (o.text.drop ((o.latt.getD ((a / 64 * 64 - o.cbase) / 64) 0).toNat % 2 ^ 40)) (a % 64 / 4)) ∨
        (s.objAt s.st.ctx (a / 64 * 64) = none ∧ w = BitVec.ofNat 32 (s.get [l, l + 1, l + 2, l + 3]))))

/-- A fetch without a fault takes the word that stands at pc, and changes only the caches. -/
theorem State.fetchWord_ok {s : State} {a l : Nat} {w : BitVec 32} (ha : a = s.st.pc.toNat) (h4 : a % 4 = 0)
    (hf : s.formerText s.st.ctx a = false) (hl : s.place s.me a .fetch = .ok l) (hw : s.WordAt a l w) :
    ∃ t, SameButCaches s t ∧ s.fetchWord = .ok (w, t) := by
  have kept := s.keep_spec s.me a
  have lines := s.keep_l1i s.me a
  obtain ⟨x, found, word⟩ | ⟨uncached, ⟨o, text, rfl⟩ | ⟨outside, rfl⟩⟩ := hw
  · rw [← lines] at found
    have filled : ((s.keep s.me a).fillLine (coreOf s.slot) s.st.ctx a) = s.keep s.me a := State.fillLine_held found
    exact ⟨_, kept.trans (State.fillLine_spec _ _ _ _), State.fetchWord_line ha h4 hf hl (by rw [filled]; exact found) word⟩
  · rw [← lines] at uncached
    have text' : (s.keep s.me a).objAt s.st.ctx (a / 64 * 64) = some o := by rw [kept]; exact text
    obtain ⟨x, found, words⟩ := State.fillLine_find uncached text'
    refine ⟨_, kept.trans (State.fillLine_spec _ _ _ _), State.fetchWord_line ha h4 hf hl found ?_⟩
    rw [words]
    exact o.expand_word _ (by omega)
  · exact State.fetchWord_memory ha h4 hf hl uncached outside

/-- The former text of an unloaded object faults with cause 0x08 (R248). -/
theorem State.fetchWord_former {s : State} (h4 : s.st.pc.toNat % 4 = 0) (hf : s.formerText s.st.ctx s.st.pc.toNat = true) :
    s.fetchWord = .error 8 := by
  simp [State.fetchWord, h4, hf]

/-! ### Events -/

theorem isEvent_eq {i : Instr} (he : encode i = none) (hi : ∀ w, i ≠ .reservedEncoding w) : isEvent i = true := by
  unfold isEvent
  split
  · exact absurd rfl (hi _)
  · rw [he]; rfl

/-- No request waits for a page where no QPOP is parked (R269). -/
theorem State.rowHeld_eq {s : State} (h : ∀ q ∈ s.queues, q.parked = []) (i : Instr) : s.rowHeld i = false := by
  have range : ∀ c va len, s.rangeHeld c va len = false := by
    intro c va len
    have none_parked : (s.queues.any fun k => k.ctx = c && !k.parked.isEmpty) = false := by
      simp only [List.any_eq_false]
      intro q hq
      simp [h q hq]
    simp [State.rangeHeld, none_parked]
  unfold State.rowHeld
  split <;> simp [range]

/-- A request is taken at once where no step waits and no QPOP is parked (R250, R269, R343). -/
theorem State.waitsTurn_eq {s : State} (hh : s.held = []) (hq : ∀ q ∈ s.queues, q.parked = []) (i : Instr) :
    s.waitsTurn i = false := by
  unfold State.waitsTurn
  split <;> simp [hh, State.rowHeld_eq hq]

/-- A row that the environment chooses runs where nothing it would follow waits. -/
theorem runRow_eq {s : State} {i : Instr} (he : encode i = none) (hi : ∀ w, i ≠ .reservedEncoding w) (hh : s.held = [])
    (hlate : ∀ k, (s.strand k).late = []) (hq : ∀ q ∈ s.queues, q.parked = []) : runRow i s = exec i s := by
  simp [runRow, isEvent_eq he hi, State.flushAll_nil hlate, State.waitsTurn_eq hh hq]

end Sys2Proof.Machine
end

section
/-! PROOFS. The family of the encoding (04), continued: governing words and reserved encodings (O16), words of the encoding tables
(O57), and the step that runs the decoded instruction (O56). -/

namespace Sys2Proof.Machine

open Sys2Proof.Safety

/-! ### Governing words and reserved encodings (O16) -/

/-- The counts of a clause stand above its length (R68). -/
theorem clauseCounts_eq (c : BitVec 26) : c.extractLsb' 3 21 = BitVec.ofNat 21 (c.toNat / 8) := by
  rw [BitVec.extractLsb', Nat.shiftRight_eq_div_pow]

/-- Settles O16, by the two branches of CLH and by the trap that a reserved encoding takes. -/
theorem governingWords : Obligations.GoverningWords := by
  unfold Obligations.GoverningWords
  refine ⟨fun s p => ⟨_, rfl, rfl⟩, fun s c hwf hc => ?_, fun s c hc h => ?_,
    fun s w h => State.raise_delivers h (by decide) _⟩
  · have starts : (s.st.clause.isSome || !clauseOk c) = false := by
      have ok : clauseOk c = true := hwf
      simp [hc, ok]
    have answer : exec (.clh c) s = .next (s.mod fun t => { t with
        pc := t.pc + 4, pfx := none, pfxLive := false,
        clause := some { pos := 1, len := c.toNat % 8, cnt := BitVec.ofNat 21 (c.toNat / 8), log := [] } }) := by
      show execClh c s = _
      simp only [execClh, starts, Bool.false_eq_true, if_false, clauseCounts_eq]
    exact ⟨_, answer, rfl⟩
  · have answer : exec (.clh c) s = s.raise 1 (s.st.ir.setWidth 64) := by
      show execClh c s = _
      simp only [execClh, hc, Bool.true_or, if_true]
    rw [answer]
    exact State.raise_delivers h (by decide) _

/-! ### Words of the encoding tables (O57) -/

/-- Settles O57, word by word. -/
theorem decodingSanity : Obligations.DecodingSanity := by
  unfold Obligations.DecodingSanity
  refine ⟨?_, ?_, ?_, ?_, ?_, ?_, ?_, ?_⟩ <;> decide +kernel

/-! ### The step (O56) -/

/-- Settles O56: what a fetch gives, what the tests on its word leave, and what a step does before either. -/
theorem stepRunsDecodedInstruction : Obligations.StepRunsDecodedInstruction := by
  unfold Obligations.StepRunsDecodedInstruction
  refine ⟨?fetched, ?parked, ?former, ?event⟩
  case fetched =>
    intro s i w a l hi hh hlate ho hr hst hs hn hc hcl hp ha h4 hf hl hw hd hpay hpend hclause
    obtain ⟨t, same, word⟩ := State.fetchWord_ok (s := s.later) ha h4 hf hl hw
    have frame : t.mod (fun x => { x with ir := w }) =
        { s.later with st := { s.st with ir := w }, caches := t.caches } := by rw [same]; rfl
    have runs : State.gate (t.mod fun x => { x with ir := w }) w = .run i (t.mod fun x => { x with ir := w }) := by
      rw [frame]
      exact State.gate_runs hd (State.late_nil_of_same (s := s) rfl rfl rfl hlate) hpay hpend hclause hs hn hc hcl
    refine ⟨t.mod fun x => { x with ir := w }, ?_, ?_, ?_⟩
    · rw [step_fetches hi hh ho, State.fetchNext_ok (s := s.later) hr hst hn.1 hs hp word, runs, runFetched]
    · rw [frame]; exact s.elapsed_lt_later
    · rw [frame]; rfl
  case parked =>
    intro s i hi hh hlate ho hr hst hq hs hp hd
    refine ⟨s.later, ?_, s.elapsed_lt_later, rfl⟩
    rw [step_fetches hi hh ho, State.fetchNext_parked (s := s.later) hr hst hq hs hp, runFetched]
    exact congrArg (exec · s.later) (instrOf_eq hd)
  case former =>
    intro s hi hh hlate ho hr hst hq hs hp h4 hf
    have answer : step s = .next ((s.later.mod fun t => { t with ir := 0 }).trap 8
        (BitVec.ofNat 64 s.st.pc.toNat) false) := by
      rw [step_fetches hi hh ho, State.fetchNext_error (s := s.later) hr hst hq hs hp (State.fetchWord_former h4 hf)]
      rfl
    rw [State.trap_page, BitVec.ofNat_toNat] at answer
    exact ⟨_, answer, s.elapsed_lt_later, rfl⟩
  case event =>
    intro s i rest hi he hh hlate ho hq hne
    refine ⟨{ s.later with inputs := rest }, ?_, s.elapsed_lt_later, rfl⟩
    rw [step_row hi hh ho]
    exact runRow_eq he hne hh (State.late_nil_of_same (s := s) rfl rfl rfl hlate) hq

end Sys2Proof.Machine
end

section
/-! PROOFS. The family of the scalar forms (06), first part: integer forms on registers and on immediates (O1 to O4). -/

namespace Sys2Proof.Machine

open Sys2Proof.Safety

/-! ### Functions of 64-bit values (R97) -/

section
variable (x y : Word) (k : Nat)

theorem ofInt_add_toInt : BitVec.ofInt 64 (x.toInt + y.toInt) = x + y := by simp [BitVec.ofInt_add]

theorem ofInt_sub_toInt : BitVec.ofInt 64 (x.toInt - y.toInt) = x - y := by
  apply BitVec.eq_of_toInt_eq
  simp [BitVec.toInt_sub]

theorem ofNat_mul_two_pow : BitVec.ofNat 64 (x.toNat * 2 ^ k) = x <<< k := by
  apply BitVec.eq_of_toNat_eq
  simp [Nat.shiftLeft_eq]

theorem ofNat_div_two_pow : BitVec.ofNat 64 (x.toNat / 2 ^ k) = x >>> k := by
  rw [← Nat.shiftRight_eq_div_pow, ← BitVec.toNat_ushiftRight, BitVec.ofNat_toNat, BitVec.setWidth_eq]

theorem ofInt_div_two_pow : BitVec.ofInt 64 (x.toInt / 2 ^ k) = x.sshiftRight k := by
  have shift : x.toInt / 2 ^ k = x.toInt >>> k := by rw [Int.shiftRight_eq_div_pow]; norm_cast
  rw [shift, ← BitVec.toInt_sshiftRight, BitVec.ofInt_toInt]

theorem ite_eq_flag64 (p : Prop) [Decidable p] : (if p then 1 else 0) = flag64 (decide p) := by
  by_cases h : p <;> simp [h, flag64, bitN]

theorem ite_le_eq_smin : (if x.toInt ≤ y.toInt then x else y) = smin x y := by
  simp only [smin, ← not_le, ite_not]

theorem ite_le_eq_smax : (if y.toInt ≤ x.toInt then x else y) = smax x y := by
  simp only [smax, ← not_le, ite_not]

theorem ite_le_eq_umin : (if x.toNat ≤ y.toNat then x else y) = umin x y := by
  simp only [umin, ← not_le, ite_not]

theorem ite_le_eq_umax : (if y.toNat ≤ x.toNat then x else y) = umax x y := by
  simp only [umax, ← not_le, ite_not]

theorem ofNat_mul_toNat : BitVec.ofNat 64 (x.toNat * y.toNat) = x * y := by
  apply BitVec.eq_of_toNat_eq
  simp

theorem srem64_eq : (if y = 0 then x else BitVec.ofInt 64 (x.toInt - y.toInt * x.toInt.tdiv y.toInt)) = srem64 x y := by
  rw [srem64, Int.tmod_def]

theorem urem64_eq : (if y = 0 then x else BitVec.ofNat 64 (x.toNat - y.toNat * (x.toNat / y.toNat))) = urem64 x y := by
  rw [urem64, Nat.mod_eq_sub_mul_div]

end

/-- THE FORMS OF R97: each runs an operation on its two registers, the one that the statements give by integers. -/
theorem exec_regs3 {i : Instr} {d a b : SReg} (h : regs3 i = some (d, a, b)) :
    ∃ lat f, (∀ s, exec i s = s.alu d a b lat f) ∧ ∀ x y, op2 i x y = some (f x y) := by
  cases i with
  | add => cases h; exact ⟨_, _, fun _ => rfl, fun x y => congrArg some (ofInt_add_toInt x y)⟩
  | sub => cases h; exact ⟨_, _, fun _ => rfl, fun x y => congrArg some (ofInt_sub_toInt x y)⟩
  | and => cases h; exact ⟨_, _, fun _ => rfl, fun _ _ => rfl⟩
  | or => cases h; exact ⟨_, _, fun _ => rfl, fun _ _ => rfl⟩
  | xor => cases h; exact ⟨_, _, fun _ => rfl, fun _ _ => rfl⟩
  | sll => cases h; exact ⟨_, _, fun _ => rfl, fun x _ => congrArg some (ofNat_mul_two_pow x _)⟩
  | srl => cases h; exact ⟨_, _, fun _ => rfl, fun x _ => congrArg some (ofNat_div_two_pow x _)⟩
  | sra => cases h; exact ⟨_, _, fun _ => rfl, fun x _ => congrArg some (ofInt_div_two_pow x _)⟩
  | slt => cases h; exact ⟨_, _, fun _ => rfl, fun _ _ => congrArg some (ite_eq_flag64 _)⟩
  | sltn => cases h; exact ⟨_, _, fun _ => rfl, fun _ _ => congrArg some (ite_eq_flag64 _)⟩
  | min => cases h; exact ⟨_, _, fun _ => rfl, fun x y => congrArg some (ite_le_eq_smin x y)⟩
  | max => cases h; exact ⟨_, _, fun _ => rfl, fun x y => congrArg some (ite_le_eq_smax x y)⟩
  | minn => cases h; exact ⟨_, _, fun _ => rfl, fun x y => congrArg some (ite_le_eq_umin x y)⟩
  | maxn => cases h; exact ⟨_, _, fun _ => rfl, fun x y => congrArg some (ite_le_eq_umax x y)⟩
  | mul => cases h; exact ⟨_, _, fun _ => rfl, fun x y => congrArg some (ofNat_mul_toNat x y)⟩
  | mulh => cases h; exact ⟨_, _, fun _ => rfl, fun _ _ => rfl⟩
  | mulhn => cases h; exact ⟨_, _, fun _ => rfl, fun _ _ => rfl⟩
  | div => cases h; exact ⟨_, _, fun _ => rfl, fun _ _ => rfl⟩
  | divn => cases h; exact ⟨_, _, fun _ => rfl, fun _ _ => rfl⟩
  | rem => cases h; exact ⟨_, _, fun _ => rfl, fun x y => congrArg some (srem64_eq x y)⟩
  | remn => cases h; exact ⟨_, _, fun _ => rfl, fun x y => congrArg some (urem64_eq x y)⟩
  | _ => cases h

/-! ### What CLZ, CTZ and POPC count -/

theorem lt_two_pow_bitLen (n : Nat) : n < 2 ^ bitLen n := by
  unfold bitLen
  split
  · next h => simp [h]
  · exact Nat.lt_log2_self

/-- The bits of a number end with its highest one. -/
theorem testBit_bitLen {n : Nat} (h : 0 < bitLen n) : n.testBit (bitLen n - 1) = true := by
  unfold bitLen at h ⊢
  split at h
  · exact absurd h (by decide)
  · next hn => simpa [hn] using Nat.testBit_log2 hn

theorem bitLen_le (x : Word) : bitLen x.toNat ≤ 64 := by
  unfold bitLen
  split
  · omega
  · next h => exact (Nat.log2_lt h).mpr x.isLt

theorem clz64_spec (x : Word) : clz64 x ≤ 64 ∧ (∀ k, 64 - clz64 x ≤ k → x.getLsbD k = false) ∧
    (clz64 x < 64 → x.getLsbD (63 - clz64 x) = true) := by
  have hle := bitLen_le x
  have hclz : clz64 x = 64 - bitLen x.toNat := rfl
  refine ⟨by omega, fun k hk => ?_, fun hlt => ?_⟩
  · have hb : bitLen x.toNat ≤ k := by omega
    exact Nat.testBit_lt_two_pow ((lt_two_pow_bitLen _).trans_le (Nat.pow_le_pow_right (by decide) hb))
  · have hb : 63 - clz64 x = bitLen x.toNat - 1 := by omega
    rw [hb]
    exact testBit_bitLen (by omega)

theorem ctz64_spec (x : Word) : ctz64 x ≤ 64 ∧ (∀ k, k < ctz64 x → x.getLsbD k = false) ∧
    (ctz64 x < 64 → x.getLsbD (ctz64 x) = true) := by
  unfold ctz64
  cases h : (List.range 64).find? fun i => x.getLsbD i with
  | none =>
    have clear := List.find?_range_eq_none.mp h
    simpa using fun k hk => by simpa using clear k hk
  | some n =>
    obtain ⟨hn, hlt, clear⟩ := List.find?_range_eq_some.mp h
    exact ⟨(List.mem_range.mp hlt).le, fun k hk => by simpa using clear k hk, fun _ => hn⟩

/-- Settles O1: the forms of R97 by their operation, and the three counts by what they find. -/
theorem integerRegisterForms : Obligations.IntegerRegisterForms := by
  unfold Obligations.IntegerRegisterForms
  refine ⟨fun i s d a b v hr hv => ?_, fun s d a => ?_, fun s d a => ?_, fun s d a => ?_⟩
  · obtain ⟨lat, f, run, value⟩ := exec_regs3 hr
    rw [value] at hv
    rw [run, ← Option.some.inj hv]
    exact s.result_spec d _ lat
  · obtain ⟨t, answer, result⟩ := s.result_spec d (BitVec.ofNat 64 (clz64 (s.r a))) 1
    exact ⟨t, _, answer, result, clz64_spec (s.r a)⟩
  · obtain ⟨t, answer, result⟩ := s.result_spec d (BitVec.ofNat 64 (ctz64 (s.r a))) 1
    exact ⟨t, _, answer, result, ctz64_spec (s.r a)⟩
  · rw [List.countP_eq_length_filter]
    exact s.result_spec d (BitVec.ofNat 64 (popc64 (s.r a))) 1

/-! ### SEL (R98) -/

/-- Settles O2: the value by SEL's one branch, and the word by the place of its fourth register. -/
theorem selectForm : Obligations.SelectForm := by
  unfold Obligations.SelectForm
  intro s d a b c
  refine ⟨s.result_spec d _ 1, _, rfl, ?_, ?_⟩
  all_goals
    have := d.isLt; have := a.isLt; have := b.isLt; have := c.isLt
    omega

/-! ### Immediates (R66, R99, R100) -/

/-- An immediate with its payload, or without one, as the statements put it together (R66). -/
theorem Strand.imm_eq (t : Strand) {n : Nat} (f : BitVec n) : t.imm n f.toNat = immOf t n f := by
  unfold Strand.imm immOf
  cases t.pfx with
  | none => simp
  | some p =>
    have joined : BitVec.ofNat (26 + n) (p.toNat * 2 ^ n + f.toNat) = p ++ f := by
      apply BitVec.eq_of_toNat_eq
      have hp := p.isLt
      have hf := f.isLt
      have fits : p.toNat * 2 ^ n + f.toNat < 2 ^ (26 + n) := by rw [Nat.pow_add]; nlinarith
      rw [BitVec.toNat_ofNat, Nat.mod_eq_of_lt fits, BitVec.toNat_append, ← Nat.shiftLeft_add_eq_or_of_lt hf,
        Nat.shiftLeft_eq]
    simp only [joined]

/-- LIH's value is exact (R100). -/
theorem toInt_sext17_shift (f : BitVec 17) : (f.signExtend 64 <<< 16).toInt = f.toInt * 2 ^ 16 := by
  have hlo := f.le_toInt
  have hhi := f.toInt_lt
  have product : (((f.signExtend 64).toNat * 2 ^ 16 : Nat) : Int).bmod (2 ^ 64) = ((f.signExtend 64).toInt * 2 ^ 16).bmod (2 ^ 64) := by
    rw [BitVec.toInt_eq_toNat_bmod, Int.bmod_mul_bmod]
    push_cast
    rfl
  rw [BitVec.toInt_shiftLeft, Nat.shiftLeft_eq, product, BitVec.toInt_signExtend_of_le (by decide)]
  apply Int.bmod_eq_of_le <;> omega

theorem ofInt_sext17_mul (f : BitVec 17) : BitVec.ofInt 64 (f.toInt * 2 ^ 16) = f.signExtend 64 <<< 16 := by
  rw [← toInt_sext17_shift, BitVec.ofInt_toInt]

/-- LIH's value carries its sign from bit 32 on (R100). -/
theorem getLsbD_sext17_shift (f : BitVec 17) {k : Nat} (h : 32 ≤ k) (hk : k < 64) :
    (f.signExtend 64 <<< 16).getLsbD k = f.msb := by
  have low : ¬k < 16 := by omega
  have high : k - 16 < 64 := by omega
  rw [BitVec.getLsbD_shiftLeft, BitVec.getLsbD_signExtend]
  by_cases inField : k - 16 < 17
  · have sign : k - 16 = 16 := by omega
    simp [hk, low, sign, BitVec.msb_eq_getLsbD_last]
  · simp [hk, low, high, inField]

theorem toNat_sext17_shift_mod (f : BitVec 17) : (f.signExtend 64 <<< 16).toNat % 2 ^ 16 = 0 := by
  rw [BitVec.toNat_shiftLeft, Nat.shiftLeft_eq]
  omega

section
variable {s : State} {d a : SReg} {v : Word}

/-- A form whose immediate may have a payload writes its operation on sa and the immediate. -/
theorem State.aluImm_eq {n : Nat} {f : BitVec n} {g : Word → Word → Word} (h : v = g (s.r a) (immOf s.st n f)) :
    s.aluImm d a n f.toNat g = s.result d v 1 := by
  rw [h, ← Strand.imm_eq]; rfl

/-- THE IMMEDIATE FORMS (R99, R100): each writes the value that the statements give. -/
theorem exec_immResult {i : Instr} (h : immResult i s = some (d, v)) : exec i s = s.result d v 1 := by
  cases i with
  | addImm => cases h; exact State.aluImm_eq (ofInt_add_toInt _ _)
  | andImm => cases h; exact State.aluImm_eq rfl
  | orImm => cases h; exact State.aluImm_eq rfl
  | xorImm => cases h; exact State.aluImm_eq rfl
  | sltImm => cases h; exact State.aluImm_eq (g := fun x y => flag64 (decide (x.toInt < y.toInt))) (ite_eq_flag64 _)
  | sltnImm => cases h; exact State.aluImm_eq (g := fun x y => flag64 (decide (x.toNat < y.toNat))) (ite_eq_flag64 _)
  | sllImm => cases h; rw [ofNat_mul_two_pow]; rfl
  | srlImm => cases h; rw [ofNat_div_two_pow]; rfl
  | sraImm => cases h; rw [ofInt_div_two_pow]; rfl
  | minImm => cases h; exact State.aluImm_eq (ite_le_eq_smin _ _)
  | maxImm => cases h; exact State.aluImm_eq (ite_le_eq_smax _ _)
  | minnImm => cases h; exact State.aluImm_eq (ite_le_eq_umin _ _)
  | maxnImm => cases h; exact State.aluImm_eq (ite_le_eq_umax _ _)
  | lih => cases h; rw [ofInt_sext17_mul]; rfl
  | _ => cases h

end

/-- Settles O3, by the immediate that each form reads and its operation on it. -/
theorem immediateForms : Obligations.ImmediateForms := by
  unfold Obligations.ImmediateForms
  intro i s d v h
  rw [exec_immResult h]
  exact s.result_spec d v 1

/-- Settles O4: the value by its parts, and the word by the encoding table. -/
theorem loadImmediateHigh : Obligations.LoadImmediateHigh := by
  unfold Obligations.LoadImmediateHigh
  intro s d f
  obtain ⟨t, answer, result⟩ := s.result_spec d (f.signExtend 64 <<< 16) 1
  refine ⟨t, _, answer, result, toInt_sext17_shift f, toNat_sext17_shift_mod f, fun k h hk => ?_, rfl, rfl⟩
  rw [getLsbD_sext17_shift f h hk, getLsbD_sext17_shift f (le_refl 32) (by decide)]

end Sys2Proof.Machine
end

section
/-! PROOFS. The family of the scalar forms (06): loads, stores and atomics, and what their faults do (O5 to O8). -/

namespace Sys2Proof.Machine

open Sys2Proof.Safety

/-! ### Places of an aligned access -/

/-- An aligned access whose size divides 64 has consecutive places. -/
theorem State.locs_consecutive {s : State} {w : Who} {ea n : Nat} {k : Acc} {ls : List Nat} (h64 : n ∣ 64) (h : ea % n = 0)
    (hl : s.locs w ea n k = .ok ls) : ∃ l, ls = (List.range n).map fun i => l + i := by
  have oneRun : ea % 64 + n ≤ 64 := by
    obtain ⟨q, hq⟩ := h64
    obtain ⟨j, hj⟩ : n ∣ ea % 64 := (Nat.dvd_mod_iff ⟨q, hq⟩).mpr (Nat.dvd_of_mod_eq_zero h)
    have lt : ea % 64 < 64 := Nat.mod_lt _ (by decide)
    have : j < q := Nat.lt_of_mul_lt_mul_left (a := n) (by omega)
    calc ea % 64 + n = n * (j + 1) := by rw [hj]; ring
      _ ≤ n * q := Nat.mul_le_mul_left n this
      _ = 64 := hq.symm
  unfold State.locs at hl
  rw [if_pos oneRun] at hl
  split at hl
  · exact absurd hl (by simp)
  · next l _ => exact ⟨l, (Except.ok.inj hl).symm⟩

section
variable {s : State} {w : Who} {ea n : Nat} {k : Acc} {ls : List Nat}

theorem State.locs_nodup (h64 : n ∣ 64) (h : ea % n = 0) (hl : s.locs w ea n k = .ok ls) : ls.Nodup := by
  obtain ⟨l, rfl⟩ := State.locs_consecutive h64 h hl
  exact List.nodup_range.map fun i j hij => Nat.add_left_cancel hij

theorem State.locs_length (h64 : n ∣ 64) (h : ea % n = 0) (hl : s.locs w ea n k = .ok ls) : ls.length = n := by
  obtain ⟨l, rfl⟩ := State.locs_consecutive h64 h hl
  simp

end

theorem LW.bytes_dvd (w : LW) : w.bytes ∣ 64 := by cases w <;> decide

theorem LW.bytes_pos (w : LW) : 0 < w.bytes := by cases w <;> decide

theorem MW.bytes_dvd (w : MW) : w.bits / 8 ∣ 64 := by cases w <;> decide

theorem MW.pow_bytes (w : MW) : 256 ^ (w.bits / 8) = 2 ^ w.bits := by cases w <;> decide

/-- The address of a scalar access (R101, R103). -/
theorem State.ea_eq (s : State) (a : SReg) {n : Nat} (f : BitVec n) :
    BitVec.ofInt 64 ((s.r a).toInt + (immOf s.st n f).toInt) = s.ea a n f.toNat := by
  rw [ofInt_add_toInt, ← Strand.imm_eq]; rfl

/-! ### What a store leaves in memory -/

section
variable {s t : State} {ls : List Nat} {v : Nat}

theorem holds_of_putBytes {m : List Host.Cell} (hm : t.mem = putBytes m ls v) (hn : ls.Nodup) : Holds t ls v := by
  intro i hi
  rw [hm, List.getD_eq_getElem _ _ hi]
  exact get_putBytes_inside ls m v i hn hi

theorem sameOutside_of_putBytes (hm : t.mem = putBytes s.mem ls v) : SameOutside ls s t := fun a ha => by
  rw [hm]; exact get_putBytes_outside ls s.mem v a ha

theorem sameMemory_of_eq (hm : t.mem = s.mem) : SameMemory s t := fun a => by rw [hm]

/-- A number read from places is one of as many bytes. -/
theorem State.get_lt (s : State) : ∀ ls : List Nat, s.get ls < 256 ^ ls.length
  | [] => by simp [State.get]
  | l :: ls => by
    have rest := s.get_lt ls
    have byte := (Memory.get s.mem l).isLt
    rw [State.get, List.length_cons, Nat.pow_succ]
    omega

theorem State.get_of_mem_eq (hm : t.mem = s.mem) (ls : List Nat) : t.get ls = s.get ls :=
  s.get_congr t ls fun a _ => by rw [hm]

end

/-! ### Frames of an access -/

/-- The same machine but for its caches and memory. -/
def SameButMemory (s t : State) : Prop := t = { s with mem := t.mem, caches := t.caches }

section
variable {s u t : State} {d : SReg} {v : Word}

theorem SameButCaches.mem (h : SameButCaches s u) : u.mem = s.mem := by rw [h]

theorem SameButCaches.sameButMemory (h : SameButCaches s u) : SameButMemory s u := by
  unfold SameButMemory; rw [h]

theorem SameButMemory.trans (h : SameButMemory s u) (h' : SameButMemory u t) : SameButMemory s t := by
  unfold SameButMemory at *; rw [h', h]

theorem SameButMemory.st (h : SameButMemory s u) : u.st = s.st := by rw [h]

theorem SameButMemory.me (h : SameButMemory s u) : u.me = s.me := by rw [h]; rfl

theorem SameButMemory.storeNow (s : State) (w : Who) (ls : List Nat) (x : Nat) : SameButMemory s (s.storeNow w ls x) := by
  unfold SameButMemory; rw [s.storeNow_spec w ls x]; rfl

/-- A result that is written after the access changes the registers of the state before it. -/
theorem SameButMemory.result (h : SameButMemory s u) (hr : ScalarResult u t d v) :
    Wrote s t d v ∧ Passed s t ∧ OnlyRegsMem s t := by
  obtain ⟨⟨wrote, others⟩, ⟨pc, pfx, live, clause⟩, only, -⟩ := hr
  rw [h.st] at others pc clause
  refine ⟨⟨wrote, others⟩, ⟨pc, pfx, live, clause⟩, ?_⟩
  unfold OnlyRegs at only
  unfold OnlyRegsMem
  rw [only, h]

/-- A step to the next word after a change that leaves the place in the program. -/
theorem passed_advance_of {s u : State} (hpc : u.st.pc = s.st.pc) (hc : u.st.clause = s.st.clause) : Passed s u.advance :=
  ⟨congrArg (· + 4) hpc, rfl, rfl, hc ▸ clause_advance u.st⟩

theorem State.passed_advance (s : State) : Passed s s.advance := passed_advance_of rfl rfl

/-- The strand moves on after an access that writes no register. -/
theorem SameButMemory.advance (h : SameButMemory s u) :
    (∀ r, u.advance.st.reg r = s.st.reg r) ∧ Passed s u.advance ∧ OnlyRegsMem s u.advance := by
  refine ⟨fun r => by rw [h]; rfl, passed_advance_of (by rw [h.st]) (by rw [h.st]), ?_⟩
  unfold OnlyRegsMem; rw [h]; rfl

end

/-! ### Loads and stores (R101, R102, R230) -/

section
variable {s : State} {ls : List Nat}

theorem State.settled_eq (h : NoneLate s ls) : s.settled ls = s := by
  have apart : (s.st.late.any fun p => meet p.1 ls) = false := by
    refine List.any_eq_false.mpr fun p hp => ?_
    simpa [meet] using h p hp
  simp [State.settled, apart]

/-- The strand as it is when the one store that it has accepted has performed. -/
def State.settledOne (s : State) (ls : List Nat) (v : Nat) : State :=
  { s with st := { s.st with late := [] } }.storeNow s.me ls v

theorem State.settled_one {v : Nat} (h : s.st.late = [(ls, v)]) (hne : ls ≠ []) : s.settled ls = s.settledOne ls v := by
  have meets : meet ls ls = true := by
    obtain ⟨l, r, rfl⟩ := List.exists_cons_of_ne_nil hne
    simp [meet]
  simp [State.settled, State.settledOne, State.flushLate, h, meets, State.storeAll, State.modStrand, State.putStrand, State.me]

variable {ea n : Nat}

/-- A load with no accepted store before it: g extends the bytes at the address (R101). -/
theorem State.load_spec (g : Nat → Word) (d : SReg) (h : ea % n = 0) (hl : s.locs s.me ea n .read = .ok ls)
    (hn : NoneLate s ls) : ∃ t, s.scalarAccess ea n .read
        (fun u ls => (u.settled ls).result d (g ((u.settled ls).get ls))) = .next t ∧
      Wrote s t d (g (s.get ls)) ∧ Passed s t ∧ OnlyRegsMem s t ∧ SameMemory s t := by
  obtain ⟨u, same, run⟩ := State.scalarAccess_ok
    (fun (u : State) ls => (u.settled ls).result d (g ((u.settled ls).get ls))) h hl
  have frame := same.sameButMemory
  have settled : u.settled ls = u := State.settled_eq (by unfold NoneLate; rwa [frame.st])
  obtain ⟨t, answer, result⟩ := u.result_spec d (g (s.get ls)) 0
  obtain ⟨wrote, passed, only⟩ := frame.result result
  refine ⟨t, ?_, wrote, passed, only, fun a => ?_⟩
  · rw [run, settled, State.get_of_mem_eq same.mem, answer]
  · rw [result.2.2.2 a, same.mem]

/-- A load whose bytes an accepted store has still to write: it performs first (R230). -/
theorem State.load_late (g : Nat → Word) (d : SReg) {v : Nat} (h : ea % n = 0) (hl : s.locs s.me ea n .read = .ok ls)
    (hlate : s.st.late = [(ls, v)]) (hne : ls ≠ []) (hnodup : ls.Nodup) : ∃ t, s.scalarAccess ea n .read
        (fun u ls => (u.settled ls).result d (g ((u.settled ls).get ls))) = .next t ∧
      Wrote s t d (g (v % 256 ^ ls.length)) ∧ Passed s t ∧ t.st.late = [] ∧
      OnlyRegsMem s { t with st := { t.st with late := s.st.late } } ∧ Holds t ls v ∧ SameOutside ls s t := by
  obtain ⟨u, same, run⟩ := State.scalarAccess_ok
    (fun (u : State) ls => (u.settled ls).result d (g ((u.settled ls).get ls))) h hl
  have settled : u.settled ls = u.settledOne ls v := State.settled_one (by rw [same.sameButMemory.st, hlate]) hne
  have emptied : SameButMemory { s with st := { s.st with late := [] } } (u.settledOne ls v) := by
    have late : SameButMemory { s with st := { s.st with late := [] } } { u with st := { u.st with late := [] } } := by
      unfold SameButMemory; rw [same]
    exact late.trans (SameButMemory.storeNow _ u.me ls v)
  have mem : (u.settledOne ls v).mem = putBytes s.mem ls v := by
    unfold State.settledOne
    rw [State.storeNow_mem]
    exact congrArg (putBytes · ls v) same.mem
  have value : (u.settledOne ls v).get ls = v % 256 ^ ls.length := by
    rw [← s.get_put ls v hnodup]
    exact State.get_of_mem_eq mem ls
  obtain ⟨t, answer, result⟩ := (u.settledOne ls v).result_spec d (g (v % 256 ^ ls.length)) 0
  obtain ⟨wrote, passed, only⟩ := emptied.result result
  have written : t.mem = putBytes s.mem ls v := by
    have : t.mem = (u.settledOne ls v).mem := by rw [result.2.2.1]
    rw [this, mem]
  refine ⟨t, ?_, wrote, passed, ?_, ?_, holds_of_putBytes written hnodup, sameOutside_of_putBytes written⟩
  · rw [run, settled, value, answer]
  · rw [only]
  · unfold OnlyRegsMem at only ⊢
    rw [only]

end

/-- Settles O5, by a load that finds no accepted store at its bytes and one that finds a single one there. -/
theorem scalarLoads : Obligations.ScalarLoads := by
  unfold Obligations.ScalarLoads
  rintro s d a w f ea ls rfl haligned hl
  rw [State.ea_eq] at haligned hl
  have length := State.locs_length (LW.bytes_dvd w) haligned hl
  refine ⟨fun hn => ⟨?_, ?_⟩, fun v hlate => ?_⟩
  · exact State.load_spec (fun x => (BitVec.ofNat (8 * w.bytes) x).signExtend 64) d haligned hl hn
  · exact State.load_spec (BitVec.ofNat 64) d haligned hl hn
  · have hne : ls ≠ [] := List.ne_nil_of_length_pos (length ▸ LW.bytes_pos w)
    rw [← length]
    exact State.load_late (BitVec.ofNat 64) d haligned hl hlate hne (State.locs_nodup (LW.bytes_dvd w) haligned hl)

/-- Settles O6, by the two ways in which a store is accepted. -/
theorem scalarStores : Obligations.ScalarStores := by
  unfold Obligations.ScalarStores
  rintro s d a w f ea ls rfl haligned hl
  rw [State.ea_eq] at haligned hl
  obtain ⟨u, same, run⟩ := State.scalarAccess_ok
    (fun (u : State) ls => Host.Outcome.next (u.accept ls (u.r d).toNat).advance) haligned hl
  have frame := same.sameButMemory
  have value : u.r d = s.r d := congrArg (Strand.r · d) frame.st
  rw [value] at run
  refine ⟨fun hon hn => ?_, fun hon => ?_⟩
  · have settled : u.settled ls = u := State.settled_eq (by unfold NoneLate; rwa [frame.st])
    have accepted : u.accept ls (s.r d).toNat = u.storeNow u.me ls (s.r d).toNat := by
      simp [State.accept, frame.st, hon, settled]
    have written : (u.storeNow u.me ls (s.r d).toNat).advance.mem = putBytes s.mem ls (s.r d).toNat := by
      simp [same.mem]
    obtain ⟨regs, passed, only⟩ := (frame.trans (SameButMemory.storeNow u u.me ls (s.r d).toNat)).advance
    exact ⟨_, by rw [← accepted]; exact run, State.locs_length (LW.bytes_dvd w) haligned hl,
      holds_of_putBytes written (State.locs_nodup (LW.bytes_dvd w) haligned hl), sameOutside_of_putBytes written, regs, passed, only⟩
  · have accepted : u.accept ls (s.r d).toNat = u.mod fun t => { t with late := t.late ++ [(ls, (s.r d).toNat)] } := by
      simp [State.accept, frame.st, hon]
    obtain ⟨regs, passed, only⟩ := frame.advance
    refine ⟨_, run, ?_, sameMemory_of_eq ?_, ?_, ?_, ?_⟩
    all_goals rw [accepted, same]
    · rfl
    · rfl
    · exact fun r => rfl
    · exact s.passed_advance
    · rfl

/-! ### Atomics (R103, R104) -/

section
variable {s : State} {ls : List Nat}

/-- AN ATOMIC: sd takes the old value, and memory the new one, if there is one. -/
theorem State.atomic_spec (d b : SReg) (w : MW) (f : Nat → Option Nat) (h : (s.ea b 0 0).toNat % (w.bits / 8) = 0)
    (hl : s.locs s.me (s.ea b 0 0).toNat (w.bits / 8) .rw = .ok ls) :
    ∃ t, s.atomic d b w f = .next t ∧ Wrote s t d ((BitVec.ofNat w.bits (s.get ls)).signExtend 64) ∧
      (∀ v, f (s.get ls) = some v → Holds t ls v) ∧ (f (s.get ls) = none → SameMemory s t) ∧
      SameOutside ls s t ∧ Passed s t ∧ OnlyRegsMem s t := by
  obtain ⟨u, same, run⟩ := State.scalarAccess_ok (fun (u : State) ls =>
    (match f (u.get ls) with | some v => u.storeNow u.me ls v | none => u.l2Lines u.st.ctx (globalLines ls)).result d
      ((BitVec.ofNat w.bits (u.get ls)).signExtend 64)) h hl
  have old : u.get ls = s.get ls := State.get_of_mem_eq same.mem ls
  have answer : s.atomic d b w f = _ := run
  rw [old] at answer
  cases hf : f (s.get ls) with
  | some v =>
    rw [hf] at answer
    obtain ⟨t, next, result⟩ := (u.storeNow u.me ls v).result_spec d ((BitVec.ofNat w.bits (s.get ls)).signExtend 64) 0
    obtain ⟨wrote, passed, only⟩ := (same.sameButMemory.trans (SameButMemory.storeNow u u.me ls v)).result result
    have written : t.mem = putBytes s.mem ls v := by
      have : t.mem = (u.storeNow u.me ls v).mem := by rw [result.2.2.1]
      rw [this, State.storeNow_mem, same.mem]
    refine ⟨t, answer.trans next, wrote, ?_, by simp, sameOutside_of_putBytes written, passed, only⟩
    rintro x ⟨⟩
    exact holds_of_putBytes written (State.locs_nodup (MW.bytes_dvd w) h hl)
  | none =>
    rw [hf] at answer
    obtain ⟨t, next, result⟩ := (u.l2Lines u.st.ctx (globalLines ls)).result_spec d ((BitVec.ofNat w.bits (s.get ls)).signExtend 64) 0
    have touched := same.trans (State.l2Lines_spec u.st.ctx (globalLines ls) u)
    obtain ⟨wrote, passed, only⟩ := touched.sameButMemory.result result
    have kept : SameMemory s t := sameMemory_of_eq (by
      have : t.mem = (u.l2Lines u.st.ctx (globalLines ls)).mem := by rw [result.2.2.1]
      rw [this, touched.mem])
    exact ⟨t, answer.trans next, wrote, by simp, fun _ => kept, fun a _ => kept a, passed, only⟩

end

theorem sx_toNat {w : Nat} (x : BitVec w) : sx w x.toNat = x.toInt := by simp [sx]

/-- The forms of AMO with the update that each makes (R103). -/
theorem exec_amoRegs {i : Instr} {d a b : SReg} {w : MW} (h : amoRegs i = some (d, a, b, w)) :
    ∃ o, (∀ s, exec i s = s.amo d a b w o) ∧
      ∀ {n} (old x : BitVec n) {new}, amoNew i n old x = some new → o.apply n old.toNat x.toNat = new.toNat := by
  cases i with
  | amoSwap => cases h; exact ⟨.swap, fun _ => rfl, by rintro n old x _ ⟨⟩; rfl⟩
  | amoAdd => cases h; exact ⟨.add, fun _ => rfl, by rintro n old x _ ⟨⟩; exact (BitVec.toNat_add old x).symm⟩
  | amoAnd => cases h; exact ⟨.and, fun _ => rfl, by rintro n old x _ ⟨⟩; exact (BitVec.toNat_and old x).symm⟩
  | amoOr => cases h; exact ⟨.or, fun _ => rfl, by rintro n old x _ ⟨⟩; exact (BitVec.toNat_or old x).symm⟩
  | amoXor => cases h; exact ⟨.xor, fun _ => rfl, by rintro n old x _ ⟨⟩; exact (BitVec.toNat_xor old x).symm⟩
  | amoMin =>
    cases h
    refine ⟨.min, fun _ => rfl, ?_⟩
    rintro n old x _ ⟨⟩
    simp only [AmoOp.apply, sx_toNat]
    split <;> rfl
  | amoMax =>
    cases h
    refine ⟨.max, fun _ => rfl, ?_⟩
    rintro n old x _ ⟨⟩
    simp only [AmoOp.apply, sx_toNat]
    split <;> rfl
  | _ => cases h

/-- Settles O7, by the update that each form of AMO makes and by CAS's comparison. -/
theorem scalarAtomics : Obligations.ScalarAtomics := by
  unfold Obligations.ScalarAtomics
  constructor
  · rintro i s d a b w ea ls new hi rfl haligned hl hnew
    rw [State.ea_eq] at haligned hl
    have length := State.locs_length (MW.bytes_dvd w) haligned hl
    have bound : s.get ls < 2 ^ w.bits := by rw [← MW.pow_bytes w, ← length]; exact s.get_lt ls
    obtain ⟨o, run, update⟩ := exec_amoRegs hi
    have value := update _ _ hnew
    rw [BitVec.toNat_ofNat, Nat.mod_eq_of_lt bound, BitVec.toNat_setWidth] at value
    obtain ⟨t, answer, wrote, holds, -, outside, passed, only⟩ := State.atomic_spec d b w
      (fun old => some (o.apply w.bits old ((s.r a).toNat % 2 ^ w.bits))) haligned hl
    exact ⟨t, (run s).trans answer, wrote, holds _ (congrArg some value), length, outside, passed, only⟩
  · rintro s d a b r w ea ls rfl haligned hl
    rw [State.ea_eq] at haligned hl
    obtain ⟨t, answer, wrote, holds, kept, outside, passed, only⟩ := State.atomic_spec d b w
      (fun old => if old = (s.r d).toNat % 2 ^ w.bits then some ((s.r a).toNat % 2 ^ w.bits) else none) haligned hl
    simp only [BitVec.toNat_setWidth]
    exact ⟨t, answer, wrote, fun heq => holds _ (if_pos heq), fun hne => kept (if_neg hne), outside, passed, only⟩

/-! ### Faults (R102, R336, R384) -/

theorem State.amo_access (s : State) (d a b : SReg) (w : MW) (o : AmoOp) :
    ∃ c, s.amo d a b w o = s.scalarAccess (s.ea b 0 0).toNat (w.bits / 8) .rw c := by
  unfold State.amo State.atomic
  exact ⟨_, rfl⟩

/-- Every scalar access form is a checked access at the address, of the size and kind, that the statements give. -/
theorem exec_accessOf {i : Instr} {s : State} {ea : Word} {n : Nat} {k : Acc} (h : accessOf i s = some (ea, n, k)) :
    ∃ c, exec i s = s.scalarAccess ea.toNat n k c := by
  cases i with
  | ld d a w f => cases h; simp only [State.ea_eq]; exact ⟨_, (rfl : execLd d a w f s = _)⟩
  | ldn d a w f => cases h; simp only [State.ea_eq]; exact ⟨_, (rfl : execLdn d a w f s = _)⟩
  | st d a w f => cases h; simp only [State.ea_eq]; exact ⟨_, (rfl : execSt d a w f s = _)⟩
  | amoSwap d a b _ w => cases h; simp only [State.ea_eq]; exact s.amo_access d a b w .swap
  | amoAdd d a b _ w => cases h; simp only [State.ea_eq]; exact s.amo_access d a b w .add
  | amoAnd d a b _ w => cases h; simp only [State.ea_eq]; exact s.amo_access d a b w .and
  | amoOr d a b _ w => cases h; simp only [State.ea_eq]; exact s.amo_access d a b w .or
  | amoXor d a b _ w => cases h; simp only [State.ea_eq]; exact s.amo_access d a b w .xor
  | amoMin d a b _ w => cases h; simp only [State.ea_eq]; exact s.amo_access d a b w .min
  | amoMax d a b _ w => cases h; simp only [State.ea_eq]; exact s.amo_access d a b w .max
  | cas d a b r w =>
    cases h
    simp only [State.ea_eq]
    show ∃ c, execCas d a b r w s = _
    unfold execCas State.atomic
    exact ⟨_, rfl⟩
  | _ => cases h

theorem Hamada.seg_setSeg (h : Hamada) (g : Segment) : (h.setSeg g).seg = g := by simp [Hamada.setSeg, Hamada.seg]

/-- An open segment stays the one in use, with its entries (R385). -/
theorem Hamada.ready_open {h : Hamada} (hs : h.seg.isSealed = false) :
    h.ready.seg.entries = h.seg.entries ∧ h.ready.nextSeq = h.nextSeq ∧ h.ready.chain = h.chain := by
  have opened : h.ready = if h.seg.entries.isEmpty then
      { (h.setSeg { h.seg with first := h.nextSeq }) with seqf := h.nextSeq + 4096 } else h := by
    unfold Hamada.ready
    rw [hs]; rfl
  rw [opened]
  split
  · have kept := congrArg Segment.entries (h.seg_setSeg { h.seg with first := h.nextSeq })
    exact ⟨kept, rfl, rfl⟩
  · exact ⟨rfl, rfl, rfl⟩

theorem Hamada.push_entries (h : Hamada) (type origin : Nat) (c : BitVec 16) (body : BitVec 512) :
    (h.push type origin c body).seg.entries = h.seg.entries ++ [auditEntry h.nextSeq type origin c body h.chain] :=
  congrArg Segment.entries (h.seg_setSeg { h.seg with entries := _ })

theorem Hamada.places_pos {h : Hamada} (hs : h.seg.isSealed = false) (hl : h.seg.entries.length + 1 < 4095) : 0 < h.places := by
  simp only [Hamada.places, hs, Bool.false_eq_true, if_false]
  omega

/-- An entry goes into an open log at once, where the segment does not end with it (R380, R384). -/
theorem Hamada.event_open {h : Hamada} (hw : h.waiting = []) (hs : h.seg.isSealed = false)
    (hl : h.seg.entries.length + 1 < 4095) (type : Nat) (c : BitVec 16) (body : BitVec 512) :
    (h.event type c body).seg.entries = h.seg.entries ++ [auditEntry h.nextSeq type 0 c body h.chain] := by
  obtain ⟨entries, seq, chain⟩ := Hamada.ready_open hs
  have pushed := h.ready.push_entries type 0 c body
  rw [entries, seq, chain] at pushed
  have room : ¬4095 ≤ (h.ready.push type 0 c body).seg.entries.length := by
    rw [pushed, List.length_append, List.length_singleton]; omega
  simp only [Hamada.event, hw, List.isEmpty_nil, Hamada.places_pos hs hl, decide_true, Bool.and_self, if_true, Hamada.append]
  rw [if_neg room, pushed]

theorem pow_byte (n : Nat) : 256 ^ n = 2 ^ (8 * n) := by rw [pow_mul]; rfl

/-- The body of the audit entry of a violation (R381, log 31). -/
theorem violation_body (slot va k how : Nat) :
    [(0, slot), (8, va), (16, k), (17, how)].foldl (fun a p => a + p.2 * 256 ^ p.1) 0 =
      slot + va * 2 ^ 64 + k * 2 ^ 128 + how * 2 ^ 136 := by
  rw [List.foldl_cons, List.foldl_cons, List.foldl_cons, List.foldl_cons, List.foldl_nil]
  simp only [pow_byte, pow_zero, mul_one, zero_add, Nat.reduceMul, -Nat.reducePow]

/-- The report of a violation (R360). -/
theorem violation_report (c : BitVec 16) (slot va k how : Nat) :
    mkReport 0x82 0 c 0 [(8, va), (16, slot), (18, k), (19, how)] =
      BitVec.ofNat 512 (0x82 + c.toNat * 2 ^ 32 + va * 2 ^ 64 + slot * 2 ^ 128 + k * 2 ^ 144 + how * 2 ^ 152) := by
  have untagged : BitVec.toNat (0 : BitVec 16) = 0 := rfl
  rw [mkReport, List.foldl_cons, List.foldl_cons, List.foldl_cons, List.foldl_cons, List.foldl_nil, untagged]
  simp only [pow_byte, zero_mul, add_zero, Nat.reduceMul, -Nat.reducePow]

/-- A violation is logged and told (R336, R360, R381). -/
theorem State.violation_told {s : State} (h : LogOpen s) (c : BitVec 16) (slot : Nat) (va : Word) (k : Acc) (how : Nat) :
    ViolationTold s (s.violation c slot va k how) c slot va.toNat k how := by
  obtain ⟨hw, hs, hl⟩ := h
  unfold ViolationTold
  rw [← violation_body, ← violation_report]
  exact ⟨Hamada.event_open hw hs hl 5 c _, rfl⟩

/-- Settles O8, by the order of the checks and by the trap that each of their failures takes. -/
theorem scalarAccessFaults : Obligations.ScalarAccessFaults := by
  unfold Obligations.ScalarAccessFaults
  intro i s ea n k hi
  obtain ⟨K, run⟩ := exec_accessOf hi
  rw [run]
  refine ⟨fun hmis hh => ?_, fun c b haligned hl => ?_⟩
  · rw [State.scalarAccess_misaligned _ hmis, BitVec.ofNat_toNat, BitVec.setWidth_eq]
    exact State.raise_delivers hh (by decide) ea
  · rw [State.scalarAccess_fault _ haligned hl]
    have address : BitVec.ofNat 64 ea.toNat = ea := by simp
    refine ⟨fun hc hh => ?space, fun hc => ?page, fun hc hlog hh => ?violation, fun hc hfull => ?full⟩
    case space =>
      obtain ⟨h8, h9⟩ : c ≠ 8 ∧ c ≠ 9 := by omega
      have taken : s.trapAccess c ea.toNat b k false = s.trap c ea false := by
        simp only [State.trapAccess, h8, h9, if_false, address]
      rw [taken]
      exact State.raise_delivers hh h8 ea
    case page =>
      subst hc
      have taken : s.trapAccess 8 ea.toNat b k false = s.trap 8 (BitVec.ofNat 64 b) false := rfl
      rw [taken, State.trap_page]
      exact ⟨_, rfl, rfl⟩
    case violation =>
      subst hc
      have room : s.hamada.places ≠ 0 := (Hamada.places_pos hlog.2.1 hlog.2.2).ne'
      have taken : s.trapAccess 9 ea.toNat b k false = (s.violation s.st.ctx s.slot ea k 0).trap 9 ea false := by
        simp only [State.trapAccess, if_true, room, if_false, address]
      obtain ⟨t, answer, delivered⟩ := State.raise_delivers (s := s.violation s.st.ctx s.slot ea k 0) hh (c := 9) (by decide) ea
      obtain ⟨hamada, host⟩ : t.hamada = (s.violation s.st.ctx s.slot ea k 0).hamada ∧
          t.host = (s.violation s.st.ctx s.slot ea k 0).host := by rw [delivered.2.1]; exact ⟨rfl, rfl⟩
      refine ⟨t, taken ▸ answer, ?_, ?_⟩
      · rw [hamada, host]; exact delivered
      · unfold ViolationTold
        rw [hamada, host]
        exact State.violation_told hlog _ _ _ _ _
    case full =>
      subst hc
      simp [State.trapAccess, hfull]

end Sys2Proof.Machine
end

section
/-! PROOFS. The family of the scalar forms (06): branches and jumps, floating forms, control registers, and TRAP (O9 to O14). -/

namespace Sys2Proof.Machine

open Sys2Proof.Safety

/-! ### Branches and jumps (R105, R106) -/

theorem ofInt_toInt_eq_setWidth (x : Word) : BitVec.ofInt 56 x.toInt = x.setWidth 56 := by
  apply BitVec.eq_of_toNat_eq
  rw [BitVec.toNat_ofInt, BitVec.toInt_eq_toNat_cond, BitVec.toNat_setWidth]
  have := x.isLt
  split <;> omega

theorem State.target_eq (s : State) {n : Nat} (f : BitVec n) : s.target n f.toNat = targetOf s (immOf s.st n f) := by
  rw [State.target, targetOf, Strand.imm_eq, BitVec.ofInt_add, BitVec.ofInt_mul, BitVec.mul_comm, ofInt_toInt_eq_setWidth]
  simp

/-- The branches, each with its condition and its offset (R105). -/
theorem exec_branchOf {i : Instr} {s : State} {c : Prop} {f : BitVec 13} (h : branchOf i s = some (c, f)) :
    ∃ b : Bool, exec i s = s.branch b f ∧ (b = true ↔ c) := by
  cases i with
  | beq => cases h; exact ⟨_, rfl, beq_iff_eq⟩
  | bne => cases h; exact ⟨_, rfl, bne_iff_ne⟩
  | blt => cases h; exact ⟨_, rfl, decide_eq_true_iff⟩
  | bge => cases h; exact ⟨_, rfl, decide_eq_true_iff⟩
  | bltn => cases h; exact ⟨_, rfl, decide_eq_true_iff⟩
  | bgen => cases h; exact ⟨_, rfl, decide_eq_true_iff⟩
  | _ => cases h

/-- Settles O9: a branch jumps or passes by its condition. -/
theorem branches : Obligations.Branches := by
  unfold Obligations.Branches
  intro i s c f h
  obtain ⟨b, answer, cond⟩ := exec_branchOf h
  rw [answer]
  cases b with
  | true =>
    have holds : c := cond.mp rfl
    refine ⟨s.jump (s.target 13 f.toNat), rfl, rfl, fun a => rfl, fun _ => ?_, fun not => absurd holds not⟩
    rw [← State.target_eq]
    exact ⟨rfl, rfl, rfl, rfl, rfl⟩
  | false =>
    have fails : ¬c := fun hc => absurd (cond.mpr hc) (by decide)
    exact ⟨s.advance, rfl, rfl, fun a => rfl, fun hc => absurd hc fails, fun _ => ⟨s.passed_advance, rfl⟩⟩

/-- A jump that writes a link register (R105). -/
theorem State.setR_jump_spec (s : State) (d : SReg) (v : Word) (lat : Nat) (pc : BitVec 56) :
    Wrote s ((s.setR d v lat).jump pc) d v ∧ WentTo s ((s.setR d v lat).jump pc) pc ∧
      SameMemory s ((s.setR d v lat).jump pc) := by
  refine ⟨⟨?_, fun r hr => ?_⟩, ⟨rfl, rfl, rfl, rfl, ?_⟩, fun a => rfl⟩
  · show (s.st.setR d v lat).reg d = _
    rw [Strand.reg_setR]
    by_cases h : d = 0 <;> simp [h, Strand.reg]
  · show (s.st.setR d v lat).reg r = _
    rw [Strand.reg_setR, if_neg fun h => hr h.1]
  · unfold State.setR State.jump State.mod Strand.setR
    by_cases h : d = 0 <;> simp [h]

theorem jumpFault_misaligned {t : Word} (h : t.toNat % 4 ≠ 0) : jumpFault t = some 7 := if_pos h

theorem jumpFault_space {t : Word} (h : t.toNat % 4 = 0) (h' : 2 ^ 56 ≤ t.toNat) : jumpFault t = some 5 := by
  have outside : t.toNat / 2 ^ 56 ≠ 0 := (Nat.div_pos h' (by decide)).ne'
  rw [jumpFault, if_neg (not_not.mpr h), if_pos outside]

theorem jumpFault_none {t : Word} (h : t.toNat % 4 = 0) (h' : t.toNat < 2 ^ 56) : jumpFault t = none := by
  have inside : ¬t.toNat / 2 ^ 56 ≠ 0 := not_not.mpr (Nat.div_eq_of_lt h')
  rw [jumpFault, if_neg (not_not.mpr h), if_neg inside]

/-- JALR with a target that may not be jumped to (R106). -/
theorem exec_jalr_fault {s : State} {d a : SReg} {f : BitVec 16} {c : Nat} (h : jumpFault (s.ea a 16 f.toNat) = some c) :
    exec (.jalr d a f) s = s.raise c (s.ea a 16 f.toNat) := by
  show execJalr d a f s = _
  simp only [execJalr, h]

/-- Settles O10: JAL links and jumps; JALR checks its target first. -/
theorem jumps : Obligations.Jumps := by
  unfold Obligations.Jumps
  refine ⟨fun s d f => ?_, ?_⟩
  · rw [← State.target_eq]
    exact ⟨_, rfl, s.setR_jump_spec d s.link64 1 _⟩
  · rintro s d a f x rfl
    rw [State.ea_eq]
    refine ⟨fun h h' => ?_, fun h hh => ?_, fun h h' hh => ?_⟩
    · have answer : exec (.jalr d a f) s = .next ((s.setR d s.link64 1).jump ((s.ea a 16 f.toNat).setWidth 56)) := by
        show execJalr d a f s = _
        simp only [execJalr, jumpFault_none h h']
      exact ⟨_, answer, s.setR_jump_spec d s.link64 1 _⟩
    · rw [exec_jalr_fault (jumpFault_misaligned h)]
      exact State.raise_delivers hh (by decide) _
    · rw [exec_jalr_fault (jumpFault_space h h')]
      exact State.raise_delivers hh (by decide) _

/-! ### Scalar floating forms (R108 to R111) -/

/-- The floating forms: each gives the value and the classes that the statements give. -/
theorem exec_floatOf {i : Instr} {s : State} {d : SReg} {v : Word} {c : BitVec 6} (h : floatOf i s = some (d, v, c)) :
    ∃ lat, exec i s = s.scalarResult d v c lat := by
  cases i with
  | fadd => cases h; exact ⟨_, rfl⟩
  | fsub => cases h; exact ⟨_, rfl⟩
  | fmul => cases h; exact ⟨_, rfl⟩
  | fdiv => cases h; exact ⟨_, rfl⟩
  | fsqrt => cases h; exact ⟨_, rfl⟩
  | fma => cases h; exact ⟨_, rfl⟩
  | fmin => cases h; exact ⟨_, rfl⟩
  | fmax => cases h; exact ⟨_, rfl⟩
  | fclass => cases h; exact ⟨_, rfl⟩
  | fcmpEq => cases h; simp only [ite_eq_flag64, Bool.decide_eq_true]; exact ⟨_, rfl⟩
  | fcmpLt => cases h; simp only [ite_eq_flag64, Bool.decide_eq_true]; exact ⟨_, rfl⟩
  | fcmpLe => cases h; simp only [ite_eq_flag64, Bool.decide_eq_true]; exact ⟨_, rfl⟩
  | fcvt => cases h; exact ⟨_, rfl⟩
  | _ => cases h

/-- Where no class is in trap mode all are flagged and the result is written (R110). -/
theorem State.scalarResult_flags {s : State} {c : BitVec 6} (h : NoTrap s c) (d : SReg) (v : Word) (lat : Nat) :
    ∃ t, s.scalarResult d v c lat = .next t ∧ FloatResult s t d v c := by
  obtain ⟨t, answer, wrote, passed, only, same⟩ := (s.raiseScalar c).result_spec d v lat
  refine ⟨t, ?_, wrote, passed, ?_, same⟩
  · rw [State.scalarResult, trapCause_eq_none h, answer]
  · unfold OnlyRegs at only
    unfold OnlyRegsFlags
    rw [only]; rfl

/-- Settles O11, by the first class in trap mode, if there is one. -/
theorem scalarFloatForms : Obligations.ScalarFloatForms := by
  unfold Obligations.ScalarFloatForms
  intro i s d v c h
  obtain ⟨lat, run⟩ := exec_floatOf h
  rw [run]
  refine ⟨fun hn => State.scalarResult_flags hn d v lat, fun k hk hc hm first hh => ?_⟩
  have answer : s.scalarResult d v c lat = s.raise (0x10 + k) 0 := by
    rw [State.scalarResult, trapCause_eq_some hk hc hm first]
  rw [answer]
  exact State.raise_delivers hh (by omega) 0

/-! ### Control registers (R112) -/

/-- Settles O12: nothing holds the read up. -/
theorem controlRegisterRead : Obligations.ControlRegisterRead := by
  unfold Obligations.ControlRegisterRead
  intro s d n hq hp
  have answer : exec (.csrr d n) s = s.result d (s.csrVal n) := by
    show execCsrr d n s = _
    unfold execCsrr
    rw [if_neg]
    simp only [Bool.and_eq_true, Bool.or_eq_true, Bool.not_eq_true', not_and, not_or, and_imp]
    intro hsync hin
    refine ⟨by simp [hq hsync hin], ?_⟩
    split
    · next k => simpa using hp k rfl hin
    · simp
  rw [answer]
  exact s.result_spec d (s.csrVal n) 0

/-- The write forms with the value that each writes (R112). -/
theorem exec_csrWriteOf {i : Instr} {s : State} {n : Csr} {v : Word} (h : csrWriteOf i s = some (n, v)) :
    ∃ a f, exec i s = s.csrWrite a n f ∧ f (s.csrVal n) (s.r a) = v := by
  cases i with
  | csrw a => cases h; exact ⟨a, fun _ x => x, rfl, rfl⟩
  | csrs a => cases h; exact ⟨a, fun old x => old ||| x, rfl, rfl⟩
  | csrc a => cases h; exact ⟨a, fun old x => old &&& ~~~x, rfl, rfl⟩
  | vstartWrite a => cases h; exact ⟨a, fun _ x => x, rfl, rfl⟩
  | xflagsWrite a => cases h; exact ⟨a, fun _ x => x, rfl, rfl⟩
  | _ => cases h

section
variable {s : State} {n : Csr}

theorem State.csrWrite_runs (hw : csrWritable n = true) (h : n = .vstart ∨ n = .xflags → s.st.trap.inh = true ∨ Quiet s) (a : SReg)
    (f : Word → Word → Word) : s.csrWrite a n f = .next (s.csrPut n (f (s.csrVal n) (s.r a))).advance := by
  unfold State.csrWrite
  simp only [hw, Bool.not_true, Bool.false_eq_true, if_false]
  split
  · next hc =>
    simp only [Bool.and_eq_true, Bool.or_eq_true, beq_iff_eq, Bool.not_eq_true'] at hc
    obtain ⟨hn, hin⟩ := hc
    obtain hin' | quiet := h hn
    · rw [hin] at hin'; cases hin'
    · rw [State.afterEntries_quiet quiet]
  · rfl

theorem State.csrWrite_readOnly (hw : csrWritable n = false) (a : SReg) (f : Word → Word → Word) : s.csrWrite a n f = s.raise 2 0 := by
  unfold State.csrWrite
  simp [hw]

/-- A write of a control register changes control and trap registers alone. -/
theorem State.csrPut_eq (s : State) (n : Csr) (v : Word) :
    s.csrPut n v = { s with st := { s.st with csr := (s.csrPut n v).st.csr, trap := (s.csrPut n v).st.trap } } := by
  cases n <;> rfl

theorem State.csrVal_advance (s : State) (m : Csr) : s.advance.csrVal m = s.csrVal m := by cases m <;> rfl

/-- Every other control register reads as before. -/
theorem State.csrVal_csrPut_ne {m : Csr} (h : m ≠ n) (v : Word) : (s.csrPut n v).csrVal m = s.csrVal m := by
  cases n with
  | vstart => cases m with | vstart => exact absurd rfl h | _ => rfl
  | xflags => cases m with | xflags => exact absurd rfl h | _ => rfl
  | xact => cases m with | xact => exact absurd rfl h | _ => rfl
  | frm => cases m with | frm => exact absurd rfl h | _ => rfl
  | fxrm => cases m with | fxrm => exact absurd rfl h | _ => rfl
  | chkstall => cases m with | chkstall => exact absurd rfl h | _ => rfl
  | lanew => cases m with | lanew => exact absurd rfl h | _ => rfl
  | tvec => cases m with | tvec => exact absurd rfl h | _ => rfl
  | tpc => cases m with | tpc => exact absurd rfl h | _ => rfl
  | tstat => cases m with | tstat => exact absurd rfl h | _ => rfl
  | _ => rfl

/-- The register written takes what its field map allows (R32, R41, R70, R72, R82, R286). -/
theorem State.csrVal_csrPut_self (h : n ≠ .xact) (v : Word) : (s.csrPut n v).csrVal n = csrAfter n (s.csrVal n) v := by
  have field : ∀ k, k ≤ 64 → (v.setWidth k).setWidth 64 = BitVec.ofNat 64 (v.toNat % 2 ^ k) := fun k hk => by
    apply BitVec.eq_of_toNat_eq
    simp
  cases n with
  | vstart => exact field 20 (by decide)
  | xflags => exact field 6 (by decide)
  | xact => exact absurd rfl h
  | frm =>
    show BitVec.setWidth 64 (if v.toNat % 8 ≤ 4 then v.setWidth 3 else s.st.csr.frm) = if v.toNat % 8 ≤ 4 then _ else _
    split
    · exact field 3 (by decide)
    · rfl
  | fxrm =>
    apply BitVec.eq_of_toNat_eq
    simp [State.csrPut, State.csrVal, csrAfter]
    omega
  | chkstall =>
    have bit : v.getLsbD 0 = decide (v.toNat % 2 = 1) := Nat.testBit_zero _
    show BitVec.ofNat 64 (bitN (v.getLsbD 0)) = BitVec.ofNat 64 (v.toNat % 2)
    rw [bit]
    obtain h | h := Nat.mod_two_eq_zero_or_one v.toNat <;> simp [h, bitN]
  | lanew =>
    have zero : v.setWidth 4 = (0 : BitVec 4) ↔ v.toNat % 16 = 0 := by
      rw [← BitVec.toNat_inj]; simp
    show BitVec.setWidth 64 (if v.setWidth 4 = (0 : BitVec 4) then s.st.csr.lanew else v.setWidth 4) =
      if v.toNat % 16 = 0 then _ else _
    simp only [zero]
    split
    · rfl
    · exact field 4 (by decide)
  | tvec =>
    apply BitVec.eq_of_toNat_eq
    simp [State.csrPut, State.csrVal, csrAfter]
    omega
  | tpc => exact field 56 (by decide)
  | tstat => exact field 54 (by decide)
  | _ => rfl

end

/-- Six fields of two bits, put together and taken apart again. -/
theorem field_of_sum {f : Nat → Nat} (hf : ∀ i, f i < 4) {k : Nat} (hk : k < 6) :
    (BitVec.ofNat 12 ((List.range 6).map fun i => f i * 4 ^ i).sum).toNat / 4 ^ k % 4 = f k := by
  have h0 := hf 0; have h1 := hf 1; have h2 := hf 2; have h3 := hf 3; have h4 := hf 4; have h5 := hf 5
  simp only [BitVec.toNat_ofNat, List.range_succ, List.range_zero, List.nil_append, List.cons_append, List.map_cons, List.map_nil,
    List.sum_cons, List.sum_nil]
  interval_cases k <;> omega

/-- Field k of XACT after a write: 0b11 leaves it (R32). -/
theorem xactPut_field (old new : Nat) {k : Nat} (hk : k < 6) : (xactPut old new).toNat / 4 ^ k % 4 =
    if new / 4 ^ k % 4 = 3 then old / 4 ^ k % 4 else new / 4 ^ k % 4 :=
  field_of_sum (f := fun i => if new / 4 ^ i % 4 = 3 then old / 4 ^ i % 4 else new / 4 ^ i % 4)
    (fun i => by split <;> exact Nat.mod_lt _ (by decide)) hk

/-- Settles O13, by the field map of each register, or by the trap of one that has none. -/
theorem controlRegisterWrite : Obligations.ControlRegisterWrite := by
  unfold Obligations.ControlRegisterWrite
  refine ⟨fun i s n v hi hw hwait => ?_, fun i s n v hi hw hh => ?_⟩
  · obtain ⟨a, f, run, rfl⟩ := exec_csrWriteOf hi
    rw [run, State.csrWrite_runs hw hwait]
    generalize f (s.csrVal n) (s.r a) = v
    refine ⟨_, rfl, ?_, ?_, ?_, fun m hm => ?_, fun hn => ?_, ?_⟩
    · exact passed_advance_of (by rw [s.csrPut_eq n v]) (by rw [s.csrPut_eq n v])
    · exact sameMemory_of_eq (by rw [s.csrPut_eq n v]; rfl)
    · rw [s.csrPut_eq n v]; rfl
    · rw [State.csrVal_advance, State.csrVal_csrPut_ne hm]
    · rw [State.csrVal_advance, State.csrVal_csrPut_self hn]
    · rintro rfl k hk
      exact xactPut_field _ _ hk
  · obtain ⟨a, f, run, -⟩ := exec_csrWriteOf hi
    rw [run, State.csrWrite_readOnly hw]
    exact State.raise_delivers hh (by decide) 0

/-! ### TRAP (R117, R40) -/

/-- Settles O14: the trap is delivered, or ends the strand. -/
theorem trapDelivery : Obligations.TrapDelivery := by
  unfold Obligations.TrapDelivery
  intro s imm
  refine ⟨fun hh => State.raise_delivers hh (by decide) _, fun hh => ?_⟩
  have fatal : s.st.trap.inh = true ∨ s.st.trap.tvec = 0 := by
    unfold HasHandler at hh
    simpa [imp_iff_not_or] using hh
  have cause : (s.st.failInfo 0x20 (imm.setWidth 64) false).cause = if s.st.trap.inh then 0x30 else 0x20 := by
    unfold Strand.failInfo
    split <;> rfl
  obtain ⟨gone, r, told, code, inner⟩ := s.failStrand_spec (s.st.failInfo 0x20 (imm.setWidth 64) false)
  refine ⟨_, congrArg Host.Outcome.next (State.trap_fatal fatal (by decide) _ _), gone, r, told, code, ?_⟩
  rw [inner, cause]
  split <;> rfl

end Sys2Proof.Machine
end

section
/-! PROOFS. The family of the scalar forms (06), last part: SYSC, whose statement fails (O18), and EXIT (O19). -/

namespace Sys2Proof.Machine

open Sys2Proof.Safety

/-! ### SYSC beside a saved strand (O18) -/

/-- SYSC waits for the port commands of its slot (State.afterAll, State.work), and where the strand itself has none in progress,
that is a saved strand's: it is run, and gets its status. -/
theorem sysc_ends_savedCmd :
    leavesWith (fun t => !t.savedCmdsOpen) (exec (.syscChipNumber 0) besideSaved) = true := by decide +kernel

/-- Refutes O18, by its first clause: Quiet says nothing of the saved strands, and SYSC moves on the port commands of a strand that
a pre-emption has saved from the same slot, so that more changes than the strand's registers. -/
theorem not_systemServices : ¬ Obligations.SystemServices := by
  unfold Obligations.SystemServices
  intro h
  obtain ⟨chipNumber, -⟩ := h besideSaved besideSaved_quiet
  obtain ⟨t, answer, -, -, only, -⟩ := chipNumber 0
  have ended := test_of_leavesWith sysc_ends_savedCmd answer
  rw [savedCmdsOpen_of_onlyRegs only, besideSaved_open] at ended
  exact absurd ended (by decide)

/-! ### What EXIT waits for -/

section
variable {s : State}

/-- Where nothing of a slot is left over from an ended strand, its background work is that of the strand that stands there. -/
theorem State.bgStrand_eq (h : ∀ p ∈ s.ending, p.1 ≠ s.slot) (p : Strand → Bool) : s.bgStrand s.slot p = s.st := by
  have none : s.ending.find? (fun x => x.1 = s.slot && p x.2) = none :=
    List.find?_eq_none.mpr fun x hx => by simp [h x hx]
  simp [State.bgStrand, none]

theorem Strand.fifo_nil {t : Strand} (h : ∀ n : Fin 16, t.streams[n].fifo = []) : ∀ x ∈ t.streams.toList, x.fifo = [] := by
  intro x hx
  obtain ⟨n, hn, rfl⟩ := Vector.mem_iff_getElem.mp (Vector.mem_toList_iff.mp hx)
  exact h ⟨n, hn⟩

/-- With no copy in flight and no pushed word left, no access is left to perform. -/
theorem State.settleAccesses_eq (hend : ∀ p ∈ s.ending, p.1 ≠ s.slot) (hc : s.st.copies = [])
    (hf : ∀ n : Fin 16, s.st.streams[n].fifo = []) : s.settleAccesses s.slot = s := by
  have copies : s.endCopies s.slot (fun _ => true) = s := by
    simp [State.endCopies, State.bgStrand_eq hend, Strand.openCopies, hc]
  have words : (s.st.streams.toList.map fun x => x.fifo.length).sum = 0 :=
    List.sum_eq_zero fun n hn => by
      obtain ⟨x, hx, rfl⟩ := List.mem_map.mp hn
      rw [Strand.fifo_nil hf x hx]; rfl
  rw [State.settleAccesses, copies, State.pumpStreams, State.bgStrand_eq hend, words]
  rfl

/-- With nothing of the strand under way, EXIT waits for nothing. -/
theorem State.afterAccesses_quiet (h : Quiet s) (k : State → Res) : s.afterAccesses k = k s := by
  rw [State.afterAccesses, State.afterEntries_quiet h]
  obtain ⟨-, -, -, -, hsync, hcopies, -, -, hfifo, hending, -, -, -, -⟩ := h
  have words : s.st.wordsDone = true := by
    simp only [Strand.wordsDone, List.all_eq_true, List.isEmpty_iff]
    exact Strand.fifo_nil hfifo
  simp [Strand.popWaits, hsync, State.settleAccesses_eq hending hcopies hfifo, Strand.copiesDone, hcopies, words]

theorem exec_exit (h : s.st.trap.inh = true ∨ Quiet s) : exec .exit s = .next s.endStrand := by
  show execExit s = _
  unfold execExit
  split
  · rfl
  · next hin => rw [State.afterAccesses_quiet (h.resolve_left hin)]

end

/-! ### A strand is taken out of its slot -/

/-- Accepted stores that perform change memory and caches alone. -/
theorem SameButMemory.storeAll (w : Who) : ∀ (l : List (List Nat × Nat)) (s : State), SameButMemory s (State.storeAll w l s)
  | [], _ => rfl
  | p :: l, s => (SameButMemory.storeNow s w p.1 p.2).trans (storeAll w l _)

/-- The strand that moves performs its accepted stores. -/
theorem State.flushLate_self_eq (s : State) : SameButMemory { s with st := { s.st with late := [] } } (s.flushLate s.slot) := by
  unfold State.flushLate
  rw [State.strand_self]
  dsimp only
  split
  · next h =>
    rw [List.isEmpty_iff] at h
    unfold SameButMemory
    rw [← h]
  · simp only [State.modStrand, State.putStrand, State.strand_self, if_true]
    exact SameButMemory.storeAll _ _ _

theorem lookup_map {α β : Type} (f : α → β) (d : α) (k : Nat) : ∀ l : List (Nat × α),
    lookup (f d) k (l.map fun p => (p.1, f p.2)) = f (lookup d k l)
  | [] => rfl
  | (a, b) :: l => by
    by_cases h : a = k
    · simp [lookup, h]
    · simpa [lookup, h] using lookup_map f d k l

/-- A change of every strand, seen in a slot. -/
theorem State.strand_mapStrands (s : State) {f : Strand → Strand} (hf : f .empty = .empty) (j : Nat) :
    ({ s with st := f s.st, others := s.others.map fun p => (p.1, f p.2) } : State).strand j = f (s.strand j) := by
  unfold State.strand
  split
  · rfl
  · have mapped := lookup_map f .empty j s.others
    rwa [hf] at mapped

theorem Strand.orphan_empty (k g : Nat) : Strand.empty.orphan k g = .empty := by simp [Strand.orphan, Strand.empty]

/-- The machine without a strand that has ended, which stood in the slot that moves (R118, R289). -/
structure Removed (s u : State) : Prop where
  slot : u.slot = s.slot
  gone : u.st.stat = .absent
  mem : s.st.late = [] → u.mem = s.mem
  acc : u.acc = s.acc
  objs : u.objs = s.objs
  unowned : ∀ p ∈ u.oslots, p.1 / 16 = coreOf s.slot → p.2.owner ≠ some s.slot
  strands : ∀ k, k ≠ s.slot → s.st.parent ≠ some k → u.strand k = (s.strand k).orphan s.slot s.st.gkey
  groups : u.groups = (s.modGroup s.st.gkey fun g => { g with live := g.live.filter fun x => x ≠ s.slot }).groups

/-- An operand slot of the core that the strand owned has no owner then (R192). -/
theorem owner_released {l : List (Nat × OpSlot)} {core k : Nat} {p : Nat × OpSlot} {f : Nat × OpSlot → Bool}
    (hp : p ∈ (l.map fun q => if q.1 / 16 = core ∧ q.2.owner = some k then (q.1, { q.2 with owner := none }) else q).filter f)
    (hcore : p.1 / 16 = core) : p.2.owner ≠ some k := by
  obtain ⟨q, -, rfl⟩ := List.mem_map.mp (List.mem_of_mem_filter hp)
  by_cases h : q.1 / 16 = core ∧ q.2.owner = some k
  · simp [h]
  · rw [if_neg h] at hcore ⊢
    exact fun owned => h ⟨hcore, owned⟩

theorem State.removeStrand_removed (s : State) (b : Bool) : Removed s (s.removeStrand s.slot b) := by
  obtain ⟨reports, absent⟩ := KeepsReports.removeStrand s s.slot b
  have gone := absent rfl
  have slot := reports.slot
  clear absent reports
  generalize hu : s.removeStrand s.slot b = u at gone slot ⊢
  unfold State.removeStrand at hu
  extract_lets s0 t s1 s2 s3 at hu
  subst hu
  have frame0 : SameButMemory { s with st := { s.st with late := [] } } s0 := s.flushLate_self_eq
  have unstored : s.st.late = [] → s0.mem = s.mem := fun h => by
    have flushed : s0 = s := State.flushLate_nil _ (by rwa [State.strand_self])
    rw [flushed]
  unfold SameButMemory at frame0
  have slot0 : s0.slot = s.slot := by rw [frame0]
  have ht : t = { s.st with late := [] } := by
    have own : t = s0.st := by rw [← s0.strand_self, slot0]
    rw [own, frame0]
  have frame2 : s2 = { s1 with st := s2.st, others := s2.others } ∧ ∀ j, t.parent ≠ some j → s2.strand j = s1.strand j := by
    simp only [s2]
    split
    · exact ⟨rfl, fun _ _ => rfl⟩
    · next p hp =>
      split
      · exact ⟨rfl, fun _ _ => rfl⟩
      · refine ⟨s1.putStrand_eq p _, fun j hj => ?_⟩
        rw [State.strand_modStrand, if_neg]
        rintro rfl
        exact hj hp
  obtain ⟨frame2, strands2⟩ := frame2
  have frame3 : s3 = { s2 with st := s3.st, others := s3.others } := s2.putStrand_eq s.slot .empty
  have key : t.gkey = s.st.gkey := by rw [ht]
  refine ⟨slot, gone, fun h => ?mem, ?acc, ?objs, fun p hp hcore => ?unowned, fun k hk hpar => ?strands, ?groups⟩
  case mem =>
    show s3.mem = s.mem
    rw [frame3, frame2]
    exact unstored h
  case acc =>
    show s3.acc = s.acc
    rw [frame3, frame2]
    show s0.acc = s.acc
    rw [frame0]
  case objs =>
    show s3.objs = s.objs
    rw [frame3, frame2]
    show s0.objs = s.objs
    rw [frame0]
  case unowned =>
    have released : s3.oslots = s1.oslots := by rw [frame3, frame2]
    have hp1 : p ∈ s1.oslots := released ▸ hp
    exact owner_released hp1 hcore
  case strands =>
    have before : s1.strand k = s.strand k := by
      show (if k = s0.slot then _ else lookup .empty k s0.others) = if k = s.slot then _ else lookup .empty k s.others
      rw [slot0, if_neg hk, if_neg hk, frame0]
    have kept : s3.strand k = s.strand k := by
      simp only [s3]
      rw [State.strand_putStrand, if_neg hk, strands2 k (by rwa [ht]), before]
    rw [← kept, ← key]
    exact s3.strand_mapStrands (f := fun x => x.orphan s.slot t.gkey) (Strand.orphan_empty ..) k
  case groups =>
    have groups : s3.groups = s.groups := by
      rw [frame3, frame2]
      show s0.groups = s.groups
      rw [frame0]
    simp only [State.modGroup, groups, key]

/-! ### A group goes on or ends -/

theorem State.group?_modGroup (s : State) (g : Nat) (f : Group → Group) : (s.modGroup g f).group? g = (s.group? g).map f := by
  unfold State.modGroup State.group?
  induction s.groups with
  | nil => rfl
  | cons p l ih =>
    by_cases h : p.1 = g
    · simp [h]
    · simpa [h] using ih

/-- A group that still has strands goes on. -/
theorem State.finishGroup_live {s : State} {g : Nat} {x : Group} (hx : s.group? g = some x) (h : x.live ≠ [])
    (failed : Option (Nat × Nat × Word)) : s.finishGroup g failed = s := by
  simp [State.finishGroup, hx, h]

theorem State.finishLaunch_eq (s : State) (c : BitVec 16) (lid : Nat) :
    s.finishLaunch c lid = { s with launches := (s.finishLaunch c lid).launches, host := (s.finishLaunch c lid).host } := by
  unfold State.finishLaunch
  split
  · rfl
  · split <;> rfl

section
variable {s : State} (ho : ∀ o ∈ s.objs, o.st ≠ .retiring) (g : Nat) (failed : Option (Nat × Nat × Word))
include ho

/-- Where no object retires, the end of a group changes groups, launches and reports alone, and a group without strands is gone
(R281). -/
theorem State.finishGroup_spec : ∃ u : State, s.finishGroup g failed = { s with groups := u.groups, launches := u.launches, host := u.host } ∧
    ∀ x, s.group? g = some x → x.live = [] → x.saved = [] → (s.finishGroup g failed).group? g = none := by
  unfold State.finishGroup
  split
  · next hg => exact ⟨s, rfl, fun x hx => by rw [hg] at hx; cases hx⟩
  · next y hy =>
    split
    · next hlive =>
      refine ⟨s, rfl, fun x hx hl hs => ?_⟩
      rw [hy] at hx
      cases hx
      simp [hl, hs] at hlive
    · extract_lets s1
      have launched := (s1.modLaunch y.ctx y.lid fun l =>
        { l with ended := l.ended + 1, failed := if l.failed.isSome then l.failed else failed }).finishLaunch_eq y.ctx y.lid
      generalize State.finishLaunch _ y.ctx y.lid = u at launched ⊢
      have objs : u.objs = s.objs := by rw [launched]; rfl
      have groups : u.groups = s.groups.filter fun p => p.1 ≠ g := by rw [launched]; rfl
      rw [State.settleObjs_eq (by rwa [objs])]
      refine ⟨u, ?_, fun _ _ _ _ => ?_⟩
      · rw [launched]; rfl
      · simp [State.group?, groups, List.find?_filter]

end

/-- Settles O19: the strand is taken out of its slot, and then its group goes on or ends. -/
theorem exitEndsTheStrand : Obligations.ExitEndsTheStrand := by
  unfold Obligations.ExitEndsTheStrand
  intro s h ho
  have removed := s.removeStrand_removed true
  have answer := exec_exit h
  unfold State.endStrand at answer
  generalize s.removeStrand s.slot true = u at removed answer
  have objs : ∀ o ∈ u.objs, o.st ≠ .retiring := by rwa [removed.objs]
  obtain ⟨w, ended, last⟩ := State.finishGroup_spec objs s.st.gkey none
  have live : ∀ x, u.group? s.st.gkey = some x → x.live ≠ [] → u.finishGroup s.st.gkey none = u :=
    fun x hx hl => State.finishGroup_live hx hl none
  generalize u.finishGroup s.st.gkey none = t at answer ended last live
  rw [State.settleObjs_eq (by rw [ended]; exact objs)] at answer
  have group : ∀ g, s.group? s.st.gkey = some g →
      u.group? s.st.gkey = some { g with live := g.live.filter fun x => x ≠ s.slot } := fun g hg => by
    have := s.group?_modGroup s.st.gkey fun g => { g with live := g.live.filter fun x => x ≠ s.slot }
    rw [hg] at this
    unfold State.group? at this ⊢
    rw [removed.groups, this]; rfl
  refine ⟨t, answer, ?_, fun hl => ?_, ?_, ?_, fun k hk hpar => ?_, fun g hg => ⟨fun others => ?_, fun only saved => ?_⟩⟩
  · have slot : t.slot = s.slot := by rw [ended]; exact removed.slot
    rw [← slot, State.strand_self, ended]
    exact removed.gone
  · rw [ended]; exact removed.mem hl
  · rw [ended]; exact removed.acc
  · rw [ended]; exact removed.unowned
  · have same : t.strand k = u.strand k := by rw [ended]; rfl
    rw [same, removed.strands k hk hpar]
    unfold Strand.orphan
    split
    · next hc => simp [hc]
    · simp
  · obtain ⟨m, hm, hne⟩ := others
    have remain : g.live.filter (fun x => x ≠ s.slot) ≠ [] :=
      List.ne_nil_of_mem (List.mem_filter.mpr ⟨hm, by simpa using hne⟩)
    rw [live _ (group g hg) remain, group g hg]
  · have empty : g.live.filter (fun x => x ≠ s.slot) = [] :=
      List.filter_eq_nil_iff.mpr fun m hm => by simp [only m hm]
    exact last _ (group g hg) empty saved

end Sys2Proof.Machine
end

section
/-! PROOFS. The family of the vector forms (07): element-wise forms that complete all their elements (O22 to O24). -/

namespace Sys2Proof.Machine

open Sys2Proof.Safety

section
variable {s : State} {i : Instr}

/-! ### Completion of a loop -/

/-- A loop that follows a statement, with no element that a class stops, completes all its elements. -/
theorem ventry_completes_of_follows {b : LoopBody} {step : State → Nat → Elt} {xm : MReg} {P : Nat → Prop} {cls : Nat → Cls}
    {Inv : Nat → VecFile → Prop} (h : Quiet s) (hi : isPlain i = true) (hf : b.Runs (s.committed i) step)
    (hb : b.Follows s.st.csr.xact xm s.st.vec s.st.csr.vstart.toNat s.st.vlNow P cls Inv)
    (hlo : s.st.csr.vstart.toNat < s.st.vlNow)
    (hpass : ∀ j, s.st.csr.vstart.toNat ≤ j → j < s.st.vlNow → P j → xm ≠ 0 ∨ ¬Acts s (cls j)) :
    ∃ V C, (s.committed i).ventry (s.entry i) true xm b.act step =
        .done (((s.committed i).loopAt V C).complete1 s.st.vlNow) none ∧
      Inv s.st.vlNow V ∧ Union (fun j => P j ∧ s.st.csr.vstart.toNat ≤ j ∧ j < s.st.vlNow) cls C := by
  have vec := vec_committed h hi
  obtain ⟨-, sync⟩ := committed_head h hi
  obtain ⟨n, hn⟩ := Nat.exists_eq_add_of_le hlo.le
  obtain ⟨inv, union⟩ := hb.upTo n hn.ge
  rw [← hn] at inv union
  refine ⟨_, _, ?_, inv, union⟩
  have passes : ∀ m, 0 ≤ m → m < 0 + n → b.Passes (s.committed i) (s.entry i) xm s.st.csr.vstart.toNat m := fun m _ hm =>
    passes_of_follows rfl (vec.symm ▸ hb) (by omega) fun hPm =>
      (hpass _ (Nat.le_add_right _ _) (by omega) hPm).imp id (mt (acts_iff s _).mp)
  have loop := LoopBody.vloop_completes (b := b) (s0 := s.committed i) (e := s.entry i) (vs := s.st.csr.vstart.toNat)
    (after := fun _ s => s) sync hf (top := s.st.vlNow) n 0 (by omega) passes
  rw [LoopBody.stateAt_zero, Nat.add_zero, Nat.zero_add, ← hn] at loop
  rw [ventry_committed h hi hlo, show s.st.vlNow - s.st.csr.vstart.toNat = n by omega, loop, LoopBody.stateAt, vec]
  rfl

/-! ### Element-wise forms -/

/-- The model completes i as an element-wise form: where the loop over the elements completes, the entry does. -/
structure CompletesElementwise (i : Instr) (s : State) (f : ElemForm) (g : VecFile → Nat → Nat × Cls) : Prop where
  plain : isPlain i = true
  start : f.start = s.st.csr.vstart.toNat
  issued : ∀ t, (s.committed i).ventry (s.entry i) f.legal f.xm (elemBody f g).act (elemStep f g) = .done t none →
    issue i (s.entry i) (s.committed i) = .done t none

theorem Elementwise.completes {f : ElemForm} {g : VecFile → Nat → Nat × Cls} (h : Elementwise i s f g) :
    CompletesElementwise i s f g := ⟨h.plain, h.start, fun _ ht => h.issued.trans ht⟩

/-- What g gives for element k is the statement's, from all that earlier elements leave; without `.xmN` they leave the masks. -/
def ComputesUnmasked (s : State) (i : Instr) (f : ElemForm) (g : VecFile → Nat → Nat × Cls) : Prop :=
  ∃ srcs exact, legalOps s i f.d f.w srcs exact f.m f.xm = true ∧ Width f.w ∧
    ∀ k v', k < s.st.vlNow → k < vlmax s.st.grant.vtype → KeepsSources s f.d f.w srcs exact k v' →
      (f.xm = 0 → v'.m = s.st.vec.m) → g v' k = f.val k

theorem Computes.unmasked {f : ElemForm} {g : VecFile → Nat → Nat × Cls} (h : Computes s i f g) : ComputesUnmasked s i f g := by
  obtain ⟨srcs, exact, legal, width, computes⟩ := h
  exact ⟨srcs, exact, legal, width, fun k v' hk hm hsrc _ => computes k v' hk hm hsrc⟩

/-- The loop of an element-wise form does what the statement says, element by element. -/
theorem follows_of_computesUnmasked {f : ElemForm} {g : VecFile → Nat → Nat × Cls} (hg : Granted s)
    (hs : f.start = s.st.csr.vstart.toNat) (hc : ComputesUnmasked s i f g) :
    (elemBody f g).Follows s.st.csr.xact f.xm s.st.vec s.st.csr.vstart.toNat s.st.vlNow (Executes s f.start f.m)
      (fun k => (f.val k).2) fun k v' => ElemsUpTo s f.d f.w (Executes s f.start f.m) (fun k => (f.val k).1) k v' ∧
        MasksUpTo s f.xm (Executes s f.start f.m) (fun k => (f.val k).2) k v' := by
  obtain ⟨srcs, exact, legal, width, computes⟩ := hc
  have lower : ∀ j, Executes s f.start f.m j → s.st.csr.vstart.toNat ≤ j := fun j hj => hs ▸ hj.1
  obtain ⟨hd, -⟩ := legalOps_iff.mp legal
  have value : ∀ k v', k < s.st.vlNow → ElemsUpTo s f.d f.w (Executes s f.start f.m) (fun k => (f.val k).1) k v' →
      MasksUpTo s f.xm (Executes s f.start f.m) (fun k => (f.val k).2) k v' → g v' k = f.val k := fun k v' hk elems masks =>
    computes k v' hk (hk.trans_le hg) (elems.keepsSources hg legal hk.le) fun hx => by
      rw [hx] at masks; exact masks.masks_same
  constructor
  case start => exact ⟨.start lower, .start lower⟩
  case act =>
    rintro k v' hlo hk ⟨-, masks⟩
    show v'.mbit f.m k = true ↔ _
    rw [masks.mbit_same]
    exact ⟨fun ha => ⟨hs ▸ hlo, hk, ha⟩, fun ha => ha.2.2⟩
  case raises =>
    rintro k v' - hk - ⟨elems, masks⟩
    exact congrArg Prod.snd (value k v' hk elems masks)
  case step =>
    rintro k v' - hk hP ⟨elems, masks⟩
    have val := value k v' hk elems masks
    exact ⟨elems.mark hP width hd (hk.trans_le hg) (by simp only [elemBody, val]),
      masks.mark hP (hk.trans_le (hg.trans (vlmax_le _))) (congrArg Prod.snd val) rfl⟩
  case skip =>
    rintro k v' - - hP ⟨elems, masks⟩
    exact ⟨elems.skip hP, masks.skip hP⟩

/-- THE COMPLETION OF AN ELEMENT-WISE FORM: its entry completes every element (R130). -/
theorem elementwise_completes (h : Quiet s) (hg : Granted s) {f : ElemForm} {g : VecFile → Nat → Nat × Cls}
    (hf : CompletesElementwise i s f g) (hc : ComputesUnmasked s i f g) (hl : f.legal = true)
    (hpass : f.xm = 0 → ∀ k, Executes s f.start f.m k → ¬Acts s (f.val k).2) : ∃ t, exec i s = .next t ∧ ElemDone s t f := by
  have hi := hf.plain
  suffices outcome : ∃ V C, issue i (s.entry i) (s.committed i) =
        .done (((s.committed i).loopAt V C).complete1 s.st.vlNow) none ∧
      V = { s.st.vec with v := V.v, wext := V.wext, m := V.m } ∧
      ElemsOn s f.d f.w (Executes s f.start f.m) (fun k => (f.val k).1) V ∧
      MasksOn s f.xm (Executes s f.start f.m) (fun k => (f.val k).2) V ∧
      UnionOf (Executes s f.start f.m) (fun k => (f.val k).2) C by
    obtain ⟨V, C, done, rest, elems, masks, union⟩ := outcome
    obtain ⟨t, answer, rfl, entry⟩ := exec_completes_plain h hi done
    exact ⟨t, answer, C, union, entry, rest, elems.elemsAfter, masks.masksAfter⟩
  by_cases hvl : s.st.csr.vstart.toNat < s.st.vlNow
  · obtain ⟨V, C, done, ⟨elems, masks⟩, union⟩ := ventry_completes_of_follows h hi (elemBody_runs f g _)
      (follows_of_computesUnmasked hg hf.start hc) hvl fun j _ _ hj => or_iff_not_imp_left.mpr fun hx => hpass (not_not.mp hx) j hj
    have below : ∀ j, Executes s f.start f.m j ∧ j < s.st.vlNow ↔ Executes s f.start f.m j := fun j =>
      ⟨And.left, fun hj => ⟨hj, hj.2.1⟩⟩
    refine ⟨V, C, hf.issued _ (by rw [hl]; exact done), elems.rest, elems.elems.congr below, masks.congr below,
      unionOf_of_union (union.congr fun j => ⟨And.left, fun hj => ⟨hj, hf.start ▸ hj.1, hj.2.1⟩⟩)⟩
  · have none_executes : ∀ j, ¬Executes s f.start f.m j := fun j hj => hvl ((hf.start ▸ hj.1).trans_lt hj.2.1)
    refine ⟨s.st.vec, 0, hf.issued _ ?_, rfl, ⟨.refl _, fun j hj => absurd hj (none_executes j)⟩,
      fun r q => ⟨fun _ _ hq => absurd hq (none_executes q), fun _ => rfl⟩,
      fun q _ => ⟨fun hq => by simp at hq, fun ⟨j, hj, _⟩ => absurd hj (none_executes j)⟩⟩
    rw [ventry_retires (by rw [effLen_committed h hi, vstart_committed h hi]; exact Nat.not_lt.mp hvl), effLen_committed h hi,
      committed_loopAt h hi]

/-- Settles O22: every integer form is an element-wise form that completes. -/
theorem integerVectorForms : Obligations.IntegerVectorForms := by
  unfold Obligations.IntegerVectorForms
  intro i s f h hg hf hl hpass
  obtain ⟨g, runs, computes⟩ := elementwise_of_intForm hf
  exact elementwise_completes h hg runs.completes (computes hl).unmasked hl hpass

/-- Settles O23: so is every floating form and every special function. -/
theorem floatVectorForms : Obligations.FloatVectorForms := by
  unfold Obligations.FloatVectorForms
  intro i s f h hg hf hl hpass
  obtain ⟨g, runs, computes⟩ := elementwise_of_floatForm hf
  exact elementwise_completes h hg runs.completes (computes hl).unmasked hl hpass

end

end Sys2Proof.Machine
end

section
/-! PROOFS. The family of the vector forms (07): conversions, packing, dequantisation and permutations (O24). -/

namespace Sys2Proof.Machine

open Sys2Proof.Safety

theorem grantWidth_width (vt : BitVec 5) : Width (grantWidth vt) := by unfold Width; revert vt; decide

section
variable {s : State} {i : Instr} {f : ElemForm} {a b : VReg}

/-! ### Permutations and moves -/

/-- A form of majors 0x26 and 0x28 that runs as a move (R145): F gives its elements, from sources that stand as at first and masks
that no element changes. -/
theorem completes_of_move {srcs : List VReg} {exact : Bool} {F : VecFile → Nat → Nat} (hp : isPlain i = true)
    (hs : f.start = s.st.csr.vstart.toNat) (hx : f.xm = 0) (hw : f.w = grantWidth s.st.grant.vtype)
    (hl : f.legal = (legalOps s i f.d f.w (srcs.map fun r => (r, f.w)) exact f.m f.xm && true))
    (hi : ∀ t, (s.committed i).vmove (s.entry i) f.d srcs exact f.m F = .done t none →
      issue i (s.entry i) (s.committed i) = .done t none)
    (hF : ∀ k v', k < vlmax s.st.grant.vtype → v'.m = s.st.vec.m →
      (∀ r ∈ srcs, ∀ j, (exact = true → k ≤ j) → j < vlmax s.st.grant.vtype → v'.elem r.val j f.w = el s r j f.w) →
      (F v' k, 0) = f.val k) :
    ∃ g, CompletesElementwise i s f g ∧ (f.legal = true → ComputesUnmasked s i f g) := by
  refine ⟨fun v k => (F v k, 0), ⟨hp, hs, fun t ht => hi t ?_⟩, fun legal =>
    ⟨_, exact, (Bool.and_eq_true_iff.mp (hl ▸ legal)).1, hw ▸ grantWidth_width _, fun k v' _ hm hsrc hv =>
      hF k v' hm (hv hx) fun r hr => hsrc.source (r, f.w) (List.mem_map_of_mem hr)⟩⟩
  rw [← ht, hl, Bool.and_true, ← elementwise_legal, hx, List.map_map, hw]
  unfold elemBody elemStep
  rw [hw]
  rfl

/-- Mask bits below an element are counted as the statements count them where no mask has changed. -/
theorem ones_eq_setBelow {v' : VecFile} (h : v'.m = s.st.vec.m) (m : MReg) (k : Nat) : v'.ones m k = setBelow s m k := by
  simp only [VecFile.ones, setBelow, VecFile.mbit, allows, h, List.countP_eq_length_filter]

theorem setBelow_le (s : State) (m : MReg) (k : Nat) : setBelow s m k ≤ k := List.countP_le_length.trans List.length_range.le

/-- An element that VGATHER takes: of a the one that the index in b names, 0 for an index from VLMAX on (R146). -/
def gatherElem (a b : VReg) (vt : BitVec 5) (v : VecFile) (k : Nat) : Nat :=
  if v.elem b.val k (grantWidth vt) < vlmax vt then v.elem a.val (v.elem b.val k (grantWidth vt)) (grantWidth vt) else 0

/-- A fresh VGATHER that completes does so as any move (R146). -/
theorem effVgather_fresh {d : VReg} {m : MReg} {e : Entry} {u t : State} (fresh : e.done = 0)
    (h : u.vmove e d [a, b] false m (gatherElem a b e.vtype) = .done t none) : effVgather d a b m e u = .done t none := by
  have begun : (e.done != 0) = false := by rw [fresh]; exact bne_self_eq_false _
  unfold effVgather
  rw [begun]
  simp only [Bool.and_false, Bool.false_and, Bool.false_eq_true, if_false]
  generalize hr : u.vmove _ _ _ _ _ _ = r
  obtain rfl : r = .done t none := hr.symm.trans h
  rfl

theorem completes_vgather (d a b : VReg) (m : MReg) (h : moveForm (.vgather d a b m) s = some f) :
    ∃ g, CompletesElementwise (.vgather d a b m) s f g ∧ (f.legal = true → ComputesUnmasked s (.vgather d a b m) f g) := by
  cases h
  refine completes_of_move (srcs := [a, b]) (exact := false) (F := gatherElem a b s.st.grant.vtype) rfl rfl rfl rfl rfl
    (fun t ht => effVgather_fresh rfl ht) fun k v' hk _ source => ?_
  have index := source b (by simp) k (fun h => by cases h) hk
  simp only [gatherElem, index]
  split
  · next hx => rw [source a (by simp) _ (fun h => by cases h) hx]
  · rfl

theorem completes_vexpand (d a : VReg) (m : MReg) (h : moveForm (.vexpand d a m) s = some f) :
    ∃ g, CompletesElementwise (.vexpand d a m) s f g ∧ (f.legal = true → ComputesUnmasked s (.vexpand d a m) f g) := by
  cases h
  refine completes_of_move (srcs := [a]) (exact := false)
    (F := fun v k => v.elem a.val (v.ones m k) (grantWidth s.st.grant.vtype)) rfl rfl rfl rfl rfl (fun t => id) fun k v' hk masks source => ?_
  simp only [ones_eq_setBelow masks m k]
  rw [source a (by simp) _ (fun h => by cases h) ((setBelow_le s m k).trans_lt hk)]

theorem completes_viota (d : VReg) (a m : MReg) (h : moveForm (.viota d a m) s = some f) :
    ∃ g, CompletesElementwise (.viota d a m) s f g ∧ (f.legal = true → ComputesUnmasked s (.viota d a m) f g) := by
  cases h
  refine completes_of_move (srcs := []) (exact := true) (F := fun v k => v.ones a k) rfl rfl rfl rfl rfl (fun t => id)
    fun k v' _ masks _ => ?_
  simp only [ones_eq_setBelow masks a k]

theorem completes_vslideup (d a : VReg) (b : SReg) (m : MReg) (c : SReg) (h : moveForm (.vslideup d a b m c) s = some f) :
    ∃ g, CompletesElementwise (.vslideup d a b m c) s f g ∧ (f.legal = true → ComputesUnmasked s (.vslideup d a b m c) f g) := by
  cases h
  refine completes_of_move (srcs := [a]) (exact := false) (F := fun v k =>
    if k < (s.r b).toNat then (s.r c).toNat else v.elem a.val (k - (s.r b).toNat) (grantWidth s.st.grant.vtype))
    rfl rfl rfl rfl rfl (fun t => id) fun k v' hk _ source => ?_
  simp only [source a (by simp) _ (fun h => by cases h) ((Nat.sub_le k (s.r b).toNat).trans_lt hk)]

theorem completes_vslidedn (hq : Quiet s) (hg : Granted s) (d a : VReg) (b : SReg) (m : MReg) (c : SReg)
    (h : moveForm (.vslidedn d a b m c) s = some f) :
    ∃ g, CompletesElementwise (.vslidedn d a b m c) s f g ∧ (f.legal = true → ComputesUnmasked s (.vslidedn d a b m c) f g) := by
  cases h
  have length : (s.committed (.vslidedn d a b m c)).st.effLen (s.entry (.vslidedn d a b m c)) = s.st.vlNow := effLen_committed hq rfl
  refine completes_of_move (srcs := [a]) (exact := true) (F := fun v k =>
    if k + (s.r b).toNat < s.st.vlNow then v.elem a.val (k + (s.r b).toNat) (grantWidth s.st.grant.vtype) else (s.r c).toNat)
    rfl rfl rfl rfl rfl (fun t ht => by rw [← ht, ← length]; rfl) fun k v' _ _ source => ?_
  dsimp only
  split
  · next hx => rw [source a (by simp) _ (fun _ => Nat.le_add_right _ _) (hx.trans_le hg)]
  · rfl

/-! ### Conversions -/

/-- VBDQ (R139). -/
theorem elementwise_vbdq (d a : VReg) (u : Elem) (q : QReg) (x : MReg) (h : moveForm (.vbdq d a u q x) s = some f) :
    Elementwise (.vbdq d a u q x) s f (bdqElem u q (s.entry (.vbdq d a u q x)).rm a) ∧
      (f.legal = true → Computes s (.vbdq d a u q x) f (bdqElem u q (s.entry (.vbdq d a u q x)).rm a)) := by
  cases h
  refine ⟨⟨rfl, rfl, ?_⟩, computes_of_source rfl (Elem.width .f32) fun v' k hq h => ?_⟩
  · rw [legalOps_unmasked]; rfl
  · have scale : v'.scale q (k / 32) = s.st.vec.scale q (k / 32) := by simp only [VecFile.scale, hq]
    rw [bdqElem, scale, h]
    by_cases hs : s.st.vec.scale q (k / 32) = 255
    · simp only [hs, if_true]
    · simp only [hs, if_false]
      cases scaledVal u (el s a k u.bits) <;> rfl

/-- The conversions and VBDQ run element by element over one source (R135, R136, R139). -/
theorem completes_of_elementwise {g : VecFile → Nat → Nat × Cls} (h : Elementwise i s f g ∧ (f.legal = true → Computes s i f g)) :
    ∃ g, CompletesElementwise i s f g ∧ (f.legal = true → ComputesUnmasked s i f g) :=
  ⟨g, h.1.completes, fun hl => (h.2 hl).unmasked⟩

/-- Every conversion, move and permutation completes element by element (R135, R136, R139, R144 to R151). -/
theorem completes_of_moveForm (hq : Quiet s) (hg : Granted s) (h : moveForm i s = some f) :
    ∃ g, CompletesElementwise i s f g ∧ (f.legal = true → ComputesUnmasked s i f g) := by
  unfold moveForm at h
  split at h
  case h_1 d a u m x t =>
    cases h
    exact completes_of_elementwise (runs_of_source (g := fun v k => cvtElem u t (s.entry _).rm (s.entry _).xm (v.elem a.val k u.bits))
      rfl rfl rfl (Elem.width t) rfl fun v' k _ h => by rw [h])
  case h_2 d a c m =>
    cases h
    exact completes_of_elementwise (runs_of_source (g := fun v k => packElem c (v.elem a.val k 8)) rfl rfl rfl (Elem.width c) rfl
      fun v' k _ h => by rw [h])
  case h_3 d a c m =>
    cases h
    exact completes_of_elementwise (runs_of_source (g := fun v k => unpackElem c (v.elem a.val k c.bits)) rfl rfl rfl (Elem.width .i8)
      rfl fun v' k _ h => by rw [h])
  case h_4 d a u q x => exact completes_of_elementwise (elementwise_vbdq d a u q x h)
  case h_5 d a b m => exact completes_vgather d a b m h
  case h_6 d a m => exact completes_vexpand d a m h
  case h_7 d a m => exact completes_viota d a m h
  case h_8 d m =>
    cases h
    exact completes_of_move (srcs := []) (exact := true) (F := fun _ k => k) rfl rfl rfl rfl rfl (fun t => id) fun _ _ _ _ _ => rfl
  case h_9 d a m =>
    cases h
    exact completes_of_move (srcs := []) (exact := true) (F := fun _ _ => (s.r a).toNat) rfl rfl rfl rfl rfl (fun t => id)
      fun _ _ _ _ _ => rfl
  case h_10 d a b m c => exact completes_vslideup d a b m c h
  case h_11 d a b m c => exact completes_vslidedn hq hg d a b m c h
  case h_12 => cases h

/-- Settles O24: every conversion and permutation is an element-wise form that completes. -/
theorem conversionAndPermutationForms : Obligations.ConversionAndPermutationForms := by
  unfold Obligations.ConversionAndPermutationForms
  intro i s f h hg hf hl hpass
  obtain ⟨g, completes, computes⟩ := completes_of_moveForm h hg hf
  exact elementwise_completes h hg completes (computes hl) hl hpass

end

end Sys2Proof.Machine
end

section
/-! PROOFS. The family of the vector forms (07): forms with a mask destination (O25). -/

namespace Sys2Proof.Machine

open Sys2Proof.Safety

section
variable {s : State} {i : Instr} {f : MaskForm}

/-- The model runs i as a form with a mask destination, whose relation reads vector registers and, of the masks, the bit of its own
element. -/
structure RunsOnMasks (i : Instr) (s : State) (f : MaskForm) (rel : VecFile → Nat → Bool × Cls) : Prop where
  plain : isPlain i = true
  issued : issue i (s.entry i) (s.committed i) =
    (s.committed i).ventry (s.entry i) f.legal f.xm (maskBody f.d f.m rel).act (maskStep f.d rel)
  computes : ∀ v' k, v'.v = s.st.vec.v → (∀ r : MReg, v'.m[r].getLsbD k = s.st.vec.m[r].getLsbD k) → rel v' k = f.rel k
  apart : f.legal = true → f.xm = 0 ∨ f.xm ≠ f.d

/-- The checks of a form with a mask destination. -/
def maskLegal (s : State) (i : Instr) (d m xm : MReg) (srcs : List (VReg × Nat)) : Bool :=
  srcs.all (fun x => ((s.entry i).group x.1 x.2).ok) && (xm == 0 || (xm != m && xm != d))

theorem apart_of_maskLegal {d m xm : MReg} {srcs : List (VReg × Nat)} (h : maskLegal s i d m xm srcs = true) : xm = 0 ∨ xm ≠ d := by
  simp only [maskLegal, Bool.and_eq_true, Bool.or_eq_true, beq_iff_eq, bne_iff_ne] at h
  exact h.2.imp id And.right

/-- A form that the model runs over a mask destination. -/
theorem runsOnMasks_of_maskwise {d m xm : MReg} {srcs : List (VReg × Nat)} {rel : VecFile → Nat → Bool × Cls} {val : Nat → Bool × Cls}
    (hp : isPlain i = true) (hi : issue i (s.entry i) (s.committed i) =
      (s.committed i).maskwise (s.entry i) d (srcs.map fun x => (s.entry i).group x.1 x.2) m xm rel)
    (hval : ∀ v' k, v'.v = s.st.vec.v → (∀ r : MReg, v'.m[r].getLsbD k = s.st.vec.m[r].getLsbD k) → rel v' k = val k) :
    RunsOnMasks i s { d := d, legal := maskLegal s i d m xm srcs, m := m, xm := xm, rel := val } rel := by
  refine ⟨hp, ?_, hval, apart_of_maskLegal⟩
  rw [hi]
  refine congrArg (fun c => (s.committed i).ventry _ c _ _ _) ?_
  have others : [d].contains xm = (xm == d) := by simp [beq_eq_decide]
  simp only [xmOk, others, maskLegal, List.all_map, bne, Function.comp_def]

/-- Elements are as their registers are. -/
theorem elem_of_v_eq {v' : VecFile} (h : v'.v = s.st.vec.v) (a : VReg) (k w : Nat) : v'.elem a.val k w = el s a k w := by
  simp only [el, VecFile.elem, VecFile.reg, h]

/-- A compare form of width W (R132): the model's relation F is the statement's G on elements. -/
theorem runsOnMasks_vcmp {d : MReg} {a : VReg} {b : VReg ⊕ SReg} {m : MReg} {w : IW} {F : Nat → Nat → Nat → Bool}
    {G : Nat → Nat → Bool} (hp : isPlain i = true) (hr : ∀ r, b = .inr r → i.reads.b = some r)
    (hi : issue i (s.entry i) (s.committed i) = (s.committed i).vcmp (s.entry i) d a (bSrcOf b) m w F)
    (hFG : ∀ x y, x < 2 ^ w.bits → y < 2 ^ w.bits → F w.bits x y = G x y) :
    ∃ rel, RunsOnMasks i s
      { d := d, legal := maskLegal s i d m 0 ((a, w.bits) :: bSrc b w.bits), m := m, xm := 0,
        rel := fun k => (G (el s a k w.bits) (bOf s b k w.bits), 0) } rel := by
  refine ⟨fun v k => (F w.bits (v.elem a.val k w.bits) ((bSrcOf b).elem (s.entry i) v k w.bits), 0),
    runsOnMasks_of_maskwise hp ?_ fun v' k hv _ => ?_⟩
  · rw [hi, List.map_cons, ← bSrcOf_groups]; rfl
  · have hb : (bSrcOf b).elem (s.entry i) v' k w.bits = bOf s b k w.bits := bSrcOf_elem hr fun v _ => elem_of_v_eq hv v k w.bits
    rw [elem_of_v_eq hv, hb]; exact congrArg (·, 0) (hFG _ _ (elem_lt _ _ _ _) (bOf_lt k))

/-- A floating compare (R133). -/
theorem runsOnMasks_fcmp {d : MReg} {a b : VReg} {m xm : MReg} {g : FF} {r : FRel} (hp : isPlain i = true)
    (hi : issue i (s.entry i) (s.committed i) = (s.committed i).maskwise (s.entry i) d
      [(s.entry i).group a g.bits, (s.entry i).group b g.bits] m xm (fcmpElem r g a b)) :
    ∃ rel, RunsOnMasks i s
      { d := d, legal := maskLegal s i d m xm [(a, g.bits), (b, g.bits)], m := m, xm := xm,
        rel := fun k => g.fp.cmp r (el s a k g.bits) (el s b k g.bits) } rel :=
  ⟨_, runsOnMasks_of_maskwise hp hi fun _ k hv _ => fcmpElem_congr r g a b hv k⟩

/-- A form of mask logic (R158). -/
theorem runsOnMasks_logic {d : MReg} {F : VecFile → Nat → Bool} (hp : isPlain i = true)
    (hi : issue i (s.entry i) (s.committed i) = (s.committed i).maskLogic (s.entry i) d F)
    (hF : ∀ v' k, (∀ r : MReg, v'.mbit r k = allows s r k) → F v' k = F s.st.vec k) :
    ∃ rel, RunsOnMasks i s { d := d, legal := true, m := 0, xm := 0, rel := fun k => (F s.st.vec k, 0) } rel :=
  ⟨_, runsOnMasks_of_maskwise (srcs := []) hp hi fun v' k _ hm =>
    congrArg (·, 0) (hF v' k fun r => by rw [VecFile.mbit, hm r]; rfl)⟩

/-- Every form with a mask destination runs over it (R131, R132, R133, R158). -/
theorem runsOnMasks_of_maskForm (h : maskForm i s = some f) : ∃ rel, RunsOnMasks i s f rel := by
  have lt (w : IW) (x y : Nat) (hx : x < 2 ^ w.bits) (hy : y < 2 ^ w.bits) :
      decide (sx w.bits x < sx w.bits y) = decide (signedOf w.bits x < signedOf w.bits y) := by
    rw [sx_eq_signedOf (IW.width w).1.1 hx, sx_eq_signedOf (IW.width w).1.1 hy]
  have le (w : IW) (x y : Nat) (hx : x < 2 ^ w.bits) (hy : y < 2 ^ w.bits) :
      decide (sx w.bits x ≤ sx w.bits y) = decide (signedOf w.bits x ≤ signedOf w.bits y) := by
    rw [sx_eq_signedOf (IW.width w).1.1 hx, sx_eq_signedOf (IW.width w).1.1 hy]
  unfold maskForm at h
  split at h
  case h_1 d a b m w =>
    cases h
    exact runsOnMasks_vcmp (b := .inl b) (F := fun _ x y => x == y) (G := fun x y => x == y)
      rfl (by rintro _ ⟨⟩) rfl fun _ _ _ _ => rfl
  case h_2 d a b m w =>
    cases h
    exact runsOnMasks_vcmp (b := .inl b) (F := fun _ x y => x != y) (G := fun x y => x != y)
      rfl (by rintro _ ⟨⟩) rfl fun _ _ _ _ => rfl
  case h_3 d a b m w =>
    cases h
    exact runsOnMasks_vcmp (b := .inl b) (F := fun w x y => decide (sx w x < sx w y)) (G := fun x y => decide (signedOf w.bits x < signedOf w.bits y))
      rfl (by rintro _ ⟨⟩) rfl (lt w)
  case h_4 d a b m w =>
    cases h
    exact runsOnMasks_vcmp (b := .inl b) (F := fun w x y => decide (sx w x ≤ sx w y)) (G := fun x y => decide (signedOf w.bits x ≤ signedOf w.bits y))
      rfl (by rintro _ ⟨⟩) rfl (le w)
  case h_5 d a b m w =>
    cases h
    exact runsOnMasks_vcmp (b := .inl b) (F := fun _ x y => decide (x < y)) (G := fun x y => decide (x < y))
      rfl (by rintro _ ⟨⟩) rfl fun _ _ _ _ => rfl
  case h_6 d a b m w =>
    cases h
    exact runsOnMasks_vcmp (b := .inl b) (F := fun _ x y => decide (x ≤ y)) (G := fun x y => decide (x ≤ y))
      rfl (by rintro _ ⟨⟩) rfl fun _ _ _ _ => rfl
  case h_7 d a b m w =>
    cases h
    exact runsOnMasks_vcmp (b := .inr b) (F := fun _ x y => x == y) (G := fun x y => x == y)
      rfl (by rintro _ ⟨⟩; rfl) rfl fun _ _ _ _ => rfl
  case h_8 d a b m w =>
    cases h
    exact runsOnMasks_vcmp (b := .inr b) (F := fun _ x y => x != y) (G := fun x y => x != y)
      rfl (by rintro _ ⟨⟩; rfl) rfl fun _ _ _ _ => rfl
  case h_9 d a b m w =>
    cases h
    exact runsOnMasks_vcmp (b := .inr b) (F := fun w x y => decide (sx w x < sx w y)) (G := fun x y => decide (signedOf w.bits x < signedOf w.bits y))
      rfl (by rintro _ ⟨⟩; rfl) rfl (lt w)
  case h_10 d a b m w =>
    cases h
    exact runsOnMasks_vcmp (b := .inr b) (F := fun w x y => decide (sx w x ≤ sx w y)) (G := fun x y => decide (signedOf w.bits x ≤ signedOf w.bits y))
      rfl (by rintro _ ⟨⟩; rfl) rfl (le w)
  case h_11 d a b m w =>
    cases h
    exact runsOnMasks_vcmp (b := .inr b) (F := fun _ x y => decide (x < y)) (G := fun x y => decide (x < y))
      rfl (by rintro _ ⟨⟩; rfl) rfl fun _ _ _ _ => rfl
  case h_12 d a b m w =>
    cases h
    exact runsOnMasks_vcmp (b := .inr b) (F := fun _ x y => decide (x ≤ y)) (G := fun x y => decide (x ≤ y))
      rfl (by rintro _ ⟨⟩; rfl) rfl fun _ _ _ _ => rfl
  case h_13 d a b m x g => cases h; exact runsOnMasks_fcmp (r := .eq) rfl rfl
  case h_14 d a b m x g => cases h; exact runsOnMasks_fcmp (r := .lt) rfl rfl
  case h_15 d a b m x g => cases h; exact runsOnMasks_fcmp (r := .le) rfl rfl
  case h_16 d a b m x g => cases h; exact runsOnMasks_fcmp (r := .un) rfl rfl
  case h_17 d a b =>
    cases h
    exact runsOnMasks_logic (F := fun v k => v.mbit a k && v.mbit b k) rfl rfl fun v' k h => by simp only [h]; rfl
  case h_18 d a b =>
    cases h
    exact runsOnMasks_logic (F := fun v k => v.mbit a k || v.mbit b k) rfl rfl fun v' k h => by simp only [h]; rfl
  case h_19 d a b =>
    cases h
    exact runsOnMasks_logic (F := fun v k => v.mbit a k != v.mbit b k) rfl rfl fun v' k h => by simp only [h]; rfl
  case h_20 d a =>
    cases h
    exact runsOnMasks_logic (F := fun v k => !v.mbit a k) rfl rfl fun v' k h => by simp only [h]; rfl
  case h_21 => cases h

/-! ### Bit by bit -/

/-- The masks before element k: the bits below it of elements P hold the relation, and with `.xmN` whether a class of theirs acted; no
other bit has changed (R37, R131). -/
structure MaskBitsUpTo (s : State) (f : MaskForm) (P : Nat → Prop) (k : Nat) (v' : VecFile) : Prop where
  rest : v' = { s.st.vec with m := v'.m }
  holds : ∀ j, P j → j < k → v'.m[f.d].getLsbD j = (f.rel j).1
  marks : ∀ j, f.xm ≠ 0 → P j → j < k → v'.m[f.xm].getLsbD j = Cls.acts (f.rel j).2 s.st.csr.xact
  keeps : ∀ (r : MReg) (j : Nat), ¬((r = f.d ∨ (r = f.xm ∧ f.xm ≠ 0)) ∧ P j ∧ j < k) → v'.m[r].getLsbD j = s.st.vec.m[r].getLsbD j

variable {P : Nat → Prop} {k : Nat} {v' : VecFile}

theorem MaskBitsUpTo.start {lo : Nat} (hP : ∀ j, P j → lo ≤ j) : MaskBitsUpTo s f P lo s.st.vec :=
  ⟨rfl, fun j hj hlt => absurd (hP j hj) (Nat.not_le.mpr hlt), fun j _ hj hlt => absurd (hP j hj) (Nat.not_le.mpr hlt),
    fun _ _ _ => rfl⟩

/-- No bit of element k or a later one has changed. -/
theorem MaskBitsUpTo.unwritten (h : MaskBitsUpTo s f P k v') (r : MReg) : v'.m[r].getLsbD k = s.st.vec.m[r].getLsbD k :=
  h.keeps r k fun hn => Nat.lt_irrefl k hn.2.2

theorem MaskBitsUpTo.skip (h : MaskBitsUpTo s f P k v') (hk : ¬P k) : MaskBitsUpTo s f P (k + 1) v' := by
  have below : ∀ j, P j → j < k + 1 → j < k := fun j hj hlt => ((and_lt_succ_iff hk j).mpr ⟨hj, hlt⟩).2
  exact ⟨h.rest, fun j hj hlt => h.holds j hj (below j hj hlt), fun j hx hj hlt => h.marks j hx hj (below j hj hlt),
    fun r j hn => h.keeps r j fun ⟨hr, hj, hlt⟩ => hn ⟨hr, hj, hlt.trans (Nat.lt_succ_self k)⟩⟩

/-- The relation's bit of one more element, and its bit of `.xmN`. -/
theorem MaskBitsUpTo.mark {rel : VecFile → Nat → Bool × Cls} (h : MaskBitsUpTo s f P k v') (hP : P k) (hk : k < 16384)
    (hx : f.xm = 0 ∨ f.xm ≠ f.d) (hc : rel v' k = f.rel k) :
    MaskBitsUpTo s f P (k + 1) ((maskBody f.d f.m rel).mark s.st.csr.xact f.xm v' k) := by
  have bits : ∀ (r : MReg) (j : Nat), ((maskBody f.d f.m rel).mark s.st.csr.xact f.xm v' k).m[r].getLsbD j =
      if f.xm ≠ 0 ∧ r = f.xm ∧ j = k then Cls.acts (f.rel k).2 s.st.csr.xact
      else if r = f.d ∧ j = k then (f.rel k).1 else v'.m[r].getLsbD j := by
    intro r j
    simp only [LoopBody.mark, maskBody, hc]
    by_cases h0 : f.xm = 0
    · simp only [h0, ne_eq, not_true_eq_false, if_false, false_and, getLsbD_setMbit _ _ _ _ _ _ hk]
    · simp only [h0, ne_eq, not_false_eq_true, if_true, true_and, getLsbD_setMbit _ _ _ _ _ _ hk]
  constructor
  case rest =>
    rw [h.rest]; simp only [LoopBody.mark, maskBody]
    split <;> rfl
  case holds =>
    intro j hj hlt
    rw [bits, if_neg fun ⟨h0, hd, _⟩ => hx.elim h0 fun hne => hne hd.symm]
    by_cases hjk : j = k
    · rw [if_pos ⟨rfl, hjk⟩, hjk]
    · rw [if_neg fun e => hjk e.2]; exact h.holds j hj (by omega)
  case marks =>
    intro j h0 hj hlt
    rw [bits]
    by_cases hjk : j = k
    · rw [if_pos ⟨h0, rfl, hjk⟩, hjk]
    · rw [if_neg fun e => hjk e.2.2, if_neg fun e => hjk e.2]; exact h.marks j h0 hj (by omega)
  case keeps =>
    intro r j hn
    rw [bits, if_neg, if_neg]
    · exact h.keeps r j fun ⟨hr, hj, hlt⟩ => hn ⟨hr, hj, by omega⟩
    · rintro ⟨rfl, rfl⟩; exact hn ⟨.inl rfl, hP, Nat.lt_succ_self j⟩
    · rintro ⟨h0, rfl, rfl⟩; exact hn ⟨.inr ⟨rfl, h0⟩, hP, Nat.lt_succ_self j⟩

/-- The loop of a form with a mask destination does what the statement says, bit by bit. -/
theorem follows_of_runsOnMasks (hg : Granted s) {rel : VecFile → Nat → Bool × Cls} (hf : RunsOnMasks i s f rel) (hl : f.legal = true) :
    (maskBody f.d f.m rel).Follows s.st.csr.xact f.xm s.st.vec s.st.csr.vstart.toNat s.st.vlNow
      (Executes s s.st.csr.vstart.toNat f.m) (fun k => (f.rel k).2)
      (MaskBitsUpTo s f (Executes s s.st.csr.vstart.toNat f.m)) := by
  have value : ∀ k v', MaskBitsUpTo s f (Executes s s.st.csr.vstart.toNat f.m) k v' → rel v' k = f.rel k := fun k v' h =>
    hf.computes v' k (by rw [h.rest]) h.unwritten
  constructor
  case start => exact .start fun _ hj => hj.1
  case act =>
    intro k v' hlo hk h
    show v'.mbit f.m k = true ↔ _
    rw [show v'.mbit f.m k = allows s f.m k by unfold VecFile.mbit allows; rw [h.unwritten f.m]]
    exact ⟨fun ha => ⟨hlo, hk, ha⟩, fun ha => ha.2.2⟩
  case raises => intro k v' _ _ _ h; exact congrArg Prod.snd (value k v' h)
  case step => intro k v' _ hk hP h; exact h.mark hP (hk.trans_le (hg.trans (vlmax_le _))) (hf.apart hl) (value k v' h)
  case skip => intro k v' _ _ hP h; exact h.skip hP

/-- A form with a mask destination completes all its elements (R131, R158). -/
theorem maskForm_completes (h : Quiet s) (hg : Granted s) {rel : VecFile → Nat → Bool × Cls} (hf : RunsOnMasks i s f rel)
    (hl : f.legal = true) (hpass : f.xm = 0 → ∀ k, Executes s s.st.csr.vstart.toNat f.m k → ¬Acts s (f.rel k).2) :
    ∃ t, exec i s = .next t ∧ MaskDone s t f := by
  have hi := hf.plain
  suffices outcome : ∃ V C, issue i (s.entry i) (s.committed i) =
        .done (((s.committed i).loopAt V C).complete1 s.st.vlNow) none ∧
      MaskBitsUpTo s f (Executes s s.st.csr.vstart.toNat f.m) s.st.vlNow V ∧
      UnionOf (Executes s s.st.csr.vstart.toNat f.m) (fun k => (f.rel k).2) C by
    obtain ⟨V, C, done, bits, union⟩ := outcome
    obtain ⟨t, answer, rfl, entry⟩ := exec_completes_plain h hi done
    exact ⟨t, answer, C, union, entry, bits.rest, fun k hk => bits.holds k hk hk.2.1,
      fun k hx hk => by rw [bits.marks k hx hk hk.2.1]; exact acts_iff s _,
      fun r k hn => bits.keeps r k fun ⟨hr, hk, _⟩ => hn ⟨hr, hk⟩⟩
  by_cases hvl : s.st.csr.vstart.toNat < s.st.vlNow
  · obtain ⟨V, C, done, bits, union⟩ := ventry_completes_of_follows h hi (step := maskStep f.d rel) (fun _ _ _ => rfl)
      (follows_of_runsOnMasks hg hf hl) hvl fun j _ _ hj => or_iff_not_imp_left.mpr fun hx => hpass (not_not.mp hx) j hj
    exact ⟨V, C, by rw [hf.issued, hl]; exact done, bits, executes_union f.m union⟩
  · have none_executes : ∀ j, ¬Executes s s.st.csr.vstart.toNat f.m j := fun j hj => hvl (hj.1.trans_lt hj.2.1)
    refine ⟨s.st.vec, 0, ?_, .start fun j hj => absurd hj (none_executes j), fun q _ =>
      ⟨fun hq => by simp at hq, fun ⟨j, hj, _⟩ => absurd hj (none_executes j)⟩⟩
    rw [hf.issued, ventry_retires (by rw [effLen_committed h hi, vstart_committed h hi]; exact Nat.not_lt.mp hvl),
      effLen_committed h hi, committed_loopAt h hi]

/-- Settles O25: every form with a mask destination runs over it and completes. -/
theorem maskDestinationForms : Obligations.MaskDestinationForms := by
  unfold Obligations.MaskDestinationForms
  intro i s f h hg hf hl hpass
  obtain ⟨rel, runs⟩ := runsOnMasks_of_maskForm hf
  exact maskForm_completes h hg runs hl hpass

end

end Sys2Proof.Machine
end

section
/-! PROOFS. How an entry runs on a quiet strand, continued: forms with a scalar destination, forms that name a tile, and SETVLF. -/

namespace Sys2Proof.Machine

open Sys2Proof.Safety

/-! ### An entry that stands alone -/

/-- The entry e stands alone in the queue of the strand that moves, and nothing holds it back: no copy, no parked wait, no read but for
an entry's result. -/
structure Alone (e : Entry) (u : State) : Prop where
  queue : u.st.queue = [e]
  reads : ∀ p ∈ u.st.sync, p.src = .entry
  running : u.st.stat = .running
  outside : u.st.trap.inh = false
  unparked : u.st.park = .none
  noCopies : u.st.copies = []
  noEnding : ∀ p ∈ u.ending, p.1 ≠ u.slot
  pace : u.st.runAhead = false

section
variable {u : State} {e : Entry}

/-- Without copies none is open. -/
theorem openCopies_nil {t : Strand} (h : t.copies = []) (p : Copy → Bool) : t.openCopies p = [] := by simp [Strand.openCopies, h]

/-- Without copies no interlock moves one (R181, R222). -/
theorem Alone.interlock (h : Alone e u) (e' : Entry) : u.interlock e' = u := by
  have own : u.bgStrand u.slot Strand.hasCopy = u.st := by
    have none_ends : u.ending.find? (fun x => x.1 = u.slot && Strand.hasCopy x.2) = none :=
      List.find?_eq_none.mpr fun p hp => by simp [h.noEnding p hp]
    simp [State.bgStrand, none_ends]
  simp only [State.interlock, State.endCopies, openCopies_nil h.noCopies, List.foldl_nil, own]
  split <;> rfl

/-- What an attempt at the head entry answers for its outcome. -/
def VRes.attempt (e : Entry) : VRes → State × Bool
  | .stop s => (s, false)
  | .done s v => ((State.deliverReads 8 (s.mod fun t => t.finishEntry e v)).enterClaim, true)

/-- The entry is issued at once. -/
theorem Alone.headStep (h : Alone e u) (hr : e.instr.releases = false) : u.headStep = (issue e.instr e u).attempt e := by
  have moves : u.st.vectorMoves = true := by
    simp [Strand.vectorMoves, h.running, h.outside, h.queue, h.unparked, Park.atBarrier]
  have held : u.st.headHeld e = false := by
    have no_port : (u.st.sync.any fun p => p.src.isPort && !seqBefore e.seq p.seq) = false :=
      List.any_eq_false.mpr fun p hp => by simp [h.reads p hp, ReadSrc.isPort]
    simp only [Strand.headHeld, h.noCopies, hr, no_port, List.any_nil, Bool.false_and, Bool.and_false, Bool.or_false]
  unfold State.headStep
  simp only [moves, Bool.not_true, Bool.false_eq_true, if_false, h.queue, hr, h.interlock, State.deliverReads_entries h.reads, held]
  cases issue e.instr e u <;> rfl

/-- THE RUN OF AN ENTRY THAT STOPS: it stays at the head of the queue. -/
theorem Alone.drain_stop (h : Alone e u) (hr : e.instr.releases = false) {w : State} (hw : issue e.instr e u = .stop w)
    (hs : ∀ p ∈ w.st.sync, p.src = .entry) : u.drain = w := by
  have step := h.headStep hr
  rw [hw, VRes.attempt] at step
  simp only [State.drain, h.pace, h.queue, List.length_singleton, State.drainN, step, Bool.not_false, if_true]
  exact State.deliverReads_entries hs 8

/-- THE RUN OF AN ENTRY THAT COMPLETES: it leaves the queue, and its result goes to the register that waits for it. -/
theorem Alone.drain_done (h : Alone e u) (hr : e.instr.releases = false) {w : State} {v : Option Word}
    (hw : issue e.instr e u = .done w v) (hq : (w.st.finishEntry e v).queue = []) (hs : (w.st.finishEntry e v).sync = []) :
    u.drain = w.mod fun t => t.finishEntry e v := by
  have quiet : (w.mod fun t => t.finishEntry e v).st.sync = [] := hs
  have step := h.headStep hr
  rw [hw, VRes.attempt] at step
  simp only [State.deliverReads_nil quiet, State.enterClaim_quiet (s := w.mod fun t => t.finishEntry e v) hq] at step
  simp only [State.drain, h.pace, h.queue, List.length_singleton, State.drainN, step, Bool.not_false, if_true]
  exact State.deliverReads_nil quiet 8

/-- An entry without a scalar destination leaves the queue, and nothing else changes. -/
theorem finishEntry_of_no_reads {t : Strand} (hq : t.queue = [e]) (hs : t.sync = []) (v : Option Word) :
    t.finishEntry e v = { t with queue := [], prog := 0 } := by
  simp [Strand.finishEntry, hq, hs]

end

/-- Only an MCLAIM at the head of the queue claims a slot (R192). -/
theorem State.enterClaim_of_not_mclaim {u : State} {e : Entry} (hq : u.st.queue = [e]) (he : ∀ a, e.instr ≠ .mclaim a) :
    u.enterClaim = u := by
  unfold State.enterClaim
  rw [hq]
  split
  · next heq =>
    have form := congrArg (fun l : List Entry => l.head?.map Entry.instr) heq
    exact absurd (Option.some.inj form) (he _)
  · rfl

/-! ### Forms of the vector stream -/

/-- Vector-stream forms that start no grant, release nothing and claim no slot. -/
def isOrdinary (i : Instr) : Bool :=
  i.isVector && !i.releases && match i with | .setvlf .. | .mclaim _ => false | _ => true

theorem isOrdinary_spec {i : Instr} (h : isOrdinary i = true) : i.isVector = true ∧ i.releases = false ∧
    (∀ d a b g w, i ≠ .setvlf d a b g w) ∧ ∀ a, i ≠ .mclaim a := by
  simp only [isOrdinary, Bool.and_eq_true, Bool.not_eq_true'] at h
  obtain ⟨⟨hv, hr⟩, hm⟩ := h
  refine ⟨hv, hr, ?_, ?_⟩
  · rintro d a b g w rfl; exact Bool.false_ne_true hm
  · rintro a rfl; exact Bool.false_ne_true hm

section
variable {s : State} {i : Instr}

/-- The read that an entry's scalar destination waits with (R31). -/
def resultRead (s : State) (d : SReg) : SyncRead :=
  { reg := d, seq := s.st.nextSeq, src := .entry, grant := s.st.grant, flags := s.st.csr.xflags }

/-- The strand after the commit of a form on a quiet strand. -/
theorem committed_st (h : Quiet s) (i : Instr) : (s.committed i).st =
    { s.st with
      queue := [s.entry i], nextSeq := s.st.nextSeq + 1
      sync := (i.dest.map (resultRead s)).toList
      pend := match i.dest with | some d => putField s.st.pend d.val 1 1 | none => s.st.pend }.advance := by
  obtain ⟨-, -, -, hqueue, hsync, -⟩ := h
  unfold State.committed
  cases i.dest <;> simp [Strand.await, hqueue, hsync, resultRead]

theorem committed_eq (h : Quiet s) (i : Instr) : s.committed i = { s with st := { s.st with
      queue := [s.entry i], nextSeq := s.st.nextSeq + 1
      sync := (i.dest.map (resultRead s)).toList
      pend := match i.dest with | some d => putField s.st.pend d.val 1 1 | none => s.st.pend }.advance } := by
  rw [← committed_st h i]; rfl

/-- After the commit the entry stands alone. -/
theorem committed_alone (h : Quiet s) (i : Instr) : Alone (s.entry i) (s.committed i) := by
  have st := committed_st h i
  obtain ⟨hstat, hinh, hpark, -, hsync, hcopies, -, -, -, hending, -, -, -, hpace⟩ := id h
  constructor
  case queue => rw [st]; rfl
  case reads => exact State.committed_sync_src s i hsync
  case running => rw [st]; exact hstat
  case outside => rw [st]; exact hinh
  case unparked => rw [st]; exact hpark
  case noCopies => rw [st]; exact hcopies
  case noEnding => exact hending
  case pace => rw [st]; exact hpace

/-- On a quiet strand an ordinary form commits its entry, and the vector side goes on. -/
theorem exec_eq_drain (h : Quiet s) (hi : isOrdinary i = true) : exec i s = .next (s.committed i).drain := by
  obtain ⟨-, hinh, -, -, -, -, -, -, -, -, hlate, -⟩ := id h
  obtain ⟨hv, -, hg, hclaim⟩ := isOrdinary_spec hi
  have noClaim : (s.committed i).enterClaim = s.committed i :=
    State.enterClaim_of_not_mclaim (committed_alone h i).queue hclaim
  rw [exec_eq_vectorStream hv, State.vectorStream_commits hinh (hasRoom_of_quiet h i), State.commit_eq hg hlate, noClaim]

/-! ### Forms without an element count -/

/-- The machine with another tile table. -/
def State.withTiles (s : State) (T : Vector Tile 8) : State := s.mod fun t => { t with tiles := T }

/-- A form that completes without a scalar destination and may change the tile table (R38). -/
theorem exec_formDone (h : Quiet s) (hi : isOrdinary i = true) (hd : i.dest = none) {T : Vector Tile 8}
    (hr : issue i (s.entry i) (s.committed i) = .done (((s.committed i).withTiles T).setVstart 0) none) :
    ∃ t, exec i s = .next t ∧ FormDone s t (s.withTiles T) := by
  have st := committed_st h i
  obtain ⟨-, -, -, hqueue, hsync, -, -, -, -, -, -, hprog, -⟩ := id h
  obtain ⟨-, releases, -⟩ := isOrdinary_spec hi
  have queue : (((s.committed i).withTiles T).setVstart 0).st.queue = [s.entry i] := (committed_alone h i).queue
  have sync : (((s.committed i).withTiles T).setVstart 0).st.sync = [] := by
    show (s.committed i).st.sync = []
    rw [st, hd]; rfl
  have finished := finishEntry_of_no_reads queue sync none
  refine ⟨_, by rw [exec_eq_drain h hi, (committed_alone h i).drain_done releases hr (by rw [finished]) (by rw [finished]; exact sync)],
    ?_⟩
  have left : ((((s.committed i).withTiles T).setVstart 0).mod fun t => t.finishEntry (s.entry i) none) =
      { s with st := { s.st.advance with tiles := T, nextSeq := s.st.nextSeq + 1, csr := { s.st.csr with vstart := 0 } } } := by
    simp only [State.mod, finished]
    simp only [committed_eq h i, hd, State.withTiles, State.setVstart, State.modCsr, State.mod, Strand.advance, Option.map_none,
      Option.toList_none, hqueue, hsync, hprog, BitVec.ofNat_eq_ofNat]
  rw [left]
  exact ⟨⟨rfl, rfl, rfl, clause_advance s.st⟩, rfl⟩

/-- A form that traps at the head of the queue, as the statements say it (R35, R41, R42). -/
theorem exec_headTraps (h : Quiet s) (hi : isOrdinary i = true) (hh : HasHandler s) {c : Nat} (hc : c ≠ 8) {v : Word}
    (hr : issue i (s.entry i) (s.committed i) = (s.committed i).vTrap0 c v) : ∃ t, exec i s = .next t ∧ HeadTraps s t c v := by
  have st := committed_st h i
  obtain ⟨-, releases, -⟩ := isOrdinary_spec hi
  have handler : HasHandler ((s.committed i).setVstart 0) := by
    unfold HasHandler at hh ⊢
    show (s.committed i).st.trap.inh = _ ∧ (s.committed i).st.trap.tvec ≠ 0
    rw [st]; exact hh
  have unparked : ((s.committed i).setVstart 0).st.park ≠ .qpop := by
    show (s.committed i).st.park ≠ _
    rw [(committed_alone h i).unparked]; decide
  rw [State.vTrap0, State.trap_handler handler hc, State.leaveParked_of unparked] at hr
  refine ⟨_, by rw [exec_eq_drain h hi, (committed_alone h i).drain_stop releases hr (committed_alone h i).reads], ?_⟩
  refine ⟨rfl, rfl, rfl, rfl, ?_, ?_, ?_, ?_, ?_, ?_, ?_, rfl, rfl, fun _ => rfl⟩
  · show (s.committed i).st.pc = _; rw [st]; rfl
  · show (s.committed i).st.trap.tvec = _; rw [st]; rfl
  · show (s.committed i).st.queue.length = 1; rw [st]; rfl
  · show { (s.committed i).st.csr with vstart := BitVec.ofNat 20 0 } = _; rw [st]; rfl
  · show (s.committed i).st.regs = _; rw [st]; rfl
  · show (s.committed i).st.vec = _; rw [st]; rfl
  · show (s.committed i).st.tiles = _; rw [st]; rfl

/-- The register that waits for the one entry gets its result (R31, R70). -/
theorem finishEntry_of_result {t : Strand} {e : Entry} {p : SyncRead} (hq : t.queue = [e]) (hs : t.sync = [p]) (hp : p.seq = e.seq)
    (hsrc : p.src = .entry) (v : Word) : t.finishEntry e (some v) =
      { t.setR p.reg v with queue := [], prog := 0, sync := [], pend := putField t.pend p.reg.val 1 0 } := by
  have found : [p].find? (fun p => p.seq = e.seq && p.src = .entry) = some p := by simp [hp, hsrc]
  have older : [p].takeWhile (fun q => decide (q ≠ p)) = [] := by simp
  simp only [Strand.finishEntry, hq, hs, found, Strand.receive, older, List.map_nil, List.length_nil, Nat.zero_add, List.drop_one,
    List.tail_cons, List.append_nil, List.any_nil, Bool.false_eq_true, if_false, Option.getD_some]
  by_cases h : p.reg = 0 <;> simp [Strand.setR, h]

/-- A form that gives a scalar and changes nothing else, as the statements say it (R31). -/
theorem exec_scalarFromVector (h : Quiet s) (hi : isOrdinary i = true) {d : SReg} (hd : i.dest = some d) {v : Word}
    (hr : issue i (s.entry i) (s.committed i) = .done ((s.committed i).setVstart 0) (some v)) :
    ∃ t, exec i s = .next t ∧ ScalarFromVector s t d v := by
  have st := committed_st h i
  obtain ⟨-, -, -, hqueue, hsync, -, -, -, -, -, -, hprog, -⟩ := id h
  obtain ⟨-, releases, -⟩ := isOrdinary_spec hi
  have queue : ((s.committed i).setVstart 0).st.queue = [s.entry i] := (committed_alone h i).queue
  have sync : ((s.committed i).setVstart 0).st.sync = [resultRead s d] := by
    show (s.committed i).st.sync = _
    rw [st, hd]; rfl
  have finished := finishEntry_of_result queue sync rfl rfl v
  refine ⟨_, by rw [exec_eq_drain h hi, (committed_alone h i).drain_done releases hr (by rw [finished]) (by rw [finished])], ?_⟩
  have left : (((s.committed i).setVstart 0).mod fun t => t.finishEntry (s.entry i) (some v)) =
      { s with st := { (s.st.advance.setR d v) with
        nextSeq := s.st.nextSeq + 1, csr := { s.st.csr with vstart := 0 },
        pend := putField (putField s.st.pend d.val 1 1) d.val 1 0 } } := by
    simp only [State.mod, finished]
    simp only [committed_eq h i, hd, State.setVstart, State.modCsr, State.mod, Strand.advance, BitVec.ofNat_eq_ofNat]
    by_cases h0 : d = 0 <;> simp [Strand.setR, h0, resultRead, hqueue, hsync, hprog]
  rw [left]
  refine ⟨⟨?_, fun r hr => ?_⟩, fun r => ?_, fun _ => rfl, ?_, ?_, ?_⟩
  · show (s.st.advance.setR d v).reg d = _
    rw [Strand.reg_setR]
    by_cases h0 : d = 0 <;> simp [h0, Strand.reg]
  · show (s.st.advance.setR d v).reg r = _
    rw [Strand.reg_setR, if_neg fun e => hr e.1]; rfl
  · show (putField (putField s.st.pend d.val 1 1) d.val 1 0).getLsbD r.val = _
    have room : d.val + 1 ≤ 32 := d.isLt
    rw [testBit_putField _ _ _ _ _ room, testBit_putField _ _ _ _ _ room]
    by_cases hrd : r = d
    · subst hrd; simp
    · have apart : ¬(d.val ≤ r.val ∧ r.val < d.val + 1) := fun e => hrd (Fin.ext (by omega))
      rw [if_neg apart, if_neg apart]; simp [hrd]
  · show (s.st.advance.setR d v).pc = _; rw [Strand.setR_pc]; rfl
  · show (s.st.advance.setR d v).pfx = _; rw [Strand.setR_pfx]; rfl
  · by_cases h0 : d = 0 <;> simp [Strand.setR, h0, Strand.advance]

end

end Sys2Proof.Machine
end

section
/-! PROOFS. The family of the vector forms (07): definition, shape, tag and state of tiles (O39). -/

namespace Sys2Proof.Machine

open Sys2Proof.Safety

section
variable {s : State} {i : Instr} {n : TReg}

/-! ### The tile an entry names (R181) -/

theorem committed_tiles (h : Quiet s) (i : Instr) : (s.committed i).st.tiles = s.st.tiles := by rw [committed_st h]; rfl

theorem committed_lim (h : Quiet s) (i : Instr) : (s.committed i).st.lim = s.st.lim := by rw [committed_st h]; rfl

/-- Who accesses memory is the same after a commit. -/
theorem committed_me (h : Quiet s) (i : Instr) : (s.committed i).me = s.me := by
  unfold State.me; rw [committed_st h]; rfl

/-- A tile's bytes lie where they lay before a commit. -/
theorem committed_tileByte (s : State) (i : Instr) : (s.committed i).tileByte = s.tileByte := by
  have place : (s.committed i).place = s.place := rfl
  delta State.tileByte
  rw [place]

/-- A tile's elements are the same after a commit. -/
theorem committed_tileElem (s : State) (i : Instr) : (s.committed i).tileElem = s.tileElem := by
  have mem : (s.committed i).mem = s.mem := rfl
  delta State.tileElem State.tileGet
  rw [committed_tileByte, mem]

/-- So is the bitmap that a tag gives it (R187). -/
theorem committed_bitmapFor (s : State) (i : Instr) : (s.committed i).bitmapFor = s.bitmapFor := by
  delta State.bitmapFor State.groupsOf State.zeroBlock
  rw [committed_tileElem]

/-- A tile whose state lets the entry go is used. -/
theorem withTile_go (h : Quiet s) (hn : n.val < s.st.lim.tiles) {use : Tile → TileUse} (hu : use s.st.tiles[n] = .go)
    (k : Tile → VRes) : (s.committed i).withTile n use k = k s.st.tiles[n] := by
  simp only [State.withTile, committed_lim h, committed_tiles h, Nat.not_le.mpr hn, if_false, hu]

/-- A handle above the limit raises cause 0x02 (R178). -/
theorem withTile_beyond (h : Quiet s) (hn : s.st.lim.tiles ≤ n.val) (use : Tile → TileUse) (k : Tile → VRes) :
    (s.committed i).withTile n use k = (s.committed i).vTrap0 2 0 := by
  simp only [State.withTile, committed_lim h, hn, if_true, State.vTrap0]

/-- A tile that its state makes illegal for the entry does too (R181). -/
theorem withTile_illegal (h : Quiet s) {use : Tile → TileUse} (hu : use s.st.tiles[n] = .illegal) (k : Tile → VRes) :
    (s.committed i).withTile n use k = (s.committed i).vTrap0 2 0 := by
  simp only [State.withTile, committed_tiles h, hu, State.vTrap0, ite_self]

/-- A tile that is ready, or draining with no change held back, may be read and changed (R181, R183). -/
theorem Tile.goes {x : Tile} (h : x.st = .ready ∨ (x.st = .draining ∧ x.pending = none)) :
    x.reader = .go ∧ ∀ onEmpty, x.changer onEmpty = .go := by
  obtain h | ⟨h, hp⟩ := h
  · simp only [Tile.reader, Tile.changer, h, implies_true, and_self]
  · simp only [Tile.reader, Tile.changer, h, hp, Option.isNone_none, if_true, implies_true, and_self]

/-- The table entry of a tile after a change (R183). -/
def Tile.changedTo (x : Tile) (D : TileDef) : Tile :=
  if x.st = .draining then { x with pending := some D } else { cur := D, st := .ready, pending := none }

theorem tileTo_eq (s : State) (n : TReg) (D : TileDef) : tileTo s n D = s.withTiles (s.st.tiles.set n (s.st.tiles[n].changedTo D)) := rfl

/-- The model changes a tile as the statements say. -/
theorem State.changeTile_eq (u : State) (n : TReg) (D : TileDef) :
    u.changeTile n D = u.withTiles (u.st.tiles.set n (u.st.tiles[n].changedTo D)) := by
  unfold State.changeTile
  generalize u.st.tiles[n] = x
  obtain ⟨cur, st, pending⟩ := x
  cases st <;> rfl

/-- A change of a tile, as the statements say it. -/
theorem exec_changes (h : Quiet s) (hi : isOrdinary i = true) (hd : i.dest = none) {D : TileDef}
    (hr : issue i (s.entry i) (s.committed i) = .done (((s.committed i).changeTile n D).setVstart 0) none) :
    ∃ t, exec i s = .next t ∧ FormDone s t (tileTo s n D) := by
  rw [State.changeTile_eq, committed_tiles h] at hr
  exact exec_formDone h hi hd hr

/-! ### SETSHAPE, TTAG and TDEF -/

/-- SETSHAPE (R129). -/
theorem setshape_changes (h : Quiet s) {d : TReg} {a b : SReg} (hd : Readable s d) :
    ∃ t, exec (.setshape d a b) s = .next t ∧ FormDone s t (tileTo s d { s.st.tiles[d].cur with
      rows := min (min (s.r a).toNat 256) (64 * s.st.tiles[d].cur.rb), len := min (s.r b).toNat 1024 }) := by
  obtain ⟨lim, use⟩ := hd
  have changer := (Tile.goes use).2
  refine exec_changes h rfl rfl ?_
  show effSetshape d a b _ _ = _
  have rows : (s.entry (.setshape d a b)).opd.a = s.r a := rfl
  have len : (s.entry (.setshape d a b)).opd.b = s.r b := rfl
  rw [effSetshape, withTile_go h lim (changer false), rows, len]

/-- TTAG of a tag that the tile can take (R187). -/
theorem ttag_changes (h : Quiet s) {d : TReg} {a : SReg} (hd : Readable s d) (small : (s.r a).toNat < 512)
    (fmt : (s.r a).toNat % 32 < 19) (sp : (s.r a).toNat / 32 % 4 ≠ 3) {bm : BitVec 16384}
    (hbm : s.bitmapFor s.me { s.st.tiles[d].cur with tag := (s.r a).setWidth 9 } ((s.r a).toNat / 32 % 4) = some bm) :
    ∃ t, exec (.ttag d a) s = .next t ∧
      FormDone s t (tileTo s d { s.st.tiles[d].cur with tag := (s.r a).setWidth 9, bitmap := bm }) := by
  obtain ⟨lim, use⟩ := hd
  have changer := (Tile.goes use).2
  refine exec_changes h rfl rfl ?_
  show effTtag d a _ _ = _
  rw [effTtag, withTile_go h lim (changer false)]
  have ok : (decide (512 ≤ (s.r a).toNat) || decide (19 ≤ (s.r a).toNat % 32) || decide ((s.r a).toNat / 32 % 4 = 3)) = false := by
    simp only [Bool.or_eq_false_iff, decide_eq_false_iff_not]; omega
  have tag : BitVec.ofNat 9 (s.r a).toNat = (s.r a).setWidth 9 := BitVec.ofNat_toNat _ _
  have operand : (s.entry (.ttag d a)).opd.a = s.r a := rfl
  have same : (s.committed (.ttag d a)).bitmapFor (s.committed (.ttag d a)).me = s.bitmapFor s.me := by
    rw [committed_me h, committed_bitmapFor]
  simp only [operand, ok, tag, same, hbm, Bool.false_eq_true, if_false]

/-- TTAG of any other tag changes nothing; its VSTART is 0 (R187; log 51). -/
theorem ttag_traps (h : Quiet s) (hh : HasHandler s) {d : TReg} {a : SReg} (hd : Readable s d)
    (bad : 512 ≤ (s.r a).toNat ∨ 19 ≤ (s.r a).toNat % 32 ∨ (s.r a).toNat / 32 % 4 = 3) :
    ∃ t, exec (.ttag d a) s = .next t ∧ HeadTraps s t 2 0 := by
  obtain ⟨lim, use⟩ := hd
  have changer := (Tile.goes use).2
  refine exec_headTraps h rfl hh (by decide) ?_
  show effTtag d a _ _ = _
  rw [effTtag, withTile_go h lim (changer false)]
  have no : (decide (512 ≤ (s.r a).toNat) || decide (19 ≤ (s.r a).toNat % 32) || decide ((s.r a).toNat / 32 % 4 = 3)) = true := by
    simp only [Bool.or_eq_true, decide_eq_true_eq]; omega
  have operand : (s.entry (.ttag d a)).opd.a = s.r a := rfl
  simp only [operand, no, if_true]

section
variable {d : TReg} {a b : SReg}

/-- A tile that TDEF may name: a readable one, or an empty one below the limit (R179, R181). -/
theorem tdef_goes (hd : Readable s d ∨ (d.val < s.st.lim.tiles ∧ s.st.tiles[d].st = .empty)) :
    d.val < s.st.lim.tiles ∧ s.st.tiles[d].changer true = .go := by
  obtain ⟨lim, use⟩ | ⟨lim, empty⟩ := hd
  · exact ⟨lim, (Tile.goes use).2 true⟩
  · exact ⟨lim, by simp only [Tile.changer, empty, if_true]⟩

/-- What TDEF gives a tile (R179). -/
def definedTile (base : Word) (rb : Nat) : TileDef :=
  { base := base, rb := rb, rows := 0, len := 0, tag := 0x0C, bitmap := BitVec.allOnes 16384 }

/-- The checks of TDEF and its change, once the tile it names lets it go (R179). -/
def tdefOn (s : State) (d : TReg) (a b : SReg) (u : State) : VRes :=
  if (s.r b).toNat = 0 || 4 < (s.r b).toNat then u.vTrap0 2 0
  else if (s.r a).toNat % 4096 ≠ 0 then u.vTrap0 7 (s.r a)
  else if (s.r a).toNat / 2 ^ 56 ≠ 0xFE && (s.r a).toNat / 2 ^ 56 ≠ 0xFD && (s.r a).toNat / 2 ^ 56 ≠ 0xFC then u.vTrap0 6 (s.r a)
  else match s.place s.me ((s.r a).toNat + 65536 * (s.r b).toNat - 1) .read with
    | .error _ => u.vTrap0 4 (s.r a)
    | .ok _ =>
      if (s.r a).toNat % 2 ^ 56 / 2 ^ 20 ≠ ((s.r a).toNat % 2 ^ 56 + 65536 * (s.r b).toNat - 1) / 2 ^ 20 then u.vTrap0 4 (s.r a)
      else .done ((u.changeTile d (definedTile (s.r a) (s.r b).toNat)).setVstart 0) none

theorem issue_tdef (h : Quiet s) (hd : Readable s d ∨ (d.val < s.st.lim.tiles ∧ s.st.tiles[d].st = .empty)) :
    issue (.tdef d a b) (s.entry (.tdef d a b)) (s.committed (.tdef d a b)) = tdefOn s d a b (s.committed (.tdef d a b)) := by
  obtain ⟨lim, changer⟩ := tdef_goes hd
  have same : (s.committed (.tdef d a b)).place (s.committed (.tdef d a b)).me = s.place s.me := by rw [committed_me h]; rfl
  show effTdef d a b _ _ = _
  have base : (s.entry (.tdef d a b)).opd.a = s.r a := rfl
  have blocks : (s.entry (.tdef d a b)).opd.b = s.r b := rfl
  rw [effTdef, withTile_go h lim changer, same, base, blocks]
  rfl

variable (h : Quiet s) (hd : Readable s d ∨ (d.val < s.st.lim.tiles ∧ s.st.tiles[d].st = .empty))
include h hd

/-- TDEF of a region that passes its checks (R179). -/
theorem tdef_changes (rows : 1 ≤ (s.r b).toNat) (rows' : (s.r b).toNat ≤ 4) (aligned : (s.r a).toNat % 4096 = 0)
    (window : 0xFC ≤ (s.r a).toNat / 2 ^ 56) (window' : (s.r a).toNat / 2 ^ 56 ≤ 0xFE)
    (last : ∃ l, s.place s.me ((s.r a).toNat + 65536 * (s.r b).toNat - 1) .read = .ok l)
    (within : (s.r a).toNat % 2 ^ 56 / 2 ^ 20 = ((s.r a).toNat % 2 ^ 56 + 65536 * (s.r b).toNat - 1) / 2 ^ 20) :
    ∃ t, exec (.tdef d a b) s = .next t ∧ FormDone s t (tileTo s d (definedTile (s.r a) (s.r b).toNat)) := by
  obtain ⟨l, last⟩ := last
  refine exec_changes h rfl rfl ((issue_tdef h hd).trans ?_)
  rw [tdefOn, if_neg (by simp; omega), if_neg (by simpa using aligned), if_neg (by simp; omega), last]
  exact if_neg (not_not.mpr within)

variable (hh : HasHandler s)
include hh

/-- Row blocks outside 1 to 4 raise cause 0x02 (R179). -/
theorem tdef_traps_rows (bad : (s.r b).toNat = 0 ∨ 4 < (s.r b).toNat) : ∃ t, exec (.tdef d a b) s = .next t ∧ HeadTraps s t 2 0 :=
  exec_headTraps h rfl hh (by decide) ((issue_tdef h hd).trans (if_pos (by simpa using bad)))

/-- A base that is not aligned raises cause 0x07. -/
theorem tdef_traps_misaligned (rows : 1 ≤ (s.r b).toNat) (rows' : (s.r b).toNat ≤ 4) (bad : (s.r a).toNat % 4096 ≠ 0) :
    ∃ t, exec (.tdef d a b) s = .next t ∧ HeadTraps s t 7 (s.r a) := by
  refine exec_headTraps h rfl hh (by decide) ((issue_tdef h hd).trans ?_)
  rw [tdefOn, if_neg (by simp; omega), if_pos bad]

/-- A base in no window raises cause 0x06. -/
theorem tdef_traps_space (rows : 1 ≤ (s.r b).toNat) (rows' : (s.r b).toNat ≤ 4) (aligned : (s.r a).toNat % 4096 = 0)
    (bad : (s.r a).toNat / 2 ^ 56 < 0xFC ∨ (s.r a).toNat / 2 ^ 56 = 0xFF) :
    ∃ t, exec (.tdef d a b) s = .next t ∧ HeadTraps s t 6 (s.r a) := by
  refine exec_headTraps h rfl hh (by decide) ((issue_tdef h hd).trans ?_)
  rw [tdefOn, if_neg (by simp; omega), if_neg (by simpa using aligned), if_pos (by simp; omega)]

/-- A region that leaves its window or its bank raises cause 0x04. -/
theorem tdef_traps_bounds (rows : 1 ≤ (s.r b).toNat) (rows' : (s.r b).toNat ≤ 4) (aligned : (s.r a).toNat % 4096 = 0)
    (window : 0xFC ≤ (s.r a).toNat / 2 ^ 56) (window' : (s.r a).toNat / 2 ^ 56 ≤ 0xFE)
    (bad : (∀ l, s.place s.me ((s.r a).toNat + 65536 * (s.r b).toNat - 1) .read ≠ .ok l) ∨
      (s.r a).toNat % 2 ^ 56 / 2 ^ 20 ≠ ((s.r a).toNat % 2 ^ 56 + 65536 * (s.r b).toNat - 1) / 2 ^ 20) :
    ∃ t, exec (.tdef d a b) s = .next t ∧ HeadTraps s t 4 (s.r a) := by
  refine exec_headTraps h rfl hh (by decide) ((issue_tdef h hd).trans ?_)
  rw [tdefOn, if_neg (by simp; omega), if_neg (by simpa using aligned), if_neg (by simp; omega)]
  cases last : s.place s.me ((s.r a).toNat + 65536 * (s.r b).toNat - 1) .read with
  | error c => rfl
  | ok l => exact if_pos (bad.resolve_left fun no => no l last)

end

/-! ### TGTAG, TSTAT and TWAIT -/

/-- TGTAG (R188). -/
theorem tgtag_gives (h : Quiet s) {d : SReg} {a : TReg} (ha : Readable s a) :
    ∃ t, exec (.tgtag d a) s = .next t ∧ ScalarFromVector s t d (s.st.tiles[a].cur.tag.setWidth 64) := by
  obtain ⟨lim, use⟩ := ha
  refine exec_scalarFromVector h rfl rfl ?_
  show effTgtag d a (s.entry (.tgtag d a)) _ = _
  rw [effTgtag, withTile_go h lim (Tile.goes use).1]

/-- TSTAT, in every state (R188). -/
theorem tstat_gives (h : Quiet s) {d : SReg} {a : TReg} (ha : a.val < s.st.lim.tiles) :
    ∃ t, exec (.tstat d a) s = .next t ∧ ScalarFromVector s t d (BitVec.ofNat 64 s.st.tiles[a].st.code) := by
  refine exec_scalarFromVector h rfl rfl ?_
  show effTstat d a (s.entry (.tstat d a)) _ = _
  rw [effTstat, withTile_go h ha rfl]

/-- TWAIT on a tile that is ready or empty (R189). -/
theorem twait_passes (h : Quiet s) {d : TReg} (hd : d.val < s.st.lim.tiles)
    (hst : s.st.tiles[d].st = .ready ∨ s.st.tiles[d].st = .empty) : ∃ t, exec (.twait d) s = .next t ∧ FormDone s t s := by
  have goes : (if s.st.tiles[d].st = .ready || s.st.tiles[d].st = .empty then TileUse.go else .wait) = .go :=
    if_pos (by simpa only [Bool.or_eq_true, decide_eq_true_eq] using hst)
  refine exec_formDone (T := s.st.tiles) h rfl rfl ?_
  show effTwait d (s.entry (.twait d)) _ = _
  rw [effTwait, withTile_go h hd goes, ← committed_tiles h (.twait d)]
  rfl

/-! ### Handles above the limit, and empty tiles -/

/-- Every form of the table asks its tile before anything else, and all but TDEF, TSTAT and TWAIT refuse an empty one (R181). -/
theorem issue_tableForm (hi : tableForm i = some n) (e : Entry) (u : State) : ∃ use k, issue i e u = u.withTile n use k ∧
    ((∀ d a b, i ≠ .tdef d a b) → (∀ d a, i ≠ .tstat d a) → (∀ d, i ≠ .twait d) → ∀ t : Tile, t.st = .empty → use t = .illegal) := by
  have changer : ∀ t : Tile, t.st = .empty → t.changer false = .illegal := fun t empty => by
    simp only [Tile.changer, empty, Bool.false_eq_true, if_false]
  have reader : ∀ t : Tile, t.st = .empty → t.reader = .illegal := fun t empty => by simp only [Tile.reader, empty]
  cases i with
  | setshape d a b => cases hi; exact ⟨_, _, (rfl : effSetshape n a b e u = _), fun _ _ _ => changer⟩
  | ttag d a => cases hi; exact ⟨_, _, (rfl : effTtag n a e u = _), fun _ _ _ => changer⟩
  | tgtag d a => cases hi; exact ⟨_, _, (rfl : effTgtag d n e u = _), fun _ _ _ => reader⟩
  | tdef d a b => cases hi; exact ⟨_, _, (rfl : effTdef n a b e u = _), fun no _ _ => absurd rfl (no _ _ _)⟩
  | tstat d a => cases hi; exact ⟨_, _, (rfl : effTstat d n e u = _), fun _ no _ => absurd rfl (no _ _)⟩
  | twait d => cases hi; exact ⟨_, _, (rfl : effTwait n e u = _), fun _ _ no => absurd rfl (no _)⟩
  | _ => cases hi

/-- The forms of the table are ordinary. -/
theorem isOrdinary_of_tableForm (hi : tableForm i = some n) : isOrdinary i = true := by
  cases i with
  | setshape | ttag | tgtag | tdef | tstat | twait => rfl
  | _ => cases hi

/-- A handle above the limit raises cause 0x02 in every form of the table (R178). -/
theorem table_traps_beyond (h : Quiet s) (hh : HasHandler s) (hi : tableForm i = some n) (hn : s.st.lim.tiles ≤ n.val) :
    ∃ t, exec i s = .next t ∧ HeadTraps s t 2 0 := by
  obtain ⟨use, k, asks, -⟩ := issue_tableForm hi (s.entry i) (s.committed i)
  exact exec_headTraps h (isOrdinary_of_tableForm hi) hh (by decide) (asks.trans (withTile_beyond h hn use k))

/-- An empty tile does, but for TDEF, TSTAT and TWAIT (R181). -/
theorem table_traps_empty (h : Quiet s) (hh : HasHandler s) (hi : tableForm i = some n) (empty : s.st.tiles[n].st = .empty)
    (no_tdef : ∀ d a b, i ≠ .tdef d a b) (no_tstat : ∀ d a, i ≠ .tstat d a) (no_twait : ∀ d, i ≠ .twait d) :
    ∃ t, exec i s = .next t ∧ HeadTraps s t 2 0 := by
  obtain ⟨use, k, asks, refuses⟩ := issue_tableForm hi (s.entry i) (s.committed i)
  exact exec_headTraps h (isOrdinary_of_tableForm hi) hh (by decide)
    (asks.trans (withTile_illegal h (refuses no_tdef no_tstat no_twait _ empty) k))

end

end Sys2Proof.Machine
end

section
namespace Sys2Proof.Machine

open Sys2Proof.Safety

/-- Settles O39, clause by clause; the VSTART of a refused TTAG is the model's choice (log 51). -/
theorem tileTable : Obligations.TileTable := by
  unfold Obligations.TileTable
  refine ⟨fun s d a b h hd => setshape_changes h hd, fun s d a b h hd => ⟨tdef_changes h hd, fun hh => tdef_traps_rows h hd hh,
    fun hh => tdef_traps_misaligned h hd hh, fun hh => tdef_traps_space h hd hh, fun hh => tdef_traps_bounds h hd hh⟩,
    fun s d a h hd => ⟨fun small fmt sp bm hbm => ttag_changes h hd small fmt sp hbm, fun hh bad => ttag_traps h hh hd bad⟩,
    fun s d a h ha => tgtag_gives h ha, fun s d a h ha => ?_, fun s d h hd hst => twait_passes h hd hst,
    fun i s n hi h hh => ⟨table_traps_beyond h hh hi, table_traps_empty h hh hi⟩⟩
  obtain ⟨t, answer, gives⟩ := tstat_gives (d := d) h ha
  refine ⟨t, answer, ?_⟩
  cases st : s.st.tiles[a].st <;> rw [st] at gives <;> exact gives

end Sys2Proof.Machine
end

section
/-! PROOFS. The family of the vector forms (07): SETVLF takes fibres from its list (O38). -/

namespace Sys2Proof.Machine

open Sys2Proof.Safety

/-! ### A cached translation serves its whole page (R328, R331) -/

/-- What one entry of a table of a level maps, in bytes. -/
def levelSpan : Nat → Nat
  | 0 => 2 ^ 39
  | level => levelBytes level

theorem levelSpan_succ_dvd (level : Nat) : levelSpan (level + 1) ∣ levelSpan level := by
  match level with
  | 0 => exact ⟨512, by decide⟩
  | 1 => exact ⟨512, by decide⟩
  | 2 => exact ⟨32, by decide⟩
  | _ + 3 => exact Nat.dvd_refl _

/-- The entry of a virtual address is that of all addresses in its span. -/
theorem pteAddr_span {va va' : Nat} {level : Nat} (h : va' / levelSpan level = va / levelSpan level) (base : Nat) :
    pteAddr level base va' = pteAddr level base va := by
  match level with
  | 0 => unfold pteAddr fld; exact congrArg (fun q => base + 8 * (q % _)) h
  | 1 => unfold pteAddr fld; exact congrArg (fun q => base + 8 * (q % _)) h
  | 2 => unfold pteAddr fld; exact congrArg (fun q => base + 8 * (q % _)) h
  | _ + 3 => unfold pteAddr fld; exact congrArg (fun q => base + 8 * (q % _)) h

/-- A quotient by a divisor decides the quotient by its multiples. -/
theorem div_eq_of_dvd {size span va va' : Nat} (hd : size ∣ span) (h : va' / size = va / size) : va' / span = va / span := by
  obtain ⟨k, rfl⟩ := hd
  rw [← Nat.div_div_eq_div_mul, ← Nat.div_div_eq_div_mul, h]

section
variable {m : List Host.Cell} {va va' : Nat} {leaf : Word} {size : Nat}

/-- One level of a walk that finds a leaf: the entry is the leaf, or the walk goes on from the table that it names. -/
theorem walkFrom_leaf_iff (fuel level base : Nat) : (walkFrom m va (fuel + 1) level base).1 = .leaf leaf size ↔
    let e := BitVec.ofNat 64 (Memory.read m (pteAddr level base va) 8)
    pteV e = true ∧ ((pteLeaf e = true ∧ (level != 0 && leafOk e (levelBytes level)) = true ∧ e = leaf ∧ levelBytes level = size) ∨
      (pteLeaf e = false ∧ (level == 3 || !tableOk e) = false ∧ (walkFrom m va fuel (level + 1) (ptePa e)).1 = .leaf leaf size)) := by
  rw [walkFrom]
  dsimp only
  generalize BitVec.ofNat 64 (Memory.read m (pteAddr level base va) 8) = e
  by_cases valid : pteV e = true
  · by_cases isLeaf : pteLeaf e = true
    · by_cases ok : (level != 0 && leafOk e (levelBytes level)) = true <;> simp [valid, isLeaf, ok]
    · by_cases bad : (level == 3 || !tableOk e) = true <;> simp [valid, isLeaf, bad]
  · simp [valid]

/-- A leaf that a walk finds at a level or below it lies within one span of that level. -/
theorem walkFrom_size_dvd (fuel : Nat) : ∀ level base, (walkFrom m va fuel level base).1 = .leaf leaf size → size ∣ levelSpan level := by
  induction fuel with
  | zero => intro level base h; cases h
  | succ fuel ih =>
    intro level base h
    obtain ⟨-, ⟨-, ok, -, rfl⟩ | ⟨-, -, below⟩⟩ := (walkFrom_leaf_iff fuel level base).mp h
    · cases level with
      | zero => simp at ok
      | succ level => exact Nat.dvd_refl (levelBytes (level + 1))
    · exact (ih _ _ below).trans (levelSpan_succ_dvd level)

/-- A walk finds the same leaf for every address of its page. -/
theorem walkFrom_samePage (hp : va' / size = va / size) (fuel : Nat) : ∀ level base,
    (walkFrom m va fuel level base).1 = .leaf leaf size → (walkFrom m va' fuel level base).1 = .leaf leaf size := by
  induction fuel with
  | zero => intro level base h; cases h
  | succ fuel ih =>
    intro level base h
    have entry := pteAddr_span (div_eq_of_dvd (walkFrom_size_dvd _ _ _ h) hp) base
    rw [walkFrom_leaf_iff] at h ⊢
    rw [entry]
    exact ⟨h.1, h.2.imp_right fun ⟨table, goes, below⟩ => ⟨table, goes, ih _ _ below⟩⟩

end

section
variable {s u : State} {w : Who}

theorem walkIn_samePage {c : BitVec 16} {va va' : Nat} {leaf : Word} {size : Nat} (h : (s.walkIn c va).1 = .leaf leaf size)
    (hp : va' / size = va / size) : (s.walkIn c va').1 = .leaf leaf size := by
  unfold State.walkIn walk at h ⊢
  cases root : (s.ctx? c).bind (·.root) with
  | none => rw [root] at h; cases h
  | some r => rw [root] at h; exact walkFrom_samePage hp _ _ _ h

theorem walkLeaf_eq_some {c : BitVec 16} {va : Nat} {leaf : Word} {size : Nat} :
    s.walkLeaf c va = some (leaf, size) ↔ (s.walkIn c va).1 = .leaf leaf size ∧ pteSt leaf = 0 := by
  unfold State.walkLeaf
  cases (s.walkIn c va).1 with
  | unmapped | malformed => simp
  | leaf e n =>
    by_cases st : pteSt e = 0
    · simp only [st, if_true, Option.some.injEq, Prod.mk.injEq, Walk.leaf.injEq]
      exact ⟨fun ⟨a, b⟩ => ⟨⟨a, b⟩, a ▸ st⟩, fun h => h.1⟩
    · simp only [st, if_false, Walk.leaf.injEq]
      exact ⟨fun h => (nomatch h), fun ⟨⟨a, _⟩, h⟩ => absurd (a ▸ h) st⟩

/-- With coherent caches a translation is what the walk finds (R331). -/
theorem leafOf_eq_walkLeaf (h : CoherentFor s w) (va : Nat) (ok : Word → Bool) : s.leafOf w.cache w.ctx va ok = s.walkLeaf w.ctx va := by
  unfold State.leafOf
  cases found : s.caches.tlb.find? fun t => t.serves w.cache w.ctx va && ok t.leaf with
  | none => rfl
  | some t =>
    have serves : t.serves w.cache w.ctx va = true :=
      (Bool.and_eq_true_iff.mp (List.find?_some (p := fun t : Tlb => t.serves w.cache w.ctx va && ok t.leaf) found)).1
    exact (walkLeaf_eq_some.mpr (h t (List.mem_of_find?_eq_some found) va serves)).symm

/-! ### Coherence is kept -/

theorem l2Access_tlb (s : State) (c : BitVec 16) (pa : Nat) : (s.l2Access c pa).tlb = s.caches.tlb := by
  unfold State.l2Access
  dsimp only
  split
  · rfl
  · split
    · rfl
    · split <;> rfl

theorem l2Lines_tlb (c : BitVec 16) (ls : List Nat) (s : State) : (s.l2Lines c ls).caches.tlb = s.caches.tlb := by
  induction ls generalizing s with
  | nil => rfl
  | cons l r ih => exact (ih _).trans (l2Access_tlb s c _)

theorem note_tlb (s : State) (w : Who) (ea : Nat) (ls : List Nat) : (s.note w ea ls).caches.tlb = (s.keep w ea).caches.tlb :=
  l2Lines_tlb _ _ _

/-- A translation that is kept is one of before, or the new one. -/
theorem mem_keepLeaf {k : Caches} {cache : Nat} {c : BitVec 16} {va : Nat} {leaf : Word} {size : Nat} {x : Tlb}
    (h : x ∈ (k.keepLeaf cache c va leaf size).tlb) : x ∈ k.tlb ∨ (x.leaf = leaf ∧ x.size = size ∧ x.va = va) := by
  unfold Caches.keepLeaf at h
  dsimp only at h
  generalize (if cache < 256 then cache else 256 + ptePa leaf / Config.stackBytes) = at_ at h
  split at h
  · exact .inl h
  · obtain rfl | old := List.mem_cons.mp h
    · exact .inr ⟨rfl, rfl, rfl⟩
    · exact .inl old

/-- What an access leaves in the caches keeps them coherent (R331). -/
theorem coherentFor_note (h : CoherentFor s w) (ea : Nat) (ls : List Nat) : CoherentFor (s.note w ea ls) w := by
  have walks : ∀ va, (s.note w ea ls).walkIn w.ctx va = s.walkIn w.ctx va := fun va => by rw [State.note_eq]; rfl
  intro x hx va serves
  rw [walks]
  rw [note_tlb] at hx
  have kept : x ∈ s.caches.tlb ∨ ((s.walkIn w.ctx ea).1 = .leaf x.leaf x.size ∧ pteSt x.leaf = 0 ∧ x.va = ea) := by
    unfold State.keep at hx
    split at hx
    · exact .inl hx
    · rw [leafOf_eq_walkLeaf h] at hx
      cases walk : s.walkLeaf w.ctx ea with
      | none => rw [walk] at hx; exact .inl hx
      | some p =>
        obtain ⟨e, n⟩ := p
        rw [walk] at hx
        obtain ⟨leaf, clear⟩ := walkLeaf_eq_some.mp walk
        obtain old | ⟨rfl, rfl, at_⟩ := mem_keepLeaf hx
        · exact .inl old
        · exact .inr ⟨leaf, clear, at_⟩
  obtain old | ⟨leaf, clear, at_⟩ := kept
  · exact h x old va serves
  · have page : va / x.size = ea / x.size := by
      have := (Bool.and_eq_true_iff.mp serves).2
      rw [at_] at this
      exact eq_of_beq this
    exact ⟨walkIn_samePage leaf page, clear⟩

/-! ### Coherent machines over the same tables check alike -/

/-- With the same memory and contexts, and coherent caches, an address has one place. -/
theorem place_congr (hs : CoherentFor s w) (hu : CoherentFor u w) (mem : u.mem = s.mem) (ctxs : u.ctxs = s.ctxs) :
    u.place w = s.place w := by
  have ctx : u.ctx? = s.ctx? := by unfold State.ctx?; rw [ctxs]
  have leaf : u.leafOf w.cache w.ctx = s.leafOf w.cache w.ctx := by
    funext va ok
    rw [leafOf_eq_walkLeaf hs, leafOf_eq_walkLeaf hu]
    unfold State.walkLeaf State.walkIn
    rw [ctx, mem]
  delta State.place
  rw [ctx, leaf]

theorem check_congr (place : u.place w = s.place w) : u.check w = s.check w := by
  have each : ∀ k n ea, u.placeEach w k ea n = s.placeEach w k ea n := by
    intro k n
    induction n with
    | zero => intro ea; rfl
    | succ n ih => intro ea; unfold State.placeEach; rw [place, ih]
  have space : u.noSpace w = s.noSpace w := by delta State.noSpace; rw [place]
  have locs : u.locs w = s.locs w := by
    funext ea n k
    unfold State.locs
    rw [place, space, each]
  delta State.check State.locsI
  rw [locs]

end

/-! ### The fibres that fit -/

section
variable {s u : State} {e : Entry} {d : MReg} {f : Nat → Nat} {n : Nat}

theorem fibreStart_succ (f : Nat → Nat) (i : Nat) : fibreStart f (i + 1) = fibreStart f i + f i := by
  simp [fibreStart, List.range_succ]

theorem fibreStart_mono (f : Nat → Nat) {i n : Nat} (h : i ≤ n) : fibreStart f i ≤ fibreStart f n := by
  induction h with
  | refl => exact Nat.le_refl _
  | step _ ih => exact ih.trans (by rw [fibreStart_succ]; exact Nat.le_add_right _ _)

/-- Fibres that are not 0 begin at places of their own. -/
theorem fibreStart_lt (pos : ∀ i, i < n → f i ≠ 0) {i j : Nat} (h : i < j) (hj : j ≤ n) : fibreStart f i < fibreStart f j := by
  have first := fibreStart_succ f i
  have rest : fibreStart f (i + 1) ≤ fibreStart f j := fibreStart_mono f h
  have := pos i (by omega)
  omega

/-- At least one element a fibre. -/
theorem le_fibreStart (pos : ∀ i, i < n → f i ≠ 0) : ∀ i, i ≤ n → i ≤ fibreStart f i
  | 0, _ => Nat.zero_le _
  | i + 1, h => by
    have before := le_fibreStart pos i (by omega)
    have := pos i (by omega)
    rw [fibreStart_succ]; omega

/-- A mask after the first n fibres: a 1 where each begins, and zeros up to its end (R127). -/
def fibreMask (f : Nat → Nat) (m : MaskReg) : Nat → MaskReg
  | 0 => m
  | i + 1 => putField (fibreMask f m i) (fibreStart f i) (f i) 1

theorem fibreMask_getLsbD (m : MaskReg) (pos : ∀ i, i < n → f i ≠ 0) (fits : fibreStart f n ≤ 16384) (p : Nat) : ∀ i, i ≤ n →
    (p < fibreStart f i → ((fibreMask f m i).getLsbD p = true ↔ ∃ j, j < i ∧ p = fibreStart f j)) ∧
    (fibreStart f i ≤ p → (fibreMask f m i).getLsbD p = m.getLsbD p)
  | 0, _ => ⟨fun h => absurd h (Nat.not_lt_zero p), fun _ => rfl⟩
  | i + 1, hi => by
    obtain ⟨inside, outside⟩ := fibreMask_getLsbD m pos fits p i (by omega)
    have start := fibreStart_succ f i
    have room : fibreStart f i + f i ≤ 16384 := by rw [← start]; exact (fibreStart_mono f hi).trans fits
    have nonzero := pos i (by omega)
    rw [start, fibreMask, testBit_putField _ _ _ _ _ room]
    refine ⟨fun h => ?_, fun h => ?_⟩
    · by_cases old : p < fibreStart f i
      · rw [if_neg (by omega), inside old]
        refine ⟨fun ⟨j, hj, at_⟩ => ⟨j, by omega, at_⟩, fun ⟨j, hj, at_⟩ => ⟨j, ?_, at_⟩⟩
        obtain lt | rfl := Nat.lt_succ_iff_lt_or_eq.mp hj
        · exact lt
        · omega
      · rw [if_pos ⟨by omega, h⟩, Nat.testBit_one_eq_true_iff_self_eq_zero]
        refine ⟨fun h0 => ⟨i, by omega, by omega⟩, fun ⟨j, hj, at_⟩ => ?_⟩
        obtain lt | rfl := Nat.lt_succ_iff_lt_or_eq.mp hj
        · have := fibreStart_lt pos lt (by omega); omega
        · omega
    · rw [if_neg (by omega), outside (by omega)]

/-- The list that an entry reads holds fibres of lengths f 0, …, f (n − 1), which fit; then it ends, or the next one is 0 or too
long (R127). -/
structure FibreList (e : Entry) (s : State) (f : Nat → Nat) (n : Nat) : Prop where
  counted : n ≤ e.opd.b.toNat
  fit : fibreStart f n ≤ vlmax e.vtype
  lengths : ∀ i, i < n → f i ≠ 0 ∧ ∃ ls, s.check s.me (e.base + 4 * (i : Nat)) 4 4 .any .read = .ok ls ∧ s.get ls = f i
  ends : n = e.opd.b.toNat ∨ (0 < n ∧ ∃ ls, s.check s.me (e.base + 4 * (n : Nat)) 4 4 .any .read = .ok ls ∧
    (s.get ls = 0 ∨ vlmax e.vtype < fibreStart f n + s.get ls))

/-- The machine once i fibres have been taken: their mask is written, and the caches hold what was read. -/
def State.fibresTaken (s : State) (d : MReg) (f : Nat → Nat) (i : Nat) (k : Caches) : State :=
  { s with caches := k, st := { s.st with vec := { s.st.vec with m := s.st.vec.m.set d (fibreMask f s.st.vec.m[d] i) } } }

theorem fibresTaken_zero (s : State) (d : MReg) (f : Nat → Nat) : s.fibresTaken d f 0 s.caches = s := by
  have same : s.st.vec.m.set d s.st.vec.m[d] = s.st.vec.m := Vector.set_getElem_self _
  rw [State.fibresTaken, fibreMask, same]

/-- A fibre is taken. -/
theorem fibresTaken_succ (s : State) (d : MReg) (f : Nat → Nat) (i : Nat) (k : Caches) (ea : Nat) (ls : List Nat) :
    (((s.fibresTaken d f i k).note s.me ea ls).modVec fun v => { v with m := v.m.set d (putField v.m[d] (fibreStart f i) (f i) 1) }) =
      s.fibresTaken d f (i + 1) ((s.fibresTaken d f i k).note s.me ea ls).caches := by
  rw [State.note_eq]
  simp [State.fibresTaken, State.modVec, State.mod, fibreMask]

/-- THE LOOP OF SETVLF: it takes the n fibres of its list and no more. -/
theorem fibres_eq (h : FibreList e s f n) (coherent : Coherent s) : ∀ (fuel i : Nat) (k : Caches), i ≤ n → n < fuel + i →
    CoherentFor (s.fibresTaken d f i k) s.me → ∃ k', (s.fibresTaken d f i k).fibres e d fuel i (fibreStart f i) =
      .ok (s.fibresTaken d f n k', n, fibreStart f n)
  | 0, i, k, hi, hf, _ => by omega
  | fuel + 1, i, k, hi, hf, hk => by
    have me : (s.fibresTaken d f i k).me = s.me := rfl
    have check : (s.fibresTaken d f i k).check s.me = s.check s.me := check_congr (place_congr coherent hk rfl rfl)
    have get : (s.fibresTaken d f i k).get = s.get := funext fun ls => State.get_of_mem_eq (s := s) (t := s.fibresTaken d f i k) rfl ls
    unfold State.fibres
    obtain lt | rfl := Nat.lt_or_eq_of_le hi
    · obtain ⟨pos, ls, read, value⟩ := h.lengths i lt
      have counted := h.counted
      have fits : fibreStart f i + f i ≤ vlmax e.vtype := by
        rw [← fibreStart_succ]; exact (fibreStart_mono f lt).trans h.fit
      have taken : (f i = 0 || vlmax e.vtype - fibreStart f i < f i) = false := by simp; omega
      obtain ⟨k', rest⟩ := fibres_eq h coherent fuel (i + 1) ((s.fibresTaken d f i k).note s.me (e.base + 4 * (i : Nat)).toNat ls).caches
        lt (by omega) (by rw [← fibresTaken_succ]; exact coherentFor_note hk _ _)
      refine ⟨k', ?_⟩
      rw [if_neg (by omega)]
      simp only [me, check, read, get, value, taken, Bool.false_eq_true, if_false]
      rw [fibresTaken_succ, ← fibreStart_succ]
      exact rest
    · refine ⟨k, ?_⟩
      obtain all | ⟨pos, ls, read, stops⟩ := h.ends
      · rw [if_pos (by omega)]
      · by_cases done : e.opd.b.toNat ≤ i
        · rw [if_pos done]
        · have fit := h.fit
          have refused : (s.get ls = 0 || vlmax e.vtype - fibreStart f i < s.get ls) = true := by simp; omega
          rw [if_neg done]
          simp only [me, check, read, get, refused, if_true, if_neg (Nat.pos_iff_ne_zero.mp pos)]

end

/-! ### SETVLF -/

section
variable {s : State} {d : MReg} {a b : SReg} {g : Grp} {w : EW} {f : Nat → Nat} {n : Nat}

/-- The VTYPE that SETVLF starts its grant with (R122, R126). -/
def fibreVtype (g : Grp) (w : EW) : BitVec 5 := BitVec.ofNat 5 (w.code + g.code * 8)

/-- The strand once the grant of a SETVLF has started (R126). -/
def State.granted (s : State) (g : Grp) (w : EW) : State := s.mod fun t => t.newGrant (vlmax (fibreVtype g w)) (fibreVtype g w)

/-- The queue entry of a SETVLF is one of its own grant. -/
def State.fibreEntry (s : State) (d : MReg) (a b : SReg) (g : Grp) (w : EW) : Entry := (s.granted g w).entry (.setvlf d a b g w)

/-- The machine after the commit of SETVLF. -/
def State.fibreCommitted (s : State) (d : MReg) (a b : SReg) (g : Grp) (w : EW) : State :=
  (s.granted g w).mod fun t => { t with queue := [s.fibreEntry d a b g w], nextSeq := t.nextSeq + 1 }.advance

theorem commit_setvlf (h : Quiet s) : s.commit (.setvlf d a b g w) = s.fibreCommitted d a b g w := by
  obtain ⟨-, -, -, queue, -⟩ := h
  have noClaim : (s.fibreCommitted d a b g w).enterClaim = s.fibreCommitted d a b g w :=
    State.enterClaim_of_not_mclaim (e := s.fibreEntry d a b g w) rfl fun _ => Instr.noConfusion
  have front : s.st.queue ++ [s.fibreEntry d a b g w] = [s.fibreEntry d a b g w] := by rw [queue]; rfl
  rw [← noClaim, State.fibreCommitted, ← front]
  rfl

theorem fibreCommitted_alone (h : Quiet s) : Alone (s.fibreEntry d a b g w) (s.fibreCommitted d a b g w) := by
  obtain ⟨hstat, hinh, hpark, -, hsync, hcopies, -, -, -, hending, -, -, -, hpace⟩ := h
  constructor
  case queue => rfl
  case reads => intro p hp; rw [show (s.fibreCommitted d a b g w).st.sync = [] from hsync] at hp; cases hp
  case running => exact hstat
  case outside => exact hinh
  case unparked => exact hpark
  case noCopies => exact hcopies
  case noEnding => exact hending
  case pace => exact hpace

/-- The list of the entry is that of the statement. -/
theorem fibreList_committed (coherent : Coherent s) (counted : n ≤ (s.r b).toNat) (fit : fibreStart f n ≤ vlmax (fibreVtype g w))
    (lengths : ∀ i, i < n → f i ≠ 0 ∧ ∃ ls, s.check s.me (((s.r a).toNat : Int) + 4 * (i : Nat)) 4 4 .any .read = .ok ls ∧ s.get ls = f i)
    (ends : n = (s.r b).toNat ∨ (0 < n ∧ ∃ ls, s.check s.me (((s.r a).toNat : Int) + 4 * (n : Nat)) 4 4 .any .read = .ok ls ∧
      (s.get ls = 0 ∨ vlmax (fibreVtype g w) < fibreStart f n + s.get ls))) :
    FibreList (s.fibreEntry d a b g w) (s.fibreCommitted d a b g w) f n := by
  have check : (s.fibreCommitted d a b g w).check s.me = s.check s.me :=
    check_congr (place_congr coherent (fun x hx va serves => coherent x hx va serves) rfl rfl)
  have get : (s.fibreCommitted d a b g w).get = s.get :=
    funext fun ls => State.get_of_mem_eq (s := s) (t := s.fibreCommitted d a b g w) rfl ls
  constructor
  case counted => exact counted
  case fit => exact fit
  case lengths =>
    intro i hi
    rw [show (s.fibreCommitted d a b g w).me = s.me from rfl, check, get]
    exact lengths i hi
  case ends =>
    rw [show (s.fibreCommitted d a b g w).me = s.me from rfl, check, get]
    exact ends

/-- The effect of SETVLF: the grant's length is that of its fibres, and AL is their number. -/
theorem effSetvlf_eq {e : Entry} {u : State} (list : FibreList e u f n) (coherent : Coherent u) : ∃ k, effSetvlf d a b g w e u =
    .done (((u.fibresTaken d f n k).mod fun t => t.setTrim e.grant (fibreStart f n)).complete1 n) none := by
  have pos : ∀ i, i < n → f i ≠ 0 := fun i hi => (list.lengths i hi).1
  have enough : n < vlmax e.vtype + 1 + 0 := by
    have := le_fibreStart pos n (Nat.le_refl _)
    have := list.fit
    omega
  obtain ⟨k, loop⟩ := fibres_eq (d := d) list coherent (vlmax e.vtype + 1) 0 u.caches (Nat.zero_le _) enough
    (by rw [fibresTaken_zero]; exact coherent)
  rw [fibresTaken_zero] at loop
  have settled : ((u.fibresTaken d f n k).hamada.places = 0 &&
      (u.fibresTaken d f n k).hamada.waiting.length ≠ u.hamada.waiting.length) = false := by
    have same : (u.fibresTaken d f n k).hamada = u.hamada := rfl
    simp [same]
  refine ⟨k, ?_⟩
  have start : u.fibres e d (vlmax e.vtype + 1) 0 0 = .ok (u.fibresTaken d f n k, n, fibreStart f n) := loop
  simp only [effSetvlf, start, settled, Bool.false_eq_true, if_false]

/-- What SETVLF leaves of the machine once its n fibres are taken (R126, R127). -/
def State.fibresGranted (s : State) (d : MReg) (g : Grp) (w : EW) (f : Nat → Nat) (n : Nat) (k : Caches) : State :=
  { s with caches := k, st := { ((s.st.newGrant (vlmax (fibreVtype g w)) (fibreVtype g w)).setTrim s.st.nextGrant (fibreStart f n)).advance with
    nextSeq := s.st.nextSeq + 1, vec := { s.st.vec with m := s.st.vec.m.set d (fibreMask f s.st.vec.m[d] n) }
    csr := { s.st.csr with al := BitVec.ofNat 32 n, vstart := 0 } } }

/-- The machine in which the entry of SETVLF completes. -/
def State.fibresDone (s : State) (d : MReg) (a b : SReg) (g : Grp) (w : EW) (f : Nat → Nat) (n : Nat) (k : Caches) : State :=
  (((s.fibreCommitted d a b g w).fibresTaken d f n k).mod fun t =>
    t.setTrim (s.fibreEntry d a b g w).grant (fibreStart f n)).complete1 n

theorem fibresDone_queue (k : Caches) : (s.fibresDone d a b g w f n k).st.queue = [s.fibreEntry d a b g w] := by
  simp only [State.fibresDone, State.complete1, State.modCsr, State.mod, Strand.setTrim, State.fibresTaken, State.fibreCommitted,
    Strand.advance]

theorem fibresDone_sync (k : Caches) : (s.fibresDone d a b g w f n k).st.sync = s.st.sync := by
  simp only [State.fibresDone, State.complete1, State.modCsr, State.mod, Strand.setTrim, State.fibresTaken, State.fibreCommitted,
    Strand.advance, State.granted, Strand.newGrant]

theorem fibresDone_finishEntry (h : Quiet s) (k : Caches) :
    (s.fibresDone d a b g w f n k).st.finishEntry (s.fibreEntry d a b g w) none =
      { (s.fibresDone d a b g w f n k).st with queue := [], prog := 0 } := by
  obtain ⟨-, -, -, -, hsync, -⟩ := h
  exact finishEntry_of_no_reads (fibresDone_queue k) ((fibresDone_sync k).trans hsync) none

/-- Nothing waits after it. -/
theorem fibresDone_idle (h : Quiet s) (k : Caches) :
    ((s.fibresDone d a b g w f n k).st.finishEntry (s.fibreEntry d a b g w) none).queue = [] ∧
      ((s.fibresDone d a b g w f n k).st.finishEntry (s.fibreEntry d a b g w) none).sync = [] := by
  obtain ⟨-, -, -, -, hsync, -⟩ := id h
  simp only [fibresDone_finishEntry h, fibresDone_sync, hsync, and_self]

theorem fibresDone_finished (h : Quiet s) (k : Caches) :
    ((s.fibresDone d a b g w f n k).mod fun t => t.finishEntry (s.fibreEntry d a b g w) none) = s.fibresGranted d g w f n k := by
  obtain ⟨-, -, -, hqueue, -, -, -, -, -, -, -, hprog, -⟩ := id h
  rw [State.mod, fibresDone_finishEntry h]
  simp only [State.fibresDone, State.fibresGranted, State.fibreCommitted, State.fibresTaken, State.granted, State.complete1, State.modCsr,
    State.mod, Strand.setTrim, Strand.newGrant, Strand.advance, hqueue, hprog]
  rfl

/-- SETVLF on a quiet strand. -/
theorem exec_setvlf (h : Quiet s) (coherent : Coherent s)
    (list : FibreList (s.fibreEntry d a b g w) (s.fibreCommitted d a b g w) f n) :
    ∃ k, exec (.setvlf d a b g w) s = .next (s.fibresGranted d g w f n k) := by
  have alone : Alone (s.fibreEntry d a b g w) (s.fibreCommitted d a b g w) := fibreCommitted_alone h
  obtain ⟨k, effect⟩ := effSetvlf_eq (d := d) (a := a) (b := b) (g := g) (w := w) list
    (fun x hx va serves => coherent x hx va serves)
  have issued : issue (s.fibreEntry d a b g w).instr (s.fibreEntry d a b g w) (s.fibreCommitted d a b g w) =
      .done (s.fibresDone d a b g w f n k) none := effect
  obtain ⟨-, hinh, -⟩ := id h
  refine ⟨k, ?_⟩
  rw [exec_eq_vectorStream rfl, State.vectorStream_commits hinh (hasRoom_of_quiet h _), commit_setvlf h,
    alone.drain_done rfl issued (fibresDone_idle h k).1 (fibresDone_idle h k).2, fibresDone_finished h]

theorem vlNow_congr {t u : Strand} (grant : t.grant = u.grant) (trims : t.trims = u.trims) : t.vlNow = u.vlNow := by
  unfold Strand.vlNow
  rw [grant, trims]

/-- VL is the length of its fibres. -/
theorem fibresGranted_vlNow (fit : fibreStart f n ≤ vlmax (fibreVtype g w)) (k : Caches) :
    (s.fibresGranted d g w f n k).st.vlNow = fibreStart f n := by
  have same : (s.fibresGranted d g w f n k).st.vlNow =
      ((s.st.newGrant (vlmax (fibreVtype g w)) (fibreVtype g w)).setTrim s.st.nextGrant (fibreStart f n)).vlNow :=
    vlNow_congr (by simp only [State.fibresGranted, Strand.advance]) (by simp only [State.fibresGranted, Strand.advance])
  rw [same]
  exact vlNow_setTrim (t := s.st.newGrant (vlmax (fibreVtype g w)) (fibreVtype g w)) fit

/-- SETVLF takes the fibres of its list (R126, R127). -/
theorem setvlf_takes (h : Quiet s) (coherent : Coherent s) (pos : ∀ i, i < n → f i ≠ 0) (fit : fibreStart f n ≤ vlmax (fibreVtype g w))
    (list : FibreList (s.fibreEntry d a b g w) (s.fibreCommitted d a b g w) f n) :
    ∃ t, exec (.setvlf d a b g w) s = .next t ∧ Passed s t ∧ SameMemory s t ∧
      t.csrVal .vl = BitVec.ofNat 64 (fibreStart f n) ∧ t.csrVal .vtype = BitVec.ofNat 64 (w.code + 8 * g.code) ∧
      t = { s with caches := t.caches, st := { s.st with
        pc := t.st.pc, pfx := t.st.pfx, pfxLive := t.st.pfxLive, clause := t.st.clause, nextSeq := s.st.nextSeq + 1,
        grant := t.st.grant, nextGrant := s.st.nextGrant + 1, trims := t.st.trims, vec := { s.st.vec with m := t.st.vec.m },
        csr := { s.st.csr with al := BitVec.ofNat 32 n, vstart := 0 } } } ∧
      (∀ (r : MReg) (p : Nat),
        (r = d → p < fibreStart f n → (t.st.vec.m[r].getLsbD p = true ↔ ∃ i, i < n ∧ p = fibreStart f i)) ∧
        (¬(r = d ∧ p < fibreStart f n) → t.st.vec.m[r].getLsbD p = s.st.vec.m[r].getLsbD p)) := by
  obtain ⟨k, run⟩ := exec_setvlf h coherent list
  refine ⟨_, run, ⟨rfl, rfl, rfl, clause_advance s.st⟩, fun _ => rfl, ?_, ?_, ?_, fun r p => ?_⟩
  · exact congrArg (BitVec.ofNat 64) (fibresGranted_vlNow fit k)
  · show (fibreVtype g w).setWidth 64 = _
    cases g <;> cases w <;> rfl
  · simp only [State.fibresGranted, Strand.setTrim, Strand.newGrant, Strand.advance]
  · have mask := fibreMask_getLsbD s.st.vec.m[d] pos (fit.trans (vlmax_le _)) p n (Nat.le_refl _)
    have written : (s.fibresGranted d g w f n k).st.vec.m = s.st.vec.m.set d (fibreMask f s.st.vec.m[d] n) := rfl
    rw [written]
    by_cases hr : r = d
    · subst hr
      rw [show (s.st.vec.m.set r (fibreMask f s.st.vec.m[r] n))[r] = fibreMask f s.st.vec.m[r] n from Vector.getElem_set_self _]
      exact ⟨fun _ => mask.1, fun no => mask.2 (Nat.le_of_not_lt fun lt => no ⟨rfl, lt⟩)⟩
    · have other : (s.st.vec.m.set d (fibreMask f s.st.vec.m[d] n))[r] = s.st.vec.m[r] :=
        Vector.getElem_set_ne _ _ fun e => hr (Fin.ext e.symm)
      rw [other]
      exact ⟨fun e => absurd e hr, fun _ => rfl⟩

end

end Sys2Proof.Machine
end

section
namespace Sys2Proof.Machine

open Sys2Proof.Safety

/-- Settles O38: the loop takes one fibre after another, and every translation that it keeps agrees with the tables. -/
theorem fibreGrants : Obligations.FibreGrants := by
  unfold Obligations.FibreGrants
  intro s d a b g w f n vt h coherent hvt counted fit lengths ends
  obtain rfl : vt = fibreVtype g w := hvt.trans (by rw [fibreVtype, Nat.mul_comm])
  exact setvlf_takes h coherent (fun i hi => (lengths i hi).1) fit (fibreList_committed coherent counted fit lengths ends)

end Sys2Proof.Machine
end

section
/-! PROOFS. The family of the vector forms (07): every step keeps the invariant (O59). What the invariant says of each part of the
state, and the named operations that every meaning is written with. -/

namespace Sys2Proof.Machine

open Sys2Proof.Safety

/-! ### The invariant, part by part -/

/-- A grant within VLMAX (R124). -/
def Grant.Fits (g : Grant) : Prop := g.len ≤ vlmax g.vtype

/-- Every strand of a list holds one. -/
def AllFit (l : List (Nat × Strand)) : Prop := ∀ p ∈ l, p.2.grant.Fits

/-- Every strand that is saved with its group does. -/
def GroupsFit (l : List (Nat × Group)) : Prop := ∀ p ∈ l, AllFit p.2.saved

/-- Every strand of an image does. -/
def ImagesFit (l : List Image) : Prop := ∀ i ∈ l, AllFit i.strands

/-- Every strand of an image in a shadow slot does. -/
def ShadowFit (v : Vector (Option Image) 8) : Prop := ∀ x ∈ v, ∀ i, x = some i → AllFit i.strands

/-- What the invariant says, part by part. -/
def State.Fits (s : State) : Prop :=
  Memory.wf s.mem = true ∧ s.st.grant.Fits ∧ AllFit s.others ∧ GroupsFit s.groups ∧ ShadowFit s.shadow ∧ ImagesFit s.spill

section
variable {s : State}

theorem inv_iff_fits : Safety.Inv s ↔ s.Fits := by
  have images : (∀ p ∈ s.shadow.toList.flatMap (fun i => match i with | some x => x.strands | none => []), p.2.grant.Fits) ↔
      ShadowFit s.shadow := by
    simp only [List.mem_flatMap, Vector.mem_toList_iff]
    constructor
    · intro h x hx i hi p hp
      exact h p ⟨x, hx, by rw [hi]; exact hp⟩
    · rintro h p ⟨x, hx, hp⟩
      cases x with
      | none => cases hp
      | some i => exact h _ hx i rfl p hp
  have groups : (∀ p ∈ s.groups.flatMap fun g => g.2.saved, p.2.grant.Fits) ↔ GroupsFit s.groups := by
    simp only [List.mem_flatMap, forall_exists_index, and_imp]
    exact ⟨fun h g hg p hp => h p g hg hp, fun h p g hg hp => h g hg p hp⟩
  have spill : (∀ p ∈ s.spill.flatMap (·.strands), p.2.grant.Fits) ↔ ImagesFit s.spill := by
    simp only [List.mem_flatMap, forall_exists_index, and_imp]
    exact ⟨fun h g hg p hp => h p g hg hp, fun h p g hg hp => h g hg p hp⟩
  unfold Safety.Inv State.allStrands State.Fits
  rw [← images, ← groups, ← spill]
  refine and_congr_right fun _ => ?_
  constructor
  · intro h
    simp only [List.mem_append, List.mem_cons] at h
    exact ⟨h (s.slot, s.st) (.inl (.inl (.inl (.inl rfl)))), fun p hp => h p (.inl (.inl (.inl (.inr hp)))),
      fun p hp => h p (.inl (.inl (.inr hp))), fun p hp => h p (.inl (.inr hp)), fun p hp => h p (.inr hp)⟩
  · rintro ⟨st, others, groups, shadow, spill⟩ p hp
    simp only [List.mem_append, List.mem_cons] at hp
    obtain (((rfl | hp) | hp) | hp) | hp := hp
    · exact st
    · exact others p hp
    · exact groups p hp
    · exact shadow p hp
    · exact spill p hp

theorem State.Fits.mem (h : s.Fits) : Memory.wf s.mem = true := h.1
theorem State.Fits.st (h : s.Fits) : s.st.grant.Fits := h.2.1
theorem State.Fits.others (h : s.Fits) : AllFit s.others := h.2.2.1
theorem State.Fits.groups (h : s.Fits) : GroupsFit s.groups := h.2.2.2.1
theorem State.Fits.shadow (h : s.Fits) : ShadowFit s.shadow := h.2.2.2.2.1
theorem State.Fits.spill (h : s.Fits) : ImagesFit s.spill := h.2.2.2.2.2

@[simp] theorem Grant.fits_empty : Strand.empty.grant.Fits := Nat.zero_le _

/-! ### Lists of strands -/

@[simp] theorem allFit_nil : AllFit [] := fun _ h => nomatch h

@[simp] theorem allFit_cons {p : Nat × Strand} {l : List (Nat × Strand)} : AllFit (p :: l) ↔ p.2.grant.Fits ∧ AllFit l :=
  List.forall_mem_cons

theorem AllFit.filter {l : List (Nat × Strand)} (h : AllFit l) {f : Nat × Strand → Bool} : AllFit (l.filter f) :=
  fun p hp => h p (List.mem_of_mem_filter hp)

theorem AllFit.map {l : List (Nat × Strand)} (h : AllFit l) {f : Nat × Strand → Nat × Strand} (hf : ∀ p, (f p).2.grant = p.2.grant) :
    AllFit (l.map f) := by
  intro p hp
  obtain ⟨q, hq, rfl⟩ := List.mem_map.mp hp
  rw [hf]; exact h q hq

theorem AllFit.eraseKey {l : List (Nat × Strand)} (h : AllFit l) {k : Nat} : AllFit (Machine.eraseKey k l) :=
  fun p hp => h p ((mem_eraseKey k l p).mp hp).1

theorem AllFit.store {l : List (Nat × Strand)} (h : AllFit l) {t : Strand} (ht : t.grant.Fits) {d : Strand} {k : Nat} :
    AllFit (Machine.store d k t l) := by
  unfold Machine.store
  split
  · exact h.eraseKey
  · intro p hp
    obtain rfl | hp := (mem_insertKey k t _ p).mp hp
    · exact ht
    · exact h.eraseKey p hp

theorem AllFit.lookup {l : List (Nat × Strand)} (h : AllFit l) {k : Nat} : (Machine.lookup .empty k l).grant.Fits := by
  by_cases e : Machine.lookup .empty k l = .empty
  · rw [e]; exact Grant.fits_empty
  · exact h _ (mem_of_lookup_ne e)

theorem GroupsFit.filter {l : List (Nat × Group)} (h : GroupsFit l) {f : Nat × Group → Bool} : GroupsFit (l.filter f) :=
  fun p hp => h p (List.mem_of_mem_filter hp)

@[simp] theorem groupsFit_cons {p : Nat × Group} {l : List (Nat × Group)} : GroupsFit (p :: l) ↔ AllFit p.2.saved ∧ GroupsFit l :=
  List.forall_mem_cons

/-! ### Strands and slots -/

/-- Another memory in canonical form. -/
theorem State.Fits.withMem {m : List Host.Cell} (h : s.Fits) (hm : Memory.wf m = true) : State.Fits { s with mem := m } := ⟨hm, h.2⟩

/-- Another strand that moves, with a grant that fits. -/
theorem State.Fits.withSt {t : Strand} (h : s.Fits) (ht : t.grant.Fits) : State.Fits { s with st := t } :=
  ⟨h.mem, ht, h.others, h.groups, h.shadow, h.spill⟩

/-- Other strands beside it. -/
theorem State.Fits.withOthers {l : List (Nat × Strand)} (h : s.Fits) (hl : AllFit l) : State.Fits { s with others := l } :=
  ⟨h.mem, h.st, hl, h.groups, h.shadow, h.spill⟩

/-- Other groups. -/
theorem State.Fits.withGroups {l : List (Nat × Group)} (h : s.Fits) (hl : GroupsFit l) : State.Fits { s with groups := l } :=
  ⟨h.mem, h.st, h.others, hl, h.shadow, h.spill⟩

/-- Either branch. -/
theorem State.Fits.ite {t : State} {c : Prop} {_ : Decidable c} (h : s.Fits) (ht : t.Fits) : (if c then s else t).Fits := by
  split <;> assumption

theorem State.Fits.strand {k : Nat} (h : s.Fits) : (s.strand k).grant.Fits := by
  unfold State.strand
  split
  · exact h.st
  · exact h.others.lookup

/-- A change of the strand that moves which keeps its grant. -/
theorem State.Fits.mod {f : Strand → Strand} (h : s.Fits) (hf : (f s.st).grant = s.st.grant) : (s.mod f).Fits :=
  h.withSt (by rw [hf]; exact h.st)

theorem State.Fits.modCsr {f : Csrs → Csrs} (h : s.Fits) : (s.modCsr f).Fits := h.mod rfl

theorem State.Fits.modTrap {f : TrapRegs → TrapRegs} (h : s.Fits) : (s.modTrap f).Fits := h.mod rfl

theorem State.Fits.putStrand {t : Strand} (h : s.Fits) (ht : t.grant.Fits) {k : Nat} : (s.putStrand k t).Fits := by
  unfold State.putStrand
  split
  · exact h.withSt ht
  · exact h.withOthers (h.others.store ht)

theorem State.Fits.modStrand {f : Strand → Strand} {k : Nat} (h : s.Fits) (hf : (f (s.strand k)).grant = (s.strand k).grant) :
    (s.modStrand k f).Fits := h.putStrand (by rw [hf]; exact h.strand)

theorem State.Fits.focus {k : Nat} (h : s.Fits) : (s.focus k).Fits := by
  unfold State.focus
  split
  · exact h
  · exact ⟨h.mem, h.others.lookup, h.others.eraseKey.store h.st, h.groups, h.shadow, h.spill⟩

theorem State.Fits.advance (h : s.Fits) : s.advance.Fits := h.mod rfl
theorem State.Fits.jump {t : BitVec 56} (h : s.Fits) : (s.jump t).Fits := h.mod rfl
theorem State.Fits.setR {r : SReg} {v : Word} {n : Nat} (h : s.Fits) : (s.setR r v n).Fits := h.mod (Strand.setR_grant ..)
theorem State.Fits.modCtx {c : BitVec 16} {f : Context → Context} (h : s.Fits) : (s.modCtx c f).Fits := h

/-- A change that keeps each group's saved strands. -/
theorem State.Fits.modGroup {g : Nat} {f : Group → Group} (h : s.Fits) (hf : ∀ x, AllFit x.saved → AllFit (f x).saved) :
    (s.modGroup g f).Fits := by
  refine h.withGroups fun p hp => ?_
  obtain ⟨q, hq, rfl⟩ := List.mem_map.mp hp
  split
  · exact hf _ (h.groups q hq)
  · exact h.groups q hq

/-- A fold of changes that each keep it. -/
theorem State.Fits.foldl {α : Type} {f : State → α → State} {l : List α} {u : State} (h : u.Fits)
    (hf : ∀ {v a}, v.Fits → (f v a).Fits) : (l.foldl f u).Fits := by
  induction l generalizing u with
  | nil => exact h
  | cons a l ih => exact ih (hf h)

/-! ### Accesses -/

theorem State.Fits.sameButCaches {t : State} (h : s.Fits) (same : SameButCaches s t) : t.Fits := by
  rw [same]; exact h

theorem State.Fits.put {ls : List Nat} {v : Nat} (h : s.Fits) : (s.put ls v).Fits := h.withMem (wf_putBytes ls v h.mem)
theorem State.Fits.keep {w : Who} {a : Nat} (h : s.Fits) : (s.keep w a).Fits := h.sameButCaches (State.keep_spec ..)
theorem State.Fits.l2Lines {c : BitVec 16} {ls : List Nat} (h : s.Fits) : (s.l2Lines c ls).Fits :=
  h.sameButCaches (State.l2Lines_spec ..)
theorem State.Fits.note {w : Who} {a : Nat} {ls : List Nat} (h : s.Fits) : (s.note w a ls).Fits :=
  h.sameButCaches (State.note_spec ..)
theorem State.Fits.noteLoad {w : Who} {a : Nat} {ls : List Nat} (h : s.Fits) : (s.noteLoad w a ls).Fits :=
  h.sameButCaches (State.noteLoad_spec ..)
theorem State.Fits.noteStore {w : Who} {ls : List Nat} (h : s.Fits) : (s.noteStore w ls).Fits :=
  h.sameButCaches (State.noteStore_spec ..)
theorem State.Fits.noteUpdate {w : Who} {a : Nat} {ls : List Nat} (h : s.Fits) : (s.noteUpdate w a ls).Fits :=
  h.sameButCaches (State.noteUpdate_spec ..)
theorem State.Fits.storeNow {w : Who} {ls : List Nat} {v : Nat} (h : s.Fits) : (s.storeNow w ls v).Fits := h.noteStore.put
theorem State.Fits.lineStore {c : BitVec 16} {ls : List Nat} {v : Nat} (h : s.Fits) : (s.lineStore c ls v).Fits :=
  State.Fits.put (State.Fits.l2Lines (s := { s with caches := s.caches.l1Evict none (globalLines ls) }) h)

theorem State.Fits.storeAll {w : Who} : ∀ {l : List (List Nat × Nat)} {u : State}, u.Fits → (State.storeAll w l u).Fits
  | [], _, h => h
  | _ :: r, _, h => State.Fits.storeAll (l := r) h.storeNow

theorem State.Fits.flushLate {k : Nat} (h : s.Fits) : (s.flushLate k).Fits :=
  h.ite (State.Fits.storeAll (h.modStrand rfl))

theorem State.Fits.flushAll (h : s.Fits) : s.flushAll.Fits := State.Fits.foldl h fun hu => hu.flushLate

/-! ### Reports and pages -/

theorem State.Fits.audit {n : Nat} {c : BitVec 16} {b : List (Nat × Nat)} (h : s.Fits) : (s.audit n c b).Fits := h
theorem State.Fits.report {r : Report} (h : s.Fits) : (s.report r).Fits := h
theorem State.Fits.reportLogged {r : Report} {n : Nat} (h : s.Fits) : (s.reportLogged r n).Fits :=
  State.Fits.ite (t := { s with held := s.held ++ [.tell r n] }) h.report h
theorem State.Fits.violation {c : BitVec 16} {k : Nat} {v : Word} {a : Acc} {n : Nat} (h : s.Fits) :
    (s.violation c k v a n).Fits := h

theorem State.Fits.kalloc {n a : Nat} (h : s.Fits) : (s.kalloc n a).1.Fits := h.withMem (wf_clear _ _ h.mem)

theorem State.Fits.needTable {a : Nat} (h : s.Fits) : (s.needTable a).1.Fits := by
  unfold State.needTable
  dsimp only
  split
  · exact h
  · exact h.kalloc.withMem (wf_write _ _ _ h.kalloc.mem)

theorem State.Fits.setLeaf {root va code : Nat} {leaf : Word} (h : s.Fits) : (s.setLeaf root va code leaf).Fits := by
  have write : ∀ {u : State} {a v : Nat}, u.Fits → State.Fits { u with mem := Memory.write u.mem a 8 v } := fun hu =>
    hu.withMem (wf_write _ _ _ hu.mem)
  exact (write h.needTable).ite ((write h.needTable.needTable).ite (write h.needTable.needTable.needTable))

theorem State.Fits.takeFrames {c : BitVec 16} {n f : Nat} {t : State} (h : s.Fits) (e : s.takeFrames c n = some (t, f)) : t.Fits := by
  unfold State.takeFrames at e
  split at e
  · cases e
  · cases e; exact h.withMem (wf_clear _ _ h.mem)

theorem State.Fits.mapPage {c : BitVec 16} {va code perm : Nat} {q : Bool} {t : State} (h : s.Fits) (e : s.mapPage c va code perm q = some t) :
    t.Fits := by
  unfold State.mapPage at e
  split at e
  · cases e
  · split at e
    · cases e
    · split at e
      · cases e
      · next took =>
        split at e
        · cases e
        · cases e; exact (h.takeFrames took).setLeaf

theorem State.Fits.mapPages {c : BitVec 16} {code perm : Nat} {q : Bool} {t : State} : ∀ {n va : Nat} {u : State}, u.Fits →
    u.mapPages c va code perm q n = some t → t.Fits
  | 0, _, _, h, e => by cases e; exact h
  | n + 1, _, _, h, e => by
    unfold State.mapPages at e
    split at e
    · cases e
    · next mapped => exact State.Fits.mapPages (h.mapPage mapped) e

theorem State.Fits.freeFrames {pa size : Nat} (h : s.Fits) : (s.freeFrames pa size).Fits := h
theorem State.Fits.startMove {c : BitVec 16} {va : Nat} (h : s.Fits) : (s.startMove c va).Fits := by
  unfold State.startMove
  split
  · exact h.withMem (wf_write _ _ _ h.mem)
  · exact h
theorem State.Fits.invalidate {c : BitVec 16} {va : Nat} (h : s.Fits) : (s.invalidate c va).Fits := by
  unfold State.invalidate; split <;> exact h
theorem State.Fits.setEntry {c : BitVec 16} {va : Nat} {f : Word → Word} (h : s.Fits) : (s.setEntry c va f).Fits := by
  unfold State.setEntry
  split
  · exact h.withMem (wf_write _ _ _ h.mem)
  · exact h
theorem State.Fits.unmapPage {c : BitVec 16} {va : Nat} (h : s.Fits) : (s.unmapPage c va).Fits := by
  unfold State.unmapPage
  split
  · exact h.startMove.invalidate.setEntry.freeFrames
  · exact h
theorem State.Fits.unmapPages {c : BitVec 16} : ∀ {n va : Nat} {u : State}, u.Fits → (u.unmapPages c va n).Fits
  | 0, _, _, h => h
  | n + 1, _, _, h => State.Fits.unmapPages (n := n) h.unmapPage

end

end Sys2Proof.Machine
end

section
/-! PROOFS. The family of the vector forms (07): every step keeps the invariant (O59). Traps, the end of a strand, groups and flits. -/

namespace Sys2Proof.Machine

open Sys2Proof.Safety

/-! ### Strands -/

@[simp] theorem Strand.orphan_grant (t : Strand) (k g : Nat) : (t.orphan k g).grant = t.grant := by unfold Strand.orphan; split <;> rfl
@[simp] theorem Strand.stopHead_grant (t : Strand) : t.stopHead.grant = t.grant := by unfold Strand.stopHead; split <;> rfl
@[simp] theorem Strand.stopped_grant (t : Strand) : t.stopped.grant = t.grant := t.stopHead_grant
@[simp] theorem Strand.pastBar_grant (t : Strand) (n : Nat) (x : Barrier) : (t.pastBar n x).grant = t.grant := by
  unfold Strand.pastBar
  split
  · split <;> rfl
  · split <;> rfl
  · rfl

/-! ### The end of a strand -/

section
variable {s : State}

theorem State.Fits.unloadObj {o : Obj} (h : s.Fits) : (s.unloadObj o).Fits :=
  State.Fits.foldl (f := fun x c => x.unmapPages c o.cbase (o.textPages + o.mpages)) (l := o.atts) h fun hu => hu.unmapPages

theorem State.Fits.settleObjs (h : s.Fits) : s.settleObjs.Fits := .foldl h fun hu => .ite hu.unloadObj hu

theorem State.Fits.modLaunch {c : BitVec 16} {n : Nat} {f : Launch → Launch} (h : s.Fits) : (s.modLaunch c n f).Fits := h

theorem State.Fits.finishLaunch {c : BitVec 16} {n : Nat} (h : s.Fits) : (s.finishLaunch c n).Fits := by
  unfold State.finishLaunch
  split
  · exact h
  · exact .ite h h

/-- Children of a strand that has gone keep their grants. -/
theorem State.Fits.orphans {k g : Nat} (h : s.Fits) : State.Fits
    { s with st := s.st.orphan k g, others := s.others.map fun (p : Nat × Strand) => (p.1, p.2.orphan k g) } :=
  ⟨h.mem, by rw [Strand.orphan_grant]; exact h.st, h.others.map fun p => p.2.orphan_grant k g, h.groups, h.shadow, h.spill⟩

theorem State.Fits.removeStrand {k : Nat} {b : Bool} (h : s.Fits) : (s.removeStrand k b).Fits := by
  unfold State.removeStrand
  refine .modGroup (.orphans (.putStrand ?_ Grant.fits_empty)) fun _ hx => hx
  split
  · exact h.flushLate
  · exact .ite h.flushLate (.modStrand h.flushLate rfl)

theorem State.Fits.finishGroup {g : Nat} {f : Option (Nat × Nat × Word)} (h : s.Fits) : (s.finishGroup g f).Fits := by
  unfold State.finishGroup
  split
  · exact h
  · exact .ite h (.settleObjs (.finishLaunch (.modLaunch (.withGroups h h.groups.filter))))

theorem State.Fits.failStrand {k : Nat} {i : FailInfo} (h : s.Fits) : (s.failStrand k i).Fits := by
  unfold State.failStrand
  dsimp only
  split
  · exact .removeStrand h.report
  · exact .finishGroup (.modGroup (.foldl (.removeStrand h.report) fun hu => hu.removeStrand) fun _ _ => allFit_nil)

/-! ### Traps -/

theorem State.Fits.leaveParked (h : s.Fits) : s.leaveParked.Fits := .ite h h

theorem State.Fits.trap {c : Nat} {v : Word} {b : Bool} (h : s.Fits) : (s.trap c v b).Fits := by
  have stopped : ∀ t : Strand, ((if b then { t with prog := 0 } else t.stopHead).deliver c v b).grant = t.grant := fun t => by
    cases b
    · exact t.stopHead_grant
    · rfl
  exact .ite (.mod h rfl) (.ite h.failStrand (.mod h.leaveParked (stopped _)))

theorem State.Fits.trapAccess {c ea b : Nat} {k : Acc} {v : Bool} (h : s.Fits) : (s.trapAccess c ea b k v).Fits :=
  .ite (.ite h (.trap h.violation)) h.trap

theorem State.Fits.trapCheck {c ea b : Nat} {v : Bool} (h : s.Fits) : (s.trapCheck c ea b v).Fits := h.trap

/-! ### Answers -/

/-- What comes of a meaning keeps the invariant: the next state, if it answers one. -/
inductive Res.Fits : Res → Prop
  | next {t : State} (h : t.Fits) : Res.Fits (.next t)
  | fault {f : Fault} : Res.Fits (.fault f)
  | refused {x : Refusal} : Res.Fits (.refused x)

theorem Res.Fits.of_next {t : State} (h : Res.Fits (.next t)) : t.Fits := by cases h; assumption

/-- Either branch. -/
theorem Res.Fits.ite {r q : Res} {c : Prop} {_ : Decidable c} (hr : r.Fits) (hq : Res.Fits q) : Res.Fits (if c then r else q) := by
  split <;> assumption

theorem Res.Fits.result {d : SReg} {v : Word} {n : Nat} (h : s.Fits) : Res.Fits (s.result d v n) := .next h.setR.advance
theorem Res.Fits.raise {c : Nat} {v : Word} (h : s.Fits) : Res.Fits (s.raise c v) := .next h.trap

/-- A scalar access answers a trap, or what its continuation does (R102). -/
theorem Res.Fits.scalarAccess {ea n : Nat} {a : Acc} {k : State → List Nat → Res} (h : s.Fits)
    (hk : ∀ {u ls}, u.Fits → Res.Fits (k u ls)) : Res.Fits (s.scalarAccess ea n a k) := by
  refine .ite (.raise h) ?_
  split
  · exact .next h.trapAccess
  · exact hk (.ite h.noteLoad h.keep)

/-! ### Operand slots -/

theorem State.Fits.setOslot {n : Nat} {o : OpSlot} (h : s.Fits) : (s.setOslot n o).Fits := h

theorem State.Fits.enterClaim (h : s.Fits) : s.enterClaim.Fits := by
  unfold State.enterClaim
  split
  · exact .ite h h
  · exact h

theorem State.Fits.enterClaimOf {k : Nat} (h : s.Fits) : (s.enterClaimOf k).Fits := h.focus.enterClaim.focus

/-! ### Queues -/

theorem State.Fits.setQueue {q : Queue} (h : s.Fits) : (s.setQueue q).Fits := h

theorem State.Fits.recDelivered {q : Queue} {r : Nat} (h : s.Fits) : (s.recDelivered q r).Fits := by
  refine .ite ?_ h
  split
  · exact h.lineStore
  · exact h

theorem State.Fits.noteCounters {q : Queue} {l : List QRec} (h : s.Fits) : (s.noteCounters q l).Fits :=
  h.sameButCaches (State.noteCounters_spec ..)

theorem State.Fits.takeRec {w : Who} {q : Queue} {e : QRec} {ls : List Nat} (h : s.Fits) : (s.takeRec w q e ls).Fits :=
  .recDelivered (.setQueue h.storeNow)

theorem State.Fits.finishPop {k : Nat} {d : SReg} {v : Word} (h : s.Fits) : (s.finishPop k d v).Fits :=
  h.modStrand (Strand.setR_grant ..)

theorem State.Fits.serveParked {c : BitVec 16} {va : Nat} : ∀ {n : Nat} {u : State}, u.Fits → (State.serveParked c va n u).Fits
  | 0, _, h => h
  | n + 1, u, h => by
    unfold State.serveParked
    split
    · exact h
    · split
      · exact h
      · refine .ite h ?_
        dsimp only
        split
        · exact State.Fits.serveParked (n := n) (.finishPop (.takeRec h.noteCounters))
        · exact .ite (State.Fits.serveParked (n := n) (.finishPop (.setQueue h.noteCounters))) h.noteCounters

theorem State.Fits.serve {c : BitVec 16} {va : Nat} (h : s.Fits) : (s.serve c va).Fits := by
  unfold State.serve
  split
  · exact h.serveParked
  · exact h

theorem Res.Fits.pushForm {d a b : SReg} {bottom : Bool} (h : s.Fits) : Res.Fits (s.pushForm d a b bottom) := by
  unfold State.pushForm
  split
  · exact .raise h
  · exact .ite (.raise h) (.scalarAccess h fun hu => .ite (.raise hu) (.ite (.result hu.setQueue)
      (.next (.serve (.advance (.setR hu.setQueue))))))

theorem Res.Fits.qpop {d a b : SReg} (h : s.Fits) : Res.Fits (execQpop d a b s) := by
  refine .ite (.next h.serve) ?_
  split
  · exact .raise h
  · refine .scalarAccess h fun {u _} hu => ?_
    have noted : ∀ {c : Prop} {_ : Decidable c} {q l}, (if c then u.noteCounters q l else u).Fits := .ite hu.noteCounters hu
    dsimp only
    split
    · exact .result (.takeRec noted)
    · exact .ite (.result noted) (.next (.mod (.setQueue noted) rfl))

theorem Res.Fits.popEnd {d a b : SReg} {bottom : Bool} (h : s.Fits) : Res.Fits (s.popEnd d a b bottom) := by
  unfold State.popEnd
  split
  · exact .raise h
  · refine .ite (.raise h) (.scalarAccess h fun hu => ?_)
    dsimp only
    split
    · exact .result (.takeRec hu.noteCounters)
    · exact .result (.setQueue hu.noteCounters)

theorem Res.Fits.qlen {d a : SReg} (h : s.Fits) : Res.Fits (execQlen d a s) := by
  unfold execQlen
  split
  · exact .raise h
  · exact .ite (.result h) (.result h)

/-! ### Dispatch -/

theorem State.Fits.readMethods {w : Who} : ∀ {n base : Nat} {u t : State} {l : List Method}, u.Fits →
    u.readMethods w base n = .ok (t, l) → t.Fits
  | 0, _, _, _, _, h, e => by cases e; exact h
  | n + 1, _, _, _, _, h, e => by
    unfold State.readMethods at e
    split at e
    · cases e
    · split at e
      · cases e
      · next rest => cases e; exact State.Fits.readMethods h.noteLoad rest

theorem State.Fits.methods {t : State} {n : Nat} {l : List Method} (h : s.Fits) (e : s.methods = .ok (t, n, l)) : t.Fits := by
  unfold State.methods at e
  dsimp only at e
  split at e
  · cases e; exact h
  · split at e
    · cases e
    · split at e
      · cases e
      · next rest => cases e; exact h.noteLoad.readMethods rest

theorem Res.Fits.insertPlan {d : SReg} {q : Queue} {r : Nat} {m : Method} {p : List Nat} (h : s.Fits) :
    Res.Fits (s.insertPlan d q r m p) := by
  refine .ite (.result h) ?_
  split
  · exact .next h.trapAccess
  · exact .ite (.result h.note) (.next (.serve (.advance (.setR (.setQueue h.note.storeNow)))))

theorem Res.Fits.dispatch {d a b : SReg} (h : s.Fits) : Res.Fits (execDispatch d a b s) := by
  refine .scalarAccess h fun hu => ?_
  dsimp only
  split
  · exact .next hu.trapAccess
  · next methods =>
    have ht := hu.methods methods
    split
    · exact .next ht.setR.jump
    · split
      · exact .raise ht
      · split
        · exact .raise ht
        · exact .insertPlan ht

theorem Res.Fits.dret {d a b : SReg} (h : s.Fits) : Res.Fits (execDret d a b s) := by
  unfold execDret
  dsimp only
  split
  · exact .raise h
  · refine .scalarAccess h fun hu => .ite (.next hu.jump) ?_
    split
    · exact .raise hu
    · exact .scalarAccess hu fun hv => .next hv.storeNow.jump.serve

/-! ### Lines and kernels -/

theorem State.Fits.fillLine {core : Nat} {c : BitVec 16} {va : Nat} (h : s.Fits) : (s.fillLine core c va).Fits :=
  h.sameButCaches (State.fillLine_spec ..)

theorem State.Fits.readmit {c : BitVec 16} {l : List Nat} (h : s.Fits) : (s.readmit c l).Fits := by
  refine .foldl h fun hu => ?_
  split
  · exact hu
  · exact .ite hu hu

theorem State.Fits.admitKernel {core : Nat} {c : BitVec 16} {o : Obj} {kix : Nat} (h : s.Fits) : (s.admitKernel core c o kix).Fits :=
  .ite h (.ite h (.foldl h fun hu => State.Fits.fillLine hu))

/-! ### Groups -/

/-- A strand starts with no grant (R283, R288). -/
theorem fits_startStrand {l : Launch} {k : Kernel} {gkey g i row str : Nat} : (startStrand s l k gkey g i row str).grant.Fits :=
  Nat.zero_le _
theorem fits_forkChild {pc : BitVec 56} {names : Word} {k allow : Nat} : (forkChild s pc names k allow).grant.Fits := Nat.zero_le _

theorem State.Fits.placeStrands {l : Launch} {k : Kernel} {cluster gkey g : Nat} : ∀ {n i : Nat} {u t : State} {ks : List Nat}, u.Fits →
    u.placeStrands l k cluster gkey g n i = some (t, ks) → t.Fits
  | 0, _, _, _, _, h, e => by cases e; exact h
  | n + 1, _, _, _, _, h, e => by
    unfold State.placeStrands at e
    split at e
    · cases e
    · split at e
      · split at e
        · cases e
        · next placed => cases e; exact State.Fits.placeStrands (h.putStrand fits_startStrand) placed
      · cases e

theorem State.Fits.placeGroup {l : Launch} {k : Kernel} {g : Nat} {t : State} (h : s.Fits) (e : s.placeGroup l k g = some t) : t.Fits := by
  unfold State.placeGroup at e
  dsimp only at e
  split at e
  · cases e
  · split at e
    · cases e
    · split at e
      · cases e
      · next placed =>
        cases e
        have ht := h.placeStrands placed
        exact ht.withGroups (groupsFit_cons.mpr ⟨allFit_nil, ht.groups⟩)

theorem State.Fits.reown {c : BitVec 16} {a b : Nat} (h : s.Fits) : (s.reown c a b).Fits := h
theorem State.Fits.unparkPop {k : Nat} (h : s.Fits) : (s.unparkPop k).Fits := h
theorem State.Fits.unpark {k : Nat} (h : s.Fits) : (s.unpark k).Fits := h

theorem State.Fits.preemptGroup {g : Nat} (h : s.Fits) : (s.preemptGroup g).Fits := by
  unfold State.preemptGroup
  split
  · exact h
  · next x found =>
    have off : (x.live.foldl (fun y k => ((y.flushLate k).unpark k).reown x.ctx k (savedOwner g k)) s).Fits :=
      .foldl h fun hu => hu.flushLate
    refine .modGroup (.foldl off fun hu => hu.putStrand Grant.fits_empty) fun _ _ p hp => ?_
    obtain ⟨k, -, rfl⟩ := List.mem_map.mp hp
    rw [Strand.stopped_grant]
    exact off.strand

theorem State.Fits.enterClaims {l : List Nat} (h : s.Fits) : (s.enterClaims l).Fits := .foldl h fun hu => hu.enterClaimOf

theorem State.Fits.resumeGroup {g : Nat} {x : Group} (h : s.Fits) (hx : AllFit x.saved) : (s.resumeGroup g x).Fits := by
  have back : ∀ (l : List (Nat × Strand)) {u : State}, AllFit l → u.Fits →
      (l.foldl (fun y p => (y.putStrand p.1 p.2).reown x.ctx (savedOwner g p.1) p.1) u).Fits := by
    intro l
    induction l with
    | nil => intro u _ hu; exact hu
    | cons p l ih =>
      intro u hl hu
      obtain ⟨hp, hl⟩ := allFit_cons.mp hl
      exact ih hl (hu.putStrand hp).reown
  have claimed : ((x.saved.foldl (fun y p => (y.putStrand p.1 p.2).reown x.ctx (savedOwner g p.1) p.1) s).enterClaims (x.saved.map (·.1))).Fits :=
    (back x.saved hx h).enterClaims
  exact claimed.withGroups (groupsFit_cons.mpr ⟨allFit_nil, claimed.groups.filter⟩)

/-- The strands saved with a group fit. -/
theorem State.Fits.saved {g : Nat} {x : Group} (h : s.Fits) (found : s.group? g = some x) : AllFit x.saved := by
  obtain ⟨p, hp, rfl⟩ := Option.map_eq_some_iff.mp found
  exact h.groups p (List.mem_of_find?_eq_some hp)

theorem State.Fits.tryAdmit {c : BitVec 16} {p : Pending} {t : State} (h : s.Fits) (e : s.tryAdmit c p = some t) : t.Fits := by
  unfold State.tryAdmit at e
  split at e
  · split at e
    · cases e
    · split at e
      · cases e
      · split at e
        · cases e
        · next placed => cases e; exact (h.placeGroup placed).modLaunch
  · split at e
    · cases e
    · next found =>
      split at e
      · cases e; exact h.resumeGroup (h.saved found)
      · cases e

theorem State.Fits.admitOver {c : BitVec 16} {p : Pending} {t : State} (h : s.Fits) : ∀ {l seen : List (Nat × Group)},
    s.admitOver c p seen l = some t → t.Fits
  | [], _, e => by cases e
  | v :: vs, seen, e => by
    unfold State.admitOver at e
    dsimp only at e
    split at e
    · next admitted => cases e; exact State.Fits.tryAdmit (.foldl h fun hu => hu.preemptGroup) admitted
    · exact State.Fits.admitOver h e

theorem State.Fits.noteAdmission {c : BitVec 16} {p : Pending} (h : s.Fits) : (s.noteAdmission c p).Fits := by
  unfold State.noteAdmission
  split
  · exact h
  · split
    · exact h
    · exact .foldl h fun hu => hu.admitKernel

/-! ### Forks, joins and barriers -/

theorem Res.Fits.forkl {d a b : SReg} (h : s.Fits) : Res.Fits (execForkl d a b s) := by
  refine .ite (.next h) (.ite (.raise h) ?_)
  split
  · exact .raise h
  · split
    · exact .result h
    · dsimp only
      split
      · exact .ite (.result h) (.result (.mod (.modGroup (.putStrand h fits_forkChild) fun _ hx => hx) rfl))
      · exact .result h

theorem Res.Fits.joinl {d a : SReg} (h : s.Fits) : Res.Fits (execJoinl d a s) := by
  unfold execJoinl
  split
  · exact .raise h
  · split
    · exact .next (.mod h rfl)
    · exact .ite (.next (.mod h rfl)) (.result (.mod h rfl))

theorem Res.Fits.grpid {d : SReg} (h : s.Fits) : Res.Fits (execGrpid d s) := by
  unfold execGrpid
  split <;> exact .result h

theorem State.Fits.setBar {n : Nat} {b : Barrier} (h : s.Fits) : (s.setBar n b).Fits := by
  refine h.modGroup fun x hx => ?_
  split
  · exact hx
  · exact hx

theorem Res.Fits.binit {a b : SReg} (h : s.Fits) : Res.Fits (execBinit a b s) := by
  unfold execBinit
  dsimp only
  split
  · exact .raise h
  · exact .ite (.raise h) (.ite (.next h.setBar.advance) (.ite (.next h.advance) (.ite (.next h.setBar.advance) (.raise h))))

theorem Res.Fits.bwait {a b : SReg} (h : s.Fits) : Res.Fits (execBwait a b s) := by
  unfold execBwait
  split
  · split
    · exact .raise h
    · exact .next (.mod h (Strand.pastBar_grant ..))
  · split
    · exact .raise h
    · exact .ite (.raise h) (.ite (.next h.advance) (.next (.mod h rfl)))

theorem State.Fits.arriveAt {n : Nat} {x : Barrier} (h : s.Fits) : (s.arriveAt n x).Fits := by
  refine .ite h.setBar ?_
  split
  · exact h.setBar
  · exact .foldl h.setBar fun hu => .ite hu (hu.modStrand (Strand.pastBar_grant ..))

/-! ### Flits -/

theorem State.Fits.modPort {n : Nat} {f : BPort → BPort} (h : s.Fits) : (s.modPort n f).Fits := h

theorem State.Fits.sendFlit {f : Flit} (h : s.Fits) : (s.sendFlit f).Fits := by
  unfold State.sendFlit
  split
  · exact h
  · exact .ite h h.modPort

theorem State.Fits.sendMembers {c : BitVec 16} {gid but type : Nat} {fs : List (Nat × Nat)} (h : s.Fits) :
    (s.sendMembers c gid but type fs).Fits := .foldl h fun hu => hu.sendFlit

theorem State.Fits.sendLeave {c : BitVec 16} {gid num : Nat} {chip : BitVec 12} (h : s.Fits) : (s.sendLeave c gid num chip).Fits :=
  h.sendMembers

end

end Sys2Proof.Machine
end

section
/-! PROOFS. The family of the vector forms (07): every step keeps the invariant (O59). Entries of the vector queue: elements, tiles,
slots, memory forms and sketches. -/

namespace Sys2Proof.Machine

open Sys2Proof.Safety

/-! ### What an entry and an element come to -/

/-- What comes of an entry keeps the invariant, done or stopped. -/
inductive VRes.Fits : VRes → Prop
  | done {t : State} {v : Option Word} (h : t.Fits) : VRes.Fits (.done t v)
  | stop {t : State} (h : t.Fits) : VRes.Fits (.stop t)

/-- What comes of an element does. -/
inductive Elt.Fits : Elt → Prop
  | ok {t : State} {c : Cls} (h : t.Fits) : Elt.Fits (.ok t c)
  | fault {c ea b : Nat} {k : Acc} : Elt.Fits (.fault c ea b k)

theorem VRes.Fits.of_done {t : State} {v : Option Word} (h : VRes.Fits (.done t v)) : t.Fits := by cases h; assumption
theorem VRes.Fits.of_stop {t : State} (h : VRes.Fits (.stop t)) : t.Fits := by cases h; assumption
theorem Elt.Fits.of_ok {t : State} {c : Cls} (h : Elt.Fits (.ok t c)) : t.Fits := by cases h; assumption

theorem VRes.Fits.ite {r q : VRes} {c : Prop} {_ : Decidable c} (hr : r.Fits) (hq : q.Fits) : (if c then r else q).Fits := by
  split <;> assumption
theorem Elt.Fits.ite {r q : Elt} {c : Prop} {_ : Decidable c} (hr : r.Fits) (hq : q.Fits) : (if c then r else q).Fits := by
  split <;> assumption

/-- A change of where an entry has stopped. -/
theorem VRes.Fits.onStop {r : VRes} {g : State → State} (h : r.Fits) (hg : ∀ {u}, u.Fits → (g u).Fits) :
    VRes.Fits (match r with | .stop u => .stop (g u) | x => x) := by
  cases r with
  | done => exact h
  | stop => exact .stop (hg h.of_stop)

section
variable {s : State} {e : Entry}

theorem State.Fits.setHead {e' : Entry} (h : s.Fits) : (s.setHead e').Fits := .mod h rfl
theorem State.Fits.modVec {f : VecFile → VecFile} (h : s.Fits) : (s.modVec f).Fits := .mod h rfl
theorem State.Fits.raiseScalar {c : Cls} (h : s.Fits) : (s.raiseScalar c).Fits := .modCsr h
theorem State.Fits.raiseFlags {c : Cls} (h : s.Fits) : (s.raiseFlags c).Fits := .mod (.raiseScalar h) rfl
theorem State.Fits.complete1 {n : Nat} (h : s.Fits) : (s.complete1 n).Fits := .modCsr h
theorem State.Fits.setVstart {n : Nat} (h : s.Fits) : (s.setVstart n).Fits := .modCsr h

theorem Res.Fits.scalarResult {d : SReg} {v : Word} {c : Cls} {n : Nat} (h : s.Fits) : Res.Fits (s.scalarResult d v c n) := by
  unfold State.scalarResult
  split
  · exact .raise h
  · exact .result (.raiseScalar h)

theorem VRes.Fits.illegal (h : s.Fits) : VRes.Fits s.vIllegal := .stop (.trap h)
theorem VRes.Fits.trap0 {c : Nat} {v : Word} (h : s.Fits) : VRes.Fits (s.vTrap0 c v) := .stop (.trap (.setVstart h))

/-! ### Elements in order -/

section
variable {after : Nat → State → State}

theorem VRes.Fits.shortenFault {s0 : State} {vs i c ea b : Nat} {k : Acc} (ha : ∀ {n u}, u.Fits → (after n u).Fits) (h : s.Fits)
    (h0 : s0.Fits) : VRes.Fits (s.shortenFault s0 e vs i c ea b k after) :=
  .ite (.stop h0) (.ite (.stop (.trapAccess (.setVstart h))) (.done (ha (.complete1 (.mod (.ite (.violation h) h) rfl)))))

/-- An element that completes after fpx keeps the invariant, and so does what fpx answers for the entry (R36, R37). -/
theorem fpx_fits {s1 t : State} {xm : MReg} {vs i : Nat} {c : Cls} {o : Option VRes} (ha : ∀ {n u}, u.Fits → (after n u).Fits)
    (h : s.Fits) (h1 : s1.Fits) (out : fpx s s1 e xm vs i c after = (o, t)) : (∀ r, o = some r → r.Fits) ∧ t.Fits := by
  unfold fpx at out
  split at out
  · cases out; exact ⟨fun r hr => (nomatch hr), .modVec (.raiseFlags h1)⟩
  · split at out
    · cases out; exact ⟨fun r hr => Option.some.inj hr ▸ .stop (.trap (.setVstart h)), h⟩
    · split at out
      · cases out; exact ⟨fun r hr => (nomatch hr), .raiseFlags h1⟩
      · split at out
        · cases out; exact ⟨fun r hr => Option.some.inj hr ▸ .stop (.trap (.setVstart h)), h⟩
        · cases out; exact ⟨fun r hr => Option.some.inj hr ▸ .done (ha (.complete1 (.mod h rfl))), h⟩

theorem VRes.Fits.fpx {s1 t : State} {xm : MReg} {vs i : Nat} {c : Cls} {r : VRes} (ha : ∀ {n u}, u.Fits → (after n u).Fits)
    (h : s.Fits) (h1 : s1.Fits) (out : fpx s s1 e xm vs i c after = (some r, t)) : r.Fits := (fpx_fits ha h h1 out).1 r rfl

theorem State.Fits.fpx {s1 t : State} {xm : MReg} {vs i : Nat} {c : Cls} (ha : ∀ {n u}, u.Fits → (after n u).Fits)
    (h : s.Fits) (h1 : s1.Fits) (out : fpx s s1 e xm vs i c after = (none, t)) : t.Fits := (fpx_fits ha h h1 out).2

theorem VRes.Fits.vloop {s0 : State} {top vs : Nat} {xm : MReg} {act : VecFile → Nat → Bool} {f : State → Nat → Elt}
    (ha : ∀ {n u}, u.Fits → (after n u).Fits) (hf : ∀ {u i}, u.Fits → (f u i).Fits) (h0 : s0.Fits) {n : Nat} : ∀ {i : Nat} {u : State},
    u.Fits → VRes.Fits (vloop top s0 e xm act f after vs n i u) := by
  induction n with
  | zero => intro i u h; exact .ite (.stop (.mod h rfl)) (.done (ha (.complete1 h)))
  | succ n ih =>
    intro i u h
    unfold Machine.vloop
    refine .ite ?_ (ih h)
    have elt := hf (i := i) h
    split
    · exact .shortenFault ha h h0
    · next answer =>
      rw [answer] at elt
      split
      · next out => exact .fpx ha h elt.of_ok out
      · next out => exact ih (.fpx ha h elt.of_ok out)

/-- An entry over its elements, each of which keeps the invariant (R34). -/
theorem VRes.Fits.ventryN {vl : Nat} {bad : Option Nat} {xm : MReg} {act : VecFile → Nat → Bool} {f : State → Nat → Elt} (h : s.Fits)
    (hf : ∀ {u i}, u.Fits → (f u i).Fits) (ha : ∀ {n u}, u.Fits → (after n u).Fits) :
    VRes.Fits (s.ventryN e vl bad xm act f after) := by
  refine .ite (.done (ha (.complete1 h))) ?_
  split
  · exact .stop (.trap h)
  · exact .vloop ha hf h h

theorem VRes.Fits.ventry {checks : Bool} {xm : MReg} {act : VecFile → Nat → Bool} {f : State → Nat → Elt} (h : s.Fits)
    (hf : ∀ {u i}, u.Fits → (f u i).Fits) (ha : ∀ {n u}, u.Fits → (after n u).Fits) :
    VRes.Fits (s.ventry e checks xm act f after) := .ventryN h hf ha

end

theorem VRes.Fits.elementwise {d : VReg} {wd : Nat} {srcs : List VGroup} {exact : Bool} {m xm : MReg} {f : VecFile → Nat → Nat × Cls}
    (h : s.Fits) : VRes.Fits (s.elementwise e d wd srcs exact m xm f) := .ventry h (fun hu => .ok (.modVec hu)) id

theorem VRes.Fits.maskwise {d : MReg} {srcs : List VGroup} {m xm : MReg} {f : VecFile → Nat → Bool × Cls}
    (h : s.Fits) : VRes.Fits (s.maskwise e d srcs m xm f) := .ventry h (fun hu => .ok (.modVec hu)) id

/-! ### Quantisation, stages and draws -/

theorem VRes.Fits.vbqBlocks {d : VReg} {t : Elem} {q : QReg} {xm : MReg} {rd : VecFile → Nat → Val} {vs vl : Nat}
    {after : Nat → State → State} (ha : ∀ {n u}, u.Fits → (after n u).Fits) {n : Nat} : ∀ {j : Nat} {u : State}, u.Fits →
    VRes.Fits (vbqBlocks e d t q xm rd vs vl after n j u) := by
  induction n with
  | zero => intro j u h; exact .ite (.stop (.mod h rfl)) (.done (ha (.complete1 h)))
  | succ n ih =>
    intro j u h
    unfold Machine.vbqBlocks
    dsimp only
    split
    · exact ih (.foldl (.modVec h) fun hu => .modVec (.raiseFlags hu))
    · split
      · next out => exact .fpx ha h (.modVec h) out
      · next out => exact ih (.fpx ha h (.modVec h) out)

theorem VRes.Fits.vbq {d a : VReg} {t : Elem} {q : QReg} {x : MReg} {c : Bool} (h : s.Fits) : VRes.Fits (effVbq d a t q x c e s) :=
  .ite (.done (.complete1 h)) (.ite (.illegal h) (.vbqBlocks (fun hu => .ite (.modVec hu) hu) h))

theorem VRes.Fits.vbdq {d a : VReg} {t : Elem} {q : QReg} {x : MReg} (h : s.Fits) : VRes.Fits (effVbdq d a t q x e s) :=
  .ventry h (fun hu => .ok (.modVec hu)) id

theorem VRes.Fits.vhad {d a : VReg} {k : Fin 32} {y z b : Bool} {x : MReg} {f : FF} (h : s.Fits) :
    VRes.Fits (effVhad d a k y z b x f e s) := .ventry h (fun hu => .ok (.modVec hu)) fun hu => .ite (.modVec hu) hu

theorem VRes.Fits.vrng {d : VReg} {t : Elem} {m : MReg} (h : s.Fits) : VRes.Fits (effVrng d t m e s) :=
  .ventry h (fun hu => .ok (.modVec hu)) fun hu => .mod hu rfl

/-! ### Moves, reductions and scans -/

theorem VRes.Fits.vgather {d a b : VReg} {m : MReg} (h : s.Fits) : VRes.Fits (effVgather d a b m e s) := by
  exact .onStop (.elementwise (.ite (.setVstart h) h)) fun hu => .ite hu (.setHead hu)

theorem VRes.Fits.vcompress {d a : VReg} {m : MReg} (h : s.Fits) : VRes.Fits (effVcompress d a m e s) :=
  .ite (.done (.complete1 h)) (.ite (.illegal h) (.ite (.stop (.mod (.modVec h) rfl)) (.done (.complete1 (.modVec h)))))

theorem VRes.Fits.vmvx {d : VReg} {a : SReg} (h : s.Fits) : VRes.Fits (effVmvx d a e s) := .ventry h (fun hu => .ok (.modVec hu)) id

theorem VRes.Fits.vrds {d b : SReg} {a : VReg} (h : s.Fits) : VRes.Fits (effVrds d a b e s) := .ite (.illegal h) (.done (.setVstart h))

theorem VRes.Fits.vreduce {d a : VReg} {m x : MReg} {g : Bool} {p : Step} (h : s.Fits) : VRes.Fits (s.vreduce e d a m x g p) :=
  .ventry h (fun hu => .ok (.modVec hu)) id

theorem VRes.Fits.vscanForm {d a : VReg} {m x : MReg} {g : Bool} {p : Step} (h : s.Fits) : VRes.Fits (s.vscanForm e d a m x g p) :=
  .ventry h (fun hu => .ok (.modVec hu)) id

theorem VRes.Fits.treeSegments {d a : VReg} {m x : MReg} {g : Bool} {p : Step} {vs vl : Nat} : ∀ {l : List (Nat × Nat × Nat)} {u : State},
    u.Fits → VRes.Fits (treeSegments e d a m x g p vs vl l u) := by
  intro l
  induction l with
  | nil => intro u h; exact .done (.complete1 h)
  | cons q l ih =>
    intro u h
    unfold Machine.treeSegments
    dsimp only
    split
    · exact ih (.foldl (.modVec (.raiseFlags h)) fun hu => .modVec hu)
    · split
      · exact ih (.modVec (.raiseFlags h))
      · have lead : ∀ {c : Prop} {_ : Decidable c} {y z}, (if c then u else (u.raiseFlags y).modVec z).Fits :=
          .ite h (.modVec (.raiseFlags h))
        split
        · next out => exact .fpx id lead lead out
        · next out => exact .done (.complete1 (.fpx id lead lead out))

theorem VRes.Fits.vtree {d a : VReg} {m x : MReg} {g : Bool} {p : Step} (h : s.Fits) : VRes.Fits (s.vtree e d a m x g p) :=
  .ite (.done (.complete1 h)) (.ite (.illegal h) (.ite (.stop h) (.treeSegments h)))

/-! ### Tiles -/

theorem State.Fits.tileSet {w : Who} {t : TileDef} {r ec n x : Nat} (h : s.Fits) : (s.tileSet w t r ec n x).Fits := .put h
theorem State.Fits.setTile {n : TReg} {t : Tile} (h : s.Fits) : (s.setTile n t).Fits := .mod h rfl
theorem State.Fits.changeTile {n : TReg} {d : TileDef} (h : s.Fits) : (s.changeTile n d).Fits := .setTile h

theorem VRes.Fits.withTile {n : TReg} {use : Tile → TileUse} {k : Tile → VRes} (h : s.Fits) (hk : ∀ {t}, (k t).Fits) :
    VRes.Fits (s.withTile n use k) := by
  refine .ite (.stop (.trap (.setVstart h))) ?_
  split
  · exact .stop (.trap (.setVstart h))
  · exact .stop h
  · exact hk

theorem VRes.Fits.tdef {d : TReg} {a b : SReg} (h : s.Fits) : VRes.Fits (effTdef d a b e s) := by
  refine .withTile h (.ite (.trap0 h) (.ite (.trap0 h) (.ite (.trap0 h) ?_)))
  split
  · exact .trap0 h
  · exact .ite (.trap0 h) (.done (.setVstart (.changeTile h)))

theorem VRes.Fits.setshape {d : TReg} {a b : SReg} (h : s.Fits) : VRes.Fits (effSetshape d a b e s) :=
  .withTile h (.done (.setVstart (.changeTile h)))

theorem VRes.Fits.ttag {d : TReg} {a : SReg} (h : s.Fits) : VRes.Fits (effTtag d a e s) := by
  refine .withTile h (.ite (.trap0 h) ?_)
  dsimp only
  split
  · exact .trap0 h
  · exact .done (.setVstart (.changeTile h))

theorem VRes.Fits.tgtag {d : SReg} {a : TReg} (h : s.Fits) : VRes.Fits (effTgtag d a e s) := .withTile h (.done (.setVstart h))
theorem VRes.Fits.tstat {d : SReg} {a : TReg} (h : s.Fits) : VRes.Fits (effTstat d a e s) := .withTile h (.done (.setVstart h))
theorem VRes.Fits.twait {d : TReg} (h : s.Fits) : VRes.Fits (effTwait d e s) := .withTile h (.done (.setVstart h))

/-! ### Operand slots and the accumulator store -/

theorem State.Fits.setAccRow {r : Nat} {x : BitVec 4096} (h : s.Fits) : (s.setAccRow r x).Fits := h

theorem VRes.Fits.mclaim {a : SReg} (h : s.Fits) : VRes.Fits (effMclaim a e s) := by
  have leave : ∀ {u : State}, u.Fits →
      ((State.mod { u with claims := u.claims.filter (· ≠ u.slot) } fun t => t.unparkFrom .mclaim).setVstart 0).Fits :=
    fun hu => .setVstart (.mod hu rfl)
  unfold effMclaim
  dsimp only
  refine .ite (.trap0 h) (.ite (.done (leave h)) (.ite (.trap0 h) (.ite (.done (leave h)) (.ite ?_ ?_))))
  · exact .stop (.mod h rfl)
  · exact .done (leave (.foldl h fun hu => .setOslot hu))

theorem VRes.Fits.mrels {a : SReg} (h : s.Fits) : VRes.Fits (effMrels a e s) :=
  .ite (.trap0 h) (.done (.setVstart (.foldl h fun hu => .ite (.setOslot hu) hu)))

theorem VRes.Fits.mlds {d : OSlot} {a : TReg} {c : Bool} (h : s.Fits) : VRes.Fits (effMlds d a c e s) := by
  have filled : ∀ {o : OpSlot} {n : Nat}, State.Fits { s.setOslot d.val o with freeCtr := n } := h
  refine .withTile h (.ite (.trap0 h) ?_)
  split
  · exact .trap0 h
  · exact .ite (.trap0 h) (.done (.setVstart filled))

theorem VRes.Fits.mrow {d : OSlot} {a : VReg} {b : SReg} {m : MMode} {k : Fin 16} {c : AccM} (h : s.Fits) :
    VRes.Fits (effMrow d a b m k c e s) := .ventryN h (fun hu => .ok (.setAccRow hu)) id

theorem VRes.Fits.mtile {d : OSlot} {a : TReg} {b : SReg} {m : MMode} {col : Bool} {c : AccM} (h : s.Fits) :
    VRes.Fits (effMtile d a b m col c e s) := by
  refine .withTile h fun {t} => ?_
  have rows : ∀ {len act f}, (∀ {u i}, u.Fits → Elt.Fits (f u i)) → VRes.Fits (s.ventryN e len none 0 act f) := fun hf => .ventryN h hf id
  dsimp only
  refine .ite ?_ (rows fun hu => .ite .fault (.ok (.setAccRow hu)))
  split
  · exact .trap0 h
  · exact rows fun hu => .ite .fault (.ok (.setAccRow hu))

theorem VRes.Fits.macr {d : VReg} {a b : SReg} {r : RCode} (h : s.Fits) : VRes.Fits (effMacr d a b r e s) :=
  .ventryN h (fun hu => .ok (.modVec hu)) id
theorem VRes.Fits.macw {a : VReg} {b : SReg} {r : RCode} (h : s.Fits) : VRes.Fits (effMacw a b r e s) :=
  .ventryN h (fun hu => .ok (.setAccRow hu)) id
theorem VRes.Fits.macz {a b : SReg} (h : s.Fits) : VRes.Fits (effMacz a b e s) :=
  .ite (.done (.setVstart h)) (.ite (.trap0 h) (.done (.setVstart (.foldl h fun hu => .setAccRow hu))))

/-! ### Loads and stores -/

theorem State.Fits.modStream {n : Nat} {f : Stream → Stream} (h : s.Fits) : (s.modStream n f).Fits := .mod h rfl
theorem State.Fits.useStream {p : Option Nat} {n : Nat} (h : s.Fits) : (s.useStream p n).Fits := by
  unfold State.useStream
  split
  · exact h
  · exact .modStream h

theorem State.Fits.loadBytes {t : State} {ea : Int} {n a v : Nat} {k : Kind} (h : s.Fits) (out : s.loadBytes ea n a k = .ok (v, t)) :
    t.Fits := by
  unfold State.loadBytes at out
  split at out
  · cases out
  · cases out; exact h.note

theorem VRes.Fits.vload {d : VReg} {w : EW} {m : MReg} {p : Option Nat} {checks : Bool} {k : Kind}
    {addr : VecFile → Nat → Int × Nat × Nat} {base : Option Nat} (h : s.Fits) : VRes.Fits (s.vload e d w m p checks k addr base) := by
  refine .ventry h (fun hu => ?_) fun hu => .useStream hu
  dsimp only
  split
  · exact .ok (.ite (.modVec hu) hu)
  · refine .ite .fault ?_
    split
    · exact .fault
    · next out => exact .ok (.modVec (hu.loadBytes out))

theorem VRes.Fits.vstore {d : VReg} {w : EW} {m : MReg} {checks : Bool} {k : Kind} {addr : VecFile → Nat → Int × Nat × Nat}
    {base : Option Nat} (h : s.Fits) : VRes.Fits (s.vstore e d w m checks k addr base) := by
  refine .ventry h (fun hu => .ite .fault ?_) id
  split
  · exact .fault
  · exact .ok (.put (.note hu))

theorem Elt.Fits.segLoad {d : VReg} {w : EW} {n i k : Nat} :
    ∀ {f : Nat} {u : State}, u.Fits → Elt.Fits (s.segLoad e d w n i k f u) := by
  induction k with
  | zero => intro f u h; exact .ok h
  | succ k ih =>
    intro f u h
    unfold State.segLoad
    split
    · exact .fault
    · next out => exact ih (.modVec (h.loadBytes out))

theorem Elt.Fits.segElem {d : VReg} {w : EW} {p : Option Nat} {n i : Nat} (h : s.Fits) : Elt.Fits (s.segElem e d w p n i) := by
  unfold State.segElem
  split
  · exact .ok (.modVec h)
  · split
    · exact .fault
    · exact .segLoad h

theorem VRes.Fits.vldg {d : VReg} {a : SReg} {b : Fin 32} {m : MReg} {w : EW} {src : Src} (h : s.Fits) :
    VRes.Fits (effVldg d a b m w src e s) := .ventry h (fun hu => .segElem hu) fun hu => .useStream hu

theorem Elt.Fits.segStore {d : VReg} {w : EW} {n i k : Nat} :
    ∀ {f : Nat} {u : State}, u.Fits → Elt.Fits (s.segStore e d w n i k f u) := by
  induction k with
  | zero => intro f u h; exact .ok h
  | succ k ih =>
    intro f u h
    unfold State.segStore
    split
    · exact .fault
    · exact ih (.put (.note h))

theorem VRes.Fits.vstg {d : VReg} {a : SReg} {b : Fin 32} {m : MReg} {w : EW} (h : s.Fits) : VRes.Fits (effVstg d a b m w e s) := by
  refine .ventry h (fun hu => ?_) id
  split
  · exact .fault
  · exact .segStore hu

theorem State.Fits.setRowCol {t : TileDef} {w : EW} {c : Bool} {n : Nat} (h : s.Fits) : (s.setRowCol t w c n).Fits :=
  .ite (.modCsr h) (.modCsr h)

theorem VRes.Fits.vldt {d : VReg} {a : TReg} {b : SReg} {m : MReg} {c : Bool} {w : EW} (h : s.Fits) : VRes.Fits (effVldt d a b m c w e s) :=
  .withTile h (.ventry h (fun hu => .ite .fault (.ok (.modVec hu))) fun hu => .setRowCol hu)

theorem VRes.Fits.vstt {d : VReg} {a : TReg} {b : SReg} {m : MReg} {c : Bool} {w : EW} (h : s.Fits) :
    VRes.Fits (effVstt d a b m c w e s) := by
  have tagged : ∀ {p : Prop} {_ : Decidable p} {u : State} {x : Tile}, u.Fits → (if p then u.setTile a x else u).Fits :=
    fun hu => .ite (.setTile hu) hu
  exact .withTile h (.onStop (.ventry h (fun hu => .ite .fault (.ok (.tileSet hu))) fun hu => .setRowCol (tagged hu))
    fun hu => .ite hu (tagged hu))

end

end Sys2Proof.Machine
end

section
/-! PROOFS. The family of the vector forms (07): every step keeps the invariant (O59). Vector atomics, waits, scatter-add, fibre grants
and sketches. -/

namespace Sys2Proof.Machine

open Sys2Proof.Safety

section
variable {s : State} {e : Entry}

/-! ### Atomics, waits and scatter-add -/

theorem VRes.Fits.checkedEntry {checks : Bool} {m : MReg} {addr : Nat → Int} {w : Nat} {kind : Kind} {k : Acc}
    {perf : List Nat → State → State} (h : s.Fits) (hp : ∀ {l u}, u.Fits → (perf l u).Fits) :
    VRes.Fits (s.checkedEntry e checks m addr w kind k perf) := by
  refine .ite (.done (.complete1 h)) (.ite (.illegal h) (.ite (.stop (.mod (hp h) rfl)) ?_))
  split
  · exact .done (.complete1 (hp h))
  · exact .ite (.stop h) (.shortenFault id (hp h) h)

theorem State.Fits.amoElem {d b : VReg} {w : MW} {o : AmoOp} {i : Nat} (h : s.Fits) : (amoElem e d b w o i s).Fits := by
  unfold Machine.amoElem
  dsimp only
  split
  · exact h
  · exact .modVec (.put (.note h))

theorem State.Fits.vamoPart {d b : VReg} {m : MReg} {u : Bool} {w : MW} {o : AmoOp} {n : Nat} (h : s.Fits) :
    (s.vamoPart e d b m u w o n).Fits :=
  .ite h (.mod (.setHead (.foldl (.ite h h) fun hu => .amoElem hu)) rfl)

theorem VRes.Fits.vamo {d b : VReg} {m : MReg} {u : Bool} {w : MW} {o : AmoOp} (h : s.Fits) : VRes.Fits (s.vamo e d b m u w o) :=
  .ite (.stop (.vamoPart h)) (.checkedEntry h fun hu => .foldl (.ite hu hu) fun hv => .amoElem hv)

theorem VRes.Fits.vwait {d b : VReg} {a : SReg} {m : MReg} {c : VCond} {w : MW} (h : s.Fits) : VRes.Fits (effVwait d a b m c w e s) := by
  have read : ∀ {l : List Nat} {addr : Nat → Nat} {r : Nat → List Nat}, (l.foldl (fun s i => s.note s.me (addr i) (r i)) s).Fits :=
    .foldl h fun hu => .note hu
  refine .ite (.done (.complete1 h)) (.ite (.illegal h) (.ite ?_ (.stop (.mod (.setHead read) rfl))))
  dsimp only
  split
  · exact .done (.complete1 (.mod read rfl))
  · exact .shortenFault id (.mod read rfl) read

theorem State.Fits.scatter {t : SctT} {w : Who} {n : Nat} :
    ∀ {l : List (Int × Nat)} {u : State}, u.Fits → (scatter t w n l u).Fits := by
  induction n with
  | zero => intro l u h; exact h
  | succ n ih =>
    intro l u h
    unfold Machine.scatter
    split
    · exact h
    · dsimp only
      split
      · exact ih h
      · split
        · exact ih (.put (.noteUpdate h))
        · exact ih h

theorem VRes.Fits.vscadd {d b : VReg} {a : SReg} {m : MReg} {t : SctT} (h : s.Fits) : VRes.Fits (effVscadd d a b m t e s) := by
  unfold effVscadd
  exact .checkedEntry h fun hu => .scatter hu

/-! ### Fibre grants -/

/-- What a step that may stop answers keeps the invariant. -/
def ExceptFits {α : Type} (f : α → State) : Except State α → Prop
  | .error t => t.Fits
  | .ok a => (f a).Fits

theorem fibres_fits {d : MReg} {k : Nat} : ∀ {n len : Nat} {u : State}, u.Fits → ExceptFits Prod.fst (u.fibres e d k n len) := by
  induction k with
  | zero => intro n len u h; exact h
  | succ k ih =>
    intro n len u h
    unfold State.fibres
    split
    · exact h
    · dsimp only
      split
      · split
        · exact State.Fits.trapAccess (.setVstart h)
        · exact State.Fits.ite h.violation h
      · split
        · split
          · exact State.Fits.trap (.setVstart h)
          · exact h
        · exact ih (.modVec h.note)

theorem VRes.Fits.setvlf {d : MReg} {a b : SReg} {g : Grp} {w : EW} (h : s.Fits) : VRes.Fits (effSetvlf d a b g w e s) := by
  have fits := fibres_fits (e := e) (d := d) (k := vlmax e.vtype + 1) (n := 0) (len := 0) h
  unfold effSetvlf
  split
  · next out => rw [out] at fits; exact .stop fits
  · next out => rw [out] at fits; exact .ite (.stop h) (.done (.complete1 (.mod fits rfl)))

/-! ### Sketches -/

theorem State.Fits.leadTrap {c ea b : Nat} {k : Acc} (h : s.Fits) : (s.leadTrap c ea b k).Fits := .ite h (.trapAccess h)

theorem skCheck_fits {n : State} {a : Word} {k : Acc} (h : n.Fits) : ExceptFits Prod.fst (s.skCheck n a k) := by
  unfold State.skCheck
  split
  · exact State.Fits.trapCheck h
  · dsimp only
    split
    · exact h.note
    · exact State.Fits.trap h.note

theorem State.Fits.skRead {a : Word} {ls : List Nat} (h : s.Fits) : (s.skRead a ls).Fits := .note h

theorem State.Fits.skCells {n t : State} {a : Word} {x : SkHead} {k : Acc} (h : n.Fits) (out : s.skCells n a x k = .error t) : t.Fits := by
  unfold State.skCells at out
  split at out
  · cases out; exact .leadTrap h
  · cases out

theorem State.Fits.skStore {w : Who} {a : Word} {x : SkHead} {hs ls : List Nat} {l : List Int} (h : s.Fits) :
    (s.skStore w a x hs ls l).Fits := .put (.put (.noteUpdate h))

theorem VRes.Fits.skFinish {s1 : State} {c : Cls} (h : s.Fits) (h1 : s1.Fits) : VRes.Fits (s.skFinish s1 e c) := by
  unfold State.skFinish
  split
  · exact .trap0 h
  · exact .done (.setVstart (.raiseFlags h1))

theorem VRes.Fits.skinit {d a b : SReg} (h : s.Fits) : VRes.Fits (effSkinit d a b e s) := by
  unfold effSkinit
  dsimp only
  split
  · exact .stop (.trapCheck h)
  · refine .ite (.stop (.trap h)) ?_
    split
    · next out => exact .stop (.skCells h out)
    · exact .done (.setVstart (.skStore h))

theorem VRes.Fits.skadd {d a : SReg} (h : s.Fits) : VRes.Fits (effSkadd d a e s) := by
  have first := skCheck_fits (s := s) (a := e.opd.d) (k := .rw) h
  unfold effSkadd
  split
  · next out => rw [out] at first; exact .stop first
  · next n _ _ out =>
    rw [out] at first
    have second := skCheck_fits (s := s) (a := e.opd.a) (k := .rw) (n := n) first
    split
    · next out => rw [out] at second; exact .stop second
    · next out =>
      rw [out] at second
      refine .ite (.stop (.trap second)) ?_
      split
      · next out => exact .stop (.skCells second out)
      · split
        · next out => exact .stop (.skCells second out)
        · exact .skFinish (.skRead (.skRead second)) (.skStore (.skRead (.skRead second)))

theorem VRes.Fits.skscl {d a : SReg} (h : s.Fits) : VRes.Fits (effSkscl d a e s) := by
  have head := skCheck_fits (s := s) (a := e.opd.d) (k := .rw) h
  unfold effSkscl
  split
  · next out => rw [out] at head; exact .stop head
  · next out =>
    rw [out] at head
    refine .ite (.stop (.trap head)) ?_
    split
    · next out => exact .stop (.skCells head out)
    · exact .skFinish (.skRead head) (.skStore (.skRead head))

theorem skBegin_fits {a : Word} {k : Acc} (h : s.Fits) : ExceptFits Prod.fst (s.skBegin a k) := by
  have head := skCheck_fits (s := s.mod Strand.stopHead) (a := a) (k := k) (.mod h (Strand.stopHead_grant _))
  unfold State.skBegin
  dsimp only
  split
  · next out => rw [out] at head; exact head
  · exact h

theorem VRes.Fits.skupd {d b : VReg} {a : SReg} {m : MReg} (h : s.Fits) : VRes.Fits (effSkupd d a b m e s) := by
  have head := skBegin_fits (a := e.opd.a) (k := .rw) h
  refine .ite (.ventry h (fun hu => .ok hu) id) ?_
  split
  · next out => rw [out] at head; exact .stop head
  · next out =>
    rw [out] at head
    refine .ventry head (fun hu => ?_) id
    split
    · exact .fault
    · have stored : ∀ {u : State} {l : List (List Nat × Int × Bool)} {g : List Nat × Int × Bool → Nat}, u.Fits →
          (l.foldl (fun s r => s.put r.1 (g r)) u).Fits := fun hv => .foldl hv fun hw => .put hw
      refine .ok (.ite (stored (.noteUpdate hu)) ?_)
      split
      · exact .put (.noteUpdate (stored (.noteUpdate hu)))
      · exact stored (.noteUpdate hu)

theorem VRes.Fits.skqry {d b : VReg} {a : SReg} {m : MReg} (h : s.Fits) : VRes.Fits (effSkqry d a b m e s) := by
  have head := skBegin_fits (a := e.opd.a) (k := .read) h
  refine .ite (.ventry h (fun hu => .ok hu) id) ?_
  split
  · next out => rw [out] at head; exact .stop head
  · next out =>
    rw [out] at head
    refine .ventry head (fun hu => ?_) id
    split
    · exact .fault
    · exact .ok (.modVec (.note hu))

theorem VRes.Fits.setls {a : SReg} (h : s.Fits) : VRes.Fits (effSetls a e s) := .ite (.trap0 h) (.done (.setVstart (.modCsr h)))

end

end Sys2Proof.Machine
end

section
/-! PROOFS. The family of the vector forms (07): every step keeps the invariant (O59). Background work: copies, Playa commands,
collectives and write streams. Its strand may have ended, and what the invariant says leaves such strands out: so each lemma about one
says that the strand keeps its grant, and the last, that it goes back to where it came from. -/

namespace Sys2Proof.Machine

open Sys2Proof.Safety

section
variable {s : State}

/-! ### Where the strand of background work stands -/

theorem State.Fits.bgStrand {k : Nat} {p : Strand → Bool} (h : s.Fits) (none : (s.ending.any fun x => x.1 = k && p x.2) = false) :
    (s.bgStrand k p).grant.Fits := by
  have miss : s.ending.find? (fun x => x.1 = k && p x.2) = .none := by
    simpa [List.any_eq_false, List.find?_eq_none] using none
  unfold State.bgStrand
  rw [miss]
  exact h.strand

/-- What goes back to where bgStrand took it from, with its grant, keeps the invariant. -/
theorem State.Fits.putBg {u : State} {k : Nat} {p : Strand → Bool} {t : Strand} (h : s.Fits) (hu : u.Fits) (same : u.ending = s.ending)
    (grant : t.grant = (s.bgStrand k p).grant) : (u.putBg k p t).Fits := by
  unfold State.putBg
  split
  · exact hu
  · next none => exact hu.putStrand (grant ▸ h.bgStrand (by rw [← same]; exact Bool.eq_false_iff.mpr none))

/-! ### Saved strands -/

theorem Image.mapStrands_fit {i : Image} {f : Nat × Strand → Nat × Strand} (h : AllFit i.strands)
    (hf : ∀ {x}, x.2.grant.Fits → (f x).2.grant.Fits) : AllFit (i.mapStrands f).strands := by
  have mapped : AllFit (i.strands.map f) := by
    intro p hp
    obtain ⟨q, hq, rfl⟩ := List.mem_map.mp hp
    exact hf (h q hq)
  unfold Image.mapStrands
  dsimp only
  split
  · exact h
  · split <;> exact mapped

theorem State.Fits.mapStored {f : Nat × Strand → Nat × Strand} (h : s.Fits) (hf : ∀ {x}, x.2.grant.Fits → (f x).2.grant.Fits) :
    (s.mapStored f).Fits := by
  refine ⟨h.mem, h.st, h.others, fun g hg p hp => ?_, fun x hx i hi => ?_, fun i hi => ?_⟩
  · obtain ⟨g', hg', rfl⟩ := List.mem_map.mp hg
    obtain ⟨q, hq, rfl⟩ := List.mem_map.mp hp
    exact hf (h.groups g' hg' q hq)
  · obtain ⟨y, hy, rfl⟩ := Vector.mem_map.mp hx
    obtain ⟨j, rfl, rfl⟩ := Option.map_eq_some_iff.mp hi
    exact Image.mapStrands_fit (h.shadow _ hy j rfl) hf
  · obtain ⟨j, hj, rfl⟩ := List.mem_map.mp hi
    exact Image.mapStrands_fit (h.spill j hj) hf

theorem State.Fits.stored {x : Nat × Strand} (h : s.Fits) (hx : x ∈ s.stored) : x.2.grant.Fits := by
  unfold State.stored at hx
  simp only [List.mem_append, List.mem_flatMap, Vector.mem_toList_iff] at hx
  obtain (⟨g, hg, hx⟩ | ⟨o, ho, hx⟩) | ⟨i, hi, hx⟩ := hx
  · exact h.groups g hg x hx
  · cases o with
    | none => cases hx
    | some i => exact h.shadow _ ho i rfl x hx
  · exact h.spill i hi x hx

/-- What goes back to where cmdStrand took it from, with its grant, keeps the invariant. -/
theorem State.Fits.putCmd {k : Nat} {p : Strand → Bool} {t : Strand} (h : s.Fits) (grant : t.grant = (s.cmdStrand k p).grant) :
    (s.putCmd k p t).Fits := by
  unfold State.cmdStrand at grant
  unfold State.putCmd
  dsimp only at grant
  split at grant
  · next own => rw [if_pos own]; exact h.putBg h rfl grant
  · next other =>
    rw [if_neg other]
    have fits : t.grant.Fits := by
      split at grant
      · next found => rw [grant]; exact h.stored (List.mem_of_find?_eq_some found)
      · rw [grant]
        refine h.bgStrand (Bool.eq_false_iff.mpr fun some => other ?_)
        obtain ⟨x, found⟩ := Option.isSome_iff_exists.mp (List.find?_isSome.mpr (List.any_eq_true.mp some))
        have holds := List.find?_some found
        unfold State.bgStrand
        rw [found]
        simp only [Bool.and_eq_true] at holds
        exact holds.2
    exact h.mapStored fun hx => by split <;> assumption

/-! ### Copies -/

theorem VRes.Fits.issueCopy {e : Entry} {kind reg regs : Nat} {out : Bool}
    {via : State → BitVec 1024 → (TileDef → (State → State) → VRes) → VRes} (h : s.Fits)
    (hv : ∀ {u d k}, u.Fits → (∀ {t f}, (∀ {v : State}, v.Fits → (f v).Fits) → VRes.Fits (k t f)) → (via u d k).Fits) :
    VRes.Fits (s.issueCopy e kind out reg regs via) := by
  unfold State.issueCopy
  split
  · exact .stop (.trapCheck (.setVstart h))
  · refine .ite (.trap0 (.note h)) (hv (.note h) fun hf => ?_)
    dsimp only
    split
    · exact .ite (.stop (.note h)) (.stop (.trapAccess (.setVstart (.note h))))
    · exact .ite (.stop (.note h)) (.done (.mod (hf (.note h)) rfl))

theorem VRes.Fits.copyRegs {ok : State → BitVec 1024 → Bool} {x : BitVec 1024} {k : TileDef → (State → State) → VRes} (h : s.Fits)
    (hk : ∀ {t f}, (∀ {v : State}, v.Fits → (f v).Fits) → VRes.Fits (k t f)) : VRes.Fits (copyRegs ok s x k) :=
  .ite (hk id) (.trap0 h)

theorem VRes.Fits.cpyv {d : VReg} {a : SReg} {g : Fin 8} {r : Bool} {e : Entry} (h : s.Fits) : VRes.Fits (effCpyv d a g r e s) :=
  .issueCopy h fun hu hk => .copyRegs hu hk

theorem VRes.Fits.cpyx {d : VReg} {a : SReg} {r : Bool} {e : Entry} (h : s.Fits) : VRes.Fits (effCpyx d a r e s) :=
  .issueCopy h fun hu hk => .copyRegs hu hk

theorem VRes.Fits.cpyt {d : TReg} {a : SReg} {r : Bool} {e : Entry} (h : s.Fits) : VRes.Fits (effCpyt d a r e s) :=
  .issueCopy h fun hu hk => .withTile hu (.ite (hk fun hv => .setTile hv) (.trap0 hu))

/-- What an element of a copy leaves as it was: the strands that have ended, and the grant of its own. -/
theorem State.Fits.copyElem {u : State} {k : Nat} {t r : Strand} {c : Copy} {j : Nat} (h : s.Fits) (out : s.copyElem k t c j = .ok (u, r)) :
    u.Fits ∧ u.ending = s.ending ∧ r.grant = t.grant := by
  have note : ∀ {w a ls}, (s.note w a ls).ending = s.ending := by
    intro w a ls
    rw [State.note_spec s w a ls]
  have strand : ∀ {n f}, (s.modStrand n f).ending = s.ending := by
    intro n f
    unfold State.modStrand State.putStrand
    split <;> rfl
  unfold State.copyElem at out
  dsimp only at out
  split at out
  · generalize (if fld (copyCtl c.desc) 42 32 = k then t else s.strand (fld (copyCtl c.desc) 42 32)) = peer at out
    split at out
    · split at out
      · cases out; exact ⟨h, rfl, rfl⟩
      · split at out
        · cases out; exact ⟨h, rfl, rfl⟩
        · cases out; exact ⟨.modStrand h rfl, strand, rfl⟩
    · split at out <;> (cases out; exact ⟨h, rfl, rfl⟩)
  · split at out
    · split at out
      · cases out; exact ⟨h, rfl, rfl⟩
      · split at out
        · cases out; exact ⟨h, rfl, rfl⟩
        · cases out; exact ⟨.tileSet h, rfl, rfl⟩
    · split at out
      · cases out
      · split at out
        · cases out; exact ⟨.put (.note h), note, rfl⟩
        · split at out
          · cases out; exact ⟨.note h, note, rfl⟩
          · cases out; exact ⟨.tileSet (.note h), note, rfl⟩

theorem State.Fits.copyRun {k : Nat} {c : Copy} {n : Nat} : ∀ {t : Strand} {j : Nat} {s : State}, s.Fits →
    (s.copyRun k t c n j).1.Fits ∧ (s.copyRun k t c n j).1.ending = s.ending ∧ (s.copyRun k t c n j).2.1.grant = t.grant := by
  induction n with
  | zero => intro t j s h; exact ⟨h, rfl, rfl⟩
  | succ n ih =>
    intro t j s h
    unfold State.copyRun
    split
    · exact ⟨h, rfl, rfl⟩
    · next out =>
      obtain ⟨fits, same, grant⟩ := State.Fits.copyElem h out
      obtain ⟨fits', same', grant'⟩ := ih fits
      exact ⟨fits', same'.trans same, grant'.trans grant⟩

@[simp] theorem State.endTile_grant (s : State) (w : Who) (t : Strand) (c : Copy) (l : List Copy) :
    (s.endTile w t c l).grant = t.grant := by
  unfold State.endTile
  dsimp only
  split
  · rfl
  · split
    · rfl
    · split <;> rfl

theorem State.Fits.moveCopy {k i m : Nat} {f : Bool} (h : s.Fits) : (s.moveCopy k i m f).Fits := by
  unfold State.moveCopy
  dsimp only
  split
  · exact h
  · next c _ =>
    obtain ⟨fits, same, grant⟩ := State.Fits.copyRun (k := k) (c := c) (n := c.boundary m - c.done)
      (t := s.bgStrand k Strand.hasCopy) (j := c.done) h
    refine .ite h (.ite h (.ite (.putBg h fits same grant) ?_))
    split
    · exact .violation (.putBg h fits same ((State.endTile_grant ..).trans grant))
    · exact .putBg h fits same ((State.endTile_grant ..).trans grant)

theorem State.Fits.runCopy {k i : Nat} {f : Bool} (h : s.Fits) : (s.runCopy k i f).Fits := by
  unfold State.runCopy
  split
  · exact h
  · exact .moveCopy h

theorem State.Fits.endCopies {k : Nat} {p : Copy → Bool} {f : Bool} (h : s.Fits) : (s.endCopies k p f).Fits :=
  .foldl h fun hu => .runCopy hu

theorem Res.Fits.copyEnd {k : Nat} (h : s.Fits) : Res.Fits (execCopyEnd k s) := by
  refine .ite (.next h) ?_
  split
  · exact .next h
  · exact .next (.runCopy h)
  · exact .next (.runCopy (s := { s with freeCtr := s.freeCtr + 1 }) h)

/-! ### Pages of the Oasis kernel, and Playa commands -/

theorem State.Fits.fixPage {c : BitVec 16} {va : Nat} {t : State} (h : s.Fits) (out : s.fixPage c va = .mapped t) : t.Fits := by
  unfold State.fixPage at out
  split at out
  · split at out
    · cases out; exact h
    · split at out <;> cases out
  · cases out
  · split at out
    · cases out
    · dsimp only at out
      split at out
      · next mapped => cases out; exact .mapPage h mapped
      · cases out

/-- What becomes of a page fault: it waits, the access is made again, or it is not resolved. -/
theorem State.Fits.pageFix {c : BitVec 16} {va : Nat} {t : State} (h : s.Fits) (ht : t.Fits) :
    State.Fits (match s.fixPage c va with | .wait => s | .mapped u => u | .final => t) := by
  split
  · exact h
  · next out => exact .fixPage h out
  · exact ht

/-- A fold whose first part is a state. -/
theorem State.Fits.foldl₁ {α β : Type} {f : State × β → α → State × β} {l : List α} {u : State × β} (h : u.1.Fits)
    (hf : ∀ {v a}, v.1.Fits → (f v a).1.Fits) : (l.foldl f u).1.Fits := by
  induction l generalizing u with
  | nil => exact h
  | cons a l ih => exact ih (hf h)

theorem State.Fits.cmdLine {w : Who} {c : Cmd} {l : List Nat} (h : s.Fits) : (s.cmdLine w c l).1.Fits :=
  .foldl₁ h fun hu => .put (.put (.noteUpdate (.note hu)))

theorem State.Fits.notePairs {w : Who} {c : Cmd} {n : Nat} (h : s.Fits) : (s.notePairs w c n).Fits := by
  refine .ite h (.foldl h fun hu => ?_)
  dsimp only
  split
  · exact .note hu
  · exact hu

theorem State.Fits.cmdRun {w : Who} {c : Cmd} {n : Nat} (h : s.Fits) : (s.cmdRun w c n).1.Fits := by
  unfold State.cmdRun
  split
  · exact .scatter h
  · exact .foldl₁ h fun hu => .cmdLine hu

theorem State.Fits.endCmd {k i : Nat} {c : Cmd} {v : Word} (h : s.Fits) : (s.endCmd k i c v).Fits := .putCmd h rfl

theorem State.Fits.runCmdAt {k i : Nat} (h : s.Fits) : (s.runCmdAt k i).Fits := by
  unfold State.runCmdAt
  dsimp only
  split
  · exact h
  · split
    · exact .endCmd h
    · split
      · exact .endCmd (.cmdRun (.notePairs h))
      · exact .ite (.pageFix (.notePairs h) (.endCmd (.cmdRun (.notePairs h)))) (.ite (.ite (.notePairs h)
          (.violation (.endCmd (.cmdRun (.notePairs h))))) (.endCmd (.cmdRun (.notePairs h))))

theorem State.Fits.runCmds {k : Nat} (h : s.Fits) : (s.runCmds k).Fits := .foldl h fun hu => .runCmdAt hu

theorem Res.Fits.playaRow {o k : Nat} (h : s.Fits) : Res.Fits (s.playaRow o k) := by
  unfold State.playaRow
  split
  · exact .next h
  · exact .next (.runCmdAt h)
  · exact .next (.runCmdAt (s := { s with freeCtr := s.freeCtr + 1 }) h)

/-! ### Collectives -/

theorem State.Fits.withLink {l : Link} (h : s.Fits) : State.Fits { s with link := l } := h

theorem State.Fits.setColl {v : CollEnv} {c : Coll} (h : s.Fits) : (s.setColl v c).Fits := .putCmd h rfl

theorem State.Fits.endColl {v : CollEnv} {c : Coll} {n q : Nat} {p : Bool} (h : s.Fits) : (s.endColl v c n q p).Fits :=
  .setColl (.withLink h)

theorem State.Fits.abortColl {v : CollEnv} {c : Coll} {q : Nat} {p : Bool} (h : s.Fits) : (s.abortColl v c q p).Fits :=
  .endColl (.sendMembers h)

theorem State.Fits.collFault {v : CollEnv} {c : Coll} {p : Bool} {f : EFault} (h : s.Fits) : (s.collFault v c p f).Fits :=
  .ite (.pageFix h (.abortColl h)) (.ite (.ite h (.violation (.abortColl h))) (.abortColl h))

theorem State.Fits.leaveOne {c : BitVec 16} {g chip n : Nat} {told : Bool} (h : s.Fits) : (s.leaveOne c g chip n told).Fits :=
  .ite h (.ite (.sendLeave h) h)

theorem State.Fits.leaveGroup {c : BitVec 16} {g chip : Nat} {l : List Nat} (h : s.Fits) : (s.leaveGroup c g chip l).Fits :=
  .foldl (.foldl h fun hu => .leaveOne hu) fun hu => .leaveOne hu

theorem State.Fits.collDepart {v : CollEnv} {c : Coll} {l : List Nat} (h : s.Fits) : (s.collDepart v c l).Fits :=
  .foldl h fun hu => .leaveGroup hu

/-! The accesses of the collective engine have conditions on integer addresses, which the kernel would evaluate to compare a call with
the match that its definition begins with. So these definitions are unfolded as functions, not at their arguments, and what an access
answers is generalized before its match is split. -/

theorem State.Fits.noteRead {v : CollEnv} {ea n : Nat} (h : s.Fits) : (s.noteRead v ea n).Fits := by
  generalize body : State.noteRead = f
  delta State.noteRead at body
  subst body
  dsimp only
  split
  · exact .note h
  · exact h

theorem State.Fits.noteOwn {v : CollEnv} {c : Coll} {n : Nat} (h : s.Fits) : (s.noteOwn v c n).Fits := .noteRead h
theorem State.Fits.noteHeads {v : CollEnv} {c : Coll} (h : s.Fits) : (s.noteHeads v c).Fits := .ite (.noteRead (.noteRead h)) h

theorem State.Fits.sendValues {x : BitVec 16} {c : Coll} {ty mark chip ch w m : Nat} {vs : List Nat} (h : s.Fits) :
    (s.sendValues x c ty mark chip ch w m vs).Fits := .foldl h fun hu => .sendFlit hu

theorem State.Fits.sendWord {x : BitVec 16} {c : Coll} {chip : Nat} (h : s.Fits) : (s.sendWord x c chip).Fits := .sendFlit h

/-- Accesses that may fault, one after another: the state that stands where none does keeps the invariant. -/
theorem State.Fits.foldlOk {ε β : Type} {f : Except ε State → β → Except ε State} {l : List β} {x : Except ε State} {t : State}
    (hx : ∀ {u}, x = .ok u → u.Fits) (hf : ∀ {y n u}, (∀ {v}, y = .ok v → v.Fits) → f y n = .ok u → u.Fits)
    (out : l.foldl f x = .ok t) : t.Fits := by
  induction l generalizing x with
  | nil => exact hx out
  | cons a l ih => exact ih (hf hx) out

theorem State.Fits.collSend {v : CollEnv} {c : Coll} {t : State} (h : s.Fits) (out : s.collSend v c = .ok t) : t.Fits := by
  generalize body : State.collSend = f at out
  delta State.collSend at body
  subst body
  beta_reduce at out
  generalize s.ownValues v c = values at out
  have heads : (s.noteHeads v c).Fits := .noteHeads h
  generalize s.noteHeads v c = n at out heads
  have own : ∀ {u ch}, u.Fits → (State.noteOwn u v c ch).Fits := fun hu => .noteOwn hu
  extract_lets chs step at out
  generalize sent : chs.foldl step (.ok n) = r at out
  cases r with
  | error => cases out
  | ok u =>
    have fits : u.Fits := by
      refine .foldlOk (fun same => Except.ok.inj same ▸ heads) (fun {y ch w} hy same => ?_) sent
      dsimp only [step] at same
      cases y with
      | error => cases same
      | ok y =>
        generalize values ch = x at same
        cases x with
        | error => cases same
        | ok => exact Except.ok.inj same ▸ .sendValues (own (hy rfl))
    exact Except.ok.inj out ▸ .setColl (.foldl (u := { u with freeCtr := u.freeCtr + 1 }) fits fun hu => .sendWord hu)
theorem State.Fits.collWrite {v : CollEnv} {c : Coll} {ch bm : Nat} {vs : List Nat} {t : State} (h : s.Fits)
    (out : s.collWrite v c ch vs bm = .ok t) : t.Fits := by
  generalize body : State.collWrite = f at out
  delta State.collWrite at body
  subst body
  beta_reduce at out
  generalize s.engAccess v.w (v.at c c.w2 ch) (v.size * v.len c ch) .write v.size = values at out
  generalize s.engAccess v.w (v.bitmapAt c ch) 8 .write = marks at out
  generalize s.engAccess v.w (c.w2.toNat + 7) 1 .write = satr at out
  cases values with
  | error => cases out
  | ok =>
    cases marks with
    | error => cases out
    | ok =>
      dsimp only at out
      split at out
      · cases out; exact .lineStore (.lineStore h)
      · cases satr with
        | error => cases out
        | ok => cases out; exact .lineStore (.lineStore (.lineStore h))

/-- A chunk that can be written comes with a state that keeps the invariant. -/
theorem State.Fits.collReady {v : CollEnv} {c c' : Coll} {fs : List Flit} {ch bm : Nat} {u : State} {vs : List Nat} {own : Bool} (h : s.Fits)
    (out : s.collReady v c fs ch = .ok (some (u, c', vs, bm, own))) : u.Fits := by
  generalize body : State.collReady = f at out
  delta State.collReady at body
  subst body
  beta_reduce at out
  generalize s.ownValues v c ch = values at out
  have read : (s.noteOwn v c ch).Fits := .noteOwn h
  generalize s.noteOwn v c ch = r at out read
  extract_lets o left at out
  by_cases mine : o = v.rank
  · rw [if_pos mine] at out
    split at out
    · cases out
    · cases values with
      | error => cases out
      | ok =>
        dsimp only at out
        cases out; exact read
  · rw [if_neg mine] at out
    generalize gather fs 3 (v.ms.getD o 0) ch (8 * v.size) (v.len c ch) = result at out
    cases result with
    | none =>
      dsimp only at out
      split at out
      · cases out
      · cases values with
        | error => cases out
        | ok => cases out; exact read
    | some =>
      dsimp only at out
      cases out; exact h
/-- A recursion over a list keeps the invariant when each step does, whatever the calls on the rest of the list do. -/
theorem brecOn_fits
    {F : (l : List Nat) → List.below (motive := fun _ => State → Coll → State × Option Coll) l → State → Coll → State × Option Coll}
    (nil : ∀ {b s c}, s.Fits → (F [] b s c).1.Fits)
    (cons : ∀ {ch l b s c}, (∀ {s c}, s.Fits → (b.1 s c).1.Fits) → s.Fits → (F (ch :: l) b s c).1.Fits) :
    ∀ {l : List Nat} {s : State} {c : Coll}, s.Fits →
      (List.brecOn (motive := fun _ => State → Coll → State × Option Coll) l F s c).1.Fits := by
  intro l
  induction l with
  | nil => intro s c h; exact nil h
  | cons ch l ih => intro s c h; exact cons ih h

/-- The equations of collChunks compare such matches as well, so its recursion is unfolded with the accesses held opaque. -/
theorem State.Fits.collChunks {v : CollEnv} {p : Bool} {l : List Nat} {c : Coll} (h : s.Fits) : (s.collChunks v p l c).1.Fits := by
  have ready : ∀ {s u : State} {c c' : Coll} {fs ch vs bm own}, s.Fits →
      s.collReady v c fs ch = .ok (some (u, c', vs, bm, own)) → u.Fits := fun h out => .collReady h out
  have write : ∀ {s t : State} {c ch vs bm}, s.Fits → s.collWrite v c ch vs bm = .ok t → t.Fits := fun h out => .collWrite h out
  have fault : ∀ {s : State} {c f}, s.Fits → (s.collFault v c p f).Fits := fun h => .collFault h
  obtain ⟨r, hr⟩ : ∃ r, @State.collReady = r := ⟨_, rfl⟩
  obtain ⟨w, hw⟩ : ∃ r, @State.collWrite = r := ⟨_, rfl⟩
  obtain ⟨f, hf⟩ : ∃ r, @State.collFault = r := ⟨_, rfl⟩
  delta State.collChunks
  refine brecOn_fits id ?_ h
  generalize body : State.collChunks._f = F
  delta State.collChunks._f at body
  rw [hr, hw, hf] at body
  rw [hr] at ready
  rw [hw] at write
  rw [hf] at fault
  subst body
  intro ch l b s c hb h
  change State.Fits (Prod.fst (if _ then _ else _))
  split
  · exact hb h
  · dsimp only
    split
    · exact fault h
    · exact hb h
    · next read =>
      split
      · exact fault h
      · next written =>
        have next := write (ready h read) written
        exact hb (.setColl (.ite (.foldl next fun hu => .sendValues hu) next))

theorem State.Fits.stepColl {k : Nat} (h : s.Fits) : (s.stepColl k).Fits := by
  unfold State.stepColl
  dsimp only
  split
  · exact h
  · refine .ite h (.ite (.endColl h) ?_)
    split
    · exact .endColl h
    · split
      · exact .collFault h
      · exact .abortColl h
      · refine .ite (.collDepart h) (.ite (.ite h ?_) (.ite (.abortColl h) (.ite h (.collChunks h))))
        split
        · exact .collFault h
        · next sent => exact .collSend h sent

theorem State.Fits.completeColl {k : Nat} (h : s.Fits) : (s.completeColl k).Fits := by
  unfold State.completeColl
  dsimp only
  split
  · exact h
  · split
    · exact h
    · exact h
    · refine .ite h (.ite (.endColl h) ?_)
      split
      · exact .endColl (.lineStore h)
      · exact .ite (.pageFix h (.endColl h)) (.ite (.ite h (.violation (.endColl h))) (.endColl h))

theorem Res.Fits.collRow {o k : Nat} (h : s.Fits) : Res.Fits (s.collRow o k) := by
  unfold State.collRow
  split
  · exact .next h
  · exact .ite (.next (.stepColl h)) (.next h)

/-! ### Streams, and background work as a whole -/

theorem State.Fits.iterate {f : State → State} {n : Nat} : ∀ {s : State}, s.Fits → (∀ {u : State}, u.Fits → (f u).Fits) →
    (iterate f n s).Fits := by
  induction n with
  | zero => intro s h _; exact h
  | succ n ih => intro s h hf; exact ih (hf h) hf

theorem State.Fits.performWord {k n : Nat} {f : Bool} (h : s.Fits) : (State.performWord k n f s).Fits := by
  unfold State.performWord
  dsimp only
  split
  · exact h
  · refine .ite h ?_
    split
    · refine .putBg h (.put (.note h)) ?_ rfl
      rw [State.put_ending, State.note_spec s]
    · exact .ite (.ite h (.putBg h (.violation h) rfl rfl)) (.putBg h h rfl rfl)

theorem State.Fits.pumpPort {k n : Nat} (h : s.Fits) : (s.pumpPort k n).Fits := .iterate h fun hu => .performWord hu

theorem State.Fits.pumpStreams {k : Nat} {f : Bool} (h : s.Fits) : (s.pumpStreams k f).Fits :=
  .iterate h fun hu => .foldl hu fun hv => .performWord hv

theorem State.Fits.fetchFrom {k n m : Nat} : ∀ {j : Nat} {s : State}, s.Fits → (s.fetchFrom k n m j).Fits := by
  induction m with
  | zero => intro j s h; exact h
  | succ m ih =>
    intro j s h
    refine .ite (ih h) ?_
    dsimp only
    split
    · exact ih (.modStrand (.note h) rfl)
    · exact .ite (.ite h (.modStrand (.violation h) rfl)) (.modStrand h rfl)

theorem Res.Fits.streamFetch {k : Nat} {p : OSlot} (h : s.Fits) : Res.Fits (execStreamFetch k p s) :=
  .ite (.next (.pumpPort h)) (.ite (.next h) (.ite (.next (.fetchFrom h)) (.next h)))

theorem State.Fits.settleAccesses {k : Nat} {f : Bool} (h : s.Fits) : (s.settleAccesses k f).Fits := .pumpStreams (.endCopies h)

theorem State.Fits.work {k : Nat} (h : s.Fits) : (s.work k).Fits :=
  .iterate (.iterate (.settleAccesses h) fun hu => .runCmds hu) fun hu => .completeColl (.stepColl hu)

end

end Sys2Proof.Machine
end

section
/-! PROOFS. The family of the vector forms (07): every step keeps the invariant (O59). The vector queue: the meaning of an entry by its
form, delivery, commit, and the arbiter. -/

namespace Sys2Proof.Machine

open Sys2Proof.Safety

section
variable {s : State} {e : Entry}

/-! ### The meaning of an entry -/

theorem VRes.Fits.barv {d a : SReg} (h : s.Fits) : VRes.Fits (effBarv d a e s) := by
  have worked : (s.work s.slot).Fits := .work h
  unfold effBarv
  generalize s.work s.slot = u at worked
  dsimp only
  split
  · exact .stop worked
  · split
    · exact .trap0 worked
    · exact .ite (.trap0 worked) (.done (.setVstart (.arriveAt worked)))

/-! The shared forms are named one by one: an entry's meaning unfolds to them at once. -/

section
variable {d a : VReg} {b : BSrc} {m x : MReg}

theorem VRes.Fits.vint {w : IW} {f : Nat → Nat → Nat → Nat → Nat × Cls} (h : s.Fits) : VRes.Fits (s.vint e d a b m x w f) := by
  unfold State.vint
  exact .elementwise h

theorem VRes.Fits.vwide {w : IW} (h : s.Fits) : VRes.Fits (s.vwide e d a b m w) := by
  unfold State.vwide
  exact .elementwise h

theorem VRes.Fits.vnarrow {w : IW} (h : s.Fits) : VRes.Fits (s.vnarrow e d a b m x w) := by
  unfold State.vnarrow
  exact .elementwise h

theorem VRes.Fits.vfloat {f : FF} {g : FP → RM → Nat → Nat → Nat → Nat × Cls} (h : s.Fits) :
    VRes.Fits (s.vfloat e d a b m x f g) := by
  unfold State.vfloat
  exact .elementwise h

theorem VRes.Fits.vfloat1 {f : FF} {g : FP → RM → Nat → Nat × Cls} (h : s.Fits) : VRes.Fits (s.vfloat1 e d a m x f g) := by
  unfold State.vfloat1
  exact .elementwise h

theorem VRes.Fits.vmove {l : List VReg} {o : Bool} {f : VecFile → Nat → Nat} (h : s.Fits) : VRes.Fits (s.vmove e d l o m f) := by
  unfold State.vmove
  exact .elementwise h

theorem VRes.Fits.vcmp {w : IW} {f : Nat → Nat → Nat → Bool} (h : s.Fits) : VRes.Fits (s.vcmp e x a b m w f) := by
  unfold State.vcmp
  exact .maskwise h

theorem VRes.Fits.maskLogic {f : VecFile → Nat → Bool} (h : s.Fits) : VRes.Fits (s.maskLogic e m f) := by
  unfold State.maskLogic
  exact .maskwise h

end

theorem VRes.Fits.issue {i : Instr} (h : s.Fits) : VRes.Fits (issue i e s) := by
  delta Machine.issue
  cases i with
  | vadd | vsub | vrsub | vmul | vmulh | vmacc | vmerge | vand | vor | vxor | vsll | vsrl | vsra | vmin | vmax | vminn | vmaxn | vsadd
  | vssub | vdiv | vrem | vaddVx | vsubVx | vrsubVx | vmulVx | vmulhVx | vmaccVx | vmergeVx | vandVx | vorVx | vxorVx | vsllVx | vsrlVx
  | vsraVx | vminVx | vmaxVx | vminnVx | vmaxnVx | vsaddVx | vssubVx | vdivVx | vremVx => exact .vint h
  | vwmacc | vwmaccVx => exact .vwide h
  | vnsra | vnsraVx => exact .vnarrow h
  | vfadd | vfsub | vfmul | vfdiv | vfmin | vfmax | vfaddVx | vfsubVx | vfmulVx | vfdivVx | vfminVx | vfmaxVx | vfma | vfnma | vfmaVx
  | vfnmaVx => exact .vfloat h
  | vfsqrt | vfclass | vfrece | vfrsqe | vfexp2 | vflog2 | vftanh | vfsigm => exact .vfloat1 h
  | vexpand | viota | vid | vbcast | vslideup | vslidedn => exact .vmove h
  | vcvt | vpack | vunpk => exact .elementwise h
  | vcmpEq | vcmpNe | vcmpLt | vcmpLe | vcmpLtn | vcmpLen | vcmpEqVx | vcmpNeVx | vcmpLtVx | vcmpLeVx | vcmpLtnVx | vcmpLenVx =>
    exact .vcmp h
  | vfcmpEq | vfcmpLt | vfcmpLe | vfcmpUn => exact .maskwise h
  | mand | mor | mxor | mnot => exact .maskLogic h
  | vredsum | vredmax | vredmin | vfredosum => exact .vreduce h
  | vscan | vfscan => exact .vscanForm h
  | vfredsum | vfredmax => exact .vtree h
  | mpopc | mfirst => exact .done (.setVstart h)
  | vbq => exact .vbq h
  | vbdq => exact .vbdq h
  | vhad => exact .vhad h
  | vrng => exact .vrng h
  | vgather => exact .vgather h
  | vcompress => exact .vcompress h
  | vmvx => exact .vmvx h
  | vrds => exact .vrds h
  | vld | vlds | vldx => exact .vload h
  | vst | vsts | vstx => exact .vstore h
  | vldg => exact .vldg h
  | vstg => exact .vstg h
  | vldt => exact .vldt h
  | vstt => exact .vstt h
  | vamoSwap | vamoAdd | vamoAnd | vamoOr | vamoXor | vamoMin | vamoMax => exact .vamo h
  | vwait => exact .vwait h
  | vscadd => exact .vscadd h
  | setvlf => exact .setvlf h
  | setshape => exact .setshape h
  | tdef => exact .tdef h
  | ttag => exact .ttag h
  | tgtag => exact .tgtag h
  | tstat => exact .tstat h
  | twait => exact .twait h
  | mclaim => exact .mclaim h
  | mrels => exact .mrels h
  | mlds => exact .mlds h
  | mrow => exact .mrow h
  | mtile => exact .mtile h
  | macr => exact .macr h
  | macw => exact .macw h
  | macz => exact .macz h
  | cpyv => exact .cpyv h
  | cpyx => exact .cpyx h
  | cpyt => exact .cpyt h
  | barv => exact .barv h
  | skinit => exact .skinit h
  | skupd => exact .skupd h
  | skqry => exact .skqry h
  | skadd => exact .skadd h
  | skscl => exact .skscl h
  | setls => exact .setls h
  | _ => exact .stop h

/-! ### Interlocks, completion and delivery -/

theorem State.Fits.interlock (h : s.Fits) : (s.interlock e).Fits := by
  have moved : ∀ {l : List Nat} {f : Copy → Nat}, (l.foldl (fun x i => match s.st.copies[i]? with
      | some c => x.moveCopy s.slot i (f c)
      | none => x) s).Fits := by
    intro l f
    refine .foldl h fun hu => ?_
    split
    · exact .moveCopy hu
    · exact hu
  unfold State.interlock
  dsimp only
  split
  · exact moved
  · exact .endCopies moved

@[simp] theorem Strand.receive_grant (t : Strand) (p : SyncRead) (v : Word) : (t.receive p v).grant = t.grant := Strand.setR_grant ..

@[simp] theorem Strand.dropStatus_grant (t : Strand) (n : Nat) : (t.dropStatus n).grant = t.grant := by
  unfold Strand.dropStatus
  split
  · rfl
  · split <;> rfl

@[simp] theorem Strand.finishEntry_grant (t : Strand) (e : Entry) (v : Option Word) : (t.finishEntry e v).grant = t.grant := by
  unfold Strand.finishEntry
  dsimp only
  split
  · rfl
  · simp

theorem State.Fits.deliverReads {n : Nat} : ∀ {s : State}, s.Fits → (s.deliverReads n).Fits := by
  induction n with
  | zero => intro s h; exact h
  | succ n ih =>
    intro s h
    unfold State.deliverReads
    split
    · exact h
    · split
      · exact h
      · exact ih (.mod h (Strand.receive_grant ..))
      · exact ih (.mod h (by simp))

theorem State.Fits.headStep (h : s.Fits) : s.headStep.1.Fits := by
  unfold State.headStep
  split
  · exact h
  · split
    · exact h
    · next e _ _ =>
      have ready : (State.deliverReads 8 ((if e.instr.releases then s.work s.slot else s).interlock e)).Fits :=
        .deliverReads (.interlock (.ite (.work h) h))
      dsimp only
      generalize State.deliverReads 8 ((if e.instr.releases then s.work s.slot else s).interlock e) = u at ready
      split
      · exact ready
      · have issued := VRes.Fits.issue (i := e.instr) (e := e) ready
        split
        · next out => rw [out] at issued; exact issued.of_stop
        · next out =>
          rw [out] at issued
          exact .enterClaim (.deliverReads (.mod issued.of_done (Strand.finishEntry_grant ..)))

theorem State.Fits.drainN {n : Nat} : ∀ {s : State}, s.Fits → (s.drainN n).Fits := by
  induction n with
  | zero => intro s h; exact h
  | succ n ih =>
    intro s h
    have step := State.Fits.headStep h
    unfold State.drainN
    split
    · next out => rw [out] at step; exact ih step
    · next out => rw [out] at step; exact step

theorem State.Fits.drain (h : s.Fits) : s.drain.Fits := .deliverReads (.ite (.drainN h) (.ite (.headStep h) h))

theorem State.Fits.partHead {n : Nat} (h : s.Fits) : (s.partHead n).Fits := by
  unfold State.partHead
  split
  · exact h
  · exact .ite h (.mod (.headStep (.mod h rfl)) rfl)

/-! ### Commit -/

/-- The grant that SETVLF starts has VLMAX of its own vector type. -/
theorem Strand.commitGrant_fits {t : Strand} {i : Instr} (h : t.grant.Fits) : (t.commitGrant i).grant.Fits := by
  unfold Strand.commitGrant
  split
  · exact Nat.le_refl _
  · exact h

theorem State.Fits.commit {i : Instr} (h : s.Fits) : (s.commit i).Fits := by
  have late : (if i.releases || i.isBarv then s.flushLate s.slot else s).Fits := .ite (.flushLate h) h
  refine .enterClaim (.mod (.withSt late (Strand.commitGrant_fits late.st)) ?_)
  dsimp only
  split <;> rfl

theorem Res.Fits.vectorStream {i : Instr} (h : s.Fits) : Res.Fits (s.vectorStream i) :=
  .ite (.next (.trap h)) (.ite (.next (.drain h)) (.next (.drain (.commit h))))

theorem Res.Fits.afterEntries {k : State → Res} (h : s.Fits) (hk : ∀ {u}, u.Fits → (k u).Fits) : Res.Fits (s.afterEntries k) :=
  .ite (hk (.drain h)) (.next (.drain h))

end

end Sys2Proof.Machine
end

section
/-! PROOFS. The family of the vector forms (07): every step keeps the invariant (O59). Requests about contexts and pages: images, the swap,
release, and the system context's forms. -/

namespace Sys2Proof.Machine

open Sys2Proof.Safety

section
variable {s : State}

/-! ### Requests -/

theorem State.Fits.complete {q : Req} {c n : Nat} {l : List (Nat × Nat)} (h : s.Fits) : (s.complete q c n l).Fits := .report h

theorem Res.Fits.request {k : State → State} (h : s.Fits) (hk : ∀ {u : State}, u.Fits → (k u).Fits) : Res.Fits (s.request k) :=
  .ite (.next h) (.ite (.next (hk h)) (.ite (.next h) (.next h)))

theorem Res.Fits.ctxRequest {q : Req} {n : Nat} {l : List (Nat × Nat)} {k : State → Context → State} (h : s.Fits)
    (hk : ∀ {u : State} {x}, u.Fits → (k u x).Fits) : Res.Fits (s.ctxRequest q n l k) := by
  refine .request h fun hu => .ite (.complete hu) ?_
  split
  · exact .complete hu
  · exact .ite (.complete hu) (hk hu)

theorem Res.Fits.unassignedRequest {q : Req} (h : s.Fits) : Res.Fits (execUnassignedRequest q s) := .request h fun hu => .complete hu

theorem State.Fits.enterLogged {c : BitVec 16} {t : CtxSt} {r : Report} (h : s.Fits) : (s.enterLogged c t r).Fits :=
  .ite (.report (.modCtx h)) h

/-! ### Halting -/

theorem State.Fits.haltCtx {c : BitVec 16} (h : s.Fits) : (s.haltCtx c).Fits :=
  .modCtx (.foldl h fun hu => .modStrand (.unparkPop (.flushLate hu)) (Strand.stopped_grant _))

theorem State.Fits.unhaltCtx {c : BitVec 16} (h : s.Fits) : (s.unhaltCtx c).Fits :=
  .modCtx (.foldl h fun hu => .modStrand hu rfl)

/-! ### Images -/

/-- A change of shadow slots whose images hold strands that one stood there with. -/
theorem ShadowFit.map {v : Vector (Option Image) 8} {f : Option Image → Option Image} (h : ShadowFit v)
    (hf : ∀ {o i}, f o = some i → ∃ j, o = some j ∧ i.strands = j.strands) : ShadowFit (v.map f) := by
  intro x hx i hi
  obtain ⟨o, ho, rfl⟩ := Vector.mem_map.mp hx
  obtain ⟨j, rfl, same⟩ := hf hi
  rw [same]; exact h _ ho j rfl

/-- Shadow slots without the images of a context. -/
theorem ShadowFit.without {v : Vector (Option Image) 8} {c : BitVec 16} (h : ShadowFit v) :
    ShadowFit (v.map fun (o : Option Image) => match o with | some i => if i.ctx = c then none else some i | none => none) :=
  h.map fun {o i} hi => by
    cases o with
    | none => cases hi
    | some j =>
      dsimp only at hi
      split at hi
      · cases hi
      · exact ⟨j, rfl, by rw [Option.some.inj hi]⟩

theorem ShadowFit.set {v : Vector (Option Image) 8} {i : Image} {k : Nat} {hk : k < 8} (h : ShadowFit v) (hi : AllFit i.strands) :
    ShadowFit (v.set k (some i)) := by
  intro x hx j hj
  obtain hx | rfl := Vector.mem_or_eq_of_mem_set hx
  · exact h x hx j hj
  · cases hj; exact hi

theorem ImagesFit.filter {l : List Image} {f : Image → Bool} (h : ImagesFit l) : ImagesFit (l.filter f) :=
  fun i hi => h i (List.mem_of_mem_filter hi)

theorem GroupsFit.map {l : List (Nat × Group)} {f : Nat × Group → Nat × Group} (h : GroupsFit l)
    (hf : ∀ {p}, (f p).2.saved = p.2.saved) : GroupsFit (l.map f) := by
  intro p hp
  obtain ⟨q, hq, rfl⟩ := List.mem_map.mp hp
  rw [hf]; exact h q hq

theorem State.Fits.imageOf {c : BitVec 16} {n : Nat} (h : s.Fits) : AllFit (s.imageOf c n).strands := by
  intro p hp
  obtain ⟨k, _, rfl⟩ := List.mem_map.mp hp
  exact h.strand

theorem wf_filter_cells {m : List Host.Cell} {f : Host.Cell → Bool} (h : Memory.wf m = true) : Memory.wf (m.filter f) = true :=
  wf_filter f h

theorem State.Fits.clearCluster {n : Nat} (h : s.Fits) : (s.clearCluster n).Fits := by
  have cleared : ((s.liveSlots.filter fun k => clusterOf k = n).foldl (fun x k => x.putStrand k .empty) s).Fits :=
    .foldl h fun hu => .putStrand hu Grant.fits_empty
  unfold State.clearCluster
  generalize (s.liveSlots.filter fun k => clusterOf k = n).foldl (fun x k => x.putStrand k .empty) s = u at cleared
  refine ⟨wf_filter_cells cleared.mem, cleared.st, cleared.others, cleared.groups.map fun {p} => ?_, cleared.shadow, cleared.spill⟩
  split <;> rfl

theorem State.Fits.withImages {v : Vector (Option Image) 8} {l : List Image} (h : s.Fits) (hv : ShadowFit v) (hl : ImagesFit l) :
    State.Fits { s with shadow := v, spill := l } := ⟨h.mem, h.st, h.others, h.groups, hv, hl⟩

theorem State.Fits.writeImage {c : BitVec 16} {b : Bool} {n : Nat} (h : s.Fits) : (s.writeImage c b n).Fits := by
  have image : AllFit (s.imageOf c n).strands := State.Fits.imageOf h
  have cleared : (s.clearCluster n).Fits := .clearCluster h
  unfold State.writeImage
  generalize s.clearCluster n = u at cleared
  dsimp only
  split
  · exact .withImages cleared (.set cleared.shadow image) cleared.spill
  · exact .withImages cleared cleared.shadow (List.forall_mem_cons.mpr ⟨image, cleared.spill⟩)

theorem State.Fits.leaveClusters {c : BitVec 16} {x : Context} {b : Bool} (h : s.Fits) : (s.leaveClusters c x b).Fits :=
  .foldl (.foldl (.haltCtx h) fun hu => .settleAccesses hu) fun hu => .writeImage hu

theorem Res.Fits.swapOut {q : Req} (h : s.Fits) : Res.Fits (execSwapOut q s) :=
  .ctxRequest h fun hu => .ite (.complete hu) (.complete (.modCtx (.leaveClusters hu)))

/-- A fold of writes to memory. -/
theorem wf_foldl {α : Type} {f : List Host.Cell → α → List Host.Cell} {l : List α} {m : List Host.Cell} (h : Memory.wf m = true)
    (hf : ∀ {m a}, Memory.wf m = true → Memory.wf (f m a) = true) : Memory.wf (l.foldl f m) = true := by
  induction l generalizing m with
  | nil => exact h
  | cons a l ih => exact ih (hf h)

theorem State.Fits.spillGrants' {c : BitVec 16} {x : Context} (h : s.Fits) : (s.spillGrants' c x).Fits :=
  .modCtx ⟨wf_foldl h.mem fun hm => wf_clear _ _ hm, h.2⟩

theorem State.Fits.shadowImages {c : BitVec 16} (h : s.Fits) : ImagesFit (s.shadowImages c) := by
  intro i hi
  obtain ⟨o, ho, found⟩ := List.mem_filterMap.mp hi
  cases o with
  | none => cases found
  | some j =>
    dsimp only at found
    split at found
    · cases found; exact h.shadow _ (Vector.mem_toList_iff.mp ho) i rfl
    · cases found

theorem Res.Fits.save {q : Req} (h : s.Fits) : Res.Fits (execSave q s) := by
  refine .ctxRequest h fun {u x} hu => .ite (.complete hu) (.complete (.modCtx (.spillGrants' ?_)))
  have left : (if x.st = .running then u.leaveClusters q.ctx x false else u).Fits := .ite (.leaveClusters hu) hu
  generalize (if x.st = .running then u.leaveClusters q.ctx x false else u) = v at left
  exact .withImages left left.shadow.without (List.forall_mem_append.mpr ⟨State.Fits.shadowImages left, left.spill⟩)

theorem State.Fits.foldlMem {α : Type} {f : State → α → State} {l : List α} {u : State} (h : u.Fits)
    (hf : ∀ {v a}, a ∈ l → v.Fits → (f v a).Fits) : (l.foldl f u).Fits := by
  induction l generalizing u with
  | nil => exact h
  | cons a l ih => exact ih (hf List.mem_cons_self h) fun ha => hf (List.mem_cons_of_mem _ ha)

theorem State.Fits.readImage {i : Image} (h : s.Fits) (hi : AllFit i.strands) : (s.readImage i).Fits := by
  have placed : (i.strands.foldl (fun y p => y.putStrand p.1 p.2) (s.clearCluster i.cluster)).Fits :=
    .foldlMem (.clearCluster h) fun hp hu => .putStrand hu (hi _ hp)
  unfold State.readImage
  dsimp only
  generalize i.strands.foldl (fun y p => y.putStrand p.1 p.2) (s.clearCluster i.cluster) = u at placed
  refine ⟨wf_paste _ placed.mem, placed.st, placed.others, placed.groups.map fun {p} => ?_, placed.shadow, placed.spill⟩
  split <;> rfl

theorem State.Fits.readGrants {c : BitVec 16} {g : Vector (Nat × Nat) 4} (h : s.Fits) : (s.readGrants c g).Fits :=
  .modCtx ⟨wf_foldl h.mem fun hm => wf_writeList _ _ hm, h.2⟩

theorem State.Fits.imagesOf {c : BitVec 16} (h : s.Fits) : ImagesFit (s.imagesOf c) :=
  List.forall_mem_append.mpr ⟨State.Fits.shadowImages h, h.spill.filter⟩

theorem State.Fits.comeBack {c : BitVec 16} {g : Vector (Nat × Nat) 4} (h : s.Fits) : (s.comeBack c g).Fits := by
  have back : ((s.imagesOf c).foldl State.readImage (if s.platesOut c.toNat then s.readGrants c g else s)).Fits :=
    .foldlMem (.ite (.readGrants h) h) fun hi hu => .readImage hu (State.Fits.imagesOf h _ hi)
  unfold State.comeBack
  dsimp only
  generalize (s.imagesOf c).foldl State.readImage (if s.platesOut c.toNat then s.readGrants c g else s) = u at back
  exact .enterClaims (.readmit (.unhaltCtx (.modCtx (.withImages back back.shadow.without back.spill.filter))))

theorem State.Fits.damageImage {c : BitVec 16} {n : Nat} (h : s.Fits) : (s.damageImage c n).Fits := by
  refine .withImages h (h.shadow.map fun {o i} hi => ?_) fun i hi => ?_
  · obtain ⟨j, rfl, rfl⟩ := Option.map_eq_some_iff.mp hi
    exact ⟨j, rfl, by split <;> rfl⟩
  · obtain ⟨j, hj, rfl⟩ := List.mem_map.mp hi
    split
    · exact h.spill j hj
    · exact h.spill j hj

/-! ### Release and creation -/

theorem State.Fits.auditUnit {c : BitVec 16} {u : ScrubUnit} (h : s.Fits) : (s.auditUnit c u).Fits := by
  unfold State.auditUnit
  dsimp only
  exact .ite (.audit h) h

theorem State.Fits.scrubCtx {c : BitVec 16} {x : Context} (h : s.Fits) : (s.scrubCtx c x).Fits := by
  have cleared : (if x.st = .running then (clustersOf x.clu).foldl State.clearCluster s else s).Fits :=
    .ite (.foldl h fun hu => .clearCluster hu) h
  unfold State.scrubCtx
  generalize (if x.st = .running then (clustersOf x.clu).foldl State.clearCluster s else s) = u at cleared
  refine ⟨?_, cleared.st, cleared.others, cleared.groups.filter, cleared.shadow.without, cleared.spill.filter⟩
  dsimp only
  split
  · exact cleared.mem
  · exact wf_foldl cleared.mem fun hm => wf_clear _ _ hm

theorem State.Fits.detachObjs {c : BitVec 16} (h : s.Fits) : (s.detachObjs c).Fits := h

theorem State.Fits.announceLeave {c : BitVec 16} (h : s.Fits) : (s.announceLeave c).Fits := .foldl h fun hu => .sendLeave hu

theorem State.Fits.release {c : BitVec 16} {x : Context} (h : s.Fits) : (s.release c x).Fits :=
  .enterLogged (.settleObjs (.modCtx (.audit (.foldl (.modCtx (.detachObjs (.scrubCtx (.announceLeave h)))) fun hu => .auditUnit hu))))

theorem State.Fits.endCtx {c : BitVec 16} {n : Nat} (h : s.Fits) : (s.endCtx c n).Fits := by
  unfold State.endCtx
  split
  · exact h
  · exact .release (.audit h)

theorem State.Fits.dropCopies {n : Nat} (h : s.Fits) : (s.dropCopies n).Fits := h

theorem State.Fits.cleanClusters {c : BitVec 32} (h : s.Fits) : (s.cleanClusters c).Fits :=
  .foldl h fun hu => .auditUnit (.dropCopies (.clearCluster hu))

theorem Res.Fits.createContext {q : Req} (h : s.Fits) : Res.Fits (execCreateContext q s) := by
  refine .request h fun {u} hu => ?_
  split
  · exact .complete hu
  · next b _ =>
    refine .ite (.complete hu) (.ite (.complete hu) ?_)
    have clean : (u.cleanClusters (BitVec.ofNat 32 (numAt b 0 4))).Fits := .cleanClusters hu
    generalize u.cleanClusters (BitVec.ofNat 32 (numAt b 0 4)) = v at clean
    refine .ite (.complete clean) ?_
    split
    · exact .complete clean
    · split
      · exact .complete clean
      · refine .ite (.complete clean) (.enterLogged (.audit ?_))
        exact State.Fits.kalloc clean

theorem Res.Fits.groupAdmission {c : BitVec 16} (h : s.Fits) : Res.Fits (execGroupAdmission c s) := by
  unfold execGroupAdmission
  split
  · exact .next h
  · next x _ =>
    refine .ite (.next h) ?_
    have clean : (if x.st = .loading then s.cleanClusters x.clu else s).Fits := .ite (.cleanClusters h) h
    generalize (if x.st = .loading then s.cleanClusters x.clu else s) = u at clean
    dsimp only
    split
    · exact .next clean
    · split
      · exact .next clean
      · next admitted =>
        refine .next (.settleObjs (.modCtx (.noteAdmission ?_)))
        cases direct : u.tryAdmit c _ with
        | some v =>
          rw [direct] at admitted
          exact Option.some.inj admitted ▸ .tryAdmit clean direct
        | none =>
          rw [direct] at admitted
          exact .admitOver clean admitted

theorem State.Fits.badImage {c : BitVec 16} {i : Image} (h : s.Fits) : (s.badImage c i).Fits :=
  .endCtx (.audit (s := { s with freeCtr := s.freeCtr + 1 }) h)

theorem Res.Fits.resume {q : Req} (h : s.Fits) : Res.Fits (execResume q s) := by
  refine .ctxRequest h fun {u x} hu => .ite (.ite (.complete (.unhaltCtx hu)) (.complete hu)) (.ite (.complete hu) (.ite (.complete hu) ?_))
  have clean : (u.cleanClusters x.clu).Fits := .cleanClusters hu
  generalize u.cleanClusters x.clu = v at clean
  refine .ite (.complete clean) ?_
  split
  · exact .complete clean
  · split
    · exact .badImage (.complete clean)
    · exact .complete (.comeBack clean)

theorem Res.Fits.releaseContext {q : Req} (h : s.Fits) : Res.Fits (execReleaseContext q s) :=
  .ctxRequest h fun hu => .ite (.complete hu) (.release (.complete hu))

/-! ### Apertures and pages -/

theorem Res.Fits.bindAperture {q : Req} (h : s.Fits) : Res.Fits (execBindAperture q s) := by
  refine .ctxRequest h fun {u _} hu => ?_
  have bound : ∀ {a}, State.Fits { u with host := a } := hu
  dsimp only
  split
  · exact .ite (.ite (.complete hu) (.complete bound)) (.ite (.complete bound) (.complete hu))
  · exact .complete hu

theorem State.Fits.afterMove {o : State} {c : BitVec 16} (h : s.Fits) : (s.afterMove o c).Fits :=
  .foldl h fun hu => .ite hu (.modStrand hu rfl)

theorem Res.Fits.map {q : Req} (h : s.Fits) : Res.Fits (execMap q s) := by
  refine .ctxRequest h fun hu => .ite (.complete hu) (.ite (.complete hu) (.ite hu ?_))
  split
  · exact .complete hu
  · next mapped => exact .complete (.afterMove (.mapPages (.unmapPages hu) mapped))

theorem Res.Fits.unmap {q : Req} (h : s.Fits) : Res.Fits (execUnmap q s) :=
  .ctxRequest h fun hu => .ite (.complete hu) (.ite (.complete hu) (.ite hu (.complete (.afterMove (.unmapPages hu)))))

theorem Res.Fits.demandFilledRange {q : Req} (h : s.Fits) : Res.Fits (execDemandFilledRange q s) :=
  .ctxRequest h fun hu => .ite (.complete hu) (.ite (.complete hu) (.complete (.modCtx hu)))

theorem State.Fits.endMove {c : BitVec 16} {va size : Nat} {e : Word} {t : State} (h : s.Fits) (out : s.endMove c va e size = some t) :
    t.Fits := by
  obtain ⟨⟨u, f⟩, taken, rfl⟩ := Option.map_eq_some_iff.mp out
  have fits := State.Fits.takeFrames h taken
  exact .afterMove (.freeFrames (.setEntry (.withMem fits (wf_paste _ fits.mem))))

theorem Res.Fits.pageMigration {c : BitVec 16} {va : BitVec 56} (h : s.Fits) : Res.Fits (execPageMigration c va s) := by
  unfold execPageMigration
  split
  · refine .next (.ite h (.ite (.ite h (.startMove h)) (.ite h (.ite (.invalidate h) ?_))))
    cases moved : s.endMove c va.toNat _ _ with
    | none => exact h
    | some t => exact .endMove h moved
  · exact .next h

theorem State.Fits.finishHeld {x : Held} (h : s.Fits) : (s.finishHeld x).Fits := by
  cases x with
  | row => exact h
  | enter => exact .report (.modCtx h)
  | tell => exact .report h

/-! ### Forms of the system context -/

theorem Res.Fits.whenLogged {k : State → Res} (h : s.Fits) (hk : ∀ {u : State}, u.Fits → (k u).Fits) : Res.Fits (s.whenLogged k) :=
  .ite (.next h) (hk h)

theorem Res.Fits.privileged {k : State → Res} (h : s.Fits) (hk : ∀ {u : State}, u.Fits → (k u).Fits) : Res.Fits (s.privileged k) :=
  .ite (.raise h) (hk h)

theorem Res.Fits.ctxhalt {d a : SReg} (h : s.Fits) : Res.Fits (execCtxhalt d a s) := by
  refine .privileged h fun hu => .ite (.raise hu) ?_
  split
  · exact .raise hu
  · exact .ite (.raise hu) (.ite (.result hu) (.result (.haltCtx hu)))

theorem Res.Fits.scrubForm {d a b : SReg} (h : s.Fits) : Res.Fits (s.scrubForm d a b) := by
  refine .privileged h fun {u} hu => ?_
  have verdict : ∀ {v : State} {c x n}, v.Fits → Res.Fits (u.whenLogged fun _ => (v.auditUnit c x).result d n) := fun hv =>
    .whenLogged hu fun _ => .result (.auditUnit hv)
  dsimp only
  split
  · split
    · exact .ite (.raise hu) (verdict (.dropCopies (.clearCluster hu)))
    · exact .raise hu
  · split
    · exact .ite (.raise hu) (verdict hu)
    · exact .raise hu
  · split
    · exact .ite (.raise hu) (verdict hu)
    · exact .raise hu
  · exact .raise hu

theorem State.Fits.withCaches {k : Caches} (h : s.Fits) : State.Fits { s with caches := k } := h

theorem Res.Fits.waysetForm {d a b : SReg} (h : s.Fits) : Res.Fits (s.waysetForm d a b) := by
  refine .privileged h fun {u} hu => ?_
  dsimp only
  split
  · exact .raise hu
  · exact .ite (.raise hu) (.ite (.ite (.raise hu) (.result (.withCaches hu))) (.ite (.raise hu) (.result hu)))

theorem Res.Fits.ptctlForm {d a b : SReg} (h : s.Fits) : Res.Fits (s.ptctlForm d a b) := by
  refine .privileged h fun {u} hu => .ite (.raise hu) ?_
  split
  · exact .ite (.raise hu) (.ite (.next hu) (.result (.withCaches (.modCtx hu))))
  · exact .ite (.raise hu) (.ite (.next hu) (.result (.withCaches hu)))
  · exact .ite (.raise hu) (.ite (.next hu) (.result (.withCaches hu)))
  · exact .ite (.raise hu) (.result hu)

theorem fits_serviceStrand {k : Nat} {pc : BitVec 56} : (serviceStrand s k pc).grant.Fits := Nat.zero_le _

theorem State.Fits.servicePages {root n : Nat} : ∀ {va pa : Nat} {s : State}, s.Fits → (s.servicePages root va pa n).Fits := by
  induction n with
  | zero => intro va pa s h; exact h
  | succ n ih => intro va pa s h; exact ih (.setLeaf h)

theorem State.Fits.writeText {k : Caches} {l : List Nat} {a : Nat} {b : List Byte} (h : s.Fits) :
    State.Fits { s with mem := Memory.writeList s.mem a b, caches := k, soiled := l } := ⟨wf_writeList _ _ h.mem, h.2⟩

theorem State.Fits.startService {k : Nat} {pc : BitVec 56} {l : List Byte} (h : s.Fits) : (s.startService k pc l).Fits := by
  unfold State.startService
  dsimp only
  refine .ite h ?_
  split
  · exact .putStrand (.writeText (.servicePages (.modCtx (.kalloc h)))) fits_serviceStrand
  · exact .putStrand (.writeText (.servicePages (.modCtx (.kalloc (.kalloc h))))) fits_serviceStrand

end

end Sys2Proof.Machine
end

section
/-! PROOFS. The family of the vector forms (07): every step keeps the invariant (O59). Requests about code objects, launches and queues. -/

namespace Sys2Proof.Machine

open Sys2Proof.Safety

section
variable {s : State}

/-! ### Code objects -/

theorem State.Fits.fillBytes {c : BitVec 16} {l : List Byte} : ∀ {va : Nat} {s : State}, s.Fits → (s.fillBytes c va l).Fits := by
  induction l with
  | nil => intro va s h; exact h
  | cons b l ih =>
    intro va s h
    unfold State.fillBytes
    split
    · exact ih (.withMem h (wf_set _ _ h.mem))
    · exact ih h

theorem State.Fits.mapObject {c : BitVec 16} {o : Obj} {l : List Byte} {t : State} (h : s.Fits) (out : s.mapObject c o l = some t) :
    t.Fits := by
  unfold State.mapObject at out
  split at out
  · cases out
  · next text =>
    split at out
    · cases out
    · next tables =>
      split at out
      · cases out
      · next data => cases out; exact .fillBytes (.fillBytes (.mapPages (.mapPages (.mapPages h text) tables) data))

/-- A change of the code objects. -/
theorem State.Fits.withObjs {l : List Obj} {n : Nat} (h : s.Fits) : State.Fits { s with objs := l, nextHandle := n } := h

theorem Res.Fits.kernelRequest {q : Req} {n : Nat} {l : List (Nat × Nat)} {k : State → Context → State} (h : s.Fits)
    (hk : ∀ {u : State} {x}, u.Fits → (k u x).Fits) : Res.Fits (s.kernelRequest q n l k) := by
  refine .request h fun hu => .ite (.complete hu) ?_
  split
  · exact .complete hu
  · exact .ite (.complete hu) (hk hu)

theorem State.Fits.completeLogged {q : Req} {c n o : Nat} {l : List (Nat × Nat)} (h : s.Fits) : (s.completeLogged q c n l o).Fits :=
  .reportLogged h

theorem Res.Fits.load {q : Req} (h : s.Fits) : Res.Fits (execLoad q s) := by
  refine .kernelRequest h fun {u _} hu => ?_
  have refused : ∀ {n c t l b}, ((u.audit n c b).completeLogged q 0x30 t l).Fits := .completeLogged (.audit hu)
  split
  · exact .complete hu
  · extract_lets hash refuse
    split
    · exact refused
    · extract_lets f
      refine .ite refused (.ite refused ?_)
      split
      split
      · exact refused
      · split
        split
        · exact refused
        · next mapped => exact .completeLogged (.audit (.audit (.withObjs (.mapObject hu mapped))))

theorem Res.Fits.unload {q : Req} (h : s.Fits) : Res.Fits (execUnload q s) := by
  refine .kernelRequest h fun hu => ?_
  split
  · exact .complete hu
  · exact .ite (.complete hu) (.ite (.complete (.withObjs hu)) (.complete (.unloadObj hu)))

theorem State.Fits.killCtx {c : BitVec 16} {n : Nat} (h : s.Fits) : (s.killCtx c n).Fits := .endCtx (.report h)

theorem Res.Fits.forceUnload {q : Req} (h : s.Fits) : Res.Fits (execForceUnload q s) := by
  refine .kernelRequest h fun {u _} hu => ?_
  split
  · exact .complete hu
  · next o _ =>
    have killed : ((u.holdersOf o).foldl (fun y c => y.killCtx c 0x31) (u.audit 0x0008 q.ctx [(0, o.handle)])).Fits :=
      .foldl (.audit hu) fun hv => .killCtx hv
    dsimp only
    split
    · exact .completeLogged (.unloadObj killed)
    · exact .completeLogged killed

theorem Res.Fits.attach {q : Req} (h : s.Fits) : Res.Fits (execAttach q s) := by
  refine .kernelRequest h fun {u _} hu => ?_
  dsimp only
  split
  · refine .ite (.complete hu) (.ite (.complete hu) (.ite (.complete hu) ?_))
    split
    · exact .complete hu
    · next mapped => exact .complete (.withObjs (State.Fits.mapObject hu mapped))
  · exact .complete hu

theorem Res.Fits.launch {q : Req} (h : s.Fits) : Res.Fits (execLaunch q s) := by
  refine .kernelRequest h fun {u x} hu => ?_
  have launched : ∀ {l}, State.Fits { u with launches := l } := hu
  split
  · exact .complete hu
  · refine .ite (.complete hu) ?_
    split
    · exact .complete hu
    · refine .ite (.complete hu) ?_
      split
      · exact .complete hu
      · exact .ite (.complete hu) (.ite (.complete hu) (.complete (.modCtx launched)))

/-! ### Queues -/

/-- A change of the queues and of what is left of those destroyed. -/
theorem State.Fits.withQueues {l g : List Queue} (h : s.Fits) : State.Fits { s with queues := l, graves := g } := h

theorem Res.Fits.createQueue {q : Req} (h : s.Fits) : Res.Fits (execCreateQueue q s) := by
  refine .ctxRequest h fun {u x} hu => .ite (.complete hu) (.ite (.complete hu) (.ite (.complete hu) ?_))
  split
  · next mapped =>
    refine .complete (.withQueues (.foldl (.mapPages hu mapped) fun hv => ?_))
    split
    · exact .put hv
    · exact hv
  · exact .complete hu

theorem Res.Fits.sealQueue {q : Req} (h : s.Fits) : Res.Fits (execSealQueue q s) := by
  refine .ctxRequest h fun {u x} hu => ?_
  split
  · exact .complete hu
  · exact .ite (.complete hu) (.complete (.serve (.setQueue hu)))

theorem Res.Fits.destroyQueue {q : Req} (h : s.Fits) : Res.Fits (execDestroyQueue q s) := by
  refine .ctxRequest h fun {u x} hu => ?_
  split
  · exact .complete hu
  · exact .complete (.withQueues (.foldl hu fun hv => .finishPop hv))

end

end Sys2Proof.Machine
end

section
/-! PROOFS. The family of the vector forms (07): every step keeps the invariant (O59). Scalar forms, system forms and ports. -/

namespace Sys2Proof.Machine

open Sys2Proof.Safety

section
variable {s : State}

/-! ### Environment rows of the core -/

theorem Res.Fits.laneGroupBind {n : Nat} (h : s.Fits) : Res.Fits (execLaneGroupBind n s) :=
  .next (.focus (.foldl (.foldl h fun hu => .ite hu (.modStrand hu rfl)) fun hu => .headStep (.focus hu)))

theorem Res.Fits.monitorWake {k : Nat} (h : s.Fits) : Res.Fits (execMonitorWake k s) := by
  unfold execMonitorWake
  dsimp only
  split
  · exact .next (.focus (.headStep (.focus h)))
  · exact .next h

theorem Res.Fits.l1iLineFill {n : Nat} {c : BitVec 16} {va : BitVec 56} (h : s.Fits) : Res.Fits (execL1iLineFill n c va s) :=
  .next (.fillLine h)

/-! ### Registers, branches and memory -/

theorem Res.Fits.alu {d a b : SReg} {n : Nat} {f : Word → Word → Word} (h : s.Fits) : Res.Fits (s.alu d a b n f) := .result h

theorem Res.Fits.aluImm {d a : SReg} {n v : Nat} {f : Word → Word → Word} (h : s.Fits) : Res.Fits (s.aluImm d a n v f) := .result h

theorem Res.Fits.branch {c : Bool} {i : BitVec 13} (h : s.Fits) : Res.Fits (s.branch c i) := .next (.ite (.jump h) (.advance h))

theorem Res.Fits.jalr {d a : SReg} {i : BitVec 16} (h : s.Fits) : Res.Fits (execJalr d a i s) := by
  unfold execJalr
  dsimp only
  split
  · exact .raise h
  · exact .next (.jump (.setR h))

theorem State.Fits.settled {l : List Nat} (h : s.Fits) : (s.settled l).Fits := .ite (.flushLate h) h

theorem State.Fits.accept {l : List Nat} {v : Nat} (h : s.Fits) : (s.accept l v).Fits := .ite (.mod h rfl) (.storeNow (.settled h))

theorem Res.Fits.ld {d a : SReg} {w : LW} {i : BitVec 14} (h : s.Fits) : Res.Fits (execLd d a w i s) :=
  .scalarAccess h fun hu => .result (.settled hu)

theorem Res.Fits.ldn {d a : SReg} {w : LW} {i : BitVec 14} (h : s.Fits) : Res.Fits (execLdn d a w i s) :=
  .scalarAccess h fun hu => .result (.settled hu)

theorem Res.Fits.st {d a : SReg} {w : LW} {i : BitVec 14} (h : s.Fits) : Res.Fits (execSt d a w i s) :=
  .scalarAccess h fun hu => .next (.advance (.accept hu))

theorem Res.Fits.atomic {d b : SReg} {w : MW} {f : Nat → Option Nat} (h : s.Fits) : Res.Fits (s.atomic d b w f) := by
  refine .scalarAccess h fun hu => .result ?_
  split
  · exact .storeNow hu
  · exact .l2Lines hu

theorem Res.Fits.amo {d a b : SReg} {w : MW} {o : AmoOp} (h : s.Fits) : Res.Fits (s.amo d a b w o) := .atomic h

/-! ### Floating point -/

theorem Res.Fits.floatResult {d : SReg} {x : Nat × Cls} {n : Nat} (h : s.Fits) : Res.Fits (s.floatResult d x n) := .scalarResult h

theorem Res.Fits.fcmp {d a b : SReg} {r : FRel} (h : s.Fits) : Res.Fits (s.fcmp d a b r) := .scalarResult h

/-! ### Control registers -/

theorem State.Fits.csrPut {c : Csr} {v : Word} (h : s.Fits) : (s.csrPut c v).Fits := by
  unfold State.csrPut
  split
  · exact .modCsr h
  · exact .modCsr h
  · exact .modCsr h
  · exact .modCsr h
  · exact .modCsr h
  · exact .modCsr h
  · exact .modCsr h
  · exact .modTrap h
  · exact .modTrap h
  · exact .modTrap h
  · exact h

theorem Res.Fits.csrr {d : SReg} {n : Csr} (h : s.Fits) : Res.Fits (execCsrr d n s) :=
  .ite (.ite (.next (.drain (.mod h rfl))) (.next (.drain h))) (.result h)

theorem Res.Fits.csrWrite {a : SReg} {n : Csr} {f : Word → Word → Word} (h : s.Fits) : Res.Fits (s.csrWrite a n f) := by
  have put : ∀ {u : State}, u.Fits → Res.Fits (.next (u.csrPut n (f (u.csrVal n) (u.r a))).advance) :=
    fun hu => .next (.advance (.csrPut hu))
  exact .ite (.raise h) (.ite (.afterEntries h put) (put h))

/-! ### Waits -/

theorem Res.Fits.afterAccesses {k : State → Res} (h : s.Fits) (hk : ∀ {u}, u.Fits → (k u).Fits) : Res.Fits (s.afterAccesses k) :=
  .afterEntries h fun hu =>
    have settled := .ite (.work hu) (.settleAccesses hu)
    .ite (hk settled) (.next settled)

theorem Res.Fits.afterAll {k : State → Res} (h : s.Fits) (hk : ∀ {u}, u.Fits → (k u).Fits) : Res.Fits (s.afterAll k) :=
  .afterEntries h fun hu => .ite (hk (.work hu)) (.next (.work hu))

/-! ### System forms -/

theorem Res.Fits.syscChipNumber {d : SReg} (h : s.Fits) : Res.Fits (execSyscChipNumber d s) := .afterAll h fun hu => .result hu

theorem Res.Fits.syscSend {d : SReg} (h : s.Fits) : Res.Fits (execSyscSend d s) :=
  .afterAll h fun hu => .ite (.result (.report hu)) (.result hu)

theorem Res.Fits.syscMembership {d : SReg} (h : s.Fits) : Res.Fits (execSyscMembership d s) := by
  refine .afterAll h fun hu => ?_
  split
  · exact .result hu
  · exact .result hu

theorem Res.Fits.unofferedSyscService {d : SReg} {i : BitVec 17} (h : s.Fits) : Res.Fits (execUnofferedSyscService d i s) :=
  .afterAll h fun hu => .result hu

theorem Res.Fits.rett (h : s.Fits) : Res.Fits (execRett s) := .ite (.next (.mod h rfl)) (.raise h)

theorem State.Fits.endStrand (h : s.Fits) : s.endStrand.Fits := .settleObjs (.finishGroup (.removeStrand h))

theorem Res.Fits.exit (h : s.Fits) : Res.Fits (execExit s) :=
  .ite (.next (.endStrand h)) (.afterAccesses h fun hu => .next (.endStrand hu))

theorem Res.Fits.fence {c : Scope} {k : BitVec 8} (h : s.Fits) : Res.Fits (execFence c k s) := by
  have settled : ∀ {p q : Prop} {_ : Decidable p} {_ : Decidable q},
      (if p then s.drain.work s.drain.slot else if q then s.drain.settleAccesses s.drain.slot else s.drain).Fits :=
    .ite (.work (.drain h)) (.ite (.settleAccesses (.drain h)) (.drain h))
  exact .ite (.next settled) (.ite (.next settled) (.next (.advance settled)))

theorem Res.Fits.vfence (h : s.Fits) : Res.Fits (execVfence s) := .afterEntries h fun hu => .next (.advance hu)

/-- What SETVL grants is at most VLMAX (R124, R125). -/
theorem grantLen_le {w : EW} {vt : BitVec 5} {avl : Nat} : grantLen w vt avl ≤ vlmax vt := by
  have least : Nat.min avl (vlmax vt) ≤ vlmax vt := Nat.min_le_right ..
  unfold grantLen
  dsimp only
  split
  · omega
  · exact least

theorem Res.Fits.setvl {d a : SReg} {g : Grp} {w : EW} (h : s.Fits) : Res.Fits (execSetvl d a g w s) :=
  .result (.withSt h grantLen_le)

theorem Res.Fits.clh {c : BitVec 26} (h : s.Fits) : Res.Fits (execClh c s) := .ite (.raise h) (.next (.mod h rfl))

theorem Res.Fits.barw {d a : SReg} (h : s.Fits) : Res.Fits (execBarw d a s) := by
  unfold execBarw
  split
  · split
    · exact .raise h
    · exact .next (.mod h (Strand.pastBar_grant ..))
  · refine .afterAll h fun hu => ?_
    split
    · exact .raise hu
    · exact .ite (.raise hu) (.ite (.next (.advance (.setR (.arriveAt hu)))) (.next (.mod (.setR (.arriveAt hu)) rfl)))

theorem Res.Fits.rngck {a : SReg} (h : s.Fits) : Res.Fits (execRngck a s) :=
  .afterEntries h fun hu => .scalarAccess hu fun hv => .next (.advance (.storeNow hv))

theorem Res.Fits.rngrs {a : SReg} (h : s.Fits) : Res.Fits (execRngrs a s) :=
  .afterEntries h fun hu => .scalarAccess hu fun hv => .ite (.raise hv) (.next (.advance (.mod hv rfl)))

/-! ### Ports -/

theorem Res.Fits.raiseWfault {n : Nat} {a : Word} (h : s.Fits) : Res.Fits (s.raiseWfault n a) := .raise (.modStream h)

theorem Res.Fits.pushStream {p : Nat} {l : List Word} (h : s.Fits) : Res.Fits (s.pushStream p l) :=
  .ite (.raise h) (.ite (.next (.settleAccesses (.drain h))) (.next (.advance (.mod (.modStream h) rfl))))

theorem State.Fits.newColl {a b c d : Word} (h : s.Fits) : (s.newColl a b c d).Fits := .ite (.mod h rfl) (.mod (.modCtx h) rfl)

theorem Res.Fits.push {d : Port} {a : SReg} {n : Fin 8} (h : s.Fits) : Res.Fits (execPush d a n s) := by
  have busy : (s.drain.work s.slot).Fits := .work (.drain h)
  refine .ite (.pushStream h) ?_
  split
  · exact .ite (.next busy) (.next (.advance (.mod h rfl)))
  · exact .ite (.next busy) (.next (.advance (.mod (.newColl h) rfl)))
  · exact .raise h

theorem Res.Fits.popStream {d : SReg} {p : Nat} (h : s.Fits) : Res.Fits (s.popStream d p) := by
  refine .ite (.raise h) ?_
  split
  · exact .result (.modStream h)
  · exact .ite (.raise h) (.ite (.raise h) (.scalarAccess h fun hu => .result (.modStream hu)))

theorem Res.Fits.popStatus {d : SReg} {p : Nat} (h : s.Fits) : Res.Fits (s.popStatus d p) := by
  unfold State.popStatus
  dsimp only
  split
  · exact .raise h
  · split
    · exact .result (.mod h (Strand.dropStatus_grant ..))
    · exact .ite (.next (.mod h rfl)) (.next (.work (.drain h)))

theorem Res.Fits.pop {d : SReg} {a : Port} (h : s.Fits) : Res.Fits (execPop d a s) := by
  unfold execPop
  split
  · exact .raiseWfault h
  · exact .ite (.popStream h) (.popStatus h)

theorem Res.Fits.strcfg {d : OSlot} {a : SReg} (h : s.Fits) : Res.Fits (execStrcfg d a s) :=
  .ite (.raise h) (.scalarAccess h fun hu =>
    .ite (.raise hu) (.ite (.next (.advance (.modStream hu))) (.next (.settleAccesses (.drain hu)))))

theorem Res.Fits.strbar {i : BitVec 17} (h : s.Fits) : Res.Fits (execStrbar i s) := by
  refine .ite (.raise h) ?_
  split
  · exact .raiseWfault h
  · extract_lets k
    have judged : ∀ {u : State}, u.Fits → Res.Fits (k u) := by
      intro u hu
      unfold k
      dsimp only
      split
      · exact .raiseWfault hu
      · exact .ite (.next (.advance (.mod hu rfl))) (.next (.settleAccesses (.drain hu)))
    exact .ite (.afterEntries h fun hu => judged (.settleAccesses hu)) (judged h)

end

end Sys2Proof.Machine
end

section
/-! PROOFS. The family of the vector forms (07): every step keeps the invariant (O59). Flits and ports, what the host does, the Oasis
kernel's service, and the package. -/

namespace Sys2Proof.Machine

open Sys2Proof.Safety

section
variable {s : State}

/-! ### Flits -/

theorem State.Fits.keepFlit {f : Flit} (h : s.Fits) : (s.keepFlit f).Fits := by
  unfold State.keepFlit
  dsimp only
  split
  · exact .withLink h
  · exact .ite (.ite (.sendFlit h) h) (.ite h (.ite (.withLink h) (.ite (.ite (.sendLeave (.withLink h)) (.withLink h))
      (.foldl (.ite (.sendLeave (.withLink h)) (.withLink h)) fun hu => .leaveOne hu))))

theorem State.Fits.deliverFlit {p : Nat} {f : Flit} (h : s.Fits) : (s.deliverFlit p f).Fits :=
  .ite (.modPort h) (.ite (.sendFlit h) (.keepFlit h))

theorem State.Fits.acceptFlit {p : Nat} {f : Flit} (h : s.Fits) : (s.acceptFlit p f).Fits := .deliverFlit (.modPort h)

theorem State.Fits.acceptHeld {p n : Nat} : ∀ {s : State}, s.Fits → (State.acceptHeld p n s).Fits := by
  induction n with
  | zero => intro s h; exact h
  | succ n ih =>
    intro s h
    unfold State.acceptHeld
    dsimp only
    split
    · exact h
    · exact ih (.acceptFlit h)

theorem State.Fits.receiveFlit {p : Nat} {f : Flit} (h : s.Fits) : (s.receiveFlit p f).Fits :=
  .ite h (.ite (.acceptHeld (.acceptFlit h)) (.ite (.modPort h) (.ite h (.modPort h))))

theorem Res.Fits.flitRow {t : Nat → Bool} {p : OSlot} {f : Flit} (h : s.Fits) : Res.Fits (s.flitRow t p f) :=
  .next (.ite (.receiveFlit h) h)

theorem State.Fits.ackArrives {p : Nat} {f : Flit} (h : s.Fits) : (s.ackArrives p f).Fits := .ite (.modPort h) h

theorem State.Fits.nackArrives {p : Nat} {f : Flit} (h : s.Fits) : (s.nackArrives p f).Fits := .ite (.modPort h) h

/-! ### Port states -/

theorem State.Fits.portTo {p n : Nat} {x : PortSt} (h : s.Fits) : (s.portTo p x n).Fits := .report (.modPort h)

theorem Res.Fits.portTrainingDone {p : OSlot} {n : Nat} (h : s.Fits) : Res.Fits (execPortTrainingDone p n s) :=
  .ite (.next h) (.next (.ite (.portTo (.modPort h)) (.ite (.portTo (.modPort h)) (.portTo h))))

theorem State.Fits.loseColl {p : Nat} {f : Flit} (h : s.Fits) : (s.loseColl p f).Fits := by
  unfold State.loseColl
  dsimp only
  split
  · exact .leaveGroup h
  · exact .leaveGroup h
  · exact .foldl h fun hu => .sendFlit hu

theorem State.Fits.departCutOff (h : s.Fits) : s.departCutOff.Fits := by
  unfold State.departCutOff
  exact .foldl h fun hu => .foldl hu fun hv => .foldl hv fun hw => .leaveGroup hw

theorem State.Fits.lastingLink {p : Nat} (h : s.Fits) : (s.lastingLink p).Fits :=
  .ite h (.departCutOff (.foldl (.portTo (.modPort h)) fun hu => .loseColl hu))

theorem State.Fits.flitFails {p : Nat} {n : BitVec 16} (h : s.Fits) : (s.flitFails p n).Fits :=
  .ite h (.ite (.lastingLink h) (.modPort h))

/-! The kernel would evaluate the CRC to compare a call of this function with the match it begins with, so it is unfolded as a function. -/

theorem State.Fits.wireArrives {p : Nat} {x : BitVec 2048} (h : s.Fits) : (s.wireArrives p x).Fits := by
  generalize body : State.wireArrives = w
  delta State.wireArrives at body
  subst body
  beta_reduce
  generalize flitOfImage x = o
  cases o
  · exact .flitFails h
  · exact .ite h (.ite (.ackArrives h) (.ite (.nackArrives h) (.receiveFlit h)))

/-! ### Requests about links and collective groups -/

theorem Res.Fits.defineCollectiveGroup {q : Req} (h : s.Fits) : Res.Fits (execDefineCollectiveGroup q s) := by
  refine .ctxRequest h fun hu => ?_
  dsimp only
  split
  · exact .complete hu
  · exact .ite (.complete hu) (.ite (.complete hu) (.complete (.modCtx hu)))

theorem Res.Fits.linkRequest {q : Req} {n : Nat} {k : State → Nat → State} (h : s.Fits) (hk : ∀ {u : State} {p}, u.Fits → (k u p).Fits) :
    Res.Fits (s.linkRequest q n k) := .request h fun hu => .ite (.complete hu) (hk hu)

theorem Res.Fits.setChipNumber {q : Req} (h : s.Fits) : Res.Fits (execSetChipNumber q s) :=
  .linkRequest h fun hu => .complete (.withLink hu)

theorem Res.Fits.enablePort {q : Req} (h : s.Fits) : Res.Fits (execEnablePort q s) :=
  .linkRequest h fun hu => .ite (.portTo (.complete hu)) (.complete hu)

theorem Res.Fits.disablePort {q : Req} (h : s.Fits) : Res.Fits (execDisablePort q s) :=
  .linkRequest h fun hu => .ite (.portTo (.complete hu)) (.complete hu)

theorem Res.Fits.retrainPort {q : Req} (h : s.Fits) : Res.Fits (execRetrainPort q s) :=
  .linkRequest h fun hu => .ite (.portTo (.complete hu)) (.complete hu)

theorem Res.Fits.readPortCounters {q : Req} (h : s.Fits) : Res.Fits (execReadPortCounters q s) := .linkRequest h fun hu => .complete hu

theorem Res.Fits.setRoute {q : Req} (h : s.Fits) : Res.Fits (execSetRoute q s) := .linkRequest h fun hu => .complete (.withLink hu)

/-! ### What the host does -/

/-- A change of the host's side. -/
theorem State.Fits.withHost {x : HostLink} (h : s.Fits) : State.Fits { s with host := x } := h

/-- A free choice more has been made. -/
theorem State.Fits.withFree {n : Nat} (h : s.Fits) : State.Fits { s with freeCtr := n } := h

theorem State.Fits.hostFault {c : BitVec 16} {va n : Nat} {k : Acc} (h : s.Fits) : (s.hostFault c va k n).Fits := .report h

theorem Res.Fits.hostMemoryWrite {p : OSlot} {n : Nat} {l : List Byte} (h : s.Fits) : Res.Fits (execHostMemoryWrite p n l s) := by
  refine .ite (.next h) ?_
  split
  · exact .next (.lineStore h)
  · exact .next (.hostFault (.withFree h))

theorem Res.Fits.hostMemoryRead {p : OSlot} {n m : Nat} (h : s.Fits) : Res.Fits (execHostMemoryRead p n m s) := by
  refine .ite (.next h) ?_
  split
  · exact .next (.withHost (.l2Lines h))
  · exact .next (.withHost (.hostFault (.withFree h)))

theorem Res.Fits.taskRecordAppend {n : Nat} {l : List Byte} (h : s.Fits) : Res.Fits (execTaskRecordAppend n l s) := by
  refine .ite (.next h) ?_
  split
  · exact .next h
  · exact .ite (.next (.serve (.setQueue h))) (.next (.setQueue h))

theorem State.Fits.reportRead {r : Report} (h : s.Fits) : (s.reportRead r).Fits := .ite h h

theorem State.Fits.writeHead {v : BitVec 32} (h : s.Fits) : (s.writeHead v).Fits :=
  .ite (.withHost h) (.foldl (.withHost h) fun hu => .reportRead hu)

theorem Res.Fits.hostRegisterWrite {n : Nat} {v : Word} (h : s.Fits) : Res.Fits (execHostRegisterWrite n v s) := by
  refine .ite (.next h) (.next ?_)
  split
  · exact .withHost h
  · exact .withHost h
  · exact .writeHead h
  · exact .withHost h
  · exact h

theorem Res.Fits.reportRingWrite (h : s.Fits) : Res.Fits (execReportRingWrite s) := by
  unfold execReportRingWrite
  split
  · exact .next h
  · exact .ite (.next h) (.next (.withHost h))

theorem State.Fits.hostReadsBar {n : Nat} (h : s.Fits) : (s.hostReadsBar n).Fits := by
  refine .ite h (.ite (.withHost h) (.ite ?_ h))
  split
  · exact .withHost h
  · exact .withHost h
  · exact .withHost h

/-! ### The Oasis kernel's service -/

theorem State.Fits.resumeFault {k : Nat} (h : s.Fits) : (s.resumeFault k).Fits := by
  unfold State.resumeFault
  dsimp only
  split
  · split
    · exact .ite (.putStrand (t := { s.strand k with stat := .running }) h (State.Fits.strand (k := k) h)) h
    · exact h
  · exact h

theorem Res.Fits.oasisFaultService {k : Nat} (h : s.Fits) : Res.Fits (execOasisFaultService k s) := by
  unfold execOasisFaultService
  dsimp only
  split
  · split
    · next fixed =>
      split at fixed
      · cases fixed
      · exact .next (.foldl (.fixPage h fixed) fun hu => .resumeFault hu)
    · exact .next h
    · exact .next (.failStrand h)
  · exact .next h

theorem Res.Fits.preemption {k : Nat} (h : s.Fits) : Res.Fits (execPreemption k s) := by
  unfold execPreemption
  dsimp only
  split
  · exact .ite (.next (.preemptGroup h)) (.next h)
  · exact .next h

/-! ### Boot and the audit log -/

/-- A change of Hamada and of the package. -/
theorem State.Fits.withHamada {x : Hamada} {p : Package} (h : s.Fits) : State.Fits { s with hamada := x, pkg := p } := h

theorem Res.Fits.measuredBoot {a b : Option BootImage} (h : s.Fits) : Res.Fits (execMeasuredBoot a b s) := by
  refine .ite (.next h) ?_
  split
  · exact .next (.withHamada h)
  · exact .next (.withHamada h)

theorem State.Fits.startHamada (h : s.Fits) : s.startHamada.Fits := .ite h h

theorem State.Fits.writeNvme {n : Fin 2} (h : s.Fits) : (s.writeNvme n).Fits := .ite h h

theorem Res.Fits.auditForm {d a b : SReg} (h : s.Fits) : Res.Fits (s.auditForm d a b) := by
  refine .privileged h fun {u} hu => ?_
  have answered : ∀ {v : State} {x : Hamada} {r : Word}, v.Fits → Res.Fits (State.result { v with hamada := x } d r) :=
    fun hv => .result (.withHamada hv)
  refine .ite (.raise hu) ?_
  split
  · exact .scalarAccess hu fun hv => .ite (.result hv) (answered hv)
  · exact .ite (.raise hu) (.ite (.result hu) (answered hu))
  · split
    · exact .raise hu
    · exact answered hu
  · exact .scalarAccess hu fun hv => .ite (.result hv) (answered hv)

/-! ### Reset, bring-up, power and temperature -/

/-- No image stands in a shadow slot. -/
theorem shadowFit_none : ShadowFit (Vector.replicate 8 none) := by
  intro x hx i hi
  obtain ⟨-, rfl⟩ := Vector.mem_replicate.mp hx
  cases hi

theorem ShadowFit.clear {v : Vector (Option Image) 8} {k : Nat} {hk : k < 8} (h : ShadowFit v) : ShadowFit (v.set k none) := by
  intro x hx i hi
  obtain hx | rfl := Vector.mem_or_eq_of_mem_set hx
  · exact h x hx i hi
  · cases hi

theorem State.fits_reset : State.reset.Fits := ⟨wf_reset, Grant.fits_empty, allFit_nil, nofun, shadowFit_none, nofun⟩

theorem State.fits_cold {b : Bool} : (s.cold b).Fits := State.fits_reset

theorem State.Fits.bringUpUnit {u : ScrubUnit} (h : s.Fits) : (s.bringUpUnit u).Fits := by
  refine .auditUnit ?_
  split
  · exact .dropCopies (.clearCluster h)
  · exact .withImages h h.shadow.clear h.spill
  · exact h

theorem Res.Fits.bringUp {a : List (Fin 12)} {b : List ScrubUnit} (h : s.Fits) : Res.Fits (execBringUp a b s) :=
  .ite (.next h) (.next (.foldl (u := { s with link := _, pkg := _ }) h fun hu => .bringUpUnit hu))

theorem State.Fits.shutDown (h : s.Fits) : s.shutDown.Fits :=
  ⟨h.mem, Grant.fits_empty, allFit_nil, nofun, shadowFit_none, nofun⟩

theorem State.Fits.temperature {a b : Byte} (h : s.Fits) : (s.temperature a b).Fits :=
  .ite (.shutDown (.withHamada h)) (.withHamada h)

/-! ### Memory errors -/

theorem State.Fits.addTrans {r : Nat × Nat} (h : s.Fits) : (s.addTrans r).Fits := .putCmd h rfl

theorem Res.Fits.transientMemoryError {pa : Nat} (h : s.Fits) : Res.Fits (execTransientMemoryError pa s) := by
  refine .ite .fault ?_
  extract_lets n p u
  have counted : u.Fits := h
  split
  · exact .next counted
  · exact .next (.addTrans counted)
  · exact .next (.addTrans (.withFree counted))

theorem State.Fits.retireFrames {f n : Nat} (h : s.Fits) : (s.retireFrames f n).Fits := h

/-- A change of the operand slots. -/
theorem State.Fits.withOslots {l : List (Nat × OpSlot)} (h : s.Fits) : State.Fits { s with oslots := l } := h

theorem State.Fits.stopGroup {c : BitVec 16} {x : Nat × Nat × Word} {g : Nat} (h : s.Fits) : (s.stopGroup c x g).Fits := by
  unfold State.stopGroup
  split
  · exact h
  · exact .finishGroup (.modGroup (.withOslots (.foldl h fun hu => .ite (.removeStrand hu) hu)) fun _ _ => allFit_nil)

theorem Image.bare_fit {i : Image} : AllFit i.bare.strands := by
  unfold Image.bare
  dsimp only
  split
  · exact allFit_nil
  · exact allFit_nil

/-- Images of a context made bare. -/
theorem State.Fits.bareImages {c : BitVec 16} (h : s.Fits) : State.Fits
    { s with shadow := s.shadow.map fun (o : Option Image) => o.map fun i => if i.ctx = c then i.bare else i,
             spill := s.spill.map fun i => if i.ctx = c then i.bare else i } := by
  have bared : ∀ {i : Image}, AllFit i.strands → AllFit (if i.ctx = c then i.bare else i).strands := fun hi => by
    split
    · exact Image.bare_fit
    · exact hi
  refine .withImages h (fun o ho i hi => ?_) fun i hi => ?_
  · obtain ⟨o', ho', rfl⟩ := Vector.mem_map.mp ho
    obtain ⟨j, rfl, rfl⟩ := Option.map_eq_some_iff.mp hi
    exact bared (h.shadow _ ho' j rfl)
  · obtain ⟨j, hj, rfl⟩ := List.mem_map.mp hi
    exact bared (h.spill j hj)

/-- A change of the strands that have ended and of the queues. -/
theorem State.Fits.withEnding {l : List (Nat × Strand)} {q : List Queue} (h : s.Fits) : State.Fits { s with ending := l, queues := q } := h

theorem State.Fits.stopCtx {c : BitVec 16} {x : Nat × Nat × Word} (h : s.Fits) : (s.stopCtx c x).Fits :=
  .withEnding (.foldl (.foldl (.bareImages h) fun hu => .stopGroup hu) fun hu => .removeStrand hu)

theorem State.Fits.retirePage {c : BitVec 16} {va : Nat} (h : s.Fits) : (s.retirePage c va).Fits :=
  .afterMove (.setEntry (.invalidate (.startMove h)))

theorem Res.Fits.lastingMemoryError {pa : Nat} (h : s.Fits) : Res.Fits (execLastingMemoryError pa s) := by
  refine .ite .fault ?_
  dsimp only
  split
  · exact .next (.reportLogged (.audit (.retireFrames (.withFree h))))
  · exact .next (.reportLogged (.audit (.stopCtx (.retireFrames (.retirePage (.withFree h))))))

end

end Sys2Proof.Machine
end

section
/-! PROOFS. The family of the vector forms (07): every step keeps the invariant (O59). Every row of the table, the fetch, and the step. -/

namespace Sys2Proof.Machine

open Sys2Proof.Safety

section
variable {s : State}

/-! ### The meaning of every row -/

/-- A row without a case of its own is a vector-stream form, which commits its entry. -/
theorem Res.Fits.exec {i : Instr} (h : s.Fits) : Res.Fits (exec i s) := by
  delta Machine.exec
  cases i with
  | add | sub | and | or | xor | sll | srl | sra | slt | sltn | min | max | minn | maxn | mul | mulh | mulhn | div | divn | rem | remn =>
  exact .alu h
  | clz | ctz | popc | sel | sllImm | srlImm | sraImm | lih | wid | probe => exact .result h
  | addImm | andImm | orImm | xorImm | sltImm | sltnImm | minImm | maxImm | minnImm | maxnImm => exact .aluImm h
  | ld => exact .ld h
  | ldn => exact .ldn h
  | st => exact .st h
  | amoSwap | amoAdd | amoAnd | amoOr | amoXor | amoMin | amoMax => exact .amo h
  | cas => exact .atomic h
  | beq | bne | blt | bge | bltn | bgen => exact .branch h
  | jal => exact .next (.jump (.setR h))
  | jalr => exact .jalr h
  | fadd | fsub | fmul | fdiv | fsqrt | fmin | fmax | fma => exact .floatResult h
  | fclass | fcvt => exact .scalarResult h
  | fcmpEq | fcmpLt | fcmpLe => exact .fcmp h
  | csrr => exact .csrr h
  | csrw | csrs | csrc | vstartWrite | xflagsWrite => exact .csrWrite h
  | syscChipNumber => exact .syscChipNumber h
  | syscSend => exact .syscSend h
  | syscMembership => exact .syscMembership h
  | trap | reservedEncoding => exact .raise h
  | rett => exact .rett h
  | yield => exact .next (.advance h)
  | exit => exact .exit h
  | fence => exact .fence h
  | vfence => exact .vfence h
  | setvl => exact .setvl h
  | push => exact .push h
  | pop => exact .pop h
  | strcfg => exact .strcfg h
  | strbar => exact .strbar h
  | qpush | qpushb => exact .pushForm h
  | qpop => exact .qpop h
  | qpopb | qsteal => exact .popEnd h
  | qlen => exact .qlen h
  | dispatch => exact .dispatch h
  | dret => exact .dret h
  | forkl => exact .forkl h
  | joinl => exact .joinl h
  | grpid => exact .grpid h
  | binit => exact .binit h
  | bwait => exact .bwait h
  | barw => exact .barw h
  | rngck => exact .rngck h
  | rngrs => exact .rngrs h
  | ctxhalt => exact .ctxhalt h
  | scrubCluster | scrubL2 | scrubShadowSlot => exact .scrubForm h
  | auditAppend | auditSeal | auditFree | auditExtend => exact .auditForm h
  | waysetSet | waysetRead => exact .waysetForm h
  | setroot | invva | invctx | walk => exact .ptctlForm h
  | pfx => exact .next (.mod h rfl)
  | clh => exact .clh h
  | laneGroupBind => exact .laneGroupBind h
  | l1iLineFill => exact .l1iLineFill h
  | streamFetch => exact .streamFetch h
  | copyEnd => exact .copyEnd h
  | monitorWake => exact .monitorWake h
  | dependenceReady => exact .next (.serve h)
  | axpy | fade | fill | copy | scadd => exact .playaRow h
  | allreduce | reduceScatter | sketchSum => exact .collRow h
  | collectiveComplete => exact .next (.completeColl h)
  | contrib | psum | result | leave | abort | malformedFlit => exact .flitRow h
  | ack => exact .next (.ite (.ackArrives h) h)
  | nack => exact .next (.ite (.nackArrives h) h)
  | idle => exact .next h
  | portTrainingDone => exact .portTrainingDone h
  | lastingLinkError => exact .next (.lastingLink h)
  | transientMemoryError => exact .transientMemoryError h
  | lastingMemoryError => exact .lastingMemoryError h
  | oasisFaultService => exact .oasisFaultService h
  | pageMigration => exact .pageMigration h
  | preemption => exact .preemption h
  | groupAdmission => exact .groupAdmission h
  | hostMemoryWrite => exact .hostMemoryWrite h
  | hostMemoryRead => exact .hostMemoryRead h
  | taskRecordAppend => exact .taskRecordAppend h
  | hostRegisterWrite => exact .hostRegisterWrite h
  | reportRingWrite => exact .reportRingWrite h
  | createContext => exact .createContext h
  | releaseContext => exact .releaseContext h
  | swapOut => exact .swapOut h
  | save => exact .save h
  | bindAperture => exact .bindAperture h
  | resume => exact .resume h
  | map => exact .map h
  | unmap => exact .unmap h
  | demandFilledRange => exact .demandFilledRange h
  | createQueue => exact .createQueue h
  | sealQueue => exact .sealQueue h
  | destroyQueue => exact .destroyQueue h
  | load => exact .load h
  | unload => exact .unload h
  | forceUnload => exact .forceUnload h
  | attach => exact .attach h
  | launch => exact .launch h
  | defineCollectiveGroup => exact .defineCollectiveGroup h
  | setChipNumber => exact .setChipNumber h
  | enablePort => exact .enablePort h
  | disablePort => exact .disablePort h
  | retrainPort => exact .retrainPort h
  | readPortCounters => exact .readPortCounters h
  | setRoute => exact .setRoute h
  | unassignedRequest => exact .unassignedRequest h
  | moduleReset | lossOfPower => exact .next State.fits_cold
  | measuredBoot => exact .measuredBoot h
  | bringUp => exact .bringUp h
  | powerCap | powerCapEnd => exact .next (.withHamada h)
  | thermalThrottle | thermalShutdown | thermalThrottleEnd => exact .next (.temperature h)
  | flitCrcFailure => exact .next (.flitFails h)
  | hostLinkTrained => exact .next (.ite h h)
  | unofferedSyscService => exact .unofferedSyscService h
  | _ => exact .vectorStream h

/-! ### Before an instruction executes -/

/-- What comes of a fetch keeps the invariant. -/
inductive Fetched.Fits : Fetched → Prop
  | done {t : State} (h : t.Fits) : Fetched.Fits (.done t)
  | run {i : Instr} {t : State} (h : t.Fits) : Fetched.Fits (.run i t)

theorem Fetched.Fits.ite {f g : Fetched} {c : Prop} {_ : Decidable c} (hf : f.Fits) (hg : Fetched.Fits g) : (if c then f else g).Fits := by
  split <;> assumption

theorem State.Fits.fetchWord {t : State} {w : BitVec 32} (h : s.Fits) (out : s.fetchWord = .ok (w, t)) : t.Fits := by
  unfold State.fetchWord at out
  dsimp only at out
  split at out
  · cases out
  · split at out
    · cases out
    · split at out
      · cases out
      · have filled : ∀ {n}, ((s.keep s.me s.st.pc.toNat).fillLine n s.st.ctx s.st.pc.toNat).Fits := .fillLine (.keep h)
        split at out
        · cases out; exact filled
        · cases out; exact .l2Lines filled

theorem State.Fits.settleStores {i : Instr} (h : s.Fits) : (s.settleStores i).Fits := .ite (.flushAll h) (.ite (.flushLate h) h)

theorem Fetched.Fits.refusePay {w : BitVec 32} (h : s.Fits) : (s.refusePay w).Fits := by
  unfold State.refusePay
  split
  · exact .run h
  · exact .ite (.done (.trap (.mod h rfl))) (.run h)

theorem Fetched.Fits.gate {w : BitVec 32} (h : s.Fits) : (s.gate w).Fits :=
  have settled := State.Fits.settleStores h
  .ite (.refusePay h) (.ite (.done (.trap settled)) (.ite (.done (.work (.drain settled)))
    (.ite (.run settled) (.done (.work (.drain settled))))))

theorem State.Fits.vectorGoesOn (h : s.Fits) : s.vectorGoesOn.Fits := .ite h (.drain h)

theorem Fetched.Fits.fetchNext (h : s.Fits) : s.fetchNext.Fits := by
  have moved : (s.mod fun t => { t with startAfter := none }).vectorGoesOn.Fits := .vectorGoesOn (.mod h rfl)
  refine .ite (.done h) (.ite (.done moved) (.ite (.run moved) ?_))
  split
  · exact .done (.trapAccess (.mod moved rfl))
  · next fetched => exact .gate (.mod (.fetchWord moved fetched) rfl)

theorem Res.Fits.runFetched {f : Fetched} (h : f.Fits) : Res.Fits (runFetched f) := by
  cases h with
  | done h => exact .next h
  | run h => exact .exec h

/-! ### Around a step -/

theorem State.Fits.tick (h : s.Fits) : s.tick.Fits := State.Fits.settleObjs (s := { s with elapsed := _, ticks := _, passed := _ }) h

theorem State.Fits.setPace {k : Nat} {a b : Bool} (h : s.Fits) : (s.setPace k a b).Fits := .ite h (.modStrand h rfl)

theorem State.Fits.performLate {k n : Nat} (h : s.Fits) : (s.performLate k n).Fits := by
  unfold State.performLate
  dsimp only
  split
  · exact h
  · exact .ite h (.storeNow (.modStrand h rfl))

theorem State.Fits.partOf {k n : Nat} (h : s.Fits) : (s.partOf k n).Fits := .focus (.partHead (.focus h))

theorem State.Fits.transfer {k n m : Nat} (h : s.Fits) : (s.transfer k n m).Fits := .ite (.moveCopy h) h

theorem State.Fits.act {i : Input} (h : s.Fits) : (s.act i).Fits := by
  cases i with
  | pace => exact .setPace h
  | perform => exact .performLate h
  | part => exact .partOf h
  | transfer => exact .transfer h
  | service => exact .startService h
  | hamadaStart => exact .startHamada h
  | nvmeWrite => exact .writeNvme h
  | wire => exact .wireArrives h
  | unitFails => exact h
  | hostRead => exact .hostReadsBar h
  | imageDamaged => exact .damageImage h
  | row | strand | passed => exact h

theorem Res.Fits.runRow {i : Instr} (h : s.Fits) : Res.Fits (runRow i s) := by
  have settled : (if Instr.settlesAll i then s.flushAll else s).Fits := .ite (.flushAll h) h
  exact .ite (.next h) (.ite (.next settled) (.exec settled))

theorem Res.Fits.step (h : s.Fits) : Res.Fits (step s) := by
  have ticked := State.Fits.tick h
  unfold Machine.step
  dsimp only
  generalize s.tick = u at ticked
  have waits : ∀ {l}, State.Fits { u with held := l } := ticked
  have takes : ∀ {l}, State.Fits { u with inputs := l } := ticked
  split
  · exact .exec (.flushAll waits)
  · exact .next (.finishHeld waits)
  · split
    · exact .runFetched (.fetchNext ticked)
    · exact .runFetched (.fetchNext (.focus takes))
    · exact .runFetched (.fetchNext (.focus takes))
    · exact .runRow takes
    · exact .next (.act takes)

end

/-- Settles O59: the invariant, said part by part, is kept by every named operation, so by every row of the table, by the fetch, and by
what the environment does. -/
theorem stepKeepsInvariant : Obligations.StepKeepsInvariant := fun _ _ inv out =>
  inv_iff_fits.mpr (Res.Fits.of_next (out ▸ Res.Fits.step (inv_iff_fits.mp inv)))

end Sys2Proof.Machine
end
